-- ==== Sys2Proof/Operand.lean ====
section
/-! DEFINITION. The operand records of the commands: what comes to the module from outside with a command (a submission entry, a
PDU, a Wyvas message, a measured value, the outcome of a die operation). -/

namespace Sys2Proof

/-- An NVMe submission entry as the device fetches it (Table 3-3 for a basket command; the published NVMe layout for the others).
`fn` and `sq` say which queue carried it; `rsvd` is true when a reserved bit of the entry is set (R4). -/
structure Sqe where
  fn : Nat
  sq : Nat
  cid : Nat
  psdt : Nat := 0
  fuse : Nat := 0
  nsid : Nat := 0
  handle : Nat := 0
  cdw4 : Nat := 0
  cdw10 : Nat := 0
  cdw11 : Nat := 0
  cdw12 : Nat := 0
  cdw13 : Nat := 0
  cdw14 : Nat := 0
  cdw15 : Nat := 0
  dptr : Nat := 0
  rsvd : Bool := false
  deriving DecidableEq, Repr

/-- The path an object-protocol request came by (Table 4-2): the management bus with the sender's MAC address, or the Wyvas
management virtual channel with the sender's node id. -/
inductive PduPath where
  | bus (mac : Nat)
  | wyvas (node : Nat)
  deriving DecidableEq, Repr

/-- The trailer of R444: counter, key slot and HMAC. -/
structure Trailer where
  counter : Nat
  slot : Nat
  hmac : Bytes
  deriving DecidableEq, Repr

/-- A request PDU (Table 4-4). `op` is implied by the row but for PDU_INVALID_OPERATION. `dst` is the frame's destination MAC
address on the bus; `value` is every byte that follows the header in the frame, without the trailer; `rsvd` is true when a reserved bit of
the header is set (R4). -/
structure Pdu where
  path : PduPath
  dst : Nat := 0
  version : Nat := 1
  seq : Nat
  index : Nat
  sub : Nat
  count : Nat
  vlen : Nat := 0
  target : Nat := 0xFFFF
  value : Bytes := []
  trailer : Option Trailer := none
  rsvd : Bool := false
  deriving DecidableEq, Repr

/-- Where a thread runs: a cell of the array (logical number 16 i + j) or a channel engine, and its number there (Table 14-1). -/
structure ThreadId where
  engine : Bool
  unit : Nat
  no : Nat
  deriving DecidableEq, Repr

/-- What a thread access names (Table 14-2). -/
inductive Target where
  | sram (off : Nat)
  | cellSram (cell off : Nat)
  | object (slot tile off : Nat)
  | window (node off : Nat)
  | flash (node off : Nat)
  deriving DecidableEq, Repr

/-- Who asks for a synchronisation operation at its home: a thread or the operation stream of the job that owns the array, or
another node by a Wyvas message with its tag and issuing function (Table 15-5, type 04h). -/
inductive SyncWho where
  | thread (t : ThreadId)
  | stream
  | remote (node tag function : Nat)
  deriving DecidableEq, Repr

/-- One candidate of a Skimmer: score bits, index and the three fields of its order key (R292). -/
structure Cand where
  score : Nat
  index : Nat
  node : Nat
  source : Nat
  position : Nat
  deriving DecidableEq, Repr

/-- A Wyvas message (Table 15-4) as it arrives at this module; `port` is the port it came in by. -/
structure Msg where
  port : Nat := 0
  vc : Nat := 0
  mtype : Nat := 0
  crossed : Bool := false
  detours : Nat := 0
  reissued : Bool := false
  express : Bool := false
  dataLength : Nat := 0
  dst : Nat
  src : Nat
  function : Nat := 0
  tag : Nat := 0
  op : Nat := 0
  target : Nat := 0
  poisonMask : Nat := 0
  data : Bytes := []
  deriving DecidableEq, Repr

/-- What the module keeps in the HBM line that the scrubber reads: its own allocation decides (R15). -/
inductive HbmUse where
  | other
  | tile (object index : Nat)
  | mapLine (line : Nat)
  | pail (lpn : Nat)
  | window (off : Nat)
  deriving DecidableEq, Repr

/-- The link header of a flit (Table 15-2) with the outcome of its CRC check; `parity` is a mask of the 64-byte beats of its messages that meet a parity
error on the internal transport (R189). -/
structure FlitHdr where
  seq : Nat
  ackSeq : Nat
  nak : Bool := false
  vc : Nat := 0
  creditVc : Nat := 0
  creditCount : Nat := 0
  crcOk : Bool := true
  parity : Nat := 0
  deriving DecidableEq, Repr

/-- What one identity flit carries (R386). -/
structure Identity where
  serial : Nat
  port : Nat
  seed : Bool
  primary : Bool := false
  seedSerial : Option Nat := none
  extents : Option (Nat × Nat × Nat) := none
  nodeId : Option Nat := none
  deriving DecidableEq, Repr

/-- What the Hoop ROM finds at the start of the Hoop rail (Table 17-1 steps 1 and 2): the straps, which Hoop pairs pass their
self-test, whether the configuration record and the identity block verify, whether the PUF reproduces the identity key, and the
random session value of ManagementAuth.2. -/
structure HoopStart where
  straps : Nat
  pair0Ok : Bool := true
  pair1Ok : Bool := true
  configOk : Bool := true
  identityOk : Bool := true
  pufOk : Bool := true
  session : Nat := 0
  deriving DecidableEq, Repr

/-- What steps 3 to 8 of local start-up find on the main rails (Table 17-1); `unreadableTables` lists the copies of the bad-block table that do not read:
0 and 1 those of banks A and B, 2 the reserved superblock's (R118). -/
structure RailStart where
  clocksOk : Bool := true
  failedStacks : List Nat := []
  failedCheckers : Nat := 0
  failedChannels : List Nat := []
  factoryBad : List Nat := []
  unreadableTables : List Nat := []
  failedRows : List (Nat × Nat) := []
  failedCells : List Nat := []
  mapOk : Bool := true
  deriving DecidableEq, Repr

/-- One evaluation of R449: the sensors that changed (subindex of 1310h and tenths of a degree), the measured powers in milliwatts,
the input voltage in millivolts and the coolant flow. -/
structure Evaluation where
  sensors : List (Nat × Int) := []
  power1s : Nat := 0
  power10ms : Nat := 0
  inputMv : Nat := 48000
  flow : Nat := 0
  deriving DecidableEq, Repr

/-- How a codeword of a page came out of the die and the decoder: the step of Table 5-6 that decoded it, 5 when none did, and the
bits corrected; `crcOk` is the crc check of R108 at that step, and `parity` a parity error in the page buffer (R189). -/
structure CwResult where
  step : Nat
  corrected : Nat := 0
  crcOk : Bool := true
  parity : Bool := false
  deriving DecidableEq, Repr

/-- What the scorer meets at one record of a list scan: its code and parity bytes as a raw read gives them, with the read's bit errors (none listed: without
error), and whether no step of the decode of its codeword succeeds. -/
structure Scored where
  ordinal : Nat
  raw : Bytes := []
  failed : Bool := false
  deriving DecidableEq, Repr

/-- What a list scan meets: the records that do not read plainly, and the queries (function, queue, identifier) whose tables the scorer reads with a
parity error (R189). -/
structure ScanResult where
  recs : List Scored := []
  parity : List (Nat × Nat × Nat) := []
  deriving DecidableEq, Repr

/-- The 32 bytes of an MMA operation, and the cell SRAM it reads with parity errors: cell, first byte and length (R189). -/
structure MmaRun where
  op : Bytes
  parity : List (Nat × Nat × Nat) := []
  deriving DecidableEq, Repr

/-- The length of a thread's load, and whether the data come with a parity error (R189). -/
structure LoadRead where
  len : Nat
  parity : Bool := false
  deriving DecidableEq, Repr

/-- How the program of a locked pair's two units went, for each plane: whether it passed, and the bits corrected at its verify. -/
structure PairVerify where
  low : List (Bool × Nat)
  high : List (Bool × Nat)
  deriving DecidableEq, Repr

/-- A record of an Update or CHURN: the command's identifier on its queue, and the record's place in it. -/
structure RecordRef where
  cid : Nat
  no : Nat
  deriving DecidableEq, Repr

/-- The sizes of the admin queues (AQA). -/
structure AdminQueues where
  asqs : Nat
  acqs : Nat
  deriving DecidableEq, Repr

/-- The entry of a Function Abort, and the queues (submission queue, identifier) of the completions that find their completion queue full (R72). -/
structure AbortEntry where
  entry : Sqe
  full : List (Nat × Nat) := []
  deriving DecidableEq, Repr

/-- The flags of a relayed response: stale values, and a replayed response (R90, R96). -/
structure RelayFlags where
  stale : Bool := false
  replayed : Bool := false
  deriving DecidableEq, Repr

/-- What training measures of a link: its one-way delay, and the delay difference between its two fibre paths (R381, R382). -/
structure LinkDelay where
  delay : Nat
  asym : Nat := 0
  deriving DecidableEq, Repr

/-- One SPDM request's fields that the responder uses (R440): the version field, slot, the offset and length of a portion, the
nonce, and the offered algorithms. -/
structure Spdm where
  conn : Nat
  version : Nat := 0x13
  slot : Nat := 0
  offset : Nat := 0
  length : Nat := 0
  nonce : Nat := 0
  extAsymOk : Bool := true
  sha256Ok : Bool := true
  index : Nat := 0xFF
  signed : Bool := true
  chunk : Bytes := []
  last : Bool := true
  deriving DecidableEq, Repr

end Sys2Proof
end

