-- ==== Sys2Proof/Syntax.lean ====
section
/-! DEFINITION. The commands of the block: one constructor per row of spec/opcode_table.json, in the table's order. A row of the
host interface carries the submission entry and the bytes of its buffer; a row of a management path carries the PDU; a row of
the fabric carries the flit or message; a row that is an event inside the module carries what the physics of the event decides
(a die's status, a measured value), never a value the spec computes. -/

namespace Sys2Proof

/-- A command of the DG1280 (spec/opcode_table.json). -/
inductive Instr where
  /-- INPUT_RISE (R24). Input rises above the restart threshold for 100 ms; the Hoop rail starts, the holdup bank charges and, with PWR_EN high, the main rails start. -/
  | inputRise (mv : Nat)
  /-- INPUT_LOSS (R23). Input falls below 38.0 V for 10 µs; power loss is declared and the power-loss sequence runs from the holdup bank. -/
  | inputLoss
  /-- OVER_VOLTAGE_DISCONNECT (R25). Input above 62.0 V for 100 µs is disconnected and handled as a power loss; the event is logged when the Hoop rail next has power. -/
  | overVoltageDisconnect
  /-- PWR_EN_LOW (R26). PWR_EN goes low with input present; the power-loss sequence runs from input power, then the main rails turn off. -/
  | pwrEnLow
  /-- PWR_EN_HIGH (R24). PWR_EN goes high; the main rails start (step 3 of power-on), and a thermal trip is released if its conditions hold. -/
  | pwrEnHigh
  /-- HOOP_RAIL_START (R409). Cold power-on: the Hoop rail starts, straps are sampled, the ROM step and image verification run, and the store and keys are loaded. -/
  | hoopRailStart (f : HoopStart)
  /-- POWER_GOOD (R409). The main rails reach power-good; local start-up steps 3 to 8 run, and Basic storage and compute readiness follow. -/
  | powerGood (f : RailStart)
  /-- DRAIN_SEQUENCER_TAKEOVER (R423). The service cores do not report the start of R139 within 200 µs; the hardware drain sequencer dumps the Pail pages itself. -/
  | drainSequencerTakeover
  /-- HOOP_RAIL_STOP (R454). The holdup bank falls to the 28 V floor with input absent; the Hoop rail stops, so the next start is a cold power-on. -/
  | hoopRailStop
  /-- HOLDUP_CHARGED (R27). The holdup bank finishes charging; write caching may resume. -/
  | holdupCharged
  /-- HOLDUP_MEASUREMENT (R27). At start-up and every 24 h, a controlled partial discharge measures usable energy; the bank is marked healthy or unhealthy. -/
  | holdupMeasurement (mj : Option Nat)
  /-- EVALUATION_TICK (R449). Every 1 ms, input power and sensors are evaluated, and throttling deepens or relaxes by one step. -/
  | evaluationTick (e : Evaluation)
  /-- THERMAL_BASIC_TIMEOUT (R29). A sensor stays at or above its throttle point for 30 s with throttling at its floor; the device enters Basic mode and PS2. -/
  | thermalBasicTimeout
  /-- OVERTEMP_CLEAR (R420). Every sensor has stayed at least 3 °C below its throttle point for 60 s; Basic mode cause [2] clears. -/
  | overtempClear
  /-- LOCATE_N_CHANGE (R450). LOCATE_N changes level; the LOCATE lamp follows it together with Locate.1. -/
  | locateNChange (low : Bool)
  /-- PLCA_BEACON_LOSS (R36). No PLCA beacon is seen for 20 ms; the device transmits under CSMA/CD. -/
  | plcaBeaconLoss
  /-- PLCA_BEACON_RETURN (R36). PLCA beacons return; the device leaves CSMA/CD fallback. -/
  | plcaBeaconReturn
  /-- SLOT_COLLISION (R36). A collision occurs in the module's PLCA slot; it is counted in ManagementSegment.3. -/
  | slotCollision
  /-- ANNOUNCE (R97). The device broadcasts DeviceStatus 1 to 5 after the Hoop rail starts and within 10 ms of each change of DeviceStatus.1. -/
  | announce
  /-- READ_NVME_MI_DATA_STRUCTURE (R49). NVMe-MI command that returns an NVMe-MI data structure. -/
  | readNvmeMiDataStructure (dtyp : Nat)
  /-- NVM_SUBSYSTEM_HEALTH_STATUS_POLL (R49). NVMe-MI subsystem health poll; reading the event clears SMB_ALERT_N. -/
  | nvmSubsystemHealthStatusPoll
  /-- CONTROLLER_HEALTH_STATUS_POLL (R49). NVMe-MI controller health poll. -/
  | controllerHealthStatusPoll (fn : Nat)
  /-- CONFIGURATION_GET (R49). NVMe-MI Configuration Get of the SMBus frequency or health status change. -/
  | configurationGet (id : Nat)
  /-- CONFIGURATION_SET (R49). NVMe-MI Configuration Set of the SMBus frequency or health status change. -/
  | configurationSet (id value : Nat)
  /-- VPD_READ (R49). NVMe-MI VPD Read. -/
  | vpdRead (off len : Nat)
  /-- NVME_MI_RESET (R49). NVMe-MI Reset performs an NVM subsystem reset unless ManagementAuth.8 refuses it. -/
  | nvmeMiReset
  /-- MI_TUNNELLED_ADMIN (R49). Identify, Get Log Page or Get Features tunnelled over NVMe-MI as an admin command. -/
  | miTunnelledAdmin (opc : Nat) (e : Sqe)
  /-- BASIC_MANAGEMENT_COMMAND (R38). NVMe-MI Basic Management Command at SMBus address 35h. -/
  | basicManagementCommand (off len : Nat)
  /-- GET_VERSION (R440). SPDM GET_VERSION request; versions 1.2 and 1.3 are returned. -/
  | getVersion (q : Spdm)
  /-- GET_CAPABILITIES (R440). SPDM GET_CAPABILITIES request; CERT, CHAL, signed MEAS and CHUNK capabilities are returned. -/
  | getCapabilities (q : Spdm)
  /-- NEGOTIATE_ALGORITHMS (R440). SPDM algorithm negotiation: SLH-DSA-SHA2-128f as ExtAsym and SHA-256. -/
  | negotiateAlgorithms (q : Spdm)
  /-- GET_DIGESTS (R440). SPDM GET_DIGESTS for certificate slot 0. -/
  | getDigests (q : Spdm)
  /-- GET_CERTIFICATE (R440). SPDM GET_CERTIFICATE returns the certificate chain from slot 0. -/
  | getCertificate (q : Spdm)
  /-- CHALLENGE (R440). SPDM CHALLENGE is answered with a CHALLENGE_AUTH signed under the identity key within 200 ms. -/
  | challenge (q : Spdm)
  /-- GET_MEASUREMENTS (R441). SPDM GET_MEASUREMENTS returns the measurement blocks of Table 18-3, signed. -/
  | getMeasurements (q : Spdm)
  /-- CHUNK_SEND (R440). SPDM CHUNK_SEND carries part of a large request. -/
  | chunkSend (q : Spdm)
  /-- CHUNK_GET (R440). SPDM CHUNK_GET returns part of a large response such as a signature. -/
  | chunkGet (q : Spdm)
  /-- SPDM_UNSUPPORTED_REQUEST (R440). Any other SPDM request, such as KEY_EXCHANGE, is answered with ERROR UnsupportedRequest. -/
  | spdmUnsupportedRequest (q : Spdm) (code : Nat)
  /-- SECURITY_PROTOCOL_LIST (R440). Security Receive with protocol 00h returns the supported list (00h, E8h). -/
  | securityProtocolList (e : Sqe)
  /-- PERST_N_ASSERT (R415). PERST_N is asserted; every function's work stops within 2 ms, queues are deleted, and handles and outputs are dropped. -/
  | perstNAssert
  /-- PERST_N_DEASSERT (R411). PERST_N is deasserted; the link trains and configuration requests are answered within 1 s. -/
  | perstNDeassert
  /-- HOST_LINK_UP (R41). The PCIe link settles; HostLink reports rate, width and FLIT mode, and flags an unsupported operating point. -/
  | hostLinkUp (rate width : Nat) (partnerFlit : Bool)
  /-- HOST_LINK_DOWN (R41). The PCIe link goes down; the event is counted in HostLink.5. -/
  | hostLinkDown
  /-- FUNCTION_LEVEL_RESET (R73). FLR stops the function's work as Function Abort does, without posting completions; CSTS.RDY reads 0 within 2 ms. -/
  | functionLevelReset (fn : Nat)
  /-- CONTROLLER_RESET (R73). CC.EN 1→0 stops the controller's work as Function Abort does, without posting completions. -/
  | controllerReset (fn : Nat)
  /-- CONTROLLER_ENABLE (R411). CC.EN 0→1 sets CSTS.RDY within 100 ms once Basic storage is ready. -/
  | controllerEnable (fn : Nat) (queues : AdminQueues) (ams : Nat)
  /-- SHUTDOWN_NOTIFICATION (R73). CC.SHN drains the whole Pail and commits the map journal before CSTS.SHST reads 10b. -/
  | shutdownNotification (fn : Nat)
  /-- NVM_SUBSYSTEM_RESET (R412). NSSR causes a module restart. -/
  | nvmSubsystemReset
  /-- SQ_TAIL_DOORBELL (R51). A submission queue tail doorbell write; an entry is fetched within 10 µs if the queue has a free tag and is not frozen. -/
  | sqTailDoorbell (fn sq tail : Nat) (entries : List (Nat × Nat))
  /-- CREATE_IO_SUBMISSION_QUEUE (R50). Creates an I/O submission queue, which is a compute queue when its id is at least ComputeQueueBase. -/
  | createIoSubmissionQueue (e : Sqe)
  /-- DELETE_IO_SUBMISSION_QUEUE (R69). Deletes an I/O submission queue, including a frozen one; executing commands end as under Abort. -/
  | deleteIoSubmissionQueue (e : Sqe)
  /-- CREATE_IO_COMPLETION_QUEUE (R48). Creates an I/O completion queue. -/
  | createIoCompletionQueue (e : Sqe)
  /-- DELETE_IO_COMPLETION_QUEUE (R48). Deletes an I/O completion queue. -/
  | deleteIoCompletionQueue (e : Sqe)
  /-- IDENTIFY (R47). Returns controller and namespace data, including the CNTLID and the properties of Table 3-2. -/
  | identify (e : Sqe)
  /-- GET_LOG_PAGE (R48). Returns a standard NVMe log page. -/
  | getLogPage (e : Sqe)
  /-- COMPUTE_ERROR_LOG_READ (R68). Get Log Page C1h returns the compute error log and re-arms its asynchronous event. -/
  | computeErrorLogRead (e : Sqe)
  /-- INTEGRITY_LOG_PAGE_READ (R202). Get Log Page C2h on function 0 returns the 4,096 integrity log records, newest first. -/
  | integrityLogPageRead (e : Sqe)
  /-- AUDIT_LOG_READ (R404). Get Log Page C3h returns the controller's audit log entries. -/
  | auditLogRead (e : Sqe)
  /-- SET_FEATURES (R48). Sets an NVMe feature other than Volatile Write Cache and Power Management. -/
  | setFeatures (e : Sqe)
  /-- VOLATILE_WRITE_CACHE_SET (R56). Set Features Volatile Write Cache sets WCE; caching stays off while R27 holds. -/
  | volatileWriteCacheSet (e : Sqe)
  /-- GET_FEATURES (R56). Returns a feature value, including WCE and the stored workload hint. -/
  | getFeatures (e : Sqe)
  /-- ENTER_PS0 (R74). Power Management set to PS0 on function 0; leaves PS2 and Basic mode when no other cause remains. -/
  | enterPs0 (e : Sqe)
  /-- ENTER_PS1 (R74). Power Management set to PS1: operational at 800 W, throttled and admitted under R30. -/
  | enterPs1 (e : Sqe)
  /-- ENTER_PS2 (R75). Power Management set to PS2 enters Basic mode; basket commands end with Basic Mode Active. -/
  | enterPs2 (e : Sqe)
  /-- ENTER_PS3 (R76). Power Management set to PS3, refused while any I/O command is outstanding; admission stops and engines idle. -/
  | enterPs3 (e : Sqe)
  /-- ENTER_PS4 (R419). Power Management set to PS4: dirty tiles written back, Pail drained, HBM put in self-refresh, links down, K storage off. -/
  | enterPs4 (e : Sqe)
  /-- ABORT (R70). NVMe Abort: a fetched basket command is aborted as a job within 400 µs; any other target is aborted on a best-effort basis. -/
  | abort (e : Sqe)
  /-- ASYNCHRONOUS_EVENT_REQUEST (R47). Queues an asynchronous event request; a fifth outstanding request completes with Limit Exceeded. -/
  | asynchronousEventRequest (e : Sqe)
  /-- NAMESPACE_CREATE (R46). Namespace Management create allocates whole allocation units; it is refused beyond 256 TiB and in Basic mode. -/
  | namespaceCreate (e : Sqe) (nsze ncap format : Nat)
  /-- NAMESPACE_DELETE (R48). Namespace Management delete frees a namespace's allocation units. -/
  | namespaceDelete (e : Sqe)
  /-- NAMESPACE_ATTACHMENT (R45). Attaches a namespace to, or detaches it from, a set of controllers. -/
  | namespaceAttachment (e : Sqe) (controllers : List Nat)
  /-- FORMAT_NVM (R158). Deallocates every page of the namespace, commits the journal and changes its key, within 5 s. -/
  | formatNvm (e : Sqe)
  /-- SANITIZE (R158). Cryptographic erase: deallocate all, commit, start a new key epoch, erase superblocks, write fresh checkpoints. -/
  | sanitize (e : Sqe)
  /-- FIRMWARE_IMAGE_DOWNLOAD (R427). Stages 4 KiB-aligned pieces of an image in HBM; accepted on function 0 only. -/
  | firmwareImageDownload (e : Sqe) (buf : Bytes)
  /-- FIRMWARE_COMMIT_REPLACE (R429). Commit action 000b verifies the staged image, erases and programs the inactive bank and writes its commit record. -/
  | firmwareCommitReplace (e : Sqe) (sig : Option Nat) (readBackOk : Bool)
  /-- FIRMWARE_COMMIT_ACTIVATE (R429). Commit action 001b commits as 000b, then sets FirmwareState.4 and requires an NVM subsystem reset. -/
  | firmwareCommitActivate (e : Sqe) (sig : Option Nat) (readBackOk : Bool)
  /-- FIRMWARE_COMMIT_SELECT (R427). Commit action 010b sets FirmwareState.4 to a bank holding a committed image. -/
  | firmwareCommitSelect (e : Sqe)
  /-- VIRTUALIZATION_MANAGEMENT (R44). On function 0, assigns flexible queue and MSI-X resources to virtual functions. -/
  | virtualizationManagement (e : Sqe)
  /-- SET_OBJECT (R99). Admin C1h writes object subindices of the local dictionary, checked whole. -/
  | setObject (e : Sqe) (buf : Bytes)
  /-- GET_OBJECT (R100). Admin C2h mode 00b reads object values into the host buffer with a stale flag. -/
  | getObject (e : Sqe)
  /-- GET_OBJECT_DESCRIBE (R95). Get Object mode 01b returns a subindex's type, access, class and size. -/
  | getObjectDescribe (e : Sqe)
  /-- GET_OBJECT_ENUMERATE (R95). Get Object mode 10b returns the next existing index that the path reaches. -/
  | getObjectEnumerate (e : Sqe)
  /-- THAW_QUEUE (R69). Admin C4h resumes fetching on a frozen compute queue when none of its commands still executes. -/
  | thawQueue (e : Sqe)
  /-- FUNCTION_ABORT (R72). Admin C8h stops a function's jobs, completes its commands with Function Aborted, freezes its compute queues and drops its handles within 2 ms. -/
  | functionAbort (c : AbortEntry)
  /-- ADMIN_INVALID_OPCODE (R48). An unsupported admin opcode completes with Invalid Opcode. -/
  | adminInvalidOpcode (e : Sqe) (opc : Nat)
  /-- READ (R58). NVM Read from Pail or map; deallocated blocks read zeroes; poison gives Unrecovered Read Error. -/
  | read (e : Sqe)
  /-- WRITE (R55). NVM Write completes when its data is in both Pail copies, or on flash with the map committed when caching is off or FUA is set. -/
  | write (e : Sqe) (buf : Bytes)
  /-- WRITE_ZEROES (R55). Write Zeroes deallocates with the durability of a Write. -/
  | writeZeroes (e : Sqe)
  /-- FLUSH (R57). Completes when every earlier write and deallocation, and for FFFFFFFFh the function's dirty tiles, is on flash and committed. -/
  | flush (e : Sqe)
  /-- DATASET_MANAGEMENT (R58). Dataset Management deallocate appends kind 02h entries, with the durability of a Write. -/
  | datasetManagement (e : Sqe) (ranges : List (Nat × Nat))
  /-- IO_INVALID_OPCODE (R50). A command of the wrong set completes with Invalid Opcode, and freezes the queue if it is a compute queue. -/
  | ioInvalidOpcode (e : Sqe) (opc : Nat)
  /-- PAIL_SPACE_AVAILABLE (R452). Pail space frees for a waiting write, which is then accepted and completes. -/
  | pailSpaceAvailable
  /-- LOAD_BASKET (R341). Checks the whole basket image, computes its stream bound and stores it, or refuses it with a reason. -/
  | loadBasket (e : Sqe) (img : Bytes)
  /-- BASKET_UNLOAD (R342). Load Basket with replace set and input_length 0 unloads the basket id. -/
  | basketUnload (e : Sqe)
  /-- DEFERRED_COMMAND_START (R53). A compute-queue command fetched after a Load Basket starts once that Load Basket has completed. -/
  | deferredCommandStart (fn sq : Nat)
  /-- READ_RESULT (R64). Copies part of a job's output to the host, optionally releasing the output. -/
  | readResult (e : Sqe)
  /-- RUN_JOB (R347). Checks the arguments and slots, then admits or refuses a job of a loaded basket. -/
  | runJob (e : Sqe) (args : Bytes)
  /-- QUERY (R264). Checks the query descriptor, forwards the query to a coordinator, and admits it or completes it with Not Admitted. -/
  | query (e : Sqe) (buf : Bytes)
  /-- INGEST (R287). Checks item records and sends them for encoding and application in the open epoch. -/
  | ingest (e : Sqe) (buf : Bytes)
  /-- UPDATE (R319). Checks the update input whole, admits it, and sorts the records to the Churns. -/
  | update (e : Sqe) (buf : Bytes)
  /-- GATHER_COMMAND (R63). Gather command returns the final scores of a held Query result handle. -/
  | gatherCommand (e : Sqe)
  /-- RESULT_RETENTION_EXPIRY (R63). A query handle is dropped ResultRetention ms after its completion. -/
  | resultRetentionExpiry (handle : Nat)
  /-- REQUEST_DEADLINE (R184). A request's deadline passes while it waits on a tier; it completes with Tier Late within 50 µs. -/
  | requestDeadline (fn sq cid : Nat) (tier node : Nat)
  /-- JOB_OVERRUN (R350). A job's run time reaches declared_wcet divided by f_a; it ends with Job Fault or Tier Late. -/
  | jobOverrun
  /-- PDU_GET (R95). Object-protocol Get frame, executed atomically by the Hoop or relayed to another node. -/
  | pduGet (p : Pdu)
  /-- PDU_SET (R91). Object-protocol Set frame, checked whole and applied, relayed, or answered from the replay cache. -/
  | pduSet (p : Pdu)
  /-- PDU_DESCRIBE (R95). Object-protocol Describe frame. -/
  | pduDescribe (p : Pdu)
  /-- PDU_ENUMERATE (R95). Object-protocol Enumerate frame. -/
  | pduEnumerate (p : Pdu)
  /-- PDU_INVALID_OPERATION (R101). A PDU whose op is not in Table 4-5, or a received Announce, is answered with Invalid Operation. -/
  | pduInvalidOperation (p : Pdu) (op : Nat)
  /-- RELAY_RESPONSE (R98). A relayed response returns and is passed to the requester. -/
  | relayResponse (tag status : Nat) (value : Bytes) (flags : RelayFlags)
  /-- RELAY_TIMEOUT (R98). No relayed response arrives within the relay limit; the requester receives Node Unreachable. -/
  | relayTimeout (tag : Nat)
  /-- REPLAY_WINDOW_EXPIRY (R96). A kept response is discarded ObjectProtocol.4 ms after it was sent. -/
  | replayWindowExpiry (path : PduPath) (seq : Nat)
  /-- VALUE_REFRESH (R90). A block refreshes its RO values into the Hoop's copy of the dictionary, at least every 100 ms. -/
  | valueRefresh (block : Nat)
  /-- OBJECT_WRITE (R91). A write to subindices with no row of their own: checked whole, P record committed, then K and V values set. -/
  | objectWrite (fn index sub count : Nat) (value : Bytes)
  /-- STORE_RECORD_COMMIT (R84). A P record program finishes with its commit flag, or is retried, or fails with Store Failure. -/
  | storeRecordCommit (ok : Bool)
  /-- FW_FLASH_SEQUENCER_DONE (R128). A firmware-flash sector erase or page program by the hardware sequencer completes. -/
  | fwFlashSequencerDone
  /-- BUS_FAULT (R127). A Hoop read to a bank that is busy programming or erasing returns no data, raises an exception and is logged. -/
  | busFault (addr : Nat)
  /-- FUNCTION_QUEUES_ABORT (R72). Writing 1 to FunctionQueues.7 performs Function Abort over a management path. -/
  | functionQueuesAbort (fn : Nat)
  /-- BOOT_BANK_SELECT (R430). Writing FirmwareState.4 selects the bank to boot at the next reset, refused for a bank without a committed image. -/
  | bootBankSelect (bank : Nat)
  /-- POLICY_GROUP_SET (R172). A PolicyGroup write updates the system's rim region and the node's P copy; every node applies it within 10 ms. -/
  | policyGroupSet (g : Nat) (values : List Nat)
  /-- CELL_ROW_LIMIT_SET (R395). CellRowLimit caps the cell rows in service; it is applied when no job owns the array. -/
  | cellRowLimitSet (rows : Nat)
  /-- COHERENT_CREATE (R178). CoherentControl action 1 creates a zeroed coherent region at the lowest free base. -/
  | coherentCreate
  /-- COHERENT_DELETE (R178). CoherentControl action 2 deletes a region; accesses in flight end with Tier Error. -/
  | coherentDelete
  /-- COHERENT_TAKE_HOME (R183). CoherentControl action 3 moves a region's home back to this node within 1 ms. -/
  | coherentTakeHome
  /-- HBM_RETIRE_PAGE (R203). HbmRetire action 1 copies an HBM page to a replacement and remaps it within 10 ms. -/
  | hbmRetirePage
  /-- HBM_RETIRE_BANK (R203). HbmRetire action 2 retires a whole HBM bank within 500 ms. -/
  | hbmRetireBank
  /-- BASIC_MODE_COMMAND (R204). Writing 1 to BasicModeControl.1 enters Basic mode with cause [3]. -/
  | basicModeCommand
  /-- BASIC_MODE_CLEAR (R420). Writing 0 to BasicModeControl.1 clears cause [3]. -/
  | basicModeClear
  /-- ARRAY_TEST_REQUEST (R224). ArrayTest.3 requests an array test before the next job. -/
  | arrayTestRequest
  /-- INDEX_CREATE (R256). IndexControl action 1 creates an index homed on the writing node. -/
  | indexCreate
  /-- INDEX_DELETE (R257). IndexControl action 2 deletes an index, refused while an Ingest of it runs. -/
  | indexDelete
  /-- INDEX_COMMIT (R283). IndexControl action 3 commits the open epoch. -/
  | indexCommit
  /-- TABLE_CREATE (R310). TableControl action 1 creates a Churn table. -/
  | tableCreate
  /-- TABLE_DELETE (R310). TableControl action 2 deletes a Churn table, refused while it is in use. -/
  | tableDelete
  /-- SYNC_CREATE (R361). SyncControl action 1 creates a synchronisation object. -/
  | syncCreate
  /-- SYNC_DELETE (R361). SyncControl action 2 deletes a synchronisation object; its waiters end with Job Fault. -/
  | syncDelete
  /-- SYNC_SIGNAL (R361). SyncControl action 3 applies RELEASE, SET or ADD, or an arrival, to an object. -/
  | syncSignal
  /-- NODE_DRAIN (R391). WyvasControl action 1 moves the node's placed data to spare nodes. -/
  | nodeDrain
  /-- NODE_END_DRAIN (R391). WyvasControl action 2 ends a drain. -/
  | nodeEndDrain
  /-- PORT_ISOLATE (R374). WyvasPort action 1 isolates the port within 100 µs. -/
  | portIsolate (port : Nat)
  /-- PORT_RELEASE (R374). WyvasPort action 2 lifts the isolation of a port. -/
  | portRelease (port : Nat)
  /-- DETERMINISTIC_MODE_SET (R397). A DeterministicMode.1 write is stored system-wide, and admission of basket commands is held on every node. -/
  | deterministicModeSet (on : Bool)
  /-- DETERMINISTIC_MODE_APPLY (R397). Once commands admitted under the old value have drained, every node applies the new mode and resumes admission. -/
  | deterministicModeApply
  /-- AUDIT_COMMIT (R399). AuditControl action 1 commits an object and computes its version digest. -/
  | auditCommit
  /-- MODULE_RESTART_COMMAND (R414). ResetControl action 1 causes a module restart. -/
  | moduleRestartCommand
  /-- FABRIC_NODE_RESET (R416). ResetControl action 2 ends the node's jobs, clears fabric state, retrains the ports and rejoins within 10 s. -/
  | fabricNodeReset
  /-- SECURITY_VERSION_RAISE (R436). SecurityVersion.3 raises the counter to the active image's security version. -/
  | securityVersionRaise
  /-- HOOP_WATCHDOG_EXPIRY (R425). No Hoop pair services the watchdog for HoopWatchdog.1 ms; a module restart follows. -/
  | hoopWatchdogExpiry
  /-- PAGE_READ_DONE (R109). A die read completes; codewords are decoded and escalate through read recovery or are delivered, poisoned if needed. -/
  | pageReadDone (phys : Nat) (cws : List CwResult) (pair : Option (List CwResult × Bool))
  /-- REBUILD_DONE (R121). The rebuild reads of a stripe complete and the codeword is rebuilt by XOR and checked by crc. -/
  | rebuildDone (phys : Nat) (bad : List (Nat × Nat))
  /-- PROGRAM_DONE (R111). A program unit completes; status and read-back verification decide pass, or a grown bad block. -/
  | programDone (phys : Nat) (planes other : List (Bool × Nat))
  /-- ERASE_DONE (R147). A block erase completes; the erase is verified and Erase done is appended, or the block is retired. -/
  | eraseDone (sb : Nat) (failed : List Nat)
  /-- DIE_TIMEOUT (R105). A die gives no ready status within twice its operation's maximum; it is declared failed and served by rebuild. -/
  | dieTimeout (channel die : Nat)
  /-- SUSPEND_ISSUE (R112). The minimum run of a program or erase with a read queued is reached; suspend is issued. -/
  | suspendIssue (channel die : Nat)
  /-- SUSPEND_READY (R112). The die reports ready after a suspend; the queued allowed reads are served. -/
  | suspendReady (channel die : Nat)
  /-- SUSPENSION_LIMIT (R112). A suspension lasts SuspendPolicy.3; the operation resumes. -/
  | suspensionLimit (channel die : Nat)
  /-- JOURNAL_SEGMENT_TIMER (R142). 200 µs after its first entry, or when full, a journal segment is programmed. -/
  | journalSegmentTimer
  /-- JOURNAL_SEGMENT_VERIFIED (R141). A journal segment is programmed and verified, committing the previous segment and its map changes. -/
  | journalSegmentVerified (r : PairVerify)
  /-- MERGE_READ_DONE (R137). A merge read completes and 4 KiB of new data is merged into the page. -/
  | mergeReadDone (lpn : Nat) (poisoned : Bool)
  /-- CHECKPOINT_SLICE (R144). One map slice is copied to metadata superblocks and its Checkpoint entry is appended. -/
  | checkpointSlice
  /-- GC_START (R146). The free pool falls below GcPolicy.1; a victim superblock is chosen and its valid pages are copied. -/
  | gcStart
  /-- PATROL_READ (R150). The patrol reads codewords paced over Patrol.1 hours and queues superblocks for refresh. -/
  | patrolRead (phys : Nat) (cw : CwResult)
  /-- MAP_LINE_REBUILD_DONE (R133). The map line rebuild finishes within 30 s, and waiting reads proceed. -/
  | mapLineRebuildDone (line : Nat)
  /-- TILE_FETCH_DONE (R166). A tile fetched from T2 is installed in the tile cache and its waiters proceed. -/
  | tileFetchDone (object tile : Nat) (clean : Bool)
  /-- DIRTY_TILE_TIMEOUT (R168). A tile has been dirty for PlacementPolicy.4 s; it is written back through the Pail. -/
  | dirtyTileTimeout (object tile : Nat)
  /-- PLACEMENT_EVALUATION (R174). Every PlacementPolicy.2 ms, placement re-evaluates locations, replicas and migrations. -/
  | placementEvaluation (moves : List (Nat × Nat × Nat × Nat))
  /-- MIGRATION_INSTALL_DONE (R175). A migrated copy is installed and checked; the location record switches to the destination. -/
  | migrationInstallDone (object tile : Nat) (crcOk : Bool)
  /-- MIGRATION_RELEASE (R175). Every node has acknowledged the switch and no reader remains; the source is freed. -/
  | migrationRelease (object tile : Nat)
  /-- NODE_FENCE (R182). A node that has lost every plane and twin link for 100 µs fences and ends its coherent accesses. -/
  | nodeFence
  /-- NODE_LOST_DECLARE (R182). 200 µs after the last link to a node fell, its neighbours declare it lost and flood a Notice. -/
  | nodeLostDeclare (node : Nat)
  /-- T3_RESPONSE_TIMEOUT (R185). A T3 access has no response within PlacementPolicy.5 ms; it ends with Tier Error. -/
  | t3ResponseTimeout (tag : Nat)
  /-- TILE_RECOVERY_TIMEOUT (R196). Recovery of a shared tile is still running at 2 ms; its waiters receive the tile poisoned. -/
  | tileRecoveryTimeout (object tile : Nat)
  /-- SCRUB_LINE (R198). The scrubber reads an HBM line paced over IntegrityPolicy.1 hours, writing back corrections. -/
  | scrubLine (addr outcome symbol : Nat) (holds : HbmUse)
  /-- HBM_CONTROLLER_FAIL (R203). An HBM controller heartbeat is lost for 5 µs; Basic mode is entered and the stack's map entries are rebuilt elsewhere. -/
  | hbmControllerFail (stack : Nat)
  /-- CHANNEL_ENGINE_FAIL (R200). A channel engine heartbeat is lost for 5 µs; its dies are masked by rebuild, or Basic mode follows below the floor. -/
  | channelEngineFail (channel : Nat)
  /-- CELL_FAIL (R200). A thread-engine timeout of 10 µs fails a cell; the running job ends and the cell is repaired before the next job. -/
  | cellFail (cell : Nat)
  /-- HOOP_LOCKSTEP_MISMATCH (R200). The lockstep comparator detects a mismatch; the standby pair takes over from the last checkpoint. -/
  | hoopLockstepMismatch (pair : Nat)
  /-- HOOP_OSCILLATOR_LOSS (R200). The standby pair's monitor detects loss of the Hoop oscillator and takes over. -/
  | hoopOscillatorLoss
  /-- MODULE_REFERENCE_LOSS (R200). Loss of the module reference moves the locked clocks to CK_HOOP ÷ 2; the node leaves the system and enters Basic mode. -/
  | moduleReferenceLoss
  /-- SERVICE_CORE_WATCHDOG (R201). A service-core watchdog expires; the core restarts, its block commands are re-executed and its basket commands end with Job Fault. -/
  | serviceCoreWatchdog (core : Nat) (cmds : List (Nat × Nat × Nat))
  /-- ARRAY_TEST (R224). At each IntegrityPolicy.2 interval, between jobs, known MMAs test every position and repairs are applied. -/
  | arrayTest (rows : List (Nat × Nat)) (cells : List Nat)
  /-- JOB_START (R348). A queued job takes the array: scratch, Rennet configuration, resident slots, then threads and the first operation. -/
  | jobStart
  /-- EXPRESS_WINDOW_START (R357). An Express window begins; Express jobs assigned to it may start. -/
  | expressWindowStart (window : Nat)
  /-- CONTEXT_SAVED (R352). The pre-empted job's context is saved; the Express job starts. -/
  | contextSaved
  /-- JOB_RESUME (R355). No Express job is ready; the pre-empted Standard job's context is restored and it resumes. -/
  | jobResume
  /-- JOB_END (R349). The last operation completes and every thread has exited; the outcome is applied and the completion posted. -/
  | jobEnd
  /-- MMA (R228). Matrix multiply: load or swap stakes, stream rows, and write raw sums with whey words. -/
  | mma (d : MmaRun)
  /-- SHAPE (R209). Rennet sets the array shape at an operation boundary. -/
  | shape (d : Bytes)
  /-- PATTERN_LOAD (R219). Loads a weaver pattern record into a slot of each chain row's leftmost cell. -/
  | patternLoad (d : Bytes)
  /-- SCALE_LOAD (R244). Loads the column or row scale registers of every cell. -/
  | scaleLoad (d : Bytes)
  /-- RESCALE_LOAD (R246). Loads one rescale bank in every cell. -/
  | rescaleLoad (d : Bytes)
  /-- AMAX (R242). Finds the largest magnitude per channel and writes scales. -/
  | amax (d : Bytes)
  /-- CONVERT (R245). Converts elements into a narrow format with scaling, optionally into tile frames. -/
  | convert (d : Bytes)
  /-- RESCALE (R247). Turns raw sums into scaled FP32 values through a rescale bank. -/
  | rescale (d : Bytes)
  /-- VEC (R345). Elementwise vector operation: add, multiply, fused multiply-add, minimum or maximum. -/
  | vec (d : Bytes)
  /-- VTRANS (R345). Transcendental vector operation. -/
  | vtrans (d : Bytes)
  /-- REDUCE (R345). Reduces rows or element positions across cells by the fixed tree, maximum or minimum. -/
  | reduce (d : Bytes)
  /-- SKIM (R301). Selects the k best elements of each row and writes indices, counts and optionally candidate lists. -/
  | skim (d : Bytes)
  /-- MERGE (R303). Merges up to 64 candidate lists into the best k, optionally removing duplicates. -/
  | merge (d : Bytes)
  /-- GATHER (R305). Stream operation that fetches the values at indices chosen by a SKIM. -/
  | gather (d : Bytes)
  /-- CHURN (R327). Every active cell submits update records from its SRAM to the Churns. -/
  | churn (d : Bytes)
  /-- TILE_LOAD (R346). Moves tiles from T1 into cell SRAM, converting microscaling tiles. -/
  | tileLoad (d : Bytes)
  /-- TILE_STORE (R346). Writes whole tiles from cell SRAM to T1 as tile writes. -/
  | tileStore (d : Bytes)
  /-- MESH_MOVE (R344). Moves bytes between cells over the mesh. -/
  | meshMove (d : Bytes)
  /-- OUT_WRITE (R346). Copies SRAM into the job's output at an offset. -/
  | outWrite (d : Bytes)
  /-- WAIT_OPERATION (R336). Stream WAIT acquires a synchronisation object; no later operation issues until it completes. -/
  | waitOperation (d : Bytes)
  /-- SIGNAL (R336). Stream SIGNAL releases a synchronisation object on behalf of every earlier operation. -/
  | signal (d : Bytes)
  /-- THREAD_LOAD (R330). A thread load from SRAM, a placed object, a window or a remote node. -/
  | threadLoad (t : ThreadId) (tg : Target) (r : LoadRead)
  /-- THREAD_STORE (R330). A posted thread store; a store to a placed object is one tile write. -/
  | threadStore (t : ThreadId) (tg : Target) (data : Bytes)
  /-- THREAD_ATOMIC (R330). A thread 64-bit add, swap or compare-and-swap on an 8-byte-aligned word. -/
  | threadAtomic (t : ThreadId) (tg : Target) (op a b : Nat)
  /-- THREAD_FENCE (R334). A thread fence waits until every earlier access of its thread has completed. -/
  | threadFence (t : ThreadId)
  /-- THREAD_EXIT (R329). A thread executes exit. -/
  | threadExit (t : ThreadId)
  /-- CANDIDATE_SUBMIT (R293). A channel-engine thread submits candidates to its engine's Skimmer pools. -/
  | candidateSubmit (t : ThreadId) (pool : Nat) (cands : List Cand)
  /-- ACQUIRE (R337). Semaphore ACQUIRE waits until the count is at least n, then subtracts n. -/
  | acquire (w : SyncWho) (h n : Nat)
  /-- RELEASE (R337). Semaphore RELEASE adds n; an overflow ends the job. -/
  | release (w : SyncWho) (h n : Nat)
  /-- SET (R337). Event SET sets the value to 1. -/
  | set (w : SyncWho) (h : Nat)
  /-- CLEAR (R337). Event CLEAR sets the value to 0. -/
  | clear (w : SyncWho) (h : Nat)
  /-- WAIT (R337). Event WAIT waits until the value is 1. -/
  | wait (w : SyncWho) (h : Nat)
  /-- ARRIVE (R337). Barrier ARRIVE adds an arrival and advances the generation at p arrivals. -/
  | arrive (w : SyncWho) (h : Nat)
  /-- AWAIT (R337). Barrier AWAIT waits until the generation changes. -/
  | await (w : SyncWho) (h g : Nat)
  /-- ADD (R337). Counter ADD adds v modulo 2^64 and returns the old value. -/
  | add (w : SyncWho) (h v : Nat)
  /-- SYNC_READ (R337). Counter READ returns the value with acquire order. -/
  | syncRead (w : SyncWho) (h : Nat)
  /-- WAIT_GE (R337). Counter WAIT_GE waits until the value is at least v. -/
  | waitGe (w : SyncWho) (h v : Nat)
  /-- CAS (R337). Counter compare-and-swap. -/
  | cas (w : SyncWho) (h a b : Nat)
  /-- SYNC_CANCEL (R354). A sync cancel withdraws a waiting synchronisation operation at its home, unless the wait was satisfied first. -/
  | syncCancel (w : SyncWho) (h : Nat)
  /-- BARRIER_RELEASE_INSTANT (R385). The release instant of a barrier is reached; held waiters release on the second CK_ARR edge. -/
  | barrierReleaseInstant (h : Nat)
  /-- BATCHING_WINDOW_CLOSE (R273). A batching window closes; probes are grouped by list, scans are formed within the budget and the rest are carried. -/
  | batchingWindowClose
  /-- LIST_SCAN_DONE (R268). A list scan ends; pools are settled, the next scan or Express scans start, and partial lists are returned after the last scan. -/
  | listScanDone (index list : Nat) (r : ScanResult)
  /-- EPOCH_COMMIT_TIMER (R283). Every RetrievalPolicy.4 ms with new entries, the home opens epoch E+1 and starts committing E. -/
  | epochCommitTimer (index : Nat)
  /-- EPOCH_COMMIT_RESUME (R283). Every Ingest of E has ended; map changes are journaled, the digest is computed and E is committed. -/
  | epochCommitResume (index : Nat)
  /-- INGEST_RECORD (R284). An item record is applied at its directory shard as insert, replace or delete at the open epoch. -/
  | ingestRecord (fn sq cid : Nat)
  /-- COMPACTION (R286). A segment is rewritten without records tombstoned at or before the oldest pinned epoch. -/
  | compaction (index list : Nat)
  /-- CHURN_RECORD (R313). A Churn applies one step of the update recurrence to a row and writes it back in one pass. -/
  | churnRecord (fn sq : Nat) (r : RecordRef)
  /-- DATA_FLIT (R366). A data flit arrives: CRC checked, replay or nak handled, credits returned and messages delivered. -/
  | dataFlit (port : Nat) (h : FlitHdr) (msgs : List Msg)
  /-- IDLE_FLIT (R364). An idle flit arrives carrying acknowledgements and credits. -/
  | idleFlit (port : Nat) (h : FlitHdr)
  /-- IDENTITY_FLIT (R386). An identity control flit arrives; cabling is checked and seed conflicts are resolved. -/
  | identityFlit (port : Nat) (i : Identity)
  /-- COORDINATE_CLAIM (R387). A coordinate claim arrives on a warp or weft port. -/
  | coordinateClaim (port x y z sentPort : Nat)
  /-- CLAIM_ADOPTION (R387). 20 ms after its first claim, a node adopts a coordinate, isolates conflicting links and sends its own claims. -/
  | claimAdoption
  /-- TIME_EXCHANGE (R380). A time exchange flit arrives; link delay and offset are computed and the reference is steered. -/
  | timeExchange (port t1 t2 t3 t4 : Nat)
  /-- TIME_EXCHANGE_TIMER (R380). Every 1 ms each up port sends a time exchange flit. -/
  | timeExchangeTimer
  /-- TIME_MISMATCH (R382). Parent and standby offsets differ by more than 1 ns for 1 s; a mismatch is logged. -/
  | timeMismatch
  /-- ISOLATION_FLIT (R374). An isolation control flit arrives; the port is reported isolated by the partner. -/
  | isolationFlit (port : Nat)
  /-- RETRAIN_REQUEST (R365). A retrain request control flit arrives and the port retrains. -/
  | retrainRequest (port : Nat)
  /-- PORT_TRAINING_DONE (R363). A port completes training or retraining at ×8 or ×4. -/
  | portTrainingDone (port lanes : Nat) (d : LinkDelay)
  /-- WYVAS_LINK_DOWN (R366). A link is declared down on loss of FEC lock, silence or failed replays; the port isolates after repeated downs. -/
  | wyvasLinkDown (port : Nat)
  /-- PLANE_LOST (R375). Every cabled port of a plane has been down for 90 µs; the node sends a plane-lost Notice and uses the other plane. -/
  | planeLost (plane : Nat)
  /-- WYVAS_READ (R370). A Read message is checked against isolation and answered with one Response. -/
  | wyvasRead (m : Msg)
  /-- WYVAS_WRITE (R370). A Write message is applied unless it is a duplicate, and answered. -/
  | wyvasWrite (m : Msg)
  /-- WYVAS_ATOMIC (R180). An Atomic message is performed at the home and answered with the old value. -/
  | wyvasAtomic (m : Msg)
  /-- DELIVERY (R370). Candidate lists or distance tables are written into the SRAM named by the delivery handle. -/
  | delivery (m : Msg)
  /-- RESPONSE (R370). A Response arrives and completes its request, or is discarded if cancelled. -/
  | response (m : Msg)
  /-- NODE_UNAVAILABLE_NOTICE (R186). A node-unavailable Notice arrives; accesses to data held only there end with Tier Error. -/
  | nodeUnavailableNotice (m : Msg)
  /-- NODE_AVAILABLE_NOTICE (R186). A node-available Notice arrives and the node is used again. -/
  | nodeAvailableNotice (m : Msg)
  /-- NODE_LOST_NOTICE (R376). A node-lost Notice is forwarded once; requests are reissued and twins take over home roles. -/
  | nodeLostNotice (m : Msg)
  /-- PLANE_LOST_NOTICE (R375). A plane-lost Notice arrives. -/
  | planeLostNotice (m : Msg)
  /-- PLANE_RESTORED_NOTICE (R375). A plane-restored Notice arrives. -/
  | planeRestoredNotice (m : Msg)
  /-- FENCE_NOTICE (R182). A fence Notice arrives. -/
  | fenceNotice (m : Msg)
  /-- REISSUE_TIMEOUT (R377). A request with no Response 800 µs after issue, on a route that may be cut, is reissued once on the other plane. -/
  | reissueTimeout (tag : Nat)
  /-- TAG_RETENTION_EXPIRY (R378). A target drops a kept tag and Response 2 ms after completing the request. -/
  | tagRetentionExpiry (src tag : Nat)
  /-- READY_REPORT (R389). A node reports ready to the seed in discovery phase 7. -/
  | readyReport (node : Nat)
  /-- SYSTEM_READY (R389). The seed creates the rim region and the system-ready barrier releases; placement and T3 access begin. -/
  | systemReady
  /-- OPTICAL_SIGNAL_DETECTED (R363). Optical signal appears on the lanes of an off or down port, so the port leaves the off state and begins the training of Table 15-1. -/
  | opticalSignalDetected (port : Nat)
  /-- CONTROL_FLIT_INTERVAL (R365). At its own interval, a port sends again its identity, coordinate-claim, isolation and retrain control flits, because a dropped control flit is never replayed. -/
  | controlFlitInterval (port kind : Nat)
  deriving DecidableEq, Repr

end Sys2Proof
end

