-- ==== Sys2Proof/Decode.lean ====
section
/-! DEFINITION. The command a word spells by the bits of spec/opcode_table.json. No row of that table gives bits: the commands come
to the block with their operands, not as words, so a word spells none. -/

namespace Sys2Proof

/-- The command that the `nbits` low bits of `w` spell: none, for any word (no row of the table has an encoding). -/
def decodeTableWord (nbits w : Nat) : Option Instr :=
  match nbits, w with
  | _, _ => none

end Sys2Proof
end

