-- ==== Sys2Proof/Config.lean ====
section
/-! DEFINITION. What one implementation fixes and the manual leaves open. Every constant here is opaque: nothing in Lean can see
its value, so a statement about it holds for every value (the free values of the assumption log). -/

namespace Sys2Proof

/-- Which of the FP32 values within 1 ulp the vector unit's exp of an FP32 value is, counted from the least: one fixed function (R238); DESIGN
CHOICE, assumption 12. -/
opaque Config.vexp : Nat → Nat

/-- The same of log (R238); DESIGN CHOICE, assumption 12. -/
opaque Config.vlog : Nat → Nat

/-- The same of the reciprocal square root (R238); DESIGN CHOICE, assumption 12. -/
opaque Config.vrsqrt : Nat → Nat

/-- The same of tanh, whose bound is 2 ulp (R238); DESIGN CHOICE, assumption 12. -/
opaque Config.vtanh : Nat → Nat

/-- A value the manual leaves open, drawn afresh: the argument is the counter State.free (DESIGN CHOICE, assumption 5). -/
opaque Config.freeNat : Nat → Nat

/-- A string of bytes the manual leaves open (a published standard's data structure, a certificate, a signature): the first
argument is the counter State.free, the second the number of the byte (DESIGN CHOICE, assumption 5). -/
opaque Config.freeByte : Nat → Nat → Byte

/-- The factory values of DeviceIdentity.5 to .8 (R102: Factory), by subindex. -/
opaque Config.factory : Nat → Nat

/-- Value `n` (FP32 bits) that a class-2 basket of a pipeline computes: the arguments are its image digest, its input and `n`. The manual
does not say where such a basket takes its input and leaves its values (DESIGN CHOICE, assumption 30). -/
opaque Config.jobValue : Bytes → Bytes → Nat → Nat

/-- The coarse score of a list, FP32 bits, by family, converted vector, its scale, centroid and active cells: the manual names the operations
and not their shape and order (R265; DESIGN CHOICE, assumption 31). -/
opaque Config.coarseScore : Nat → List Nat → Nat → List Nat → Nat → Nat

/-- Worst-case microseconds of the array stages of a query that Table 11-4 gives by formulas it does not write out: stage (0 probe
selection and tables, 1 re-rank), dimension, lists or candidates, probes (DESIGN CHOICE, assumption 32). -/
opaque Config.stageTime : Nat → Nat → Nat → Nat → Nat

/-- Where in HBM a tile of an object has its frame, taken at a time, in 64-byte lines: the manual leaves the allocation to the device (R15, R164;
DESIGN CHOICE, assumption 24). -/
opaque Config.frameAt : Nat → Nat → Nat → Nat

/-- The hash values of the Hoop ROM's key table slots 0 to 2 (R432). -/
opaque Config.romKey : Nat → Bytes

/-- The device keys of Table 18-2 by row (identity, wrap, store, counter), as byte strings of their lengths; 4 is the identity public key. -/
opaque Config.deviceKey : Nat → Bytes

/-- The certificate of the device's identity key (R439). -/
opaque Config.deviceCert : Bytes

/-- The certificates of its issuers, as the chain of slot 0 holds them before the device's own (R439). -/
opaque Config.issuerCerts : Bytes

/-- The certificate chain of slot 0 (R439). -/
def Config.certChain : Bytes := Config.issuerCerts ++ Config.deviceCert

/-- The signed configuration record (Table 18-3). -/
opaque Config.configRecord : Bytes

/-- The vital product data that VPD Read returns, and its length (R49). -/
opaque Config.vpd : Nat → Byte
opaque Config.vpdLength : Nat

end Sys2Proof
end

