-- ==== Sys2Proof/Machine/State.lean ====
section
/-! DEFINITION. The state of the module, as plain data, and the state right after reset. Every register of the object dictionary
lives in `Dict.vals` under its own index and subindex; the records below hold the state that has no object of its own. -/

namespace Sys2Proof.Machine

open Sys2Proof

/-- Byte memory: (address, byte) pairs, addresses strictly rising, no byte 00h; an unlisted address reads 00h (DESIGN CHOICE, assumption 6). -/
abbrev Mem := List Host.Cell

/-- A sparse table of numbers: (key, value) pairs, keys strictly rising, no entry equal to what an unlisted key reads as. -/
abbrev KV := List (Nat × Nat)

/-- Power input, rails, throttling and power states (chapters 2, 3 and 17). `railRestart` says that a power-loss sequence has run since the
Hoop rail started, so that the next start of the main rails is a main-rail restart (R412); `imageOk` and `pufOk` are what steps 1 and 2 of
local start-up found (R434, R439); `hoopPower` says that the Hoop rail has power, and `hoopRail` that the Hoop runs on it (with both pairs failed
it does not, Table 17-1); `hoopTime` is the Hoop's own count of nanoseconds since its rail started; `starting` says that local start-up is
under way from step 3, and `booted` that it has ended. `pwrLossCause` is the cause of a power loss that is declared and whose sequence has
not run. `tripCycled` says that PWR_EN has been low for 1 s since a thermal trip (R29); `charging` and `bankBad` say that the holdup bank
charges and that it is marked unhealthy (R27). -/
structure Power where
  inputPresent : Bool
  overVoltageSeen : Bool
  hoopPower : Bool
  hoopRail : Bool
  mainRails : Bool
  pwrEn : Bool
  railRestart : Bool
  tripped : Bool
  tripCycled : Bool
  pwrEnLowAt : Option Nat
  starting : Bool
  booted : Bool
  hoopTime : Nat
  ps : Nat
  lastOp : Nat
  psBeforeThermal : Option Nat
  locateN : Bool
  pwrLossCause : Nat
  hint : Nat
  cachingBarred : Bool
  charging : Bool
  bankBad : Bool
  imageOk : Bool
  pufOk : Bool
  deriving DecidableEq, Repr

/-- The throttle ladder (R449): `fa` is the array issue-rate fraction in sixteenths, `prog` the number of steps taken down the
program levels 20, 10, 5, 2, 1, and `fab` the number taken down the fabric shares 1, 1/2, 1/4, 1/8, 0. -/
structure Throttle where
  fa : Nat
  prog : Nat
  fab : Nat
  deriving DecidableEq, Repr

/-- Who waits for the outcome of an object request: an NVMe command, a PDU, or nobody outside (a row of its own). -/
inductive Origin where
  | nvme (fn sq cid : Nat)
  | pdu (p : Pdu)
  | none
  deriving DecidableEq, Repr

/-- A checked write whose P record is being programmed (R84, R91). -/
structure StoreWrite where
  origin : Origin
  fn : Nat
  index : Nat
  sub : Nat
  values : List Nat
  tries : Nat
  deriving DecidableEq, Repr

/-- A request that waits for the Hoop (R91, R96). -/
structure HoopReq where
  origin : Origin
  op : Nat
  fn : Nat
  index : Nat
  sub : Nat
  count : Nat
  value : Bytes
  deriving DecidableEq, Repr

/-- An answered write of an action subindex whose operation goes on, so that its response waits (R92): `kind` 0 for the commit of index `no`, 1 for
an array test, 2 for a drain. -/
structure Acting where
  req : HoopReq
  kind : Nat
  no : Nat
  deriving DecidableEq, Repr

/-- The object dictionary: values in force, the Hoop's copy of values produced on the main rails with the Hoop's time of each
block's last refresh (R90), the write whose record is being programmed (R84), the requests that wait, and the writes whose operation goes on (R92). -/
structure Dict where
  vals : KV
  held : KV
  refreshed : KV
  pendingWrite : Option StoreWrite
  queue : List HoopReq
  acting : List Acting
  lastStatus : Nat
  lastSub : Nat
  deriving DecidableEq, Repr

/-- A response PDU or Announce the module sent (Tables 4-4, 4-7). -/
structure PduOut where
  path : PduPath
  op : Nat
  seq : Nat
  index : Nat
  sub : Nat
  count : Nat
  status : Nat
  node : Nat
  stale : Bool
  replayed : Bool
  value : Bytes
  trailer : Option Trailer
  deriving DecidableEq, Repr

/-- A request relayed over Wyvas that has no response yet (R98). -/
structure Relay where
  tag : Nat
  op : Nat
  pdu : Pdu
  deriving DecidableEq, Repr

/-- An NVMe-MI or Basic Management response: command code, status (00h success) and the bytes returned. -/
structure MiOut where
  code : Nat
  status : Nat
  data : Bytes
  deriving DecidableEq, Repr

/-- An SPDM response: connection, response code and payload. -/
structure SpdmOut where
  conn : Nat
  code : Nat
  data : Bytes
  deriving DecidableEq, Repr

/-- The state of one SPDM connection (R440): how far the negotiation has come, the version, and the chunks in transfer. -/
structure Conn where
  conn : Nat
  stage : Nat
  version : Nat
  chunkIn : Bytes
  chunkOut : Bytes
  deriving DecidableEq, Repr

/-- The management transports: object protocol, SMBus and SPDM (chapters 2, 4 and 18). `healthSeen` holds the critical warnings as the host
last read them. -/
structure Mgmt where
  tx : List PduOut
  kept : List PduOut
  dups : List Pdu
  announceSeq : Nat
  relays : List Relay
  nextRelay : Nat
  beacon : Bool
  smbFreq : Nat
  healthSeen : Nat
  smb : List MiOut
  conns : List Conn
  spdm : List SpdmOut
  straps : Nat
  deriving DecidableEq, Repr

/-- A firmware image as a bank holds it: header bytes 0 to 127, the digest of the whole image, the firmware key its header
signature verifies under, and the commit sequence once its commit record is complete (Table 17-8, R429). -/
structure Bank where
  header : Bytes
  digest : Bytes
  sig : Option Nat
  commit : Option Nat
  deriving DecidableEq, Repr

/-- A wrapped key (R442, R443): namespace (0 for the object store), the key's identity, and the epoch it is wrapped under. -/
structure Key where
  owner : Nat
  id : Nat
  epoch : Nat
  deriving DecidableEq, Repr

/-- A Firmware Commit that the hardware sequencer carries out (R428, R429): its command, bank and action, what the read-back will give, the
phase as FirmwareUpdate.1 codes it, and the sectors or pages done in it. -/
structure FwJob where
  fn : Nat
  sq : Nat
  cid : Nat
  bank : Nat
  action : Nat
  sig : Option Nat
  readBackOk : Bool
  phase : Nat
  pos : Nat
  deriving DecidableEq, Repr

/-- Firmware flash, firmware update and keys (chapters 5, 17 and 18): the banks' images, the commit under way, and the security version and key
epoch records of each bank's identity region. -/
structure Firmware where
  bankA : Bank
  bankB : Bank
  active : Nat
  staged : Mem
  stagedBytes : Nat
  job : Option FwJob
  secA : List Nat
  secB : List Nat
  epochA : List Nat
  epochB : List Nat
  keys : List Key
  seedKnown : Bool
  trusted : Bool
  deriving DecidableEq, Repr

/-- A completion queue entry the device posted (R65, R66). -/
structure Cqe where
  fn : Nat
  sq : Nat
  cid : Nat
  sct : Nat
  sc : Nat
  dnr : Bool
  dw0 : Nat
  dw1 : Nat
  deriving DecidableEq, Repr

/-- A submission queue: entries written and not yet fetched (cid, opcode) in order, and whether it is frozen (R50, R51, R67). -/
structure Sq where
  fn : Nat
  id : Nat
  cq : Nat
  size : Nat
  prio : Nat
  head : Nat
  tail : Nat
  waiting : List (Nat × Nat)
  frozen : Bool
  deriving DecidableEq, Repr

/-- A completion queue. -/
structure Cq where
  fn : Nat
  id : Nat
  size : Nat
  vector : Nat
  deriving DecidableEq, Repr

/-- The metadata of a codeword (Table 5-5). -/
structure CwMeta where
  tag : Nat
  seq : Nat
  index : Nat
  flags : Nat
  crc : Nat
  deriving DecidableEq, Repr

/-- A NAND page as it decodes: the data bytes of its four codewords, in plain form (R442), and the metadata of each (R107). -/
structure Page where
  data : Mem
  cws : List CwMeta
  deriving DecidableEq, Repr

/-- A fetched command whose completion is not posted (R51). `tiles` are the dirty tiles that a Flush has still to write back (R169). `held` says it waits behind a Load Basket (R53); `space` that it waits for Pail space,
with its data in `buf` or its ranges of blocks in `ranges` (R55, R452); `lpns` are the pages whose commit it waits for (R55, R57); `reads` the logical pages whose
die reads it waits for, with their addresses, and `got` the pages those reads have delivered. -/
structure Inflight where
  fn : Nat
  sq : Nat
  cid : Nat
  opc : Nat
  started : Bool
  held : Bool
  fetched : Nat
  deadline : Nat
  lpns : List (Nat × Nat)
  reads : List (Nat × Nat)
  got : List (Nat × Page)
  entry : Option Sqe
  buf : Bytes
  space : Bool
  ranges : List (Nat × Nat)
  job : Nat
  tiles : List (Nat × Nat) := []
  deriving DecidableEq, Repr

/-- An entry of the compute error log (Table 3-7). -/
structure ErrEntry where
  count : Nat
  sq : Nat
  cid : Nat
  status : Nat
  opc : Nat
  froze : Bool
  time : Nat
  handle : Nat
  job : Nat
  opIndex : Nat
  detail : Nat
  deriving DecidableEq, Repr

/-- An entry of the audit log (Table 16-5). -/
structure AuditEntry where
  handle : Nat
  sq : Nat
  cid : Nat
  opc : Nat
  time : Nat
  digest : Bytes
  basketDigest : Bytes
  inputDigest : Bytes
  epoch : Nat
  cells : Nat
  modeWord : Nat
  objects : List (Nat × Nat × Bytes)
  deriving DecidableEq, Repr

/-- One NVMe controller (Table 3-2): enable and ready bits, shutdown status, its outstanding Asynchronous Event Requests, whether
the event of C1h is armed, its logs, and its flexible resources (R44). `ams` is CC.AMS, `served` the queue fetched from last, and `spent` the
commands fetched from each priority class in the round under way (R52). -/
structure Ctrl where
  fn : Nat
  enabled : Bool
  ready : Bool
  shst : Nat
  ams : Nat
  served : Nat
  spent : KV
  aers : List Nat
  armed : Bool
  eventDue : Bool
  errCount : Nat
  errLog : List ErrEntry
  auditLog : List AuditEntry
  flexQueues : Nat
  flexVectors : Nat
  wce : Bool
  features : KV
  deriving DecidableEq, Repr

/-- A namespace (R130): block size, size in blocks, its allocation units in order and the controllers it is attached to. -/
structure Ns where
  id : Nat
  block : Nat
  nsze : Nat
  aus : List Nat
  ctrls : List Nat
  deriving DecidableEq, Repr

/-- A write to host memory: its address, its bytes, and whether it carries the relaxed-ordering attribute (R43). -/
structure DmaWrite where
  addr : Nat
  data : Bytes
  relaxed : Bool
  deriving DecidableEq, Repr

/-- The host interface (chapter 3): what the device has posted and written to host memory stands in `cqes`, `dma` and `events`,
oldest first. `relaxed` lists the functions for which relaxed ordering is enabled (R43). -/
structure HostIf where
  perst : Bool
  linkUp : Bool
  ctrls : List Ctrl
  sqs : List Sq
  cqs : List Cq
  inflight : List Inflight
  cqes : List Cqe
  dma : List DmaWrite
  relaxed : List Nat
  events : List (Nat × Nat × Nat)
  namespaces : List Ns
  deriving DecidableEq, Repr

/-- A logical page the Pail holds (R132, R136): the page kind it is programmed with (Table 5-5), its newest accepted data, which 4 KiB quarters
are valid, its stream (6 for pinned pages), and how far it has come: 0 accepted, 1 being programmed, 2 programmed and mapped. Bit i of
`poison` says that quarter i holds no readable data (R137); `parts` are the byte ranges written in quarters not wholly written. Pages of one `group`
(the number of a header page of tiles) change the map together, and `verified` is where such a page lies that waits for the others (R164). -/
structure PailPage where
  kind : Nat
  lpn : Nat
  seq : Nat
  data : Mem
  quarters : Nat
  stream : Nat
  phase : Nat
  poison : Nat
  parts : List (Nat × Nat)
  group : Option Nat := none
  verified : Option Nat := none
  deriving DecidableEq, Repr

/-- A journal entry (Table 6-3). `desc` holds the 64 member descriptors in the slots after an entry of kind 04h (Table 6-4); a `tied` entry goes
into one segment with the entry after it (R164). -/
structure JEntry where
  kind : Nat
  count : Nat
  key : Nat
  value : Nat
  extra : Nat
  desc : List Nat
  tied : Bool := false
  deriving DecidableEq, Repr

/-- A journal segment (R141): its sequence, the Commit entry in slot 0, its entries, and the address of the program unit it lies in. -/
structure Segment where
  seq : Nat
  commit : Option JEntry
  entries : List JEntry
  unit : Option Nat
  verified : Bool
  deriving DecidableEq, Repr

/-- A member of a superblock: on a channel the die, and its block in each plane (Table 6-4, kind 04h). -/
structure Member where
  ch : Nat
  die : Nat
  blocks : List Nat
  deriving DecidableEq, Repr

/-- A superblock in use; `id` is its sequence number (R119). State: 1 open, 2 closed, 3 Erase begin appended, 4 being erased or erase-uncertain,
5 reserved for the dump set, 6 erased with its Erase done not committed; the blocks of a free one stand in no record. `stream`: 0 to 3, 4
garbage collection, 5 metadata, 6 locked. `next` is the next program unit; `queued` says that it is to be relocated ahead of any victim (R145,
R154), `refresh` that R151 queued it, `early` that this came within 24 h of its program (R153); `toErase` lists the channels whose erase has not started. -/
structure Superblock where
  id : Nat
  members : List Member
  stream : Nat
  st : Nat
  birth : Nat
  next : Nat
  queued : Bool
  refresh : Bool
  early : Bool
  programmedAt : Nat
  toErase : List Nat
  deriving DecidableEq, Repr

/-- A page of a program unit: its logical page number, its write sequence number, for a copy the source page, and what is programmed. -/
structure UnitPage where
  lpn : Nat
  seq : Nat
  src : Option Nat
  page : Page
  deriving DecidableEq, Repr

/-- A program unit that is placed and not yet verified: its first page address, its superblock and wordline, channel and die, whether a locked
pair carries it, its pages, whether it is a stripe's parity, the journal segment it carries, whether it waits for its dies, and the
VerifyThreshold in force when its program started (R129). -/
structure ProgUnit where
  phys : Nat
  sb : Nat
  wl : Nat
  ch : Nat
  die : Nat
  locked : Bool
  pages : List UnitPage
  parity : Bool
  seg : Option Nat
  waiting : Bool
  threshold : Nat
  deriving DecidableEq, Repr

/-- An open stripe (R120): the channels whose unit is verified, whether it is being closed early, and the superblocks that copies in it come from. -/
structure Stripe where
  sb : Nat
  wl : Nat
  done : List Nat
  closing : Bool
  srcs : List Nat
  deriving DecidableEq, Repr

/-- A checkpoint of a slice (R144): the journal sequence at which its copy began, the superblocks its pages lie in with the address of the
first, the map entries of the slice, and the read counters as they then were, with what an unlisted one reads as (R150). -/
structure Ckpt where
  slice : Nat
  seq : Nat
  sbs : List Nat
  first : Nat
  data : KV
  counts : KV
  floor : Nat
  deriving DecidableEq, Repr

/-- The translation layer (chapter 6): `jbuf` holds journal entries appended and not yet programmed, `segs` the segments programmed
and not committed, `committed` the committed ones; `ckpts` holds the newest committed checkpoint of each slice, `ckptNew` the one whose
Checkpoint entry is not committed; `badStacks` are the failed stacks whose map entries are being rebuilt, each with the first line
not yet rebuilt (R203); `victim` is the superblock being emptied, `gcReads` the pages (lpn, address) read for copies, `gcBuf` the copies
not yet in a unit, `urgent` the pages of stripes without parity (R145), `credit` the pages that garbage collection has freed for host writes and
`moved` the pages copied out of the victim (R146); `hostQuarters` counts the 4 KiB pieces written by the host and `programmed` the pages programmed over
the module's life (R155), `oneCopy` lists the pages of which one Pail copy is unreadable (Table 8-5), `dumped` the page addresses the last
power-loss sequence programmed into the dump set (R410), and `sanitize` is set while a Sanitize is under way, to the command that waits for it (R158). -/
structure Block where
  map : KV
  pail : List PailPage
  nextSeq : Nat
  nextSb : Nat
  sbs : List Superblock
  units : List ProgUnit
  stripes : List Stripe
  jbuf : List JEntry
  segs : List Segment
  nextSeg : Nat
  committed : List Segment
  ckpts : List Ckpt
  ckptNew : Option Ckpt
  dumpSet : List Nat
  merges : List Nat
  badLines : List Nat
  badStacks : List (Nat × Nat)
  victim : Option Nat
  gcReads : List (Nat × Nat)
  gcBuf : List UnitPage
  urgent : List Nat
  credit : Nat
  moved : Nat
  hostQuarters : Nat
  programmed : Nat
  oneCopy : List Nat
  dumped : List Nat
  sanitize : Option (Option (Nat × Nat × Nat))
  deriving DecidableEq, Repr

/-- A program (of the unit at page address `unit`) or erase under way at a die of superblock `sb`. `susp`: 0 running, 1 suspend issued, 2 suspended. -/
structure DieOp where
  channel : Nat
  die : Nat
  erase : Bool
  sb : Nat
  unit : Nat
  susp : Nat
  deriving DecidableEq, Repr

/-- A firmware-flash copy of the bad-block table: whether its header marks the scan complete, and 3 less the encoding of R117 at each entry. -/
structure BadTable where
  scanned : Bool
  marks : KV
  deriving DecidableEq, Repr

/-- The reserved superblock's copy: whether the scan is complete, and its records (write sequence number, entry, mark) (R117). -/
structure BadLog where
  scanned : Bool
  recs : List (Nat × Nat × Nat)
  deriving DecidableEq, Repr

/-- A page being rebuilt, and its codewords to rebuild (R121). -/
structure Rebuild where
  phys : Nat
  cws : List Nat
  deriving DecidableEq, Repr

/-- A block whose read counter has reached its limit, and its pages that the scan has still to read (R151). -/
structure Scan where
  block : Nat
  left : List Nat
  deriving DecidableEq, Repr

/-- The NAND array (chapter 5): programmed pages, the three copies of the bad-block table and the union of them in force (`bbt`), whether the flash
channels have started, the operations and page reads under way, and for blocks the erase counts, the read counters (`readFloor` for one that is
not listed, with the last saved ones) and the reads that needed step 4. `corrected` and `decodes` keep each block's corrected bits and decodes since its last program (R277). -/
structure Nand where
  pages : List (Nat × Page)
  bbtA : BadTable
  bbtB : BadTable
  bbtR : BadLog
  bbt : KV
  started : Bool
  dieOps : List DieOp
  reads : List Nat
  rebuilds : List Rebuild
  wear : KV
  readCount : KV
  readFloor : Nat
  savedCount : KV
  savedFloor : Nat
  deepReads : KV
  scans : List Scan
  corrected : KV
  decodes : KV
  deriving DecidableEq, Repr

/-- A placed object (R161): kind as Table 14-6. -/
structure PObj where
  id : Nat
  kind : Nat
  format : Nat
  group : Nat
  fn : Nat
  size : Nat
  ready : Bool
  degraded : Bool
  commits : Nat
  commitTime : Nat
  digest : Bytes
  written : Bool
  deriving DecidableEq, Repr

/-- A migration of a tile (R175): step 1 copied, 2 installed, 3 switched. -/
structure Migration where
  step : Nat
  tier : Nat
  node : Nat
  version : Nat
  deriving DecidableEq, Repr

/-- One tile or untiled page: header (Table 7-3), body, where it is and what it waits for. Header and contents stand here while it is in T1, else on its pages (R164). `saved` is its last version in the Pail
or on flash; `writers` are the functions whose commands wrote it since then; `reserved` says that it is kept in its group's policy
reservation (R166), `frame` is the HBM address of its frame (R164), and `crc` the body_crc that came with a frame from another node. -/
structure Tile where
  object : Nat
  index : Nat
  format : Nat
  rows : Nat
  cols : Nat
  flags : Nat
  version : Nat
  writeTime : Nat
  scale : Mem
  body : Mem
  poison : Bool
  inT1 : Bool
  dirty : Bool
  pinned : Bool
  used : Nat
  node : Nat
  replicas : List Nat
  fetching : Bool
  migration : Option Migration
  cancels : Nat
  writers : List Nat
  saved : Nat
  reserved : Bool
  frame : Nat
  crc : Nat
  deriving DecidableEq, Repr

/-- A coherent region (R178): base and length in 64 KiB units. `unprotected` says that it is flagged unmirrored (R18), `single` that a locked pair which
holds part of it is broken (R124), and `taken` that this node took its home role over and the twin has not yet been brought up to date (R182, R183). -/
structure Region where
  no : Nat
  base : Nat
  len : Nat
  homed : Bool
  mirrored : Bool
  unprotected : Bool
  single : Bool
  taken : Bool := false
  deriving DecidableEq, Repr

/-- What a page of the object store belongs to: a placed object, a basket of a function, or a segment of a list of an index. -/
inductive StoreOwner where
  | object (id : Nat)
  | basket (fn id : Nat)
  | segment (index list no : Nat)
  deriving DecidableEq, Repr

/-- A page of the object store (R164): its owner, its page kind (Table 5-5), the bytes of the bodies it holds (0 for a page of 64 tile headers, 32 for a digest page), its number among the owner's
pages of that size, and its logical page. -/
structure StorePage where
  owner : StoreOwner
  kind : Nat
  size : Nat
  no : Nat
  lpn : Nat
  deriving DecidableEq, Repr

/-- An access of a thread that waits for a tier of this node: a load, a store, or an atomic with its operands (R166, R167). -/
inductive Access where
  | load (tg : Target) (len : Nat)
  | store (tg : Target) (data : Bytes)
  | atomic (tg : Target) (op a b : Nat)
  deriving DecidableEq, Repr

/-- A thread whose access waits, with its job and function. -/
structure TierWait where
  thread : ThreadId
  job : Nat
  fn : Nat
  access : Access
  deriving DecidableEq, Repr

/-- Tiers and placement (chapter 7). `window` is the HBM window of this node: the coherent area and the scratch area (R161);
`stale` are the pages of the coherent area that the twin has missed (R18); `storeAus` are the allocation units of the
object store and `pages` its pages, `waits` the accesses that wait, oldest first, and `coherentAus` those units reserved for coherent data, by the GiB of the coherent area that each holds (R130, R179). -/
structure Tiers where
  objects : List PObj
  tiles : List Tile
  regions : List Region
  storeAus : List Nat
  pages : List StorePage
  waits : List TierWait
  coherentAus : List (Nat × Nat)
  window : Mem
  windowPoison : Mem
  stale : List Nat
  deriving DecidableEq, Repr

/-- A record of the integrity log (Table 8-6). -/
structure LogRec where
  seq : Nat
  first : Nat
  last : Nat
  count : Nat
  source : Nat
  cls : Nat
  action : Nat
  flags : Nat
  unit : Nat
  detail : Nat
  address : Nat
  object : Nat
  context : Nat
  deriving DecidableEq, Repr

/-- A record of the persistent store (R84): its kind, index, first subindex, count and values, its sequence number, its CRC-32, whether its commit
flag is programmed, and the sector it stands in. -/
structure StoreRec where
  kind : Nat
  index : Nat
  sub : Nat
  count : Nat
  data : Bytes
  seq : Nat
  crc : Nat
  done : Bool
  sector : Nat
  deriving DecidableEq, Repr

/-- A store copy, newest record first: the oldest sector in use, the one being filled and the bytes used in it, the erase counts of the sector
headers, and the sectors without a valid header (R126). -/
structure StoreCopy where
  recs : List StoreRec
  tail : Nat
  cur : Nat
  used : Nat
  erases : KV
  unerased : List Nat
  deriving DecidableEq, Repr

/-- The persistent store: the copies in banks A and B, the next sequence number, and the counts of PersistentStore. -/
structure Store where
  a : StoreCopy
  b : StoreCopy
  nextSeq : Nat
  commits : Nat
  snapshots : Nat
  failures : Nat
  deriving DecidableEq, Repr

/-- Integrity and redundancy (chapter 8): the persistent store, the log ring newest first, the persistent records, retirement,
and which redundant parts are in service. `alert` holds, by the bits of the critical
warnings, the events raised that the host has not read (R38). -/
structure Integrity where
  store : Store
  log : List LogRec
  stored : List LogRec
  nextSeq : Nat
  retired : List (Nat × Nat)
  remap : List (Nat × Nat)
  failedStacks : List Nat
  coresOut : List Nat
  coreExpiries : KV
  hoopActive : Nat
  hoopFailed : List Nat
  refLost : Bool
  failedRows : List (Nat × Nat)
  failedCells : List Nat
  alert : Nat
  deriving DecidableEq, Repr

/-- The cell array and Rennet (chapters 9 and 10). Keys: stakes and the
poison that weights carry into them cell · 8,192 + byte of the block; SRAM cell · 2^21 + offset;
scales cell · 64 + register (FP32 bits); rescale banks (cell · 16 + bank) · 1,024 + byte; patterns (cell · 64 + slot) · 64 + byte. -/
structure CellArray where
  shape : Nat
  stakeA : Mem
  stakeS : Mem
  stakeAPoison : Mem
  stakeSPoison : Mem
  sram : Mem
  poison : Mem
  colScale : KV
  rowScale : KV
  rescale : Mem
  patterns : Mem
  testDue : Bool
  testAsked : Bool
  limitPending : Bool
  deriving DecidableEq, Repr

/-- A loaded basket (R340 to R342). Ids are each function's own. `size` is the length of the image, and `churnDs` the row dimension that the
load check used for each table of a CHURN. -/
structure Basket where
  id : Nat
  fn : Nat
  cls : Nat
  cellThreads : Nat
  engineThreads : Nat
  wcet : Nat
  scratch : Nat
  output : Nat
  ops : List Bytes
  size : Nat
  code : Bytes
  rennet : List Bytes
  slots : List Bytes
  sync : List Bytes
  digest : Bytes
  churnDs : List (Nat × Nat)
  deriving DecidableEq, Repr

/-- A running thread: outstanding load or atomic and posted stores (R329). `wait` is true while it waits on memory, a
synchronisation object or a fence; `result` is the value its last access returned. -/
structure Thread where
  id : ThreadId
  wait : Bool
  stores : Nat
  result : Nat
  deriving DecidableEq, Repr

/-- What a job keeps when it loses the array (R353): Rennet and the stakes, its threads with their registers, and its scratch, which
stays in place where the job that runs cannot reach it (R351). -/
structure Context where
  starting : Bool
  sram : Mem
  sramPoison : Mem
  shape : Nat
  threads : List Thread
  scratch : Mem
  scratchPoison : Mem
  stakeA : Mem
  stakeS : Mem
  stakeAPoison : Mem
  stakeSPoison : Mem
  colScale : KV
  rowScale : KV
  rescale : Mem
  patterns : Mem
  deriving DecidableEq, Repr

/-- A job (R348). For a pipeline job (R358) `stage` is its pipeline and array stage (0 encoder, 1 probe selection and tables, 2 re-rank, 3 cross-encoder)
and `members` names the queries whose stage work it gathers; a job of a Run Job has neither. `st` is the state code of Table 14-12; `groups` are the policy
groups of its slots, `coefs` the values of ChurnGroups at its admission (R318), `rho` is its residency term of R356 and `started` the time of its first start step, `resumed` that of its last start or resume, and `runTime`
the run time up to its last pre-emption. -/
structure Job where
  id : Nat
  fn : Nat
  sq : Nat
  cid : Nat
  basket : Basket
  express : Bool
  digest : Bool
  resultAddr : Nat
  objects : List (Nat × Nat)
  groups : List Nat
  coefs : KV
  params : Bytes
  st : Nat
  pos : Nat
  admitted : Nat
  rho : Nat
  started : Nat
  resumed : Nat
  runTime : Nat
  saveStart : Nat
  window : Nat
  throttled : Bool
  output : Mem
  outPoison : Mem
  context : Option Context
  cells : Nat
  modeWord : Nat
  inputDigest : Bytes
  versions : List (Nat × Nat × Bytes)
  stage : Option (Nat × Nat)
  members : List (Nat × Nat × Nat)
  deriving DecidableEq, Repr

/-- A job output kept for Read Result (R64). -/
structure Output where
  job : Nat
  fn : Nat
  len : Nat
  data : Mem
  poison : Mem
  deriving DecidableEq, Repr

/-- Baskets, jobs and scheduling (chapter 14). `sinceTest` lists the jobs started since the last array test (Table 8-5). -/
structure Jobs where
  baskets : List Basket
  jobs : List Job
  stdQ : List Nat
  expQ : List Nat
  owner : Option Nat
  preempted : Option Nat
  preemptAsked : Bool
  nextJob : Nat
  outputs : List Output
  budgetUsed : KV
  threads : List Thread
  sinceTest : List Nat
  detNew : Option Bool
  detOrigin : Origin
  deriving DecidableEq, Repr

/-- A waiter on a synchronisation object: who, the operation code of Table 14-4, and its operand. -/
structure Waiter where
  who : SyncWho
  op : Nat
  n : Nat
  deriving DecidableEq, Repr

/-- A synchronisation object homed here, or a twin copy of one that the twin homes (Table 14-3, R337). `value` is the count, the event, the arrivals
or the counter; `mirrored` says that the twin's copy is as it stands. -/
structure SyncObj where
  no : Nat
  kind : Nat
  express : Bool
  value : Nat
  gen : Nat
  parts : Nat
  grants : Nat
  release : Nat
  waiters : List Waiter
  homed : Bool
  mirrored : Bool
  deriving DecidableEq, Repr

/-- Synchronisation objects and the values their operations returned, oldest first. -/
structure Sync where
  objs : List SyncObj
  results : List (SyncWho × Nat)
  deriving DecidableEq, Repr

/-- An item record of a list (R258, R259). `tomb` is its tombstone epoch, `writer` and `tombBy` are the numbers of the Ingests that
appended it and wrote its tombstone (R285). Its code, attributes and id stand in record `pos` of segment `seg`, its full vector in row `row` of
the index's full-vector object. -/
structure Item where
  list : Nat
  ordinal : Nat
  epoch : Nat
  id : Nat
  seg : Nat
  pos : Nat
  row : Nat
  tomb : Option Nat
  writer : Nat
  tombBy : Nat
  deriving DecidableEq, Repr

/-- An index (R256). `closing` is the epoch whose commit waits for its Ingests (R283). -/
structure Index where
  id : Nat
  layout : Nat
  columns : Nat
  centroids : Nat
  codebook : Nat
  grants : Nat
  encoder : Nat
  st : Nat
  committed : Nat
  opened : Nat
  closing : Option Nat
  dirty : Bool
  items : List Item
  nextOrdinal : KV
  segs : KV
  commitTime : Nat
  digests : List (Nat × Bytes)
  deriving DecidableEq, Repr

/-- An Ingest in progress: its number, its records not yet applied, and how many were applied (R284, R289). -/
structure Ingest where
  no : Nat
  fn : Nat
  sq : Nat
  cid : Nat
  index : Nat
  epoch : Nat
  records : List Bytes
  applied : Nat
  resultAddr : Nat
  throttled : Bool
  deriving DecidableEq, Repr

/-- A probe of a query: list, whether its table has arrived, the number of windows it has been carried past, its table and bias. -/
structure Probe where
  list : Nat
  node : Nat
  arrived : Bool
  carried : Nat
  scanning : Bool
  done : Bool
  table : Mem
  bias : Nat
  deriving DecidableEq, Repr

/-- A Query in progress (R264). `stage` is 2 n while array stage n waits to be gathered, 2 n + 1 while a pipeline job holds it, and 8 while its lists
are scanned (R358); `window` is the Express window it was charged to, and `tokens` the bytes of its token input (0 for a vector). `pipe` holds the pipeline's values at its admission by subindex, `vec` the query vector in FP32, `order`
the lists in coarse order, `probes` those probed so far; `pools` holds its pool on each channel engine until the engines' lists are merged (R268, R299),
`cands` the merged pool, both best first, `rawSet` names the (list, ordinal) of pool entries scored raw, `rounds` counts widening rounds and `detRounds` is their number fixed at admission (R398). -/
structure Query where
  fn : Nat
  sq : Nat
  cid : Nat
  pipeline : Nat
  pipe : KV
  index : Nat
  k : Nat
  pool : Nat
  epoch : Nat
  express : Bool
  digest : Bool
  deadline : Nat
  admitted : Nat
  resultAddr : Nat
  preds : List Bytes
  terms : List Nat
  noWiden : Bool
  nProbe : Nat
  input : Bytes
  tokens : Nat
  stage : Nat
  window : Nat
  vec : List Nat
  order : List Nat
  probes : List Probe
  pools : List (Nat × List Cand)
  cands : List Cand
  rawSet : List (Nat × Nat)
  rounds : Nat
  detRounds : Option Nat
  throttled : Bool
  modeWord : Nat
  inputDigest : Bytes
  versions : List (Nat × Nat × Bytes)
  pipeDigest : Bytes
  deriving DecidableEq, Repr

/-- A held query result (R63, R308). -/
structure Handle where
  handle : Nat
  fn : Nat
  ids : List Nat
  scores : List Nat
  deriving DecidableEq, Repr

/-- The retrieval engine (chapter 11). `pools` holds what channel-engine threads submitted: job, channel, pool and its entries, best
first (R293, R299). `given` counts the query handles each function has been given. -/
structure Retrieval where
  indexes : List Index
  ingests : List Ingest
  queries : List Query
  handles : List Handle
  given : KV
  nextIngest : Nat
  pools : List (Nat × Nat × Nat × List Cand)
  deriving DecidableEq, Repr

/-- A Churn table (R310, R311). Its planes live in the tiles of object 2^63 + 2^16 · id, and its count pages in the pages of the object
with the next id (DESIGN CHOICE, assumption 22); `groups` are the row groups allocated. -/
structure Table where
  id : Nat
  layout : Nat
  rows : Nat
  grants : Nat
  st : Nat
  groups : List Nat
  deriving DecidableEq, Repr

/-- A record of an Update or CHURN that is not yet applied: its place in the command, its bytes, the coefficients fixed at admission (R318), and
whether it waits for a fetch from T2. -/
structure URec where
  no : Nat
  bytes : Bytes
  coefs : List Nat
  waits : Bool
  deriving DecidableEq, Repr

/-- An Update or CHURN in progress, with its records not yet applied in their order. -/
structure Upd where
  fn : Nat
  sq : Nat
  cid : Nat
  table : Nat
  step : Nat
  records : List URec
  applied : Nat
  fetched : Nat
  resultAddr : Nat
  admitted : Nat
  fromJob : Bool
  throttled : Bool
  deriving DecidableEq, Repr

/-- The Churns (chapter 13). -/
structure Churns where
  tables : List Table
  updates : List Upd
  deriving DecidableEq, Repr

/-- The link layer of one port (R364 to R367): next sequence to send and to expect, the flits kept for replay, credits held by
virtual channel, and the fabric times of its last down events. -/
structure Port where
  no : Nat
  txSeq : Nat
  rxSeq : Nat
  replaying : Bool
  replay : List (Nat × List Msg)
  credits : KV
  owed : KV
  share : KV
  asym : Nat
  downs : List Nat
  cabled : Bool
  peer : Option Identity
  deriving DecidableEq, Repr

/-- A request of this node that has no Response yet: tag, destination, the message, who waits and in which job (0 for none), whether it was
reissued (R377),
and for an access to a placed tile on another node the object and tile, and the byte its part begins at.
`atomic` marks the mirror of an atomic of this home, whose old value `off` then is. -/
structure Request where
  tag : Nat
  dst : Nat
  msg : Msg
  who : SyncWho
  job : Nat
  issued : Nat
  reissued : Bool
  plane : Nat
  tile : Option (Nat × Nat)
  off : Nat
  atomic : Bool
  deriving DecidableEq, Repr

/-- A coordinate claim that arrived (R387): port and the coordinate it implies. -/
structure Claim where
  port : Nat
  x : Nat
  y : Nat
  z : Nat
  deriving DecidableEq, Repr

/-- A control flit as it is sent (R364, R365): the link header alone, which asks for a replay; identity (R386); a coordinate claim with the port it is sent on
(R387); a time exchange, whose measured stamps reach the model with TIME_EXCHANGE; isolation (R374); a retrain request. -/
inductive CtlFlit where
  | header
  | identity (i : Identity)
  | claim (x y z sentPort : Nat)
  | time
  | isolation
  | retrain
  deriving DecidableEq, Repr

/-- The Wyvas fabric and fabric time (chapter 15). `tx` holds (port, message) in the order sent, `held` those that wait for
a credit, `ctl` the control flits sent; `inject` holds the messages of this node (true for one to the twin ports) that a fabric injection
level of 0 holds back (R449); `rejoining` says that a fabric node reset is under way, `late` that this node joins a system that was ready before
(R390). -/
structure Wyvas where
  ports : List Port
  rx : List Msg
  tx : List (Nat × Msg)
  held : List (Nat × Msg)
  inject : List (Bool × Msg)
  ctl : List (Nat × CtlFlit)
  requests : List Request
  keptResp : List (Nat × Nat × Msg)
  nextTag : Nat
  notices : List (Nat × Nat)
  unavailable : List Nat
  lost : List Nat
  planesLost : List Nat
  claims : List Claim
  coord : Option (Nat × Nat × Nat)
  seedSerial : Option Nat
  weftCoord : Option (Nat × Nat × Nat)
  extents : Nat × Nat × Nat
  seed : Bool
  readyNodes : List Nat
  systemReady : Bool
  rejoining : Bool
  late : Bool
  everLocked : Bool
  deriving DecidableEq, Repr

/-- The state of the block. `time` is fabric time in nanoseconds (DESIGN CHOICE, assumption 3) and `free` counts the free values drawn
(DESIGN CHOICE, assumption 5). -/
structure State where
  pending : List Instr
  time : Nat
  free : Nat
  thr : Throttle
  pwr : Power
  dict : Dict
  mgmt : Mgmt
  fw : Firmware
  host : HostIf
  blk : Block
  nand : Nand
  tier : Tiers
  integ : Integrity
  arr : CellArray
  jobs : Jobs
  sync : Sync
  retr : Retrieval
  churn : Churns
  wyv : Wyvas
  deriving DecidableEq, Repr

/-- Why the machine stops with a fault. No command of this block does: the manual gives every command an effect or a status
(safe: nothing is proved from a stop). -/
inductive Fault where
  /-- Raised by no meaning; it keeps the type inhabited for the host's interface (safe). -/
  | unreachable
  deriving DecidableEq, Repr

/-- Why a command is refused a meaning. -/
inductive Refusal where
  /-- Raised by an arm of exec whose command has no meaning yet (safe: nothing is proved about it). -/
  | notModelled (mnemonic : String)
  deriving DecidableEq, Repr

/-- One controller before it is enabled. -/
def ctrlReset (n : Nat) : Ctrl :=
  { fn := n, enabled := false, ready := false, shst := 0, ams := 0, served := 0, spent := [], aers := [], armed := true, eventDue := false, errCount := 0,
    errLog := [], auditLog := [],
    flexQueues := 0, flexVectors := 0, wce := true, features := [] }

/-- One port before it trains: it holds no credit until its training. -/
def portReset (n : Nat) : Port :=
  { no := n, txSeq := 0, rxSeq := 0, replaying := false, replay := [], credits := [], owed := [], share := [], asym := 0, downs := [], cabled := false,
    peer := none }

/-- A store copy of a new module: every sector erased, with its header. -/
def storeReset : StoreCopy := { recs := [], tail := 0, cur := 0, used := 32, erases := [], unerased := [] }

/-- The image of bank A of a new module: a header that keeps Table 17-8, with version, security version and digests of zero (DESIGN CHOICE, assumption 1). -/
def factoryBank : Bank :=
  { header := natLE 4 0x53584647 ++ natLE 4 8192 ++ List.replicate 24 0 ++ natLE 4 8192 ++ List.replicate 92 0,
    digest := [], sig := some 0, commit := some 0 }

/-- Right after the start of the Hoop rail by a cold power-on: the input is present, PWR_EN is high by its pull-up (Table 2-2), the
main rails are off, every object is at its Reset value, and nothing is stored (DESIGN CHOICE, assumptions 1, 2 and 6). -/
def State.reset : State :=
  { pending := []
    time := 0
    free := 0
    thr := { fa := 16, prog := 0, fab := 0 }
    pwr := { inputPresent := true, overVoltageSeen := false, hoopPower := true, hoopRail := true, mainRails := false, pwrEn := true,
             railRestart := false, tripped := false, tripCycled := false, pwrEnLowAt := none, starting := true, booted := false, hoopTime := 0, ps := 0,
             lastOp := 0, psBeforeThermal := none, locateN := true, pwrLossCause := 0, hint := 0, cachingBarred := false, charging := true, bankBad := false, imageOk := true,
             pufOk := true }
    dict := { vals := [], held := [], refreshed := [], pendingWrite := none, queue := [], acting := [],
              lastStatus := 0, lastSub := 0 }
    mgmt := { tx := [], kept := [], dups := [], announceSeq := 0, relays := [], nextRelay := 0, beacon := true, smbFreq := 100,
              healthSeen := 0, smb := [], conns := [], spdm := [], straps := 7 }
    fw := { bankA := factoryBank,
            bankB := { header := [], digest := [], sig := none, commit := none },
            active := 0, staged := [], stagedBytes := 0, job := none, secA := [], secB := [], epochA := [], epochB := [],
            keys := [], seedKnown := true, trusted := true }
    host := { perst := false, linkUp := false, ctrls := (List.range 64).map ctrlReset, sqs := [], cqs := [], inflight := [],
              cqes := [], dma := [], relaxed := List.range 64, events := [], namespaces := [] }
    blk := { map := [], pail := [], nextSeq := 1, nextSb := 0, sbs := [], units := [], stripes := [], jbuf := [], segs := [], nextSeg := 0,
             committed := [], ckpts := [], ckptNew := none, dumpSet := [], merges := [], badLines := [], badStacks := [], victim := none, gcReads := [],
             gcBuf := [], urgent := [], credit := 0, moved := 0, hostQuarters := 0, programmed := 0, oneCopy := [], dumped := [],
             sanitize := none }
    nand := { pages := [], bbtA := { scanned := false, marks := [] }, bbtB := { scanned := false, marks := [] },
              bbtR := { scanned := false, recs := [] }, bbt := [], started := false, dieOps := [], reads := [], rebuilds := [], wear := [],
              readCount := [], readFloor := 0, savedCount := [], savedFloor := 0, deepReads := [], scans := [], corrected := [],
              decodes := [] }
    tier := { objects := [], tiles := [], regions := [], storeAus := [], pages := [], waits := [], coherentAus := [], window := [], windowPoison := [], stale := [] }
    integ := { store := { a := storeReset, b := storeReset, nextSeq := 1, commits := 0, snapshots := 0, failures := 0 }, log := [], stored := [], nextSeq := 1, retired := [], remap := [], failedStacks := [],
               coresOut := [], coreExpiries := [], hoopActive := 0, hoopFailed := [], refLost := false, failedRows := [],
               failedCells := [], alert := 0 }
    arr := { shape := 0, stakeA := [], stakeS := [], stakeAPoison := [], stakeSPoison := [], sram := [], poison := [], colScale := [], rowScale := [], rescale := [],
             patterns := [], testDue := false, testAsked := false, limitPending := false }
    jobs := { baskets := [], jobs := [], stdQ := [], expQ := [], owner := none, preempted := none, preemptAsked := false,
              nextJob := 1, outputs := [], budgetUsed := [], threads := [], sinceTest := [], detNew := none, detOrigin := .none }
    sync := { objs := [], results := [] }
    retr := { indexes := [], ingests := [], queries := [], handles := [], given := [], nextIngest := 1, pools := [] }
    churn := { tables := [], updates := [] }
    wyv := { ports := (List.range 14).map portReset, rx := [], tx := [], held := [], inject := [], ctl := [], requests := [], keptResp := [], nextTag := 0,
             notices := [], unavailable := [], lost := [], planesLost := [], claims := [], coord := none, seedSerial := none, weftCoord := none,
             extents := (1, 1, 1), seed := false, readyNodes := [], systemReady := false, rejoining := false, late := false, everLocked := false } }

end Sys2Proof.Machine
end

