-- ==== Sys2Proof/Machine/Mem.lean ====
section
/-! DEFINITION. Sparse byte memories and sparse tables of numbers, each in its one canonical form: keys strictly rising, and no
entry that equals what an unlisted key reads as. -/

namespace Sys2Proof.Machine

open Sys2Proof

/-- The number a table holds at `k`; an unlisted key reads as `d`. -/
def kvGet (d : Nat) : KV → Nat → Nat
  | [], _ => d
  | (a, v) :: m, k => if a == k then v else kvGet d m k

/-- Put an entry before the first greater key. -/
def kvIns : KV → Nat → Nat → KV
  | [], k, v => [(k, v)]
  | (a, x) :: m, k, v => if k < a then (k, v) :: (a, x) :: m else (a, x) :: kvIns m k v

/-- Write `v` at `k`; writing what an unlisted key reads as removes the entry. -/
def kvPut (d : Nat) (m : KV) (k v : Nat) : KV :=
  let r := m.filter fun e => e.1 != k
  if v == d then r else kvIns r k v

/-- The canonical form of a table: keys strictly rising. -/
def kvSorted : KV → Bool
  | [] => true
  | [_] => true
  | (a, _) :: (b, y) :: m => decide (a < b) && kvSorted ((b, y) :: m)

/-- The byte at an address; an unlisted address reads 00h. -/
def memByte : Mem → Nat → Byte
  | [], _ => 0
  | (a, v) :: m, k => if a == k then v else memByte m k

/-- Put a byte before the first greater address. -/
def memIns : Mem → Nat → Byte → Mem
  | [], k, v => [(k, v)]
  | (a, x) :: m, k, v => if k < a then (k, v) :: (a, x) :: m else (a, x) :: memIns m k v

/-- Write one byte, keeping the canonical form: writing 00h removes the entry. -/
def memPut (m : Mem) (k : Nat) (v : Byte) : Mem :=
  let r := m.filter fun c => c.1 != k
  if v == 0 then r else memIns r k v

/-- The canonical form of a memory: addresses strictly rising and no byte 00h listed. -/
def Mem.wf : Mem → Bool
  | [] => true
  | [(_, x)] => x != 0
  | (a, x) :: (b, y) :: m => decide (a < b) && x != 0 && Mem.wf ((b, y) :: m)

/-- Read `n` bytes from `a`. -/
def memRead (m : Mem) (a : Nat) : Nat → Bytes
  | 0 => []
  | n + 1 => memByte m a :: memRead m (a + 1) n

/-- Write a byte string at `a`. -/
def memWrite (m : Mem) (a : Nat) : Bytes → Mem
  | [] => m
  | b :: bs => memWrite (memPut m a b) (a + 1) bs

/-- Read a little-endian number of `n` bytes (R2). -/
def memNat (m : Mem) (a n : Nat) : Nat := leNat (memRead m a n)

/-- Write a little-endian number of `n` bytes (R2). -/
def memPutNat (m : Mem) (a n v : Nat) : Mem := memWrite m a (natLE n v)

/-- The bytes of a memory with addresses from `lo` to `hi - 1`, each moved down by `lo`. -/
def memSlice (m : Mem) (lo hi : Nat) : Mem :=
  (m.filter fun c => decide (lo ≤ c.1) && decide (c.1 < hi)).map fun c => (c.1 - lo, c.2)

/-- A memory without the addresses from `lo` to `hi - 1`. -/
def memClear (m : Mem) (lo hi : Nat) : Mem :=
  m.filter fun c => !(decide (lo ≤ c.1) && decide (c.1 < hi))

/-- Copy `src` (addresses from 0) over `m` at `lo`, replacing `n` bytes. -/
def memOver (m : Mem) (lo n : Nat) (src : Mem) : Mem :=
  (src.filter fun c => decide (c.1 < n)).foldl (fun m c => memPut m (lo + c.1) c.2) (memClear m lo (lo + n))

/-- The memory that holds a byte string from address `a` on and nothing else. -/
def memFrom (a : Nat) : Bytes → Mem
  | [] => []
  | b :: bs => if b == 0 then memFrom (a + 1) bs else (a, b) :: memFrom (a + 1) bs

/-- The memory that holds a byte string from address 0. -/
def memOf (bs : Bytes) : Mem := memFrom 0 bs

/-- Does any byte of `n` from `a` differ from 00h? -/
def memAny (m : Mem) (a n : Nat) : Bool := m.any fun c => decide (a ≤ c.1) && decide (c.1 < a + n)

/-- Replace each element that satisfies `p`. -/
def updWhere {α : Type} (p : α → Bool) (f : α → α) (l : List α) : List α := l.map fun x => if p x then f x else x

/-- Bytes of a list from `a`, padded with 00h to `n`. -/
def slice (bs : Bytes) (a n : Nat) : Bytes :=
  let x := (bs.drop a).take n
  x ++ List.replicate (n - x.length) 0

/-- A little-endian field of a byte string: `n` bytes from `a`. -/
def field (bs : Bytes) (a n : Nat) : Nat := leNat ((bs.drop a).take n)

end Sys2Proof.Machine
end

