-- ==== Sys2Proof/Machine/Objects.lean ====
section
/-! DEFINITION. The object dictionary's tables, one row per subindex or run of subindices, and the reading and writing of single
values (chapter 4 and the object tables of every chapter). -/

namespace Sys2Proof.Machine

open Sys2Proof

/-- The access classes of R81. -/
inductive Acc where
  | ro | rw | wo | rws | const
  deriving DecidableEq, Repr

/-- What a value survives as (R83, R417, R418): P, K, CONST, a Hoop-lifetime count, the groups of R418, and the values restored
from their source. -/
inductive Grp where
  | p | k | fixed | life | hoop | host | storage | compute | fabric | source
  deriving DecidableEq, Repr

/-- A row of an object table: the indices `lo`, `lo + step`, … `hi`; subindices `slo` to `shi`; the type code and bytes of
Table 4-1; access; survival; whether the object is an array; the Reset value; and the values the table allows. -/
structure ObjRow where
  lo : Nat
  hi : Nat
  step : Nat
  slo : Nat
  shi : Nat
  code : Nat
  size : Nat
  acc : Acc
  grp : Grp
  arr : Bool
  reset : Nat
  vmin : Nat
  vmax : Nat
  deriving DecidableEq, Repr

/-- The object tables of the range 1000h. -/
def objRows10 : List ObjRow :=
  [⟨0x1000, 0x1000, 0x1, 1, 1, 9, 16, .const, .fixed, false, 0x787569726153, 0, 0⟩,
   ⟨0x1000, 0x1000, 0x1, 2, 2, 9, 16, .const, .fixed, false, 0x6E6F67756E6C6F44, 0, 0⟩,
   ⟨0x1000, 0x1000, 0x1, 3, 3, 9, 16, .const, .fixed, false, 0x303832314744, 0, 0⟩,
   ⟨0x1000, 0x1000, 0x1, 4, 4, 9, 16, .const, .fixed, false, 0x3038323147442D5853, 0, 0⟩,
   ⟨0x1000, 0x1000, 0x1, 5, 5, 9, 20, .const, .fixed, false, 0, 0, 0⟩,
   ⟨0x1000, 0x1000, 0x1, 6, 6, 2, 2, .const, .fixed, false, 0, 0, 0xFFFF⟩,
   ⟨0x1000, 0x1000, 0x1, 7, 7, 10, 6, .const, .fixed, false, 0, 0, 0xFFFFFFFFFFFF⟩,
   ⟨0x1000, 0x1000, 0x1, 8, 8, 3, 4, .const, .fixed, false, 0, 0, 0xFFFFFFFF⟩,
   ⟨0x1000, 0x1000, 0x1, 9, 9, 10, 32, .const, .fixed, false, 0, 0, 0⟩,
   ⟨0x1001, 0x1001, 0x1, 1, 1, 1, 1, .ro, .source, false, 0, 0, 0xFF⟩,
   ⟨0x1001, 0x1001, 0x1, 2, 2, 9, 16, .ro, .source, false, 0, 0, 0⟩,
   ⟨0x1001, 0x1001, 0x1, 3, 3, 9, 16, .ro, .source, false, 0, 0, 0⟩,
   ⟨0x1001, 0x1001, 0x1, 4, 4, 1, 1, .rws, .p, false, 0, 0, 1⟩,
   ⟨0x1001, 0x1001, 0x1, 5, 5, 3, 4, .ro, .source, false, 0, 0, 0xFFFFFFFF⟩,
   ⟨0x1002, 0x1002, 0x1, 1, 1, 2, 2, .const, .fixed, false, 256, 0, 0xFFFF⟩,
   ⟨0x1002, 0x1002, 0x1, 2, 2, 2, 2, .ro, .source, false, 0, 0, 0xFFFF⟩,
   ⟨0x1002, 0x1002, 0x1, 3, 3, 1, 1, .const, .fixed, false, 1, 0, 0xFF⟩,
   ⟨0x1010, 0x1010, 0x1, 1, 1, 1, 1, .ro, .hoop, false, 0, 0, 0xFF⟩,
   ⟨0x1010, 0x1010, 0x1, 2, 2, 3, 4, .ro, .hoop, false, 0, 0, 0xFFFFFFFF⟩,
   ⟨0x1010, 0x1010, 0x1, 3, 3, 3, 4, .ro, .life, false, 0, 0, 0xFFFFFFFF⟩,
   ⟨0x1010, 0x1010, 0x1, 4, 4, 3, 4, .ro, .k, false, 0, 0, 0xFFFFFFFF⟩,
   ⟨0x1010, 0x1010, 0x1, 5, 5, 1, 1, .ro, .k, false, 0, 0, 0xFF⟩,
   ⟨0x1020, 0x1020, 0x1, 1, 1, 3, 4, .ro, .life, false, 0, 0, 0xFFFFFFFF⟩,
   ⟨0x1020, 0x1020, 0x1, 2, 2, 3, 4, .ro, .hoop, false, 0, 0, 0xFFFFFFFF⟩,
   ⟨0x1020, 0x1020, 0x1, 3, 3, 3, 4, .ro, .life, false, 0, 0, 0xFFFFFFFF⟩,
   ⟨0x1020, 0x1020, 0x1, 4, 4, 3, 4, .ro, .life, false, 0, 0, 0xFFFFFFFF⟩,
   ⟨0x1030, 0x1030, 0x1, 1, 1, 9, 32, .rws, .p, false, 0, 0, 0⟩,
   ⟨0x1030, 0x1030, 0x1, 2, 2, 9, 32, .rws, .p, false, 0, 0, 0⟩]

/-- The object tables of the range 1100h. -/
def objRows11 : List ObjRow :=
  [⟨0x1110, 0x1110, 0x1, 1, 1, 1, 1, .ro, .source, false, 0, 0, 0xFF⟩,
   ⟨0x1110, 0x1110, 0x1, 2, 2, 1, 1, .rws, .p, false, 9, 2, 9⟩,
   ⟨0x1110, 0x1110, 0x1, 3, 3, 3, 4, .ro, .life, false, 0, 0, 0xFFFFFFFF⟩,
   ⟨0x1110, 0x1110, 0x1, 4, 4, 8, 1, .ro, .hoop, false, 0, 0, 1⟩,
   ⟨0x1100, 0x1100, 0x1, 1, 1, 3, 4, .ro, .life, false, 0, 0, 0xFFFFFFFF⟩,
   ⟨0x1100, 0x1100, 0x1, 2, 2, 3, 4, .ro, .life, false, 0, 0, 0xFFFFFFFF⟩,
   ⟨0x1100, 0x1100, 0x1, 3, 3, 3, 4, .ro, .life, false, 0, 0, 0xFFFFFFFF⟩,
   ⟨0x1100, 0x1100, 0x1, 4, 4, 2, 2, .rws, .p, false, 1000, 100, 10000⟩]

/-- The object tables of the range 1200h. -/
def objRows12 : List ObjRow :=
  [⟨0x1200, 0x1200, 0x1, 1, 1, 1, 1, .ro, .host, false, 0, 0, 0xFF⟩,
   ⟨0x1200, 0x1200, 0x1, 2, 2, 1, 1, .ro, .host, false, 0, 0, 0xFF⟩,
   ⟨0x1200, 0x1200, 0x1, 3, 3, 8, 1, .ro, .host, false, 0, 0, 1⟩,
   ⟨0x1200, 0x1200, 0x1, 4, 4, 8, 1, .ro, .host, false, 0, 0, 1⟩,
   ⟨0x1200, 0x1200, 0x1, 5, 5, 3, 4, .ro, .life, false, 0, 0, 0xFFFFFFFF⟩,
   ⟨0x1210, 0x1210, 0x1, 1, 1, 8, 1, .ro, .host, false, 0, 0, 1⟩,
   ⟨0x1210, 0x1210, 0x1, 2, 2, 8, 1, .ro, .host, false, 0, 0, 1⟩,
   ⟨0x1210, 0x1210, 0x1, 3, 3, 1, 1, .ro, .host, false, 0, 0, 0xFF⟩]

/-- The object tables of the range 1300h. -/
def objRows13 : List ObjRow :=
  [⟨0x1330, 0x1330, 0x1, 1, 1, 3, 4, .ro, .hoop, false, 0, 0, 0xFFFFFFFF⟩,
   ⟨0x1330, 0x1330, 0x1, 2, 2, 3, 4, .ro, .hoop, false, 0, 0, 0xFFFFFFFF⟩,
   ⟨0x1330, 0x1330, 0x1, 3, 3, 1, 1, .ro, .hoop, false, 0, 0, 0xFF⟩,
   ⟨0x1330, 0x1330, 0x1, 4, 4, 1, 1, .ro, .source, false, 0, 0, 0xFF⟩,
   ⟨0x1330, 0x1330, 0x1, 5, 5, 1, 1, .ro, .hoop, false, 16, 0, 0xFF⟩,
   ⟨0x1320, 0x1320, 0x1, 1, 1, 3, 4, .ro, .hoop, false, 0, 0, 0xFFFFFFFF⟩,
   ⟨0x1320, 0x1320, 0x1, 2, 2, 8, 1, .ro, .hoop, false, 0, 0, 1⟩,
   ⟨0x1320, 0x1320, 0x1, 3, 3, 4, 8, .ro, .hoop, false, 0, 0, 0xFFFFFFFFFFFFFFFF⟩,
   ⟨0x1320, 0x1320, 0x1, 4, 4, 8, 1, .ro, .hoop, false, 0, 0, 1⟩,
   ⟨0x1310, 0x1310, 0x1, 1, 116, 5, 4, .ro, .hoop, false, 0, 0, 0xFFFFFFFF⟩,
   ⟨0x1310, 0x1310, 0x1, 117, 117, 3, 4, .ro, .hoop, false, 0, 0, 0xFFFFFFFF⟩,
   ⟨0x1340, 0x1340, 0x1, 1, 1, 8, 1, .rw, .hoop, false, 0, 0, 1⟩,
   ⟨0x1300, 0x1300, 0x1, 1, 1, 1, 1, .ro, .k, false, 0, 0, 0xFF⟩,
   ⟨0x1300, 0x1300, 0x1, 2, 2, 4, 8, .ro, .k, false, 0, 0, 0xFFFFFFFFFFFFFFFF⟩,
   ⟨0x1300, 0x1300, 0x1, 3, 3, 3, 4, .ro, .k, false, 0, 0, 0xFFFFFFFF⟩,
   ⟨0x1300, 0x1300, 0x1, 4, 4, 1, 1, .ro, .hoop, false, 0, 0, 0xFF⟩,
   ⟨0x1300, 0x1300, 0x1, 5, 5, 3, 4, .ro, .hoop, false, 0, 0, 0xFFFFFFFF⟩,
   ⟨0x1301, 0x1301, 0x1, 1, 1, 1, 1, .rws, .hoop, false, 0, 0, 2⟩,
   ⟨0x1302, 0x1302, 0x1, 1, 1, 2, 2, .rws, .p, false, 1000, 100, 10000⟩,
   ⟨0x1302, 0x1302, 0x1, 2, 2, 3, 4, .ro, .k, false, 0, 0, 0xFFFFFFFF⟩,
   ⟨0x1350, 0x1350, 0x1, 1, 1, 3, 4, .ro, .source, false, 0, 0, 0xFFFFFFFF⟩,
   ⟨0x1350, 0x1350, 0x1, 2, 2, 3, 4, .ro, .source, false, 0, 0, 0xFFFFFFFF⟩,
   ⟨0x1350, 0x1350, 0x1, 3, 3, 3, 4, .ro, .source, false, 0, 0, 0xFFFFFFFF⟩,
   ⟨0x1350, 0x1350, 0x1, 4, 4, 1, 1, .ro, .source, false, 0, 0, 0xFF⟩,
   ⟨0x1360, 0x1360, 0x1, 1, 1, 1, 1, .ro, .hoop, false, 0, 0, 0xFF⟩,
   ⟨0x1360, 0x1360, 0x1, 2, 2, 3, 4, .ro, .hoop, false, 0, 0, 0xFFFFFFFF⟩,
   ⟨0x1360, 0x1360, 0x1, 3, 3, 1, 1, .ro, .source, false, 0, 0, 0xFF⟩]

/-- The object tables of the range 1400h. -/
def objRows14 : List ObjRow :=
  [⟨0x1400, 0x1400, 0x1, 1, 1, 1, 1, .ro, .hoop, false, 0, 0, 0xFF⟩,
   ⟨0x1400, 0x1400, 0x1, 2, 2, 10, 32, .const, .fixed, false, 0, 0, 0⟩,
   ⟨0x1400, 0x1400, 0x1, 3, 3, 10, 32, .ro, .hoop, false, 0, 0, 0⟩,
   ⟨0x1400, 0x1400, 0x1, 4, 4, 1, 1, .ro, .hoop, false, 0, 0, 0xFF⟩,
   ⟨0x1400, 0x1400, 0x1, 5, 5, 3, 4, .ro, .life, false, 0, 0, 0xFFFFFFFF⟩,
   ⟨0x1401, 0x1401, 0x1, 1, 1, 3, 4, .ro, .source, false, 0, 0, 0xFFFFFFFF⟩,
   ⟨0x1401, 0x1401, 0x1, 2, 2, 2, 2, .ro, .source, false, 0, 0, 0xFFFF⟩,
   ⟨0x1401, 0x1401, 0x1, 3, 3, 1, 1, .rws, .hoop, false, 0, 0, 1⟩,
   ⟨0x1402, 0x1402, 0x1, 1, 1, 1, 1, .const, .fixed, false, 1, 0, 0xFF⟩,
   ⟨0x1402, 0x1402, 0x1, 2, 2, 3, 4, .ro, .source, false, 0, 0, 0xFFFFFFFF⟩,
   ⟨0x1402, 0x1402, 0x1, 3, 3, 2, 2, .ro, .source, false, 0, 0, 0xFFFF⟩,
   ⟨0x1402, 0x1402, 0x1, 4, 4, 1, 1, .ro, .source, false, 0, 0, 0xFF⟩,
   ⟨0x1402, 0x1402, 0x1, 5, 5, 4, 8, .ro, .source, false, 0, 0, 0xFFFFFFFFFFFFFFFF⟩,
   ⟨0x1410, 0x1410, 0x1, 1, 1, 1, 1, .rws, .p, false, 0, 0, 1⟩,
   ⟨0x1410, 0x1410, 0x1, 2, 2, 4, 8, .ro, .hoop, false, 0, 0, 0xFFFFFFFFFFFFFFFF⟩,
   ⟨0x1410, 0x1410, 0x1, 3, 3, 10, 32, .wo, .p, false, 0, 0, 0⟩,
   ⟨0x1410, 0x1410, 0x1, 4, 4, 10, 32, .wo, .p, false, 0, 0, 0⟩,
   ⟨0x1410, 0x1410, 0x1, 5, 5, 4, 8, .ro, .hoop, false, 0, 0, 0xFFFFFFFFFFFFFFFF⟩,
   ⟨0x1410, 0x1410, 0x1, 6, 6, 4, 8, .ro, .hoop, false, 0, 0, 0xFFFFFFFFFFFFFFFF⟩,
   ⟨0x1410, 0x1410, 0x1, 7, 7, 3, 4, .ro, .life, false, 0, 0, 0xFFFFFFFF⟩,
   ⟨0x1410, 0x1410, 0x1, 8, 8, 8, 1, .rws, .p, false, 0, 0, 1⟩]

/-- The object tables of the range 2000h. -/
def objRows20 : List ObjRow :=
  [⟨0x2000, 0x2000, 0x1, 1, 1, 1, 1, .const, .fixed, false, 64, 0, 0xFF⟩,
   ⟨0x2000, 0x2000, 0x1, 2, 2, 1, 1, .const, .fixed, false, 20, 0, 0xFF⟩,
   ⟨0x2000, 0x2000, 0x1, 3, 3, 1, 1, .const, .fixed, false, 4, 0, 0xFF⟩,
   ⟨0x2000, 0x2000, 0x1, 4, 4, 2, 2, .const, .fixed, false, 2730, 0, 0xFFFF⟩,
   ⟨0x2000, 0x2000, 0x1, 5, 5, 2, 2, .const, .fixed, false, 1536, 0, 0xFFFF⟩,
   ⟨0x2000, 0x2000, 0x1, 6, 6, 3, 4, .const, .fixed, false, 0x4000, 0, 0xFFFFFFFF⟩,
   ⟨0x2000, 0x2000, 0x1, 7, 7, 2, 2, .const, .fixed, false, 2048, 0, 0xFFFF⟩,
   ⟨0x2001, 0x2001, 0x1, 1, 1, 3, 4, .const, .fixed, true, 0xEA60, 0, 0xFFFFFFFF⟩,
   ⟨0x2001, 0x2001, 0x1, 2, 2, 3, 4, .const, .fixed, true, 2880, 0, 0xFFFFFFFF⟩,
   ⟨0x2001, 0x2001, 0x1, 3, 3, 3, 4, .const, .fixed, true, 0xF4240, 0, 0xFFFFFFFF⟩,
   ⟨0x2001, 0x2001, 0x1, 4, 4, 3, 4, .const, .fixed, true, 0xB71B00, 0, 0xFFFFFFFF⟩,
   ⟨0x2001, 0x2001, 0x1, 5, 5, 3, 4, .const, .fixed, true, 0x9C40, 0, 0xFFFFFFFF⟩,
   ⟨0x2001, 0x2001, 0x1, 6, 6, 3, 4, .const, .fixed, true, 0x7530, 0, 0xFFFFFFFF⟩,
   ⟨0x2001, 0x2001, 0x1, 7, 7, 3, 4, .const, .fixed, true, 0xF618, 0, 0xFFFFFFFF⟩,
   ⟨0x2002, 0x2002, 0x1, 1, 1, 3, 4, .rws, .p, false, 200, 100, 2000⟩,
   ⟨0x2002, 0x2002, 0x1, 2, 2, 3, 4, .rws, .p, false, 100, 50, 1000⟩,
   ⟨0x2002, 0x2002, 0x1, 3, 3, 3, 4, .rws, .p, false, 300, 100, 1000⟩,
   ⟨0x2003, 0x2003, 0x1, 1, 1, 2, 2, .rws, .p, false, 40, 0, 120⟩,
   ⟨0x2010, 0x2010, 0x1, 1, 64, 1, 1, .ro, .storage, true, 1, 0, 0xFF⟩,
   ⟨0x2011, 0x2015, 0x1, 1, 240, 1, 1, .ro, .storage, true, 0, 0, 0xFF⟩,
   ⟨0x2016, 0x2016, 0x1, 1, 80, 1, 1, .ro, .storage, true, 0, 0, 0xFF⟩,
   ⟨0x2020, 0x2020, 0x1, 1, 1, 3, 4, .ro, .source, false, 0, 0, 0xFFFFFFFF⟩,
   ⟨0x2020, 0x2020, 0x1, 2, 2, 3, 4, .ro, .source, false, 0, 0, 0xFFFFFFFF⟩,
   ⟨0x2020, 0x2020, 0x1, 3, 3, 2, 2, .ro, .source, false, 0, 0, 0xFFFF⟩,
   ⟨0x2020, 0x2020, 0x1, 4, 4, 3, 4, .ro, .life, false, 0, 0, 0xFFFFFFFF⟩,
   ⟨0x2040, 0x2040, 0x1, 1, 4, 4, 8, .ro, .life, false, 0, 0, 0xFFFFFFFFFFFFFFFF⟩,
   ⟨0x2040, 0x2040, 0x1, 5, 5, 4, 8, .ro, .life, false, 0, 0, 0xFFFFFFFFFFFFFFFF⟩,
   ⟨0x2030, 0x2030, 0x1, 1, 1, 1, 1, .ro, .storage, false, 0, 0, 0xFF⟩,
   ⟨0x2030, 0x2030, 0x1, 2, 2, 3, 4, .ro, .life, false, 0, 0, 0xFFFFFFFF⟩,
   ⟨0x2030, 0x2030, 0x1, 3, 3, 3, 4, .ro, .life, false, 0, 0, 0xFFFFFFFF⟩,
   ⟨0x2050, 0x2050, 0x1, 1, 1, 3, 4, .ro, .life, false, 0, 0, 0xFFFFFFFF⟩,
   ⟨0x2050, 0x2050, 0x1, 2, 2, 3, 4, .ro, .source, false, 0, 0, 0xFFFFFFFF⟩,
   ⟨0x2050, 0x2050, 0x1, 3, 3, 3, 4, .ro, .source, false, 0, 0, 0xFFFFFFFF⟩,
   ⟨0x2050, 0x2050, 0x1, 4, 4, 8, 1, .ro, .storage, false, 0, 0, 1⟩]

/-- The object tables of the range 2100h. -/
def objRows21 : List ObjRow :=
  [⟨0x2100, 0x2100, 0x1, 1, 1, 4, 8, .ro, .source, false, 0, 0, 0xFFFFFFFFFFFFFFFF⟩,
   ⟨0x2100, 0x2100, 0x1, 2, 2, 4, 8, .ro, .source, false, 0, 0, 0xFFFFFFFFFFFFFFFF⟩,
   ⟨0x2100, 0x2100, 0x1, 3, 3, 1, 1, .ro, .source, false, 0, 0, 0xFF⟩,
   ⟨0x2100, 0x2100, 0x1, 4, 4, 4, 8, .ro, .source, false, 0, 0, 0xFFFFFFFFFFFFFFFF⟩,
   ⟨0x2101, 0x2101, 0x1, 1, 1, 3, 4, .rws, .p, false, 2000, 500, 10000⟩,
   ⟨0x2102, 0x2102, 0x1, 1, 1, 3, 4, .rws, .p, false, 3600, 0, 0xFFFFFFFF⟩,
   ⟨0x2102, 0x2102, 0x1, 2, 2, 3, 4, .rws, .p, false, 0x15180, 0, 0xFFFFFFFF⟩,
   ⟨0x2102, 0x2102, 0x1, 3, 3, 3, 4, .rws, .p, false, 0x278D00, 0, 0xFFFFFFFF⟩,
   ⟨0x2103, 0x2103, 0x1, 1, 5, 1, 1, .ro, .storage, true, 0, 0, 0xFF⟩,
   ⟨0x2104, 0x2104, 0x1, 1, 1, 2, 2, .rws, .p, false, 64, 32, 1024⟩,
   ⟨0x2104, 0x2104, 0x1, 2, 2, 2, 2, .rws, .p, false, 16, 8, 1023⟩,
   ⟨0x2104, 0x2104, 0x1, 3, 3, 3, 4, .ro, .source, false, 0, 0, 0xFFFFFFFF⟩,
   ⟨0x2110, 0x2110, 0x1, 1, 1, 3, 4, .ro, .storage, false, 0, 0, 0xFFFFFFFF⟩,
   ⟨0x2110, 0x2110, 0x1, 2, 2, 8, 1, .ro, .storage, false, 0, 0, 1⟩,
   ⟨0x2110, 0x2110, 0x1, 3, 3, 2, 2, .ro, .storage, false, 0, 0, 0xFFFF⟩,
   ⟨0x2110, 0x2110, 0x1, 4, 4, 8, 1, .ro, .storage, false, 0, 0, 1⟩,
   ⟨0x2120, 0x2120, 0x1, 1, 1, 2, 2, .rws, .p, false, 168, 24, 720⟩,
   ⟨0x2120, 0x2120, 0x1, 2, 2, 3, 4, .rws, .p, false, 0x13880, 10000, 500000⟩,
   ⟨0x2120, 0x2120, 0x1, 3, 3, 2, 2, .rws, .p, false, 150, 0, 0xFFFF⟩,
   ⟨0x2120, 0x2120, 0x1, 4, 4, 4, 8, .ro, .source, false, 0, 0, 0xFFFFFFFFFFFFFFFF⟩,
   ⟨0x2120, 0x2120, 0x1, 5, 5, 4, 8, .ro, .life, false, 0, 0, 0xFFFFFFFFFFFFFFFF⟩,
   ⟨0x2130, 0x2130, 0x1, 1, 1, 3, 4, .ro, .source, false, 0, 0, 0xFFFFFFFF⟩,
   ⟨0x2130, 0x2130, 0x1, 2, 2, 3, 4, .ro, .source, false, 0, 0, 0xFFFFFFFF⟩,
   ⟨0x2130, 0x2130, 0x1, 3, 3, 3, 4, .const, .fixed, false, 5000, 0, 0xFFFFFFFF⟩,
   ⟨0x2130, 0x2130, 0x1, 4, 4, 4, 8, .ro, .source, false, 0, 0, 0xFFFFFFFFFFFFFFFF⟩,
   ⟨0x2130, 0x2130, 0x1, 5, 5, 3, 4, .ro, .source, false, 0, 0, 0xFFFFFFFF⟩,
   ⟨0x2140, 0x2140, 0x1, 1, 1, 2, 2, .rws, .p, false, 10, 5, 100⟩,
   ⟨0x2140, 0x2140, 0x1, 2, 2, 8, 1, .ro, .source, false, 0, 0, 1⟩]

/-- The object tables of the range 2200h. -/
def objRows22 : List ObjRow :=
  [⟨0x2200, 0x2200, 0x1, 1, 1, 3, 4, .ro, .storage, false, 0, 0, 0xFFFFFFFF⟩,
   ⟨0x2200, 0x2200, 0x1, 2, 2, 3, 4, .ro, .storage, false, 0, 0, 0xFFFFFFFF⟩,
   ⟨0x2200, 0x2200, 0x1, 3, 3, 3, 4, .ro, .storage, false, 0, 0, 0xFFFFFFFF⟩,
   ⟨0x2200, 0x2200, 0x1, 4, 4, 3, 4, .ro, .storage, false, 0, 0, 0xFFFFFFFF⟩,
   ⟨0x2200, 0x2200, 0x1, 5, 5, 3, 4, .ro, .storage, false, 0, 0, 0xFFFFFFFF⟩,
   ⟨0x2200, 0x2200, 0x1, 6, 6, 4, 8, .ro, .storage, false, 0, 0, 0xFFFFFFFFFFFFFFFF⟩,
   ⟨0x2201, 0x2201, 0x1, 1, 1, 1, 1, .rws, .p, false, 30, 0, 80⟩,
   ⟨0x2201, 0x2201, 0x1, 2, 2, 3, 4, .rws, .p, false, 1000, 100, 60000⟩,
   ⟨0x2201, 0x2201, 0x1, 3, 3, 1, 1, .rws, .p, false, 10, 1, 50⟩,
   ⟨0x2201, 0x2201, 0x1, 4, 4, 3, 4, .rws, .p, false, 60, 1, 3600⟩,
   ⟨0x2201, 0x2201, 0x1, 5, 5, 3, 4, .rws, .p, false, 10, 1, 1000⟩,
   ⟨0x2201, 0x2201, 0x1, 6, 6, 3, 4, .rws, .p, false, 2000, 100, 1000000⟩,
   ⟨0x2202, 0x2202, 0x1, 1, 1, 4, 8, .ro, .life, false, 0, 0, 0xFFFFFFFFFFFFFFFF⟩,
   ⟨0x2202, 0x2202, 0x1, 2, 2, 4, 8, .ro, .life, false, 0, 0, 0xFFFFFFFFFFFFFFFF⟩,
   ⟨0x2202, 0x2202, 0x1, 3, 3, 3, 4, .ro, .storage, false, 0, 0, 0xFFFFFFFF⟩,
   ⟨0x2202, 0x2202, 0x1, 4, 4, 4, 8, .ro, .life, false, 0, 0, 0xFFFFFFFFFFFFFFFF⟩,
   ⟨0x2202, 0x2202, 0x1, 5, 5, 8, 1, .ro, .storage, false, 0, 0, 1⟩,
   ⟨0x2210, 0x221F, 0x1, 1, 1, 1, 1, .rws, .p, false, 0, 0, 31⟩,
   ⟨0x2210, 0x221F, 0x1, 2, 2, 1, 1, .rws, .p, false, 31, 0, 31⟩,
   ⟨0x2210, 0x221F, 0x1, 3, 3, 1, 1, .rws, .p, false, 0, 0, 31⟩,
   ⟨0x2210, 0x221F, 0x1, 4, 4, 1, 1, .rws, .p, false, 31, 0, 31⟩,
   ⟨0x2210, 0x221F, 0x1, 5, 5, 1, 1, .rws, .p, false, 0, 0, 19⟩,
   ⟨0x2210, 0x221F, 0x1, 6, 6, 1, 1, .rws, .p, false, 19, 0, 19⟩,
   ⟨0x2210, 0x221F, 0x1, 7, 7, 1, 1, .rws, .p, false, 4, 1, 8⟩,
   ⟨0x2210, 0x221F, 0x1, 8, 8, 2, 2, .rws, .p, false, 0, 0, 207⟩,
   ⟨0x2210, 0x221F, 0x1, 9, 9, 3, 4, .ro, .storage, false, 0, 0, 0xFFFFFFFF⟩,
   ⟨0x2230, 0x2230, 0x1, 1, 1, 1, 1, .rws, .storage, false, 0, 0, 254⟩,
   ⟨0x2230, 0x2230, 0x1, 2, 2, 3, 4, .rws, .storage, false, 0, 0, 4294967295⟩,
   ⟨0x2230, 0x2230, 0x1, 3, 3, 1, 1, .rws, .storage, false, 0, 0, 3⟩,
   ⟨0x2240, 0x2241, 0x1, 1, 128, 4, 8, .ro, .storage, true, 0, 0, 0xFFFFFFFFFFFFFFFF⟩]

/-- The object tables of the range 2300h. -/
def objRows23 : List ObjRow :=
  [⟨0x2300, 0x2300, 0x1, 1, 1, 2, 2, .rws, .p, false, 12, 1, 168⟩,
   ⟨0x2300, 0x2300, 0x1, 2, 2, 2, 2, .rws, .p, false, 600, 60, 3600⟩,
   ⟨0x2300, 0x2300, 0x1, 3, 3, 2, 2, .rws, .p, false, 240, 192, 256⟩,
   ⟨0x2300, 0x2300, 0x1, 4, 4, 1, 1, .rws, .p, false, 63, 56, 64⟩,
   ⟨0x2300, 0x2300, 0x1, 5, 5, 2, 2, .rws, .p, false, 100, 10, 1000⟩,
   ⟨0x2302, 0x2302, 0x1, 1, 1, 4, 8, .ro, .life, false, 0, 0, 0xFFFFFFFFFFFFFFFF⟩,
   ⟨0x2302, 0x2302, 0x1, 2, 2, 4, 8, .ro, .life, false, 0, 0, 0xFFFFFFFFFFFFFFFF⟩,
   ⟨0x2302, 0x2302, 0x1, 3, 3, 4, 8, .ro, .life, false, 0, 0, 0xFFFFFFFFFFFFFFFF⟩,
   ⟨0x2302, 0x2302, 0x1, 4, 4, 4, 8, .ro, .life, false, 0, 0, 0xFFFFFFFFFFFFFFFF⟩,
   ⟨0x2302, 0x2302, 0x1, 5, 5, 2, 2, .ro, .storage, false, 256, 0, 0xFFFF⟩,
   ⟨0x2302, 0x2302, 0x1, 6, 6, 1, 1, .ro, .storage, false, 64, 0, 0xFF⟩,
   ⟨0x2302, 0x2302, 0x1, 7, 7, 1, 1, .ro, .storage, false, 16, 0, 0xFF⟩,
   ⟨0x2302, 0x2302, 0x1, 8, 8, 3, 4, .ro, .storage, false, 0, 0, 0xFFFFFFFF⟩,
   ⟨0x2302, 0x2302, 0x1, 9, 9, 4, 8, .ro, .storage, false, 0, 0, 0xFFFFFFFFFFFFFFFF⟩,
   ⟨0x2302, 0x2302, 0x1, 10, 10, 2, 2, .ro, .storage, false, 0, 0, 0xFFFF⟩,
   ⟨0x2302, 0x2302, 0x1, 11, 11, 1, 1, .ro, .storage, false, 0, 0, 0xFF⟩,
   ⟨0x2303, 0x2303, 0x1, 1, 1, 3, 4, .ro, .storage, false, 0, 0, 0xFFFFFFFF⟩,
   ⟨0x2310, 0x2310, 0x1, 1, 1, 4, 8, .rws, .storage, false, 0, 0, 0xFFFFFFFFFFFFFFFF⟩,
   ⟨0x2310, 0x2310, 0x1, 2, 2, 1, 1, .rws, .storage, false, 0, 0, 2⟩,
   ⟨0x2311, 0x2311, 0x1, 1, 8, 2, 2, .ro, .source, true, 0, 0, 0xFFFF⟩,
   ⟨0x2320, 0x2320, 0x1, 1, 1, 8, 1, .rws, .storage, false, 0, 0, 1⟩]

/-- The object tables of the range 3000h. -/
def objRows30 : List ObjRow :=
  [⟨0x3000, 0x3000, 0x1, 1, 1, 1, 1, .ro, .compute, false, 0, 0, 0xFF⟩,
   ⟨0x3000, 0x3000, 0x1, 2, 2, 1, 1, .ro, .compute, false, 16, 0, 0xFF⟩,
   ⟨0x3000, 0x3000, 0x1, 3, 3, 2, 2, .ro, .compute, false, 256, 0, 0xFFFF⟩,
   ⟨0x3000, 0x3000, 0x1, 4, 4, 2, 2, .ro, .compute, false, 0xFFFF, 0, 0xFFFF⟩,
   ⟨0x3000, 0x3000, 0x1, 5, 5, 4, 8, .ro, .life, false, 0, 0, 0xFFFFFFFFFFFFFFFF⟩,
   ⟨0x3000, 0x3000, 0x1, 6, 6, 4, 8, .ro, .life, false, 0, 0, 0xFFFFFFFFFFFFFFFF⟩,
   ⟨0x3002, 0x3002, 0x1, 1, 3, 2, 2, .ro, .compute, false, 0, 0, 0xFFFF⟩,
   ⟨0x3002, 0x3002, 0x1, 4, 4, 2, 2, .ro, .compute, false, 32, 0, 0xFFFF⟩,
   ⟨0x3002, 0x3002, 0x1, 5, 5, 2, 2, .ro, .compute, false, 128, 0, 0xFFFF⟩,
   ⟨0x3002, 0x3002, 0x1, 6, 6, 2, 2, .ro, .compute, false, 16, 0, 0xFFFF⟩,
   ⟨0x3002, 0x3002, 0x1, 7, 7, 2, 2, .const, .fixed, false, 807, 0, 0xFFFF⟩,
   ⟨0x3002, 0x3002, 0x1, 8, 8, 2, 2, .const, .fixed, false, 600, 0, 0xFFFF⟩,
   ⟨0x3010, 0x3010, 0x1, 1, 4, 1, 1, .ro, .source, false, 16, 0, 0xFF⟩,
   ⟨0x3010, 0x3010, 0x1, 5, 5, 1, 1, .ro, .source, false, 0, 0, 0xFF⟩,
   ⟨0x3011, 0x3014, 0x1, 1, 68, 1, 1, .ro, .source, true, 127, 0, 0xFF⟩,
   ⟨0x3020, 0x3020, 0x1, 1, 1, 4, 8, .ro, .compute, false, 0, 0, 0xFFFFFFFFFFFFFFFF⟩,
   ⟨0x3020, 0x3020, 0x1, 2, 2, 3, 4, .ro, .life, false, 0, 0, 0xFFFFFFFF⟩,
   ⟨0x3020, 0x3020, 0x1, 3, 3, 8, 1, .rws, .compute, false, 0, 0, 1⟩]

/-- The object tables of the range 3100h. -/
def objRows31 : List ObjRow :=
  [⟨0x3100, 0x3100, 0x1, 1, 1, 3, 4, .const, .fixed, false, 1023, 0, 0xFFFFFFFF⟩,
   ⟨0x3100, 0x3100, 0x1, 2, 2, 1, 1, .const, .fixed, false, 16, 0, 0xFF⟩,
   ⟨0x3100, 0x3100, 0x1, 3, 3, 1, 1, .const, .fixed, false, 1, 0, 0xFF⟩,
   ⟨0x3100, 0x3100, 0x1, 4, 4, 1, 1, .const, .fixed, false, 16, 0, 0xFF⟩,
   ⟨0x3101, 0x3101, 0x1, 1, 1, 4, 8, .ro, .life, false, 0, 0, 0xFFFFFFFFFFFFFFFF⟩,
   ⟨0x3101, 0x3101, 0x1, 2, 2, 4, 8, .ro, .life, false, 0, 0, 0xFFFFFFFFFFFFFFFF⟩,
   ⟨0x3101, 0x3101, 0x1, 3, 3, 4, 8, .ro, .life, false, 0, 0, 0xFFFFFFFFFFFFFFFF⟩,
   ⟨0x3101, 0x3101, 0x1, 4, 4, 4, 8, .ro, .life, false, 0, 0, 0xFFFFFFFFFFFFFFFF⟩,
   ⟨0x3101, 0x3101, 0x1, 5, 5, 3, 4, .ro, .life, false, 0, 0, 0xFFFFFFFF⟩]

/-- The object tables of the range 3200h. -/
def objRows32 : List ObjRow :=
  [⟨0x3200, 0x3200, 0x1, 1, 1, 3, 4, .rws, .p, false, 250, 0, 2000⟩,
   ⟨0x3200, 0x3200, 0x1, 2, 2, 8, 1, .rws, .p, false, 1, 0, 1⟩,
   ⟨0x3200, 0x3200, 0x1, 3, 3, 2, 2, .rws, .p, false, 150, 0, 1000⟩,
   ⟨0x3200, 0x3200, 0x1, 4, 4, 3, 4, .rws, .p, false, 100, 10, 60000⟩,
   ⟨0x3200, 0x3200, 0x1, 5, 5, 3, 4, .rws, .p, false, 2000, 500, 20000⟩,
   ⟨0x3201, 0x3201, 0x1, 1, 1, 4, 8, .ro, .life, false, 0, 0, 0xFFFFFFFFFFFFFFFF⟩,
   ⟨0x3201, 0x3201, 0x1, 2, 2, 4, 8, .ro, .life, false, 0, 0, 0xFFFFFFFFFFFFFFFF⟩,
   ⟨0x3201, 0x3201, 0x1, 3, 3, 4, 8, .ro, .life, false, 0, 0, 0xFFFFFFFFFFFFFFFF⟩,
   ⟨0x3201, 0x3201, 0x1, 4, 4, 4, 8, .ro, .life, false, 0, 0, 0xFFFFFFFFFFFFFFFF⟩,
   ⟨0x3201, 0x3201, 0x1, 5, 5, 4, 8, .ro, .life, false, 0, 0, 0xFFFFFFFFFFFFFFFF⟩,
   ⟨0x3201, 0x3201, 0x1, 6, 6, 4, 8, .ro, .life, false, 0, 0, 0xFFFFFFFFFFFFFFFF⟩,
   ⟨0x3201, 0x3201, 0x1, 7, 7, 4, 8, .ro, .life, false, 0, 0, 0xFFFFFFFFFFFFFFFF⟩,
   ⟨0x3201, 0x3201, 0x1, 8, 8, 4, 8, .ro, .life, false, 0, 0, 0xFFFFFFFFFFFFFFFF⟩,
   ⟨0x3201, 0x3201, 0x1, 9, 9, 4, 8, .ro, .life, false, 0, 0, 0xFFFFFFFFFFFFFFFF⟩,
   ⟨0x3210, 0x3210, 0x1, 1, 1, 1, 1, .rws, .compute, false, 0, 0, 0xFF⟩,
   ⟨0x3210, 0x3210, 0x1, 2, 2, 4, 8, .rws, .compute, false, 0, 0, 0xFFFFFFFFFFFFFFFF⟩,
   ⟨0x3210, 0x3210, 0x1, 3, 3, 4, 8, .rws, .compute, false, 0, 0, 0xFFFFFFFFFFFFFFFF⟩,
   ⟨0x3210, 0x3210, 0x1, 4, 4, 4, 8, .rws, .compute, false, 0, 0, 0xFFFFFFFFFFFFFFFF⟩,
   ⟨0x3210, 0x3210, 0x1, 5, 5, 4, 8, .rws, .compute, false, 0, 0, 0xFFFFFFFFFFFFFFFF⟩,
   ⟨0x3210, 0x3210, 0x1, 6, 6, 4, 8, .rws, .compute, false, 0, 0, 0xFFFFFFFFFFFFFFFF⟩,
   ⟨0x3210, 0x3210, 0x1, 7, 7, 4, 8, .rws, .compute, false, 0xFFFFFFFFFFFFFFFF, 0, 0xFFFFFFFFFFFFFFFF⟩,
   ⟨0x3210, 0x3210, 0x1, 8, 8, 1, 1, .rws, .compute, false, 0, 0, 3⟩,
   ⟨0x3240, 0x327F, 0x1, 1, 1, 1, 1, .rws, .p, false, 255, 0, 0xFF⟩,
   ⟨0x3240, 0x327F, 0x1, 2, 2, 4, 8, .rws, .p, false, 0xFFFFFFFFFFFFFFFF, 0, 0xFFFFFFFFFFFFFFFF⟩,
   ⟨0x3240, 0x327F, 0x1, 3, 3, 4, 8, .rws, .p, false, 0xFFFFFFFFFFFFFFFF, 0, 0xFFFFFFFFFFFFFFFF⟩,
   ⟨0x3240, 0x327F, 0x1, 4, 4, 4, 8, .rws, .p, false, 0xFFFFFFFFFFFFFFFF, 0, 0xFFFFFFFFFFFFFFFF⟩,
   ⟨0x3240, 0x327F, 0x1, 5, 5, 2, 2, .rws, .p, false, 16, 1, 1024⟩,
   ⟨0x3240, 0x327F, 0x1, 6, 6, 2, 2, .rws, .p, false, 64, 1, 1024⟩,
   ⟨0x3240, 0x327F, 0x1, 7, 7, 1, 1, .rws, .p, false, 2, 1, 8⟩,
   ⟨0x3240, 0x327F, 0x1, 8, 8, 7, 4, .rws, .p, false, 0x3C800000, 0, 0xFFFFFFFF⟩,
   ⟨0x3240, 0x327F, 0x1, 9, 9, 1, 1, .rws, .p, false, 0, 0, 4⟩,
   ⟨0x3240, 0x327F, 0x1, 10, 10, 1, 1, .rws, .p, false, 0, 0, 0xFF⟩,
   ⟨0x3240, 0x327F, 0x1, 11, 11, 7, 4, .rws, .p, false, 0x3F800000, 0, 0xFFFFFFFF⟩,
   ⟨0x3240, 0x327F, 0x1, 12, 12, 7, 4, .rws, .p, false, 0, 0, 0xFFFFFFFF⟩,
   ⟨0x3240, 0x327F, 0x1, 13, 13, 10, 128, .rws, .p, false, 0x3C003C003C003C003C003C003C003C003C003C003C003C003C003C003C003C003C003C003C003C003C003C003C003C003C003C003C003C003C003C003C003C003C003C003C003C003C003C003C003C003C003C003C003C003C003C003C003C003C003C003C003C003C003C003C003C003C003C003C003C003C003C003C003C00, 0, 0⟩,
   ⟨0x3240, 0x327F, 0x1, 14, 14, 1, 1, .rws, .p, false, 0, 0, 0xFF⟩,
   ⟨0x3240, 0x327F, 0x1, 15, 15, 1, 1, .rws, .p, false, 0, 0, 1⟩,
   ⟨0x3240, 0x327F, 0x1, 16, 16, 2, 2, .rws, .p, false, 512, 1, 2048⟩,
   ⟨0x3240, 0x327F, 0x1, 17, 17, 4, 8, .rws, .p, false, 0, 0, 0xFFFFFFFFFFFFFFFF⟩,
   ⟨0x3240, 0x327F, 0x1, 18, 18, 8, 1, .ro, .compute, false, 0, 0, 1⟩,
   ⟨0x3240, 0x327F, 0x1, 19, 19, 3, 4, .ro, .compute, false, 0, 0, 0xFFFFFFFF⟩,
   ⟨0x3280, 0x32BF, 0x1, 1, 1, 1, 1, .ro, .compute, false, 0, 0, 0xFF⟩,
   ⟨0x3280, 0x32BF, 0x1, 2, 7, 4, 8, .ro, .source, false, 0, 0, 0xFFFFFFFFFFFFFFFF⟩,
   ⟨0x3280, 0x32BF, 0x1, 8, 8, 4, 8, .ro, .source, false, 0, 0, 0xFFFFFFFFFFFFFFFF⟩,
   ⟨0x3280, 0x32BF, 0x1, 9, 9, 4, 8, .ro, .source, false, 0, 0, 0xFFFFFFFFFFFFFFFF⟩,
   ⟨0x3280, 0x32BF, 0x1, 10, 10, 4, 8, .ro, .source, false, 0, 0, 0xFFFFFFFFFFFFFFFF⟩,
   ⟨0x3280, 0x32BF, 0x1, 11, 11, 4, 8, .ro, .source, false, 0, 0, 0xFFFFFFFFFFFFFFFF⟩,
   ⟨0x3280, 0x32BF, 0x1, 12, 12, 2, 2, .ro, .source, false, 0, 0, 0xFFFF⟩,
   ⟨0x3280, 0x32BF, 0x1, 13, 13, 4, 8, .ro, .source, false, 0, 0, 0xFFFFFFFFFFFFFFFF⟩]

/-- The object tables of the range 3300h. -/
def objRows33 : List ObjRow :=
  [⟨0x3300, 0x3300, 0x1, 1, 1, 1, 1, .const, .fixed, false, 8, 0, 0xFF⟩,
   ⟨0x3300, 0x3300, 0x1, 2, 2, 1, 1, .const, .fixed, false, 64, 0, 0xFF⟩,
   ⟨0x3300, 0x3300, 0x1, 3, 3, 2, 2, .const, .fixed, false, 256, 0, 0xFFFF⟩,
   ⟨0x3300, 0x3300, 0x1, 4, 4, 1, 1, .const, .fixed, false, 2, 0, 0xFF⟩,
   ⟨0x3301, 0x3301, 0x1, 1, 1, 4, 8, .ro, .life, false, 0, 0, 0xFFFFFFFFFFFFFFFF⟩,
   ⟨0x3301, 0x3301, 0x1, 2, 2, 4, 8, .ro, .life, false, 0, 0, 0xFFFFFFFFFFFFFFFF⟩,
   ⟨0x3301, 0x3301, 0x1, 3, 3, 4, 8, .ro, .life, false, 0, 0, 0xFFFFFFFFFFFFFFFF⟩,
   ⟨0x3301, 0x3301, 0x1, 4, 4, 4, 8, .ro, .life, false, 0, 0, 0xFFFFFFFFFFFFFFFF⟩,
   ⟨0x3301, 0x3301, 0x1, 5, 5, 4, 8, .ro, .life, false, 0, 0, 0xFFFFFFFFFFFFFFFF⟩,
   ⟨0x3301, 0x3301, 0x1, 6, 6, 4, 8, .ro, .life, false, 0, 0, 0xFFFFFFFFFFFFFFFF⟩,
   ⟨0x3301, 0x3301, 0x1, 7, 7, 3, 4, .ro, .compute, false, 0, 0, 0xFFFFFFFF⟩]

/-- The object tables of the range 3400h. -/
def objRows34 : List ObjRow :=
  [⟨0x3400, 0x3400, 0x1, 1, 1, 1, 1, .const, .fixed, false, 8, 0, 0xFF⟩,
   ⟨0x3400, 0x3400, 0x1, 2, 2, 2, 2, .const, .fixed, false, 4096, 0, 0xFFFF⟩,
   ⟨0x3400, 0x3400, 0x1, 3, 3, 1, 1, .const, .fixed, false, 64, 0, 0xFF⟩,
   ⟨0x3400, 0x3400, 0x1, 4, 4, 1, 1, .const, .fixed, false, 64, 0, 0xFF⟩,
   ⟨0x3401, 0x3401, 0x1, 1, 1, 4, 8, .ro, .life, false, 0, 0, 0xFFFFFFFFFFFFFFFF⟩,
   ⟨0x3401, 0x3401, 0x1, 2, 2, 4, 8, .ro, .life, false, 0, 0, 0xFFFFFFFFFFFFFFFF⟩,
   ⟨0x3401, 0x3401, 0x1, 3, 3, 4, 8, .ro, .life, false, 0, 0, 0xFFFFFFFFFFFFFFFF⟩,
   ⟨0x3401, 0x3401, 0x1, 4, 4, 4, 8, .ro, .life, false, 0, 0, 0xFFFFFFFFFFFFFFFF⟩,
   ⟨0x3401, 0x3401, 0x1, 5, 5, 4, 8, .ro, .life, false, 0, 0, 0xFFFFFFFFFFFFFFFF⟩,
   ⟨0x3402, 0x3402, 0x1, 1, 1, 1, 1, .rws, .compute, false, 0, 0, 63⟩,
   ⟨0x3402, 0x3402, 0x1, 2, 2, 4, 8, .rws, .compute, false, 0, 0, 0xFFFFFFFFFFFFFFFF⟩,
   ⟨0x3402, 0x3402, 0x1, 3, 3, 4, 8, .rws, .compute, false, 0, 0, 0xFFFFFFFFFFFFFFFF⟩,
   ⟨0x3402, 0x3402, 0x1, 4, 4, 4, 8, .rws, .compute, false, 0, 0, 0xFFFFFFFFFFFFFFFF⟩,
   ⟨0x3402, 0x3402, 0x1, 5, 5, 1, 1, .rws, .compute, false, 0, 0, 2⟩,
   ⟨0x3410, 0x342F, 0x1, 1, 128, 10, 32, .rws, .k, true, 0x3F800000000000003F8000000000000000000000000000003F80000000000000, 0, 0⟩,
   ⟨0x3440, 0x347F, 0x1, 1, 1, 1, 1, .ro, .compute, false, 0, 0, 0xFF⟩,
   ⟨0x3440, 0x347F, 0x1, 2, 4, 4, 8, .ro, .source, false, 0, 0, 0xFFFFFFFFFFFFFFFF⟩,
   ⟨0x3440, 0x347F, 0x1, 5, 5, 4, 8, .ro, .source, false, 0, 0, 0xFFFFFFFFFFFFFFFF⟩,
   ⟨0x3440, 0x347F, 0x1, 6, 6, 2, 2, .ro, .source, false, 0, 0, 0xFFFF⟩]

/-- The object tables of the range 3500h. -/
def objRows35 : List ObjRow :=
  [⟨0x3500, 0x3500, 0x1, 1, 1, 4, 8, .ro, .life, false, 0, 0, 0xFFFFFFFFFFFFFFFF⟩,
   ⟨0x3500, 0x3500, 0x1, 2, 2, 4, 8, .ro, .life, false, 0, 0, 0xFFFFFFFFFFFFFFFF⟩,
   ⟨0x3500, 0x3500, 0x1, 3, 3, 4, 8, .ro, .life, false, 0, 0, 0xFFFFFFFFFFFFFFFF⟩,
   ⟨0x3500, 0x3500, 0x1, 4, 4, 4, 8, .ro, .life, false, 0, 0, 0xFFFFFFFFFFFFFFFF⟩,
   ⟨0x3500, 0x3500, 0x1, 5, 5, 2, 2, .ro, .compute, false, 0, 0, 0xFFFF⟩,
   ⟨0x3500, 0x3500, 0x1, 6, 6, 2, 2, .ro, .compute, false, 0, 0, 0xFFFF⟩,
   ⟨0x3500, 0x3500, 0x1, 7, 7, 3, 4, .ro, .compute, false, 0, 0, 0xFFFFFFFF⟩,
   ⟨0x3500, 0x3500, 0x1, 8, 8, 4, 8, .ro, .compute, false, 0, 0, 0xFFFFFFFFFFFFFFFF⟩,
   ⟨0x3501, 0x3501, 0x1, 1, 1, 3, 4, .rws, .p, false, 0x2710, 1000, 100000⟩,
   ⟨0x3501, 0x3501, 0x1, 2, 2, 3, 4, .rws, .p, false, 2500, 0, 50000⟩,
   ⟨0x3501, 0x3501, 0x1, 3, 3, 1, 1, .rws, .p, false, 4, 0, 16⟩]

/-- The object tables of the range 3600h. -/
def objRows36 : List ObjRow :=
  [⟨0x3600, 0x3600, 0x1, 1, 1, 3, 4, .const, .fixed, false, 0x10000, 0, 0xFFFFFFFF⟩,
   ⟨0x3600, 0x3600, 0x1, 2, 2, 3, 4, .ro, .compute, false, 0, 0, 0xFFFFFFFF⟩,
   ⟨0x3601, 0x3601, 0x1, 1, 1, 2, 2, .rws, .compute, false, 0, 0, 0xFFFF⟩,
   ⟨0x3601, 0x3601, 0x1, 2, 2, 1, 1, .rws, .compute, false, 0, 0, 0xFF⟩,
   ⟨0x3601, 0x3601, 0x1, 3, 3, 1, 1, .rws, .compute, false, 0, 0, 0xFF⟩,
   ⟨0x3601, 0x3601, 0x1, 4, 4, 4, 8, .rws, .compute, false, 0, 0, 0xFFFFFFFFFFFFFFFF⟩,
   ⟨0x3601, 0x3601, 0x1, 5, 5, 4, 8, .rws, .compute, false, 0, 0, 0xFFFFFFFFFFFFFFFF⟩,
   ⟨0x3601, 0x3601, 0x1, 6, 6, 1, 1, .rws, .compute, false, 0, 0, 3⟩,
   ⟨0x3601, 0x3601, 0x1, 7, 7, 4, 8, .rws, .compute, false, 0, 0, 0xFFFFFFFFFFFFFFFF⟩,
   ⟨0x3602, 0x3602, 0x1, 1, 1, 2, 2, .rw, .compute, false, 0, 0, 0xFFFF⟩,
   ⟨0x3602, 0x3602, 0x1, 2, 2, 1, 1, .ro, .compute, false, 255, 0, 0xFF⟩,
   ⟨0x3602, 0x3602, 0x1, 3, 3, 1, 1, .ro, .compute, false, 0, 0, 0xFF⟩,
   ⟨0x3602, 0x3602, 0x1, 4, 4, 4, 8, .ro, .compute, false, 0, 0, 0xFFFFFFFFFFFFFFFF⟩,
   ⟨0x3602, 0x3602, 0x1, 5, 5, 3, 4, .ro, .compute, false, 0, 0, 0xFFFFFFFF⟩,
   ⟨0x3602, 0x3602, 0x1, 6, 6, 2, 2, .ro, .compute, false, 0, 0, 0xFFFF⟩]

/-- The object tables of the range 4000h. -/
def objRows40 : List ObjRow :=
  [⟨0x4000, 0x4000, 0x1, 1, 1, 1, 1, .rws, .p, false, 1, 1, 32⟩,
   ⟨0x4000, 0x4000, 0x1, 2, 2, 1, 1, .rws, .p, false, 1, 1, 32⟩,
   ⟨0x4000, 0x4000, 0x1, 3, 3, 1, 1, .rws, .p, false, 1, 1, 20⟩,
   ⟨0x4000, 0x4000, 0x1, 4, 4, 8, 1, .rws, .p, false, 0, 0, 1⟩,
   ⟨0x4000, 0x4000, 0x1, 5, 5, 8, 1, .rws, .p, false, 0, 0, 1⟩,
   ⟨0x4000, 0x4000, 0x1, 6, 6, 2, 2, .ro, .fabric, false, 0xFFFF, 0, 0xFFFF⟩,
   ⟨0x4000, 0x4000, 0x1, 7, 7, 1, 1, .ro, .fabric, false, 0, 0, 0xFF⟩,
   ⟨0x4000, 0x4000, 0x1, 8, 8, 4, 8, .ro, .fabric, false, 0, 0, 0xFFFFFFFFFFFFFFFF⟩,
   ⟨0x4000, 0x4000, 0x1, 9, 9, 8, 1, .ro, .fabric, false, 0, 0, 1⟩,
   ⟨0x4000, 0x4000, 0x1, 10, 10, 8, 1, .rws, .p, false, 0, 0, 1⟩,
   ⟨0x4001, 0x4001, 0x1, 1, 1, 2, 2, .rws, .p, false, 2048, 0, 8192⟩,
   ⟨0x4001, 0x4001, 0x1, 2, 2, 2, 2, .rws, .p, false, 3072, 0, 8192⟩,
   ⟨0x4001, 0x4001, 0x1, 3, 3, 2, 2, .rws, .p, false, 256, 0, 8192⟩,
   ⟨0x4001, 0x4001, 0x1, 4, 4, 2, 2, .rws, .p, false, 128, 0, 8192⟩,
   ⟨0x4001, 0x4001, 0x1, 5, 5, 2, 2, .rws, .p, false, 1024, 0, 8192⟩,
   ⟨0x4001, 0x4001, 0x1, 6, 6, 2, 2, .rws, .p, false, 1408, 0, 8192⟩,
   ⟨0x4001, 0x4001, 0x1, 7, 7, 2, 2, .rws, .p, false, 128, 0, 8192⟩,
   ⟨0x4001, 0x4001, 0x1, 8, 8, 2, 2, .rws, .p, false, 128, 0, 8192⟩,
   ⟨0x4001, 0x4001, 0x1, 9, 9, 1, 1, .rws, .p, false, 3, 1, 10⟩,
   ⟨0x4002, 0x4002, 0x1, 1, 1, 4, 8, .ro, .life, false, 0, 0, 0xFFFFFFFFFFFFFFFF⟩,
   ⟨0x4002, 0x4002, 0x1, 2, 2, 4, 8, .ro, .life, false, 0, 0, 0xFFFFFFFFFFFFFFFF⟩,
   ⟨0x4002, 0x4002, 0x1, 3, 3, 4, 8, .ro, .life, false, 0, 0, 0xFFFFFFFFFFFFFFFF⟩,
   ⟨0x4002, 0x4002, 0x1, 4, 4, 4, 8, .ro, .life, false, 0, 0, 0xFFFFFFFFFFFFFFFF⟩,
   ⟨0x4002, 0x4002, 0x1, 5, 5, 4, 8, .ro, .life, false, 0, 0, 0xFFFFFFFFFFFFFFFF⟩,
   ⟨0x4002, 0x4002, 0x1, 6, 6, 4, 8, .ro, .life, false, 0, 0, 0xFFFFFFFFFFFFFFFF⟩,
   ⟨0x4002, 0x4002, 0x1, 7, 7, 3, 4, .ro, .life, false, 0, 0, 0xFFFFFFFF⟩,
   ⟨0x4003, 0x4003, 0x1, 1, 1, 1, 1, .rws, .fabric, false, 0, 0, 2⟩,
   ⟨0x4003, 0x4003, 0x1, 2, 2, 8, 1, .ro, .fabric, false, 0, 0, 1⟩,
   ⟨0x4010, 0x401D, 0x1, 1, 1, 1, 1, .ro, .fabric, false, 0, 0, 0xFF⟩,
   ⟨0x4010, 0x401D, 0x1, 2, 2, 2, 2, .ro, .fabric, false, 0xFFFF, 0, 0xFFFF⟩,
   ⟨0x4010, 0x401D, 0x1, 3, 3, 1, 1, .ro, .fabric, false, 255, 0, 0xFF⟩,
   ⟨0x4010, 0x401D, 0x1, 4, 4, 9, 20, .ro, .fabric, false, 0, 0, 0⟩,
   ⟨0x4010, 0x401D, 0x1, 5, 5, 3, 4, .ro, .fabric, false, 0, 0, 0xFFFFFFFF⟩,
   ⟨0x4010, 0x401D, 0x1, 6, 6, 1, 1, .ro, .fabric, false, 0, 0, 0xFF⟩,
   ⟨0x4010, 0x401D, 0x1, 7, 7, 4, 8, .ro, .life, false, 0, 0, 0xFFFFFFFFFFFFFFFF⟩,
   ⟨0x4010, 0x401D, 0x1, 8, 8, 3, 4, .ro, .life, false, 0, 0, 0xFFFFFFFF⟩,
   ⟨0x4010, 0x401D, 0x1, 9, 9, 1, 1, .rws, .fabric, false, 0, 0, 2⟩,
   ⟨0x4010, 0x401D, 0x1, 10, 10, 1, 1, .ro, .fabric, false, 0, 0, 0xFF⟩]

/-- The object tables of the range 4100h. -/
def objRows41 : List ObjRow :=
  [⟨0x4100, 0x4100, 0x1, 1, 1, 4, 8, .ro, .fabric, false, 0, 0, 0xFFFFFFFFFFFFFFFF⟩,
   ⟨0x4100, 0x4100, 0x1, 2, 2, 2, 2, .ro, .fabric, false, 0, 0, 0xFFFF⟩,
   ⟨0x4100, 0x4100, 0x1, 3, 3, 8, 1, .ro, .fabric, false, 0, 0, 1⟩,
   ⟨0x4100, 0x4100, 0x1, 4, 4, 2, 2, .ro, .fabric, false, 0xFFFF, 0, 0xFFFF⟩,
   ⟨0x4100, 0x4100, 0x1, 5, 5, 1, 1, .ro, .fabric, false, 255, 0, 0xFF⟩,
   ⟨0x4100, 0x4100, 0x1, 6, 6, 1, 1, .ro, .fabric, false, 255, 0, 0xFF⟩,
   ⟨0x4100, 0x4100, 0x1, 7, 7, 5, 4, .ro, .fabric, false, 0, 0, 0xFFFFFFFF⟩,
   ⟨0x4100, 0x4100, 0x1, 8, 8, 5, 4, .ro, .fabric, false, 0, 0, 0xFFFFFFFF⟩,
   ⟨0x4100, 0x4100, 0x1, 9, 9, 5, 4, .ro, .fabric, false, 0, 0, 0xFFFFFFFF⟩,
   ⟨0x4100, 0x4100, 0x1, 10, 10, 8, 1, .ro, .fabric, false, 0, 0, 1⟩,
   ⟨0x4100, 0x4100, 0x1, 11, 11, 3, 4, .ro, .life, false, 0, 0, 0xFFFFFFFF⟩]

/-- The object tables of the range 4200h. -/
def objRows42 : List ObjRow :=
  [⟨0x4200, 0x4200, 0x1, 1, 1, 8, 1, .rws, .p, false, 0, 0, 1⟩,
   ⟨0x4200, 0x4200, 0x1, 2, 2, 1, 1, .rws, .p, false, 16, 1, 16⟩,
   ⟨0x4200, 0x4200, 0x1, 3, 3, 8, 1, .ro, .compute, false, 0, 0, 1⟩,
   ⟨0x4200, 0x4200, 0x1, 4, 4, 4, 8, .ro, .compute, false, 0x10201, 0, 0xFFFFFFFFFFFFFFFF⟩,
   ⟨0x4201, 0x4201, 0x1, 1, 1, 1, 1, .rws, .compute, false, 0, 0, 0xFF⟩,
   ⟨0x4201, 0x4201, 0x1, 2, 2, 4, 8, .rws, .compute, false, 0, 0, 0xFFFFFFFFFFFFFFFF⟩,
   ⟨0x4201, 0x4201, 0x1, 3, 3, 1, 1, .rws, .compute, false, 0, 0, 1⟩,
   ⟨0x4202, 0x4202, 0x1, 1, 1, 1, 1, .rw, .compute, false, 0, 0, 0xFF⟩,
   ⟨0x4202, 0x4202, 0x1, 2, 2, 4, 8, .rw, .compute, false, 0, 0, 0xFFFFFFFFFFFFFFFF⟩,
   ⟨0x4202, 0x4202, 0x1, 3, 3, 4, 8, .rw, .compute, false, 0, 0, 0xFFFFFFFFFFFFFFFF⟩,
   ⟨0x4202, 0x4202, 0x1, 4, 4, 10, 32, .ro, .compute, false, 0, 0, 0⟩,
   ⟨0x4202, 0x4202, 0x1, 5, 5, 4, 8, .ro, .compute, false, 0, 0, 0xFFFFFFFFFFFFFFFF⟩,
   ⟨0x4202, 0x4202, 0x1, 6, 6, 4, 8, .ro, .compute, false, 0, 0, 0xFFFFFFFFFFFFFFFF⟩,
   ⟨0x4202, 0x4202, 0x1, 7, 7, 8, 1, .ro, .compute, false, 0, 0, 1⟩,
   ⟨0x4203, 0x4203, 0x1, 1, 1, 4, 8, .ro, .life, false, 0, 0, 0xFFFFFFFFFFFFFFFF⟩,
   ⟨0x4203, 0x4203, 0x1, 2, 2, 4, 8, .ro, .life, false, 0, 0, 0xFFFFFFFFFFFFFFFF⟩,
   ⟨0x4203, 0x4203, 0x1, 3, 3, 4, 8, .ro, .life, false, 0, 0, 0xFFFFFFFFFFFFFFFF⟩,
   ⟨0x4203, 0x4203, 0x1, 4, 4, 4, 8, .ro, .life, false, 0, 0, 0xFFFFFFFFFFFFFFFF⟩,
   ⟨0x4220, 0x425F, 0x1, 1, 1, 4, 8, .rws, .source, false, 0xFFFFFFFFFFFFFFFF, 0, 0xFFFFFFFFFFFFFFFF⟩,
   ⟨0x4220, 0x425F, 0x1, 2, 2, 4, 8, .ro, .source, false, 0, 0, 0xFFFFFFFFFFFFFFFF⟩,
   ⟨0x4260, 0x429F, 0x1, 1, 1, 1, 1, .rws, .compute, false, 255, 0, 0xFF⟩,
   ⟨0x4260, 0x429F, 0x1, 2, 2, 4, 8, .rws, .compute, false, 0, 0, 0xFFFFFFFFFFFFFFFF⟩]

/-- The object tables of the range 5000h. -/
def objRows50 : List ObjRow :=
  [⟨0x5000, 0x5FC0, 0x40, 1, 1, 2, 2, .ro, .host, false, 0, 0, 0xFFFF⟩,
   ⟨0x5000, 0x5FC0, 0x40, 2, 2, 2, 2, .rw, .host, false, 1025, 0, 0xFFFF⟩,
   ⟨0x5000, 0x5FC0, 0x40, 3, 3, 8, 1, .rws, .p, false, 0, 0, 1⟩,
   ⟨0x5000, 0x5FC0, 0x40, 4, 4, 3, 4, .rw, .host, false, 100, 0, 10000⟩,
   ⟨0x5000, 0x5FC0, 0x40, 5, 5, 2, 2, .ro, .host, false, 0, 0, 0xFFFF⟩,
   ⟨0x5000, 0x5FC0, 0x40, 6, 6, 2, 2, .ro, .host, false, 0, 0, 0xFFFF⟩,
   ⟨0x5000, 0x5FC0, 0x40, 7, 7, 8, 1, .rws, .host, false, 0, 0, 1⟩,
   ⟨0x5001, 0x5FC1, 0x40, 1, 1, 4, 8, .ro, .life, false, 0, 0, 0xFFFFFFFFFFFFFFFF⟩,
   ⟨0x5001, 0x5FC1, 0x40, 2, 2, 4, 8, .ro, .life, false, 0, 0, 0xFFFFFFFFFFFFFFFF⟩,
   ⟨0x5001, 0x5FC1, 0x40, 3, 3, 4, 8, .ro, .life, false, 0, 0, 0xFFFFFFFFFFFFFFFF⟩,
   ⟨0x5001, 0x5FC1, 0x40, 4, 4, 4, 8, .ro, .life, false, 0, 0, 0xFFFFFFFFFFFFFFFF⟩,
   ⟨0x5001, 0x5FC1, 0x40, 5, 5, 4, 8, .ro, .life, false, 0, 0, 0xFFFFFFFFFFFFFFFF⟩,
   ⟨0x5001, 0x5FC1, 0x40, 6, 6, 4, 8, .ro, .life, false, 0, 0, 0xFFFFFFFFFFFFFFFF⟩]

/-- The object tables of the range 6000h. -/
def objRows60 : List ObjRow :=
  [⟨0x6000, 0x6000, 0x1, 1, 1, 4, 8, .ro, .source, false, 0, 0, 0xFFFFFFFFFFFFFFFF⟩,
   ⟨0x6000, 0x6000, 0x1, 2, 2, 4, 8, .ro, .source, false, 0, 0, 0xFFFFFFFFFFFFFFFF⟩,
   ⟨0x6000, 0x6000, 0x1, 3, 3, 4, 8, .rw, .hoop, false, 0, 0, 0xFFFFFFFFFFFFFFFF⟩,
   ⟨0x6001, 0x6001, 0x1, 1, 16, 10, 64, .ro, .hoop, true, 0, 0, 0⟩]

/-- The object tables of the range an index lies in (Table 4-3). -/
def objRows (idx : Nat) : List ObjRow :=
  match idx / 256 with
  | 0x10 => objRows10
  | 0x11 => objRows11
  | 0x12 => objRows12
  | 0x13 => objRows13
  | 0x14 => objRows14
  | 0x20 => objRows20
  | 0x21 => objRows21
  | 0x22 => objRows22
  | 0x23 => objRows23
  | 0x30 => objRows30
  | 0x31 => objRows31
  | 0x32 => objRows32
  | 0x33 => objRows33
  | 0x34 => objRows34
  | 0x35 => objRows35
  | 0x36 => objRows36
  | 0x40 => objRows40
  | 0x41 => objRows41
  | 0x42 => objRows42
  | 0x60 => objRows60
  | n => if 0x50 ≤ n ∧ n ≤ 0x5F then objRows50 else []

/-- Every object table. -/
def allRows : List ObjRow :=
  objRows10 ++ objRows11 ++ objRows12 ++ objRows13 ++ objRows14 ++ objRows20 ++ objRows21 ++ objRows22 ++ objRows23 ++ objRows30 ++
  objRows31 ++ objRows32 ++ objRows33 ++ objRows34 ++ objRows35 ++ objRows36 ++ objRows40 ++ objRows41 ++ objRows42 ++ objRows50 ++
  objRows60

/-- Does a row hold this index? -/
def ObjRow.hasIdx (r : ObjRow) (idx : Nat) : Bool :=
  decide (r.lo ≤ idx) && decide (idx ≤ r.hi) && (idx - r.lo) % r.step == 0

/-- The row of a subindex. -/
def objRow (idx sub : Nat) : Option ObjRow :=
  (objRows idx).find? fun r => r.hasIdx idx && decide (r.slo ≤ sub) && decide (sub ≤ r.shi)

/-- Does an index exist (R78, R89)? -/
def objExists (idx : Nat) : Bool := (objRows idx).any fun r => r.hasIdx idx

/-- How many subindices an object has (R78: subindices 1 to n, no gaps). -/
def objCount (idx : Nat) : Nat := ((objRows idx).filter fun r => r.hasIdx idx).foldl (fun n r => max n r.shi) 0

/-- The key of a subindex in the dictionary's tables. -/
def objKey (idx sub : Nat) : Nat := idx * 256 + sub

/-- The Reset value of a subindex. ExpressAllowed is 1 for function 0 (Table 3-9); the factory values of DeviceIdentity.5 to .9 are
not the manual's (DESIGN CHOICE, assumption 1). -/
def resetVal (idx sub : Nat) : Nat :=
  if idx == 0x5000 && sub == 3 then 1
  else if idx == 0x1000 && decide (5 ≤ sub) && decide (sub ≤ 9) then Config.factory sub
  else match objRow idx sub with
    | some r => r.reset
    | none => 0

/-- Bytes of a subindex's value; subindex 0 is a U8. -/
def objSize (idx sub : Nat) : Nat :=
  if sub == 0 then 1 else match objRow idx sub with
    | some r => r.size
    | none => 0

/-- The value of a subindex as the module holds it. -/
def obj (s : State) (idx sub : Nat) : Nat := kvGet (resetVal idx sub) s.dict.vals (objKey idx sub)

/-- Set the value of a subindex (modulo the width of its type; DEDUCED, assumption 7). -/
def setObj (idx sub v : Nat) (s : State) : State :=
  { s with dict := { s.dict with
      vals := kvPut (resetVal idx sub) s.dict.vals (objKey idx sub) (v % 2 ^ (8 * objSize idx sub)) } }

/-- Add `n` to a count. -/
def bumpBy (idx sub n : Nat) (s : State) : State := setObj idx sub (obj s idx sub + n) s

/-- Add one to a count. -/
def bump (idx sub : Nat) (s : State) : State := bumpBy idx sub 1 s

/-- A Boolean as the dictionary holds it. -/
def boolNat (b : Bool) : Nat := if b then 1 else 0

/-- Return every value of the groups that `g` picks to its Reset value, for the indices `keep` does not hold (R417). -/
def resetGroups (g : Grp → Bool) (only : Nat → Bool) (s : State) : State :=
  { s with dict := { s.dict with
      vals := s.dict.vals.filter fun e =>
        !(only (e.1 / 256) && (match objRow (e.1 / 256) (e.1 % 256) with
          | some r => g r.grp
          | none => false)) } }

/-- Is a value produced on the main rails, so that the Hoop serves it from a refreshed copy (R90; DEDUCED, assumption 8)? -/
def mainRailIdx (idx : Nat) : Bool :=
  idx / 256 == 0x12 || (decide (0x2000 ≤ idx) && decide (idx < 0x6000))

/-- Is an F32 value neither NaN nor infinite (Table 4-1)? -/
def f32Finite (v : Nat) : Bool := v / 2 ^ 23 % 256 != 255

/-- A STR value: printable ASCII, then 00h to the end (Table 4-1). -/
def strOk : Bytes → Bool
  | [] => true
  | b :: bs => if b == 0 then bs.all (· == 0) else decide (0x20 ≤ b.toNat) && decide (b.toNat ≤ 0x7E) && strOk bs

/-- Does a value keep its type's encoding and the range of its table (R80)? -/
def typeOk (r : ObjRow) (v : Nat) : Bool :=
  match r.code with
  | 7 => f32Finite v
  | 8 => decide (v ≤ 1)
  | 9 => strOk (natLE r.size v)
  | 10 => true
  | _ => decide (r.vmin ≤ v) && decide (v ≤ r.vmax)

end Sys2Proof.Machine
end

