-- ==== Sys2Proof/Machine/Sha.lean ====
section
/-! DEFINITION. SHA-256 (FIPS 180-4), HMAC-SHA-256 over it, and the CRC-32 of the device's records (the polynomial is the published
IEEE one: PRESUMED, assumption 11). -/

namespace Sys2Proof.Machine

open Sys2Proof

/-- The 32-bit words of a number of 128 bits, highest first. -/
def words128 (v : Nat) : List Nat := [v / 2 ^ 96, v / 2 ^ 64 % 2 ^ 32, v / 2 ^ 32 % 2 ^ 32, v % 2 ^ 32]

/-- The fractional parts of the cube roots of the first 64 primes, four to a row (FIPS 180-4). -/
def shaRows : List Nat :=
  [0x428A2F9871374491B5C0FBCFE9B5DBA5,
   0x3956C25B59F111F1923F82A4AB1C5ED5,
   0xD807AA9812835B01243185BE550C7DC3,
   0x72BE5D7480DEB1FE9BDC06A7C19BF174,
   0xE49B69C1EFBE47860FC19DC6240CA1CC,
   0x2DE92C6F4A7484AA5CB0A9DC76F988DA,
   0x983E5152A831C66DB00327C8BF597FC7,
   0xC6E00BF3D5A7914706CA635114292967,
   0x27B70A852E1B21384D2C6DFC53380D13,
   0x650A7354766A0ABB81C2C92E92722C85,
   0xA2BFE8A1A81A664BC24B8B70C76C51A3,
   0xD192E819D6990624F40E3585106AA070,
   0x19A4C1161E376C082748774C34B0BCB5,
   0x391C0CB34ED8AA4A5B9CCA4F682E6FF3,
   0x748F82EE78A5636F84C878148CC70208,
   0x90BEFFFAA4506CEBBEF9A3F7C67178F2]

/-- The fractional parts of the square roots of the first 8 primes, from which the chaining value starts. -/
def shaStart : List Nat :=
  words128 0x6A09E667BB67AE853C6EF372A54FF53A ++ words128 0x510E527F9B05688C1F83D9AB5BE0CD19

/-- XOR of three rotations to the right of a 32-bit word; the amounts are given as divisors 2^n. -/
def mix3 (x p q r : Nat) : Nat :=
  let y := x * 2 ^ 32 + x
  (y / p ^^^ y / q ^^^ y / r) % 2 ^ 32

/-- A big-endian number. -/
def beNat (bs : Bytes) : Nat := bs.foldl (fun a b => a * 256 + b.toNat) 0

/-- The big-endian bytes of a number. -/
def natBE (n v : Nat) : Bytes := (natLE n v).reverse

/-- One step of the compression: the chaining words `v`, first to eighth, take a word of the schedule to which the row constant is added. The
choice of sixth and seventh by the fifth is written as the seventh, changed where the fifth has a one; the majority of the first three as two of
three. -/
def shaStep (v : List Nat) (kw : Nat) : List Nat :=
  let x := fun i => v.getD i 0
  let pick := x 6 ^^^ (x 4 &&& (x 5 ^^^ x 6))
  let most := (x 0 &&& (x 1 ||| x 2)) ||| (x 1 &&& x 2)
  let fresh := x 7 + mix3 (x 4) (2 ^ 6) (2 ^ 11) (2 ^ 25) + pick + kw
  (fresh + mix3 (x 0) (2 ^ 2) (2 ^ 13) (2 ^ 22) + most) % 2 ^ 32 :: (v.take 7).set 3 ((x 3 + fresh) % 2 ^ 32)

/-- The steps of a block over a window of sixteen schedule words, from which the words after them follow. -/
def shaWindow : List Nat → List Nat → List Nat → List Nat
  | [], _, v => v
  | k :: ks, w, v =>
    let near := w.getD 14 0
    let far := w.getD 1 0
    let small := fun (y a b c : Nat) => mix3 y a b (2 ^ 32) ^^^ y ^^^ y / c
    let next := w.headD 0 + small far (2 ^ 7) (2 ^ 18) (2 ^ 3) + w.getD 9 0 + small near (2 ^ 17) (2 ^ 19) (2 ^ 10)
    shaWindow ks (w.drop 1 ++ [next % 2 ^ 32]) (shaStep v (k + w.headD 0))

/-- The chaining value after a block of 64 bytes. -/
def shaBlock (h : List Nat) (bs : Bytes) : List Nat :=
  let first := (List.range 16).map fun i => beNat ((bs.drop (4 * i)).take 4)
  (h.zip (shaWindow (shaRows.flatMap words128) first h)).map fun p => (p.1 + p.2) % 2 ^ 32

/-- The chaining value after `n` blocks. -/
def shaBlocks (n : Nat) (m : Bytes) : List Nat :=
  (List.range n).foldl (fun h i => shaBlock h ((m.drop (64 * i)).take 64)) shaStart

/-- SHA-256 of a byte string. -/
def sha256 (m : Bytes) : Bytes :=
  let pad := (119 - m.length % 64) % 64
  let p := m ++ (0x80 : Byte) :: List.replicate pad 0 ++ natBE 8 (8 * m.length)
  (shaBlocks (p.length / 64) p).flatMap (natBE 4)

/-- XOR every byte with a constant. -/
def xorBytes (c : Byte) (bs : Bytes) : Bytes := bs.map (· ^^^ c)

/-- HMAC-SHA-256. -/
def hmac256 (key msg : Bytes) : Bytes :=
  let k := slice (if 64 < key.length then sha256 key else key) 0 64
  sha256 (xorBytes 0x5C k ++ sha256 (xorBytes 0x36 k ++ msg))

/-- Shift a CRC register by `n` bits. -/
def crcBits : Nat → Nat → Nat
  | 0, c => c
  | n + 1, c => crcBits n (if c % 2 == 1 then c / 2 ^^^ 0xEDB88320 else c / 2)

/-- CRC-32 of a byte string. -/
def crc32 (bs : Bytes) : Nat :=
  (bs.foldl (fun c b => crcBits 8 (c ^^^ b.toNat)) 0xFFFFFFFF) ^^^ 0xFFFFFFFF

end Sys2Proof.Machine
end

