-- ==== Sys2Proof/Machine/PStore.lean ====
section
/-! DEFINITION. The persistent object store in the two banks of the firmware flash (R84 to R88, R125, R126): records, the sectors they stand in,
snapshots, and the values that a start of the Hoop rail reads from them. -/

namespace Sys2Proof.Machine

open Sys2Proof

/-- Bytes of a sector of the firmware flash, of its header (R126), and the sectors of a store copy (Table 5-8). -/
def sectorBytes : Nat := 65536
def sectorHeader : Nat := 32
def storeSectors : Nat := 128

/-- Sectors that are kept erased for the next snapshot (DESIGN CHOICE, assumption 43). -/
def snapshotSectors : Nat := 16

/-- Bytes of a record with `n` bytes of values: index, subindex, count, values, sequence, CRC and a commit flag of one byte (DESIGN CHOICE, assumption 43). -/
def recordBytes (n : Nat) : Nat := 17 + n

/-- Items 1 to 4 of a record of `count` subindices, over which its CRC-32 is taken (R84). -/
def recordHead (index sub count : Nat) (data : Bytes) (seq : Nat) : Bytes :=
  natLE 2 index ++ natLE 1 sub ++ natLE 1 count ++ data ++ natLE 8 seq

/-- A record counts only with its commit flag programmed and its CRC right (R84). -/
def StoreRec.valid (r : StoreRec) : Bool := r.done && r.crc == crc32 (recordHead r.index r.sub r.count r.data r.seq)

/-- Sectors of a copy in use: from the oldest to the one being filled, around the ring. -/
def StoreCopy.inUse (c : StoreCopy) : Nat := (c.cur + storeSectors - c.tail) % storeSectors + 1

/-- Free bytes of a copy (PersistentStore.2). -/
def StoreCopy.free (c : StoreCopy) : Nat :=
  sectorBytes - c.used + (storeSectors - c.inUse) * (sectorBytes - sectorHeader)

/-- Does a copy have room for `n` more bytes beside the sectors kept for a snapshot? -/
def StoreCopy.hasRoom (c : StoreCopy) (n : Nat) : Bool :=
  decide (c.used + n ≤ sectorBytes) || decide (c.inUse + snapshotSectors < storeSectors)

/-- A sector is erased, and its header programmed with the new count (R126). -/
def StoreCopy.erase (k : Nat) (c : StoreCopy) : StoreCopy :=
  { c with
    recs := c.recs.filter (·.sector != k)
    erases := kvPut 0 c.erases k (kvGet 0 c.erases k + 1)
    unerased := c.unerased.filter (· != k) }

/-- The copy goes on in its next sector, which is erased again if it has no valid header (R126). -/
def StoreCopy.advance (c : StoreCopy) : StoreCopy :=
  let k := (c.cur + 1) % storeSectors
  let c := if c.unerased.contains k then c.erase k else c
  { c with cur := k, used := sectorHeader }

/-- Program a record at the next free record position. A record does not cross a sector boundary (DESIGN CHOICE, assumption 43). -/
def StoreCopy.put (r : StoreRec) (c : StoreCopy) : StoreCopy :=
  let n := recordBytes r.data.length
  let c := if sectorBytes < c.used + n then c.advance else c
  { c with recs := { r with sector := c.cur } :: c.recs, used := c.used + n }

/-- What a record is to hold: its kind (0 values of an object, 1 a record of the integrity log, 2 a wrapped key, 3 an entry of the retirement
list), the index, first subindex and count of its values, and the values. -/
structure StoreItem where
  kind : Nat
  index : Nat
  sub : Nat
  count : Nat
  data : Bytes
  deriving DecidableEq, Repr

/-- The record of an item with a sequence number; `done` says that its commit flag is programmed. -/
def StoreItem.record (x : StoreItem) (seq : Nat) (done : Bool) : StoreRec :=
  { kind := x.kind, index := x.index, sub := x.sub, count := x.count, data := x.data, seq := seq,
    crc := crc32 (recordHead x.index x.sub x.count x.data seq), done := done, sector := 0 }

/-- Subindices whose Reset entry reads Store: the Hoop records them itself (R418). -/
def storeSourced : List (Nat × Nat) := [(0x1330, 4), (0x1350, 1), (0x1350, 2), (0x1350, 3), (0x1350, 4), (0x1360, 3)]

/-- Every subindex the store keeps: those of class P, and those it is the source of. -/
def storeKept : List (Nat × Nat) :=
  ((allRows.filter fun w => w.grp == .p).flatMap fun w =>
    (List.range ((w.hi - w.lo) / w.step + 1)).flatMap fun k =>
      (List.range (w.shi + 1 - w.slo)).map fun j => (w.lo + k * w.step, w.slo + j)) ++ storeSourced

/-- The wrapped form of a key, as a record of the store holds it (R443; DESIGN CHOICE, assumption 43). -/
def keyItem (k : Key) : StoreItem :=
  { kind := 2, index := 0x1402, sub := 0, count := 0, data := natLE 4 k.owner ++ natLE 4 k.epoch ++ natLE 64 k.id }

/-- The 64 bytes of a record (Table 8-6). -/
def logBytes (r : LogRec) : Bytes :=
  natLE 8 r.seq ++ natLE 8 r.first ++ natLE 8 r.last ++ natLE 4 r.count ++ natLE 1 r.source ++ natLE 1 r.cls ++
  natLE 1 r.action ++ natLE 1 r.flags ++ natLE 2 r.unit ++ natLE 2 0 ++ natLE 4 r.detail ++ natLE 8 r.address ++
  natLE 8 r.object ++ natLE 8 r.context

/-- The record that a checked write is to commit (R84). -/
def StoreWrite.item (w : StoreWrite) : StoreItem :=
  { kind := 0, index := w.index, sub := w.sub, count := w.values.length,
    data := w.values.zipIdx.flatMap fun x => natLE (objSize w.index (w.sub + x.2)) x.1 }

/-- The record of the store that keeps a record of the log (R202). -/
def logItem (r : LogRec) : StoreItem := { kind := 1, index := 0x6001, sub := 0, count := 0, data := logBytes r }

/-- The record of an entry of the retirement list (R203). -/
def retiredItem (r : Nat × Nat) : StoreItem := { kind := 3, index := 0x2311, sub := r.1 + 1, count := 0, data := natLE 4 r.2 }

/-- What a snapshot holds: every current value that the store keeps, the persistent records of the integrity log, the keys in force and the
retirement list (R86). -/
def snapshotItems (s : State) : List StoreItem :=
  storeKept.map (fun e => ({ kind := 0, index := e.1, sub := e.2, count := 1, data := natLE (objSize e.1 e.2) (obj s e.1 e.2) } : StoreItem)) ++
  s.integ.stored.map logItem ++ s.fw.keys.map keyItem ++ s.integ.retired.map retiredItem

/-- Program items in order, each with the next sequence number. -/
def putItems : List StoreItem → Nat → StoreCopy → Nat × StoreCopy
  | [], seq, c => (seq, c)
  | x :: xs, seq, c => putItems xs (seq + 1) (c.put (x.record seq true))

/-- A snapshot: it is programmed into free sectors first, and only then are the sectors it has superseded erased (R86). -/
def StoreCopy.snapshot (items : List StoreItem) (seq : Nat) (c : StoreCopy) : Nat × StoreCopy :=
  let old := (List.range c.inUse).map fun k => (c.tail + k) % storeSectors
  let first := (c.cur + 1) % storeSectors
  let r := putItems items seq c.advance
  (r.1, old.foldl (fun c k => c.erase k) { r.2 with tail := first })

/-- Append a record to the copy in the inactive bank (R85), after a snapshot where it lacks room (R86). -/
def Store.append (items : List StoreItem) (active : Nat) (x : StoreItem) (done : Bool) (t : Store) : Store :=
  let c := if active == 0 then t.b else t.a
  let room := c.hasRoom (recordBytes x.data.length)
  let r := if room then (t.nextSeq, c) else c.snapshot items t.nextSeq
  let c := r.2.put (x.record r.1 done)
  { t with
    a := if active == 0 then t.a else c
    b := if active == 0 then c else t.b
    nextSeq := r.1 + 1
    commits := if done then t.commits + 1 else t.commits
    snapshots := if room then t.snapshots else t.snapshots + 1 }

/-- The Hoop programs a record: with its commit flag, or as an attempt that fails and uses up its position (R88). -/
def storePut (x : StoreItem) (done : Bool) (s : State) : State :=
  { s with integ := { s.integ with store := s.integ.store.append (snapshotItems s) s.fw.active x done } }

/-- The copy that is written next. -/
def storeCopy (s : State) : StoreCopy := if s.fw.active == 0 then s.integ.store.b else s.integ.store.a

/-- Bank and byte offset at which the next record of `n` value bytes goes (Table 8-7, Table 5-8). -/
def storeAddress (n : Nat) (s : State) : Nat :=
  let c := storeCopy s
  let c := if sectorBytes < c.used + recordBytes n then c.advance else c
  (1 - s.fw.active) * 2 ^ 26 + 0x3000000 + c.cur * sectorBytes + c.used

/-- Set a value that the store keeps, with its record. -/
def storeSet (idx sub v : Nat) (s : State) : State :=
  let v := v % 2 ^ (8 * objSize idx sub)
  setObj idx sub v (storePut { kind := 0, index := idx, sub := sub, count := 1, data := natLE (objSize idx sub) v } true s)

/-- Cut a string of values into the values of subindices. -/
def cutValues (idx : Nat) : List Nat → Bytes → List (Nat × Nat)
  | [], _ => []
  | k :: ks, bs => (k, leNat (bs.take (objSize idx k))) :: cutValues idx ks (bs.drop (objSize idx k))

/-- The values a record of an object holds, by dictionary key. -/
def StoreRec.values (r : StoreRec) : List (Nat × Nat) :=
  (cutValues r.index ((List.range r.count).map (r.sub + ·)) r.data).map fun v => (objKey r.index v.1, v.2)

/-- The object records that count, of both copies. -/
def Store.objects (t : Store) : List StoreRec := (t.a.recs ++ t.b.recs).filter fun r => r.kind == 0 && r.valid

/-- For each subindex the highest sequence number of a record of it. -/
def newestSeq (rs : List StoreRec) : KV :=
  rs.foldl (fun m r => r.values.foldl (fun m v => kvPut 0 m v.1 (max (r.seq + 1) (kvGet 0 m v.1))) m) []

/-- The values that the Hoop reads from both copies at a start of its rail: for each subindex the committed record with the highest sequence
number (R85). -/
def Store.load (t : Store) : KV :=
  let rs := t.objects
  let newest := newestSeq rs
  rs.foldl (fun m r => r.values.foldl (fun m v =>
    if kvGet 0 newest v.1 == r.seq + 1 then kvPut (resetVal (v.1 / 256) (v.1 % 256)) m v.1 v.2 else m) m) []

/-- A start of the Hoop rail takes the values of the store (R85). -/
def loadStore (s : State) : State :=
  let stored := s.integ.store.load
  { s with dict := { s.dict with
      vals := stored.foldl (fun m e => kvPut (resetVal (e.1 / 256) (e.1 % 256)) m e.1 e.2)
        (s.dict.vals.filter fun e => !(storeSourced.contains (e.1 / 256, e.1 % 256) ||
          (match objRow (e.1 / 256) (e.1 % 256) with | some r => r.grp == .p | none => false))) } }

end Sys2Proof.Machine
end

