-- ==== Sys2Proof/Machine/Ops.lean ====
section
/-! DEFINITION. The operations every family of commands uses: the outcome of a command, free values, the integrity log, submission
queues and their tags, completions, the freeze of a compute queue, and asynchronous events. -/

namespace Sys2Proof.Machine

open Sys2Proof

/-- The outcome of a command. -/
abbrev Res := Host.Outcome State Fault Refusal

/-- The effect `t` of a command on everything but the queue of waiting commands and the throttle ladder, which stay as in `s`. -/
def keepBoth (s t : State) : State := { t with pending := s.pending, thr := s.thr }

/-- The effect `t` of a command on everything but the queue of waiting commands, which stays as in `s`. -/
def keepQueue (s t : State) : State := { t with pending := s.pending }

/-- The throttle ladder at its top: every stage at its first value (R449). -/
def ladderTop : Throttle := { fa := 16, prog := 0, fab := 0 }

/-- The effect `t` of a command that may restart the module: the queue of waiting commands stays as in `s`, and so does the throttle ladder,
unless a start of the main rails has put it at its top. -/
def keepOrTop (s t : State) : State := { t with pending := s.pending, thr := if t.thr = ladderTop then ladderTop else s.thr }

/-- End a command that moves no throttle level (only the evaluation of R449 and a start of the main rails move the ladder). -/
def finish (s t : State) : Res := .next (keepBoth s t)

/-- End a command that may restart the module. -/
def finishRestart (s t : State) : Res := .next (keepOrTop s t)

/-- Apply a change only where a condition holds. -/
def onlyIf (b : Bool) (f : State → State) (s : State) : State := if b then f s else s

def modPwr (f : Power → Power) (s : State) : State := { s with pwr := f s.pwr }
def modDict (f : Dict → Dict) (s : State) : State := { s with dict := f s.dict }
def modMgmt (f : Mgmt → Mgmt) (s : State) : State := { s with mgmt := f s.mgmt }
def modFw (f : Firmware → Firmware) (s : State) : State := { s with fw := f s.fw }
def modHost (f : HostIf → HostIf) (s : State) : State := { s with host := f s.host }
def modBlk (f : Block → Block) (s : State) : State := { s with blk := f s.blk }
def modNand (f : Nand → Nand) (s : State) : State := { s with nand := f s.nand }
def modTier (f : Tiers → Tiers) (s : State) : State := { s with tier := f s.tier }
def modInteg (f : Integrity → Integrity) (s : State) : State := { s with integ := f s.integ }
def modArr (f : CellArray → CellArray) (s : State) : State := { s with arr := f s.arr }
def modJobs (f : Jobs → Jobs) (s : State) : State := { s with jobs := f s.jobs }
def modSync (f : Sync → Sync) (s : State) : State := { s with sync := f s.sync }
def modRetr (f : Retrieval → Retrieval) (s : State) : State := { s with retr := f s.retr }
def modChurn (f : Churns → Churns) (s : State) : State := { s with churn := f s.churn }
def modWyv (f : Wyvas → Wyvas) (s : State) : State := { s with wyv := f s.wyv }

/-- Round a quotient up. -/
def ceilDiv (a b : Nat) : Nat := (a + b - 1) / b

/-- The sum of a list. -/
def total (l : List Nat) : Nat := l.foldl (· + ·) 0

/-! ### Free values (DESIGN CHOICE, assumption 5) -/

/-- The next free number. -/
def freshNat (s : State) : Nat := Config.freeNat s.free

/-- The next free byte string of `n` bytes. -/
def freshBytes (n : Nat) (s : State) : Bytes := (List.range n).map (Config.freeByte s.free)

/-- A free value has been drawn. -/
def drew (s : State) : State := { s with free := s.free + 1 }

/-! ### The integrity log (R202) -/

/-- The fields of an event that its reporter gives (Table 8-6). -/
structure Ev where
  source : Nat
  cls : Nat
  action : Nat := 0
  unit : Nat := 0
  detail : Nat := 0
  address : Nat := 0
  object : Nat := 0
  context : Nat := 0xFFFFFFFFFFFFFFFF
  deriving DecidableEq, Repr

/-- Classes of records that are also committed to the persistent store (R202). -/
def persistentClass (c : Nat) : Bool := [2, 5, 6, 7, 9, 10].contains c

/-- Is an event correctable, so that it coalesces (R202; DEDUCED, assumption 9)? -/
def correctable (c : Nat) : Bool := c == 0 || c == 1

/-- Does a record report the same event (R202)? -/
def sameEvent (e : Ev) (r : LogRec) : Bool :=
  r.source == e.source && r.unit == e.unit && r.cls == e.cls && r.address == e.address

/-- Count an event into the first of `n` records that reports the same. -/
def coalesce (e : Ev) (t : Nat) : Nat → List LogRec → List LogRec
  | 0, l => l
  | _, [] => []
  | n + 1, r :: l =>
    if sameEvent e r then { r with count := r.count + 1, last := t, flags := r.flags ||| 2 } :: l
    else r :: coalesce e t n l

/-- The record that an event gets of its own. -/
def evRecord (s : State) (e : Ev) : LogRec :=
  { seq := s.integ.nextSeq, first := s.time, last := s.time, count := 1, source := e.source, cls := e.cls, action := e.action, flags := 0,
    unit := e.unit, detail := e.detail, address := e.address, object := e.object, context := e.context }

/-- Report an event to the integrity log: a correctable event equal to one of the 64 newest records is counted there; any other
gets a record of its own, the ring keeps 4,096, and the persistent classes keep 1,024 in the store (R202). -/
def logEv (e : Ev) (s : State) : State :=
  if correctable e.cls && (s.integ.log.take 64).any (sameEvent e) then
    modInteg (fun i => { i with log := coalesce e s.time 64 i.log }) s
  else
    let r := evRecord s e
    modInteg (fun i => { i with
      log := (r :: i.log).take 4096
      stored := if persistentClass e.cls then (r :: i.stored).take 1024 else i.stored
      store := if persistentClass e.cls then i.store.append (snapshotItems s) s.fw.active (logItem r) true else i.store
      nextSeq := i.nextSeq + 1 }) s

/-- A parity error is detected at use: counted and logged (R189). -/
def parityError (e : Ev) (s : State) : State := logEv e (bump 0x2302 3 s)

/-- An event of NVMe-MI is raised: the warning of a bit has come up (R38). -/
def raiseAlert (bit : Nat) (s : State) : State := modInteg (fun i => { i with alert := i.alert ||| 2 ^ bit }) s

/-! ### Statuses -/

/-- An NVMe status: status code type and status code. -/
abbrev Status := Nat × Nat

def stSuccess : Status := (0, 0)
def stInvalidOpcode : Status := (0, 0x01)
def stInvalidField : Status := (0, 0x02)
def stDataTransferError : Status := (0, 0x04)
def stAbortRequested : Status := (0, 0x07)
def stInvalidNamespace : Status := (0, 0x0B)
def stCommandSequenceError : Status := (0, 0x0C)
def stWriteProtected : Status := (0, 0x20)
def stLbaOutOfRange : Status := (0, 0x80)
def stCqInvalid : Status := (1, 0x00)
def stQueueIdInvalid : Status := (1, 0x01)
def stQueueSizeInvalid : Status := (1, 0x02)
def stAerLimit : Status := (1, 0x05)
def stInvalidVector : Status := (1, 0x08)
def stInvalidController : Status := (1, 0x1F)
def stControllerState : Status := (1, 0x20)
def stInvalidResource : Status := (1, 0x22)
def stSanitizeInProgress : Status := (0, 0x1D)
def stInvalidFwSlot : Status := (1, 0x06)
def stInvalidFwImage : Status := (1, 0x07)
def stInvalidFormat : Status := (1, 0x0A)
def stQueueDeletion : Status := (1, 0x0C)
def stNotSaveable : Status := (1, 0x0D)
def stNotChangeable : Status := (1, 0x0E)
def stInvalidLogPage : Status := (1, 0x09)
def stFwNeedsReset : Status := (1, 0x10)
def stNsCapacity : Status := (1, 0x15)
def stNsIdUnavailable : Status := (1, 0x16)
def stNsAttached : Status := (1, 0x18)
def stNsNotAttached : Status := (1, 0x1A)
def stCtrlListInvalid : Status := (1, 0x1C)
def stInvalidResources : Status := (1, 0x21)
def stUnrecoveredRead : Status := (2, 0x81)
def stAbortedByFreeze : Status := (7, 0x01)
def stPoisonedInput : Status := (7, 0x02)
def stDeadlineMissed : Status := (7, 0x03)
def stNotAdmitted : Status := (7, 0x04)
def stTierLate : Status := (7, 0x05)
def stTierError : Status := (7, 0x06)
def stBasketRefused : Status := (7, 0x07)
def stJobFault : Status := (7, 0x08)
def stUnknownHandle : Status := (7, 0x09)
def stResultExpired : Status := (7, 0x0A)
def stBasicMode : Status := (7, 0x0B)
def stComputeNotReady : Status := (7, 0x0C)
def stFunctionAborted : Status := (7, 0x0D)
def stCapacityExhausted : Status := (7, 0x0E)

/-- Does a status carry Do Not Retry (Tables 3-6 and 4-7, R451; the statuses of the published standard that these do not name carry
it: PRESUMED, assumption 10)? -/
def dnrOf (st : Status) : Bool :=
  match st with
  | (0, 0x00) => false
  | (0, 0x04) => false
  | (0, 0x07) => false
  | (0, 0x0C) => false
  | (1, 0x05) => false
  | (1, 0x10) => false
  | (7, 0x01) => false
  | (7, 0x03) => false
  | (7, 0x04) => false
  | (7, 0x05) => false
  | (7, 0x0B) => false
  | (7, 0x0C) => false
  | (7, 0x27) => false
  | (7, 0x2A) => false
  | (7, 0x2B) => false
  | (7, 0x2E) => false
  | _ => true

/-- Does a status freeze a compute queue (R66)? -/
def freezing (st : Status) : Bool :=
  [stInvalidOpcode, stInvalidField, stDataTransferError, stBasketRefused, stJobFault, stUnknownHandle,
   stCapacityExhausted].contains st

/-- Does a status write an entry of the compute error log (R68)? -/
def logsError (st : Status) : Bool := freezing st || st == stPoisonedInput || st == stTierError

/-! ### Controllers, queues and tags -/

/-- The controller of a function. -/
def ctrl (s : State) (fn : Nat) : Option Ctrl := s.host.ctrls.find? (·.fn == fn)

/-- Change the controller of a function. -/
def modCtrl (fn : Nat) (f : Ctrl → Ctrl) (s : State) : State :=
  modHost (fun h => { h with ctrls := updWhere (·.fn == fn) f h.ctrls }) s

/-- The submission queue of a function. -/
def findSq (s : State) (fn id : Nat) : Option Sq := s.host.sqs.find? fun q => q.fn == fn && q.id == id

/-- Change a submission queue. -/
def modSq (fn id : Nat) (f : Sq → Sq) (s : State) : State :=
  modHost (fun h => { h with sqs := updWhere (fun q => q.fn == fn && q.id == id) f h.sqs }) s

/-- The index of a function's own objects (R89). -/
def fnIdx (fn : Nat) : Nat := 0x5000 + 0x40 * fn

/-- Is a submission queue a compute queue (R50)? -/
def isCompute (s : State) (fn id : Nat) : Bool := id != 0 && decide (obj s (fnIdx fn) 2 ≤ id)

/-- The commands of one queue in flight (R51). -/
def tagsUsed (s : State) (fn id : Nat) : Nat := (s.host.inflight.filter fun x => x.fn == fn && x.sq == id).length

/-- Is the record of an in-flight command the one of this queue and identifier? -/
def Inflight.named (x : Inflight) (fn sq cid : Nat) : Bool := x.fn == fn && x.sq == sq && x.cid == cid

/-- The record of an in-flight command. -/
def inflight? (s : State) (fn sq cid : Nat) : Option Inflight := s.host.inflight.find? (·.named fn sq cid)

/-- Change the record of an in-flight command. -/
def modInflight (fn sq cid : Nat) (f : Inflight → Inflight) (s : State) : State :=
  modHost (fun h => { h with inflight := updWhere (·.named fn sq cid) f h.inflight }) s

/-- Opcode of Load Basket (Table 3-4). -/
def opLoadBasket : Nat := 0x81

/-- Which commands still wait behind an earlier Load Basket of their queue (R53)? `seen` lists the queues a Load Basket was met on. -/
def rehold : List (Nat × Nat) → List Inflight → List Inflight
  | _, [] => []
  | seen, x :: l =>
    { x with held := seen.contains (x.fn, x.sq) } ::
      rehold (if x.opc == opLoadBasket then (x.fn, x.sq) :: seen else seen) l

/-- Is the module in Basic mode (R204)? -/
def basicMode (s : State) : Bool := obj s 0x1010 2 != 0

/-- Is Basic storage ready (R411)? -/
def storageReady (s : State) : Bool := obj s 0x1210 1 == 1

/-- Is compute ready (R411)? -/
def computeReady (s : State) : Bool := obj s 0x1210 2 == 1

/-- Return from PS3 or PS4 to the last operational state (R76). Leaving PS4 resets K values and the fabric group, fabric
time among them (Table 17-3), and the node rejoins late with its ports training (R419). -/
def wake (s : State) : State :=
  if decide (3 ≤ s.pwr.ps) then
    let t := modPwr (fun p => { p with ps := p.lastOp }) s
    if s.pwr.ps == 4 then resetGroups (fun g => g == .k || g == .fabric) (fun _ => true) { t with time := 0 } else t
  else s

/-- Fetch the entries of a queue that have a free tag, oldest first, while the queue is not frozen (R51, R67, R76). -/
def fetchN : Nat → Nat → Nat → State → State
  | 0, _, _, s => s
  | n + 1, fn, id, s =>
    match findSq s fn id with
    | none => s
    | some q =>
      match q.waiting with
      | [] => s
      | (cid, opc) :: rest =>
        if q.frozen || decide (32 ≤ tagsUsed s fn id) then s
        else
          let s := if id == 0 then s else wake s
          let x : Inflight := { fn := fn, sq := id, cid := cid, opc := opc, started := false, held := false, fetched := s.time,
                                deadline := 0, lpns := [], reads := [], got := [], entry := none, buf := [], space := false, ranges := [],
                                job := 0 }
          let s := modSq fn id (fun q => { q with waiting := rest, head := (q.head + 1) % max 1 q.size }) s
          fetchN n fn id (modHost (fun h => { h with
            inflight := if isCompute s fn id then rehold [] (h.inflight ++ [x]) else h.inflight ++ [x] }) s)

/-- Fetch what a queue can have in flight: at most 32 tags (R51). -/
def fetchQ (fn id : Nat) (s : State) : State := fetchN 32 fn id s

/-! ### Arbitration (R52) -/

/-- May an entry of a queue be fetched (R51, R67)? -/
def fetchable (s : State) (q : Sq) : Bool := findSq s q.fn q.id == some q && q.waiting != [] && !q.frozen && decide (tagsUsed s q.fn q.id < 32)

/-- The place of a queue in arbitration: the admin queue first, then under weighted round robin its class: urgent 1, high 2, medium 3, low 4; under
round robin every I/O queue is alike (R52 and the published standard). -/
def arbClass (c : Ctrl) (q : Sq) : Nat := if q.id == 0 then 0 else if c.ams == 1 then 1 + q.prio % 4 else 1

/-- Commands that a class may have fetched in a round: one more than its weight of the Arbitration feature. -/
def arbWeight (c : Ctrl) (k : Nat) : Nat := kvGet 0 c.features 1 / 2 ^ (40 - 8 * k) % 256 + 1

/-- The queue of the lowest identifier. -/
def lowestSq : List Sq → Option Sq
  | [] => none
  | q :: l =>
    match lowestSq l with
    | none => some q
    | some r => if q.id ≤ r.id then some q else some r

/-- Round robin: the first queue after the one served last, and then from the lowest again. -/
def nextInTurn (last : Nat) (qs : List Sq) : Option Sq :=
  match lowestSq (qs.filter fun q => decide (last < q.id)) with
  | some q => some q
  | none => lowestSq qs

/-- The queue to fetch from, and the counts of the round once it has been served: the strict classes first, then the classes that have not spent
their weight; a round in which all have spent it ends. -/
def arbPick (c : Ctrl) (qs : List Sq) : Option (Sq × KV) :=
  let k := qs.foldl (fun k q => min k (arbClass c q)) 5
  if k ≤ 1 then (nextInTurn c.served (qs.filter fun q => arbClass c q == k)).map fun q => (q, c.spent)
  else
    let able := qs.filter fun q => decide (kvGet 0 c.spent (arbClass c q) < arbWeight c (arbClass c q))
    let spent := if able == [] then [] else c.spent
    let able := if able == [] then qs else able
    let k := able.foldl (fun k q => min k (arbClass c q)) 5
    (nextInTurn c.served (able.filter fun q => arbClass c q == k)).map fun q => (q, kvPut 0 spent k (kvGet 0 spent k + 1))

/-- Commands taken from a queue in its turn: 2 to the Arbitration Burst, without a limit for 7. -/
def arbBurst (c : Ctrl) : Nat := let b := kvGet 0 c.features 1 % 8; if b == 7 then 32 else 2 ^ b

/-- Fetch from the queues of a function in the order that arbitration gives, until none may be fetched from. -/
def arbitrate : Nat → Nat → State → State
  | 0, _, s => s
  | n + 1, fn, s =>
    match ctrl s fn with
    | none => s
    | some c =>
      match arbPick c (s.host.sqs.filter fun q => q.fn == fn && fetchable s q) with
      | none => s
      | some (q, spent) => arbitrate n fn (fetchN (min 32 (arbBurst c)) fn q.id (modCtrl fn (fun c => { c with served := q.id, spent := spent }) s))

/-- The in-flight record of a command that may start: fetched, not started, and not held behind a Load Basket (R51, R53). -/
def startable (e : Sqe) (opc : Nat) (s : State) : Option Inflight :=
  match inflight? s e.fn e.sq e.cid with
  | some x => if x.opc == opc && !x.started && !x.held then some x else none
  | none => none

/-- The record of a command once it has started: it keeps the entry and its deadline (Table 3-3: microseconds after fetch, 0 for none). -/
def startedRec (e : Sqe) (x : Inflight) : Inflight :=
  { x with
    started := true
    entry := some e
    deadline := if e.cdw14 == 0 then 0 else x.fetched + 1000 * e.cdw14 }

/-- The command starts. -/
def startCmd (e : Sqe) (s : State) : State := modInflight e.fn e.sq e.cid (startedRec e) s

/-- The completion entry of a command (R65, R66). -/
def cqeOf (fn sq cid : Nat) (st : Status) (dw0 dw1 : Nat) : Cqe :=
  { fn := fn, sq := sq, cid := cid, sct := st.1, sc := st.2, dnr := dnrOf st, dw0 := dw0, dw1 := dw1 }

/-- Post a completion: its tag frees and the next entry is fetched. A command that is not in flight has nothing to complete. -/
def post (fn sq cid : Nat) (st : Status) (dw0 dw1 : Nat) (s : State) : State :=
  match inflight? s fn sq cid with
  | none => s
  | some _ =>
    fetchQ fn sq (modHost (fun h => { h with
      inflight := h.inflight.filter fun x => !x.named fn sq cid
      cqes := h.cqes ++ [cqeOf fn sq cid st dw0 dw1] }) s)

/-- Complete the command of an entry with a status. -/
def answer (e : Sqe) (st : Status) (dw0 : Nat := 0) (dw1 : Nat := 0) (s : State) : State := post e.fn e.sq e.cid st dw0 dw1 s

/-- Write data to host memory for a function: with the relaxed-ordering attribute where that is enabled (R43). -/
def dma (fn addr : Nat) (bs : Bytes) (s : State) : State :=
  modHost (fun h => { h with dma := h.dma ++ [{ addr := addr, data := bs, relaxed := h.relaxed.contains fn }] }) s

/-- Write a result region: never with that attribute (R43, R62). -/
def dmaResult (addr : Nat) (bs : Bytes) (s : State) : State :=
  modHost (fun h => { h with dma := h.dma ++ [{ addr := addr, data := bs, relaxed := false }] }) s

/-- A vendor-specific asynchronous event (type 7h) of a controller: posted on an outstanding request, or kept until one comes. -/
def asyncEvent (fn info page : Nat) (s : State) : State :=
  match ctrl s fn with
  | none => s
  | some c =>
    match c.aers with
    | [] => modCtrl fn (fun c => { c with eventDue := true }) s
    | cid :: rest =>
      let s := modCtrl fn (fun c => { c with aers := rest, eventDue := false }) s
      let s := modHost (fun h => { h with events := h.events ++ [(fn, info, page)] }) s
      post fn 0 cid stSuccess (7 + info * 256 + page * 65536) 0 s

/-- Complete with Aborted By Freeze every fetched command of a queue that has not started (R67 step 2). -/
def abortUnstarted (fn id : Nat) (s : State) : State :=
  (s.host.inflight.filter fun x => x.fn == fn && x.sq == id && !x.started).foldl
    (fun s x => post fn id x.cid stAbortedByFreeze 0 0 s) s

/-- The event of R67 step 5: one until log page C1h is read. -/
def freezeEvent (fn : Nat) (s : State) : State :=
  match ctrl s fn with
  | some c => if c.armed then asyncEvent fn 0 0xC1 (modCtrl fn (fun c => { c with armed := false }) s) else s
  | none => s

/-- Write an entry of the compute error log, newest first, 256 kept (R68). -/
def logError (fn sq cid : Nat) (st : Status) (dw0 job op : Nat) (froze : Bool) (s : State) : State :=
  let (opc, handle) := match inflight? s fn sq cid with
    | some x => (x.opc, match x.entry with | some e => e.handle | none => 0)
    | none => (0, 0)
  modCtrl fn (fun c => { c with
    errCount := c.errCount + 1
    errLog := (({ count := c.errCount + 1, sq := sq, cid := cid,
                  status := st.2 + 256 * st.1 + 32768 * boolNat (dnrOf st), opc := opc, froze := froze, time := s.time,
                  handle := handle, job := job, opIndex := op, detail := dw0 } : ErrEntry) :: c.errLog).take 256 }) s

/-- Complete a basket command: the error log entry, the completion, and where the status freezes the compute queue the steps of
R67 (R66 to R68). -/
def endBasket (fn sq cid : Nat) (st : Status) (dw0 : Nat) (job : Nat) (op : Nat) (s : State) : State :=
  match inflight? s fn sq cid with
  | none => s
  | some _ =>
    let wasFrozen := match findSq s fn sq with | some q => q.frozen | none => true
    let fr := freezing st && isCompute s fn sq && !wasFrozen
    let s := if logsError st then logError fn sq cid st dw0 job op fr s else s
    if fr then
      let s := modSq fn sq (fun q => { q with frozen := true }) s
      freezeEvent fn (abortUnstarted fn sq (post fn sq cid st dw0 0 s))
    else post fn sq cid st dw0 0 s

/-- The op_index of an error log entry that names no operation (Table 3-7). -/
def noOp : Nat := 0xFFFFFFFF

/-- Refuse or end a basket command with no job. -/
def endCmd (e : Sqe) (st : Status) (dw0 : Nat) (s : State) : State := endBasket e.fn e.sq e.cid st dw0 0 noOp s

/-- Freeze a compute queue as R67 describes, without a completion of its own. -/
def freezeQueue (fn id : Nat) (s : State) : State :=
  match findSq s fn id with
  | some q => if q.frozen then s else
      freezeEvent fn (abortUnstarted fn id (modSq fn id (fun q => { q with frozen := true }) s))
  | none => s

end Sys2Proof.Machine
end

