-- ==== Sys2Proof/Machine/Reply.lean ====
section
/-! DEFINITION. The outcome of an object request: response PDUs with their trailers and their replay, completions of Get Object and Set Object, and
the operations of action subindices whose response waits for their end (R91, R92, R95, R96, R100, R444, R445). -/

namespace Sys2Proof.Machine

open Sys2Proof

/-- This module's node id; FFFFh before discovery (WyvasSystem.6). -/
def ownNode (s : State) : Nat := obj s 0x4000 6

/-- The status of a row that an action subindex names: what the response would carry (Table 4-7), and the subindex that failed. -/
def setLast (st sub : Nat) (s : State) : State := modDict (fun d => { d with lastStatus := st, lastSub := sub }) s

/-- Carry out an action whose check is `chk` (status, failing subindex): 0 runs it, any other status changes nothing (R91). -/
def runAction (chk : Nat × Nat) (eff : State → State) (s : State) : State :=
  if chk.1 == 0 then setLast 0 0 (eff s) else setLast chk.1 chk.2 s

/-! ### Responses -/

/-- The header of a PDU (Table 4-4). -/
def pduHeader (op seq idx sub count status len node flags : Nat) : Bytes :=
  natLE 1 1 ++ natLE 1 op ++ natLE 2 seq ++ natLE 2 idx ++ natLE 1 sub ++ natLE 1 count ++ natLE 2 status ++ natLE 2 len ++
  natLE 2 node ++ natLE 1 flags ++ natLE 1 0

/-- The key of a slot of ManagementAuth. -/
def mgmtKey (s : State) (slot : Nat) : Nat := obj s 0x1410 (3 + slot)

/-- The HMAC of R444 over the session value, a PDU header, a value and trailer bytes 0 to 15. -/
def mgmtHmac (s : State) (header value : Bytes) (counter slot : Nat) : Bytes :=
  hmac256 (natLE 32 (mgmtKey s slot)) (natLE 8 (obj s 0x1410 2) ++ header ++ value ++ natLE 8 counter ++ natLE 1 slot ++ natLE 7 0)

/-- The trailer of a response: it carries the request's counter and slot (DEDUCED, assumption 42). -/
def respTrailer (s : State) (p : Pdu) (header value : Bytes) : Option Trailer :=
  match p.trailer with
  | some t => some { counter := t.counter, slot := t.slot, hmac := mgmtHmac s header value t.counter t.slot }
  | none => none

/-- The response to a PDU: the request's operation with bit 7 set (Table 4-4). A response to a request on the bus in mode 1 carries a trailer, but for a refused authentication. -/
def mkOut (s : State) (p : Pdu) (op status node : Nat) (value : Bytes) (stale replayed signed : Bool) : PduOut :=
  let h := pduHeader (op % 128 + 128) p.seq p.index p.sub p.count status value.length node (boolNat stale + 2 * boolNat replayed)
  { path := p.path, op := op % 128 + 128, seq := p.seq, index := p.index, sub := p.sub, count := p.count, status := status, node := node,
    stale := stale, replayed := replayed, value := value,
    trailer := if signed && obj s 0x1410 1 == 1 then respTrailer s p h value else none }

/-- The responses kept for replay: the newest 8 of each source (R96). -/
def keepOut (o : PduOut) (kept : List PduOut) : List PduOut :=
  let mine := (o :: kept.filter fun k => k.path == o.path && k.seq != o.seq).take 8
  mine ++ kept.filter fun k => k.path != o.path

/-- Send a response, keep it, and answer the repeats of its request that came meanwhile (R96). -/
def sendOut (o : PduOut) (s : State) : State :=
  let dups := s.mgmt.dups.filter fun d => d.path == o.path && d.seq == o.seq
  let s := bumpBy 0x1100 2 dups.length s
  modMgmt (fun m => { m with
    tx := m.tx ++ [o] ++ dups.map fun _ => { o with replayed := true }
    kept := keepOut o m.kept
    dups := m.dups.filter fun d => !(d.path == o.path && d.seq == o.seq) }) s

/-- Does a request need no trailer: a Get of 1000h or of ManagementAuth.2 (R444)? -/
def needsNoTrailer (op : Nat) (p : Pdu) : Bool :=
  op == 1 && (p.index == 0x1000 || (p.index == 0x1410 && p.sub == 2 && p.count == 1))

/-- Answer a request with its outcome (R95, R100, R101). -/
def respondReq (r : HoopReq) (status sub : Nat) (value : Bytes) (stale : Bool) (s : State) : State :=
  match r.origin with
  | .nvme fn sq cid =>
    if status != 0 then post fn sq cid (7, status) sub 0 s
    else if r.op == 2 then post fn sq cid stSuccess 0 0 s
    else
      let dptr := match inflight? s fn sq cid with
        | some x => (match x.entry with | some e => e.dptr | none => 0)
        | none => 0
      post fn sq cid stSuccess value.length (boolNat stale) (dma fn dptr value s)
  | .pdu p => sendOut (mkOut s p r.op status (ownNode s) value stale false (!needsNoTrailer r.op p)) s
  | .none => setLast status sub s

/-! ### Operations that go on (R92) -/

/-- The operation that a write of an action subindex started has ended: the response goes. -/
def endActing (kind no : Nat) (s : State) : State :=
  let rs := s.dict.acting.filter fun a => a.kind == kind && a.no == no
  let s := modDict (fun d => { d with acting := d.acting.filter fun a => !(a.kind == kind && a.no == no) }) s
  rs.foldl (fun s a => respondReq a.req 0 0 [] false s) s

end Sys2Proof.Machine
end

