-- ==== Sys2Proof/Machine/Flash.lean ====
section
/-! DEFINITION. The flash array (chapter 5): physical page addresses, die and channel state, the bad-block table, superblocks, pages and their
codewords, the operations of the dies and their suspension, and the firmware flash's sequencer. -/

namespace Sys2Proof.Machine

open Sys2Proof

/-! ### Addresses (R103, R104) -/

/-- The physical page address of Table 5-2. -/
def physAddr (channel die plane block page : Nat) : Nat :=
  (channel * 80 + die * 4 + plane) * 2 ^ 22 + (block * 1536 + page)

def physUnit (a : Nat) : Nat := a / 2 ^ 22
def physOffset (a : Nat) : Nat := a % 2 ^ 22
def physChannel (a : Nat) : Nat := physUnit a / 80
def physDie (a : Nat) : Nat := physUnit a % 80 / 4
def physPlane (a : Nat) : Nat := physUnit a % 4
def physBlock (a : Nat) : Nat := physOffset a / 1536
def physPage (a : Nat) : Nat := physOffset a % 1536

/-- Is an address valid (R104)? -/
def physValid (a : Nat) : Bool := decide (physUnit a < 5120) && decide (physOffset a < 4193280)

/-- An invalid address is refused as an internal fault and logged (R104). -/
def refuseAddress (a : Nat) (s : State) : State :=
  if physValid a then s else logEv { source := 2, cls := 8, unit := physChannel a, address := a } s

/-- Block entry number of the bad-block table (R117). -/
def blockEntry (unit block : Nat) : Nat := unit * 2730 + block

/-- The NAND package of a die (R103). -/
def packageOf (channel die : Nat) : Nat := channel / 4 * 5 + die / 4

/-- The port of the package that is the channel's, the die on that port, and whether the channel engine is on IO1 (R103). -/
def portOf (channel : Nat) : Nat := channel % 4
def dieOnPort (die : Nat) : Nat := die % 4
def onIo1 (channel : Nat) : Bool := decide (32 ≤ channel)

/-- The subindex of ThermalSensors that reports a die's package (R103, Table 2-6). -/
def packageSensor (channel die : Nat) : Nat := 0x21 + packageOf channel die

/-! ### Dies and channels -/

/-- Has a channel engine failed? ChannelState is 2 (R129). -/
def channelFailed (s : State) (c : Nat) : Bool := kvGet 0 s.dict.vals (objKey 0x2010 (c + 1)) == 2

/-- Has a die failed (R105)? DieState of R129. -/
def dieFailed (s : State) (c d : Nat) : Bool := kvGet 0 s.dict.vals (objKey (0x2011 + c / 12) (c % 12 * 20 + d + 1)) == 1

/-- Is a die served by rebuild only: failed itself, or on a failed channel (R121)? -/
def dieLost (s : State) (c d : Nat) : Bool := channelFailed s c || dieFailed s c d

/-- Working channels (IntegrityState.6). -/
def workingChannels (s : State) : Nat := ((List.range 64).filter fun c => !channelFailed s c).length

/-- The dies that DieState reports failed, by 20 · channel + die. -/
def failedDies (s : State) : List Nat :=
  (s.dict.vals.filter fun e => decide (objKey 0x2011 0 ≤ e.1) && decide (e.1 < objKey 0x2017 0) && e.2 == 1).map
    fun e => (e.1 / 256 - 0x2011) * 240 + (e.1 % 256 - 1)

/-- Every lost die, by 20 · channel + die. -/
def lostDies (s : State) : List Nat :=
  (((List.range 64).filter (channelFailed s)).flatMap fun c => (List.range 20).map (c * 20 + ·)) ++
    (failedDies s).filter fun x => !channelFailed s (x / 20)

/-! ### The bad-block table (R115 to R118) -/

/-- What the union of the copies says of a block: 0 good, 1 grown bad, 3 factory bad (R118). -/
def blockMark (s : State) (unit block : Nat) : Nat := kvGet 0 s.nand.bbt (blockEntry unit block)

/-- Is a block listed as bad? -/
def blockBad (s : State) (unit block : Nat) : Bool := blockMark s unit block != 0

/-- Write an entry into one copy; an entry is never removed or weakened (R116, R117). -/
def bbtAdd (m : KV) (e v : Nat) : KV := kvPut 0 m e (max v (kvGet 0 m e))

/-- Bring a copy up to date with every entry of another (R118). -/
def bbtUnion (m n : KV) : KV := n.foldl (fun m x => bbtAdd m x.1 x.2) m

/-- The entries of the reserved superblock's records. -/
def BadLog.marks (r : BadLog) : KV := r.recs.foldl (fun m x => bbtAdd m x.2.1 x.2.2) []

/-- Append to the reserved superblock the entries of a table that it lacks, each record with a write sequence number (R117, R118). -/
def appendBad (m : KV) (s : State) : State :=
  (m.filter fun e => decide (kvGet 0 s.nand.bbtR.marks e.1 < e.2)).foldl (fun s e =>
    { s with
      blk := { s.blk with nextSeq := s.blk.nextSeq + 1 }
      nand := { s.nand with bbtR := { s.nand.bbtR with recs := s.nand.bbtR.recs ++ [(s.blk.nextSeq, e.1, e.2)] } } }) s

/-- Change the copy in the inactive firmware-flash bank: the only one written while the Hoop runs (R117, R118). -/
def modInactive (f : BadTable → BadTable) (s : State) : State :=
  modNand (fun n => if s.fw.active == 0 then { n with bbtB := f n.bbtB } else { n with bbtA := f n.bbtA }) s

/-- Add a grown bad block to the table in force, to the reserved superblock's copy and to the copy in the inactive bank (R116, R117). -/
def growBad (unit block : Nat) (s : State) : State :=
  if blockBad s unit block then s
  else
    let e := blockEntry unit block
    let s := modNand (fun n => { n with bbt := bbtAdd n.bbt e 1 }) s
    let s := modInactive (fun t => { t with marks := bbtAdd t.marks e 1 }) (appendBad [(e, 1)] s)
    logEv { source := 4, cls := 2, action := 5, unit := unit / 80, address := unit * 2 ^ 22 + block * 1536 } (bump 0x2020 4 s)

/-- Blocks out of use: listed as bad, or on a die that is lost. -/
def lostBlocks (s : State) : Nat :=
  let gone := lostDies s
  (s.nand.bbt.filter fun e => !gone.contains (e.1 / 10920)).length + 10920 * gone.length

/-! ### Pages and codewords (R107, R119) -/

/-- The tag of a codeword: the page kind and its number (Table 5-5). -/
def cwTag (kind no : Nat) : Nat := kind % 16 * 2 ^ 60 + no % 2 ^ 60

/-- Metadata bytes 0 to 23 of a codeword (Table 5-5). -/
def metaHead (tag seq index flags : Nat) : Bytes := natLE 8 tag ++ natLE 8 seq ++ natLE 1 index ++ natLE 1 flags ++ natLE 6 0

/-- The crc of codeword `k` of a page: over its 4,096 data bytes and metadata bytes 0 to 23 (Table 5-5). -/
def cwCrc (data : Mem) (k tag seq index flags : Nat) : Nat := crc32 (memRead data (k * 4096) 4096 ++ metaHead tag seq index flags)

/-- A page as it is programmed; bit k of `poison` sets the poison flag of codeword k, and a page of kind 3 carries code parity (R107, R110). -/
def mkPage (kind no seq poison : Nat) (data : Mem) : Page :=
  { data := data
    cws := (List.range 4).map fun k =>
      let flags := boolNat (bitOf poison k) + 2 * boolNat (kind == 3)
      { tag := cwTag kind no, seq := seq, index := k, flags := flags, crc := cwCrc data k (cwTag kind no) seq k flags } }

/-- The metadata of codeword `k`. -/
def Page.cw (p : Page) (k : Nat) : CwMeta := p.cws.getD k { tag := 0, seq := 0, index := 0, flags := 0, crc := 0 }

def Page.kind (p : Page) : Nat := (p.cw 0).tag / 2 ^ 60
def Page.no (p : Page) : Nat := (p.cw 0).tag % 2 ^ 60
def Page.seq (p : Page) : Nat := (p.cw 0).seq

/-- The codewords of a page whose poison flag is set, as a mask. -/
def Page.poison (p : Page) : Nat := total ((List.range 4).map fun k => if bitOf (p.cw k).flags 0 then 2 ^ k else 0)

/-- A page delivered with further codewords poisoned (R109). -/
def Page.poisoned (mask : Nat) (p : Page) : Page :=
  { p with cws := p.cws.zipIdx.map fun c => if bitOf mask c.2 then { c.1 with flags := c.1.flags ||| 1 } else c.1 }

/-- The page as a copy of it is programmed: with a write sequence number of its own. -/
def Page.copied (seq : Nat) (p : Page) : Page := mkPage p.kind p.no seq p.poison p.data

/-- Does the crc of codeword `k` match (R108)? -/
def Page.crcOk (p : Page) (k : Nat) : Bool :=
  (p.cw k).crc == cwCrc p.data k (p.cw k).tag (p.cw k).seq (p.cw k).index (p.cw k).flags

/-- Byte-wise XOR of two memories. -/
def memXor (m n : Mem) : Mem := n.foldl (fun m c => memPut m c.1 (memByte m c.1 ^^^ c.2)) m

/-- XOR of the data and the metadata of two pages, codeword by codeword, the crc like every other byte (R119). -/
def Page.xor (p q : Page) : Page :=
  { data := memXor p.data q.data
    cws := (List.range 4).map fun k =>
      let a := p.cw k
      let b := q.cw k
      { tag := a.tag ^^^ b.tag, seq := a.seq ^^^ b.seq, index := a.index ^^^ b.index, flags := a.flags ^^^ b.flags, crc := a.crc ^^^ b.crc } }

/-- The page of zeros that an XOR starts from. -/
def zeroPage : Page := { data := [], cws := List.replicate 4 { tag := 0, seq := 0, index := 0, flags := 0, crc := 0 } }

/-- The programmed page at an address. -/
def pageAt (s : State) (a : Nat) : Option Page := (s.nand.pages.find? (·.1 == a)).map (·.2)

/-- Store a programmed page. -/
def putPage (a : Nat) (p : Page) (s : State) : State :=
  modNand (fun n => { n with pages := (a, p) :: n.pages.filter (·.1 != a) }) s

/-! ### Superblocks (R119 to R122, R135) -/

/-- A superblock's record. -/
def findSb (s : State) (id : Nat) : Option Superblock := s.blk.sbs.find? (·.id == id)

/-- Change a superblock's record. -/
def modSb (id : Nat) (f : Superblock → Superblock) (s : State) : State :=
  modBlk (fun b => { b with sbs := updWhere (·.id == id) f b.sbs }) s

/-- Does a member hold a page address? -/
def Member.holds (m : Member) (a : Nat) : Bool :=
  m.ch == physChannel a && m.die == physDie a && m.blocks.getD (physPlane a) 2730 == physBlock a

/-- The superblock in use that a page address lies in. -/
def sbAt (s : State) (a : Nat) : Option Superblock := s.blk.sbs.find? fun b => b.members.any (·.holds a)

/-- Does a superblock hold a page address? -/
def Superblock.holds (b : Superblock) (a : Nat) : Bool := b.members.any (·.holds a)

/-- The member of a superblock on a channel. -/
def Superblock.member (b : Superblock) (c : Nat) : Option Member := b.members.find? (·.ch == c)

/-- The channel that holds a superblock's parity: s mod 64, or the next in ascending order that has a member (R119, R135). -/
def parityChannel (b : Superblock) : Nat :=
  match (List.range 64).find? fun k => (b.member ((b.id + k) % 64)).isSome with
  | some k => (b.id + k) % 64
  | none => b.id % 64

/-- The members that take data. A locked superblock has no parity die, and channel c stands for its pair c and c + 32 (R122). -/
def dataMembers (b : Superblock) : List Member :=
  if b.stream == 6 then b.members.filter (decide <| ·.ch < 32) else b.members.filter (·.ch != parityChannel b)

/-- Program units a superblock holds: one per data member at each of 512 wordlines. -/
def unitsIn (b : Superblock) : Nat := 512 * (dataMembers b).length

/-- The address of place `i` of 12 of a member's program unit at a wordline: plane i div 3, page type i mod 3. -/
def Member.place (m : Member) (wl i : Nat) : Nat := physAddr m.ch m.die (i / 3) (m.blocks.getD (i / 3) 0) (3 * wl + i % 3)

/-- Pages per program unit. -/
def unitPages : Nat := 12

/-- The wordline of a page address. -/
def wordlineOf (a : Nat) : Nat := physPage a / 3

/-- The place in its unit of a page address. -/
def placeOf (a : Nat) : Nat := physPlane a * 3 + physPage a % 3

/-! ### Drawing blocks from the free pool (R135, R138) -/

/-- Is a block in use by a superblock? -/
def inUse (s : State) (c d p b : Nat) : Bool :=
  s.blk.sbs.any fun x => x.members.any fun m => m.ch == c && m.die == d && m.blocks.getD p 2730 == b

/-- Is a block free on every channel of `cs`: good, in no superblock, and not of the reserved superblock (R117, R122)? -/
def freeBlock (s : State) (cs : List Nat) (d p b : Nat) : Bool :=
  !(d == 0 && b == 0) && cs.all fun c => !blockBad s (c * 80 + d * 4 + p) b && !inUse s c d p b

/-- The erase count of a block: for a pair the higher of the two. -/
def wearOf (s : State) (cs : List Nat) (d p b : Nat) : Nat :=
  (cs.map fun c => kvGet 0 s.nand.wear (blockEntry (c * 80 + d * 4 + p) b)).foldl max 0

/-- The lowest free block never erased, from `b` on. -/
def freshBlock (s : State) (cs : List Nat) (d p : Nat) : Nat → Nat → Option Nat
  | 0, _ => none
  | n + 1, b => if wearOf s cs d p b == 0 && freeBlock s cs d p b then some b else freshBlock s cs d p n (b + 1)

/-- Free blocks of a plane that have been erased, with their counts. -/
def wornBlocks (s : State) (cs : List Nat) (d p : Nat) : List (Nat × Nat) :=
  ((s.nand.wear.filter fun e => cs.any fun c => e.1 / 2730 == c * 80 + d * 4 + p).map fun e => e.1 % 2730).eraseDups.filterMap
    fun b => if freeBlock s cs d p b then some (wearOf s cs d p b, b) else none

/-- The entry of the lowest count, or with `hot` false of the highest below the rated 5,000 (R135). -/
def pickWorn (hot : Bool) : List (Nat × Nat) → Option (Nat × Nat)
  | [] => none
  | e :: l =>
    match pickWorn hot l with
    | none => if hot || decide (e.1 < 5000) then some e else none
    | some r => if (if hot then decide (e.1 ≤ r.1) else decide (r.1 ≤ e.1) && decide (e.1 < 5000)) then some e else some r

/-- The free block of a plane that a stream draws, with its count (R135). -/
def drawBlock (hot : Bool) (s : State) (cs : List Nat) (d p : Nat) : Option (Nat × Nat) :=
  let fresh := (freshBlock s cs d p 2730 0).map fun b => (0, b)
  let worn := pickWorn hot (wornBlocks s cs d p)
  if hot then (match fresh with | some x => some x | none => worn)
  else (match worn with | some x => some x | none => fresh)

/-- Open superblocks with a member on a die (R135: at most two). -/
def openOnDie (s : State) (c d : Nat) : Nat :=
  (s.blk.sbs.filter fun b => b.st == 1 && b.members.any fun m => m.ch == c && m.die == d).length

/-- The member a die can give, with the sum of its blocks' counts: the die works, holds fewer than two open members, and has a free block in every
plane. -/
def dieMember (hot : Bool) (s : State) (cs : List Nat) (d : Nat) : Option (Nat × List Nat) :=
  if cs.any fun c => dieLost s c d || decide (2 ≤ openOnDie s c d) then none
  else
    let bs := (List.range 4).filterMap (drawBlock hot s cs d)
    if bs.length == 4 then some (total (bs.map (·.1)), bs.map (·.2)) else none

/-- The die whose blocks suit the stream best, the first of equals (R135; DESIGN CHOICE, assumption 67). -/
def bestDie (hot : Bool) (s : State) (cs : List Nat) : List Nat → Option (Nat × Nat × List Nat)
  | [] => none
  | d :: ds =>
    match dieMember hot s cs d with
    | none => bestDie hot s cs ds
    | some (n, bs) =>
      if n == 0 && (hot || s.nand.wear == []) then some (n, d, bs)
      else match bestDie hot s cs ds with
        | none => some (n, d, bs)
        | some r => if (if hot then decide (r.1 < n) else decide (n < r.1)) then some r else some (n, d, bs)

/-- Hot and warm superblocks take the lowest erase counts, cold and frozen ones the highest below the rated limit (R135). Garbage-collection,
metadata, locked and dump-set superblocks take the lowest: the manual names none for them (DESIGN CHOICE, assumption 67). -/
def drawsLow (stream : Nat) : Bool := decide (stream ≤ 1) || decide (4 ≤ stream)

/-- The members of a new superblock: one on every working channel, or for a locked one the same blocks on every pair that is whole; none when some
channel has no blocks to give (R122, R135). `skip` lists the dies of a channel that may not be used (R138). -/
def drawMembers (stream : Nat) (skip : Nat → List Nat) (s : State) : Option (List Member) :=
  let hot := drawsLow stream
  let dies := fun c => (List.range 20).filter fun d => !(skip c).contains d
  let sets := if stream == 6 then ((List.range 32).filter fun c => !channelFailed s c && !channelFailed s (c + 32)).map fun c => [c, c + 32]
    else ((List.range 64).filter fun c => !channelFailed s c).map fun c => [c]
  let got := sets.map fun cs => (bestDie hot s cs (dies (cs.headD 0))).map fun r =>
    cs.map fun c => ({ ch := c, die := r.2.1, blocks := r.2.2 } : Member)
  if got != [] && got.all (·.isSome) then some (got.flatMap (·.getD [])) else none

/-- Bad blocks that stand in no superblock, in the plane of a die that has the most of them. -/
def badOnDie (s : State) (c d : Nat) : Nat :=
  ((List.range 4).map fun p => (s.nand.bbt.filter fun e =>
    e.1 / 2730 == c * 80 + d * 4 + p && !inUse s c d p (e.1 % 2730)).length).foldl max 0

/-- Members that a channel can still give. -/
def freeOnChannel (s : State) (c : Nat) : Nat :=
  let lost := (failedDies s).filter fun x => x / 20 == c
  let used := (s.blk.sbs.filter fun b => b.members.any fun m => m.ch == c && !lost.contains (c * 20 + m.die)).length
  let bad := ((s.nand.bbt.filter fun e => e.1 / 218400 == c).map fun e => e.1 / 10920 % 20).eraseDups.filter fun d => !lost.contains (c * 20 + d)
  54600 - 2730 * lost.length - boolNat (!lost.contains (c * 20)) - used - total (bad.map (badOnDie s c))

/-- Free superblocks: as many as every working channel can give a member to (GcPolicy.3). -/
def freeCount (s : State) : Nat :=
  ((List.range 64).filter fun c => !channelFailed s c).foldl (fun n c => min n (freeOnChannel s c)) 54599

/-- The descriptor of a member (Table 6-4); that of a channel without one is all ones (DESIGN CHOICE, assumption 20). -/
def memberWord (b : Superblock) (c : Nat) : Nat :=
  match b.member c with
  | some m => m.die * 2 ^ 48 + total ((List.range 4).map fun p => m.blocks.getD p 0 * 2 ^ (12 * p))
  | none => 2 ^ 64 - 1

/-- The entry of kind 04h of a superblock, with its member descriptors (Table 6-4). -/
def openEntry (b : Superblock) : JEntry :=
  { kind := 4, count := 1, key := b.id, value := b.stream, extra := b.birth, desc := (List.range 64).map (memberWord b) }

/-- Open a superblock for a stream with state `st` (1 open, 5 for the dump set), and record it in the map journal (kind 04h, Table 6-4). -/
def openSb (stream st : Nat) (skip : Nat → List Nat) (s : State) : Option Superblock × State :=
  match drawMembers stream skip s with
  | none => (none, s)
  | some ms =>
    let b : Superblock := { id := s.blk.nextSb, members := ms, stream := stream, st := st, birth := s.time, next := 0, queued := false,
                            refresh := false, early := false, programmedAt := s.time, toErase := [] }
    (some b, modBlk (fun k => { k with nextSb := k.nextSb + 1, sbs := b :: k.sbs, jbuf := k.jbuf ++ [openEntry b] }) s)

/-- The open superblock of a stream that has room; where none has, one is opened while the stream has fewer than four open (R135). -/
def streamSb (stream : Nat) (s : State) : Option Superblock × State :=
  match s.blk.sbs.find? fun b => b.st == 1 && b.stream == stream && decide (b.next < unitsIn b) with
  | some b => (some b, s)
  | none =>
    if decide (4 ≤ (s.blk.sbs.filter fun b => b.st == 1 && b.stream == stream).length) then (none, s)
    else openSb stream 1 (fun _ => []) s

/-- Queue a superblock for refresh (R151); `early` keeps whether that came within 24 h of its program (R153). -/
def queueRefresh (id : Nat) (s : State) : State :=
  modSb id (fun b => if b.refresh then b else { b with
    refresh := true
    early := decide (s.time < b.programmedAt + 86400 * 10 ^ 9) }) s

/-! ### Die operations and suspension (R112, R113) -/

/-- The operation under way at a die. -/
def dieOp (s : State) (c d : Nat) : Option DieOp := s.nand.dieOps.find? fun o => o.channel == c && o.die == d

/-- Change the operation under way at a die. -/
def modDieOp (c d : Nat) (f : DieOp → DieOp) (s : State) : State :=
  modNand (fun n => { n with dieOps := updWhere (fun o => o.channel == c && o.die == d) f n.dieOps }) s

/-- The page reads under way or queued at a die. -/
def readsAt (s : State) (c d : Nat) : List Nat := s.nand.reads.filter fun a => physChannel a == c && physDie a == d

/-- May a die with an operation serve the read of a page (R113)? -/
def readAllowed (s : State) (o : DieOp) (a : Nat) : Bool :=
  if o.erase then (match findSb s o.sb with | some b => !b.holds a | none => true)
  else match s.blk.units.find? (·.phys == o.unit), findSb s o.sb with
    | some u, some b => !(wordlineOf a == u.wl && b.holds a)
    | _, _ => true

/-- Can a die deliver the read of a page now: it has no operation, or one that is suspended and allows it (R112, R113)? -/
def dieServes (s : State) (c d a : Nat) : Bool :=
  match dieOp s c d with
  | none => true
  | some o => o.susp == 2 && readAllowed s o a

/-- SUSPEND_ISSUE: the minimum run is reached with a read queued, and suspend is issued (R112 step 1). -/
def suspendIssueF (c d : Nat) (s : State) : State :=
  match dieOp s c d with
  | some o => if o.susp == 0 && readsAt s c d != [] then modDieOp c d (fun o => { o with susp := 1 }) s else s
  | none => s

def execSuspendIssue (channel die : Nat) (s : State) : Res := finish s (suspendIssueF channel die s)

/-- SUSPENSION_LIMIT: the suspension has lasted SuspendPolicy.3 and the operation resumes (R112 step 3). -/
def suspensionLimitF (c d : Nat) (s : State) : State :=
  match dieOp s c d with
  | some o => if o.susp == 2 then modDieOp c d (fun o => { o with susp := 0 }) s else s
  | none => s

def execSuspensionLimit (channel die : Nat) (s : State) : Res := finish s (suspensionLimitF channel die s)

/-! ### Firmware flash (R126 to R128) -/

/-- A bank of the firmware flash: 0 A, 1 B. -/
def bank (s : State) (b : Nat) : Bank := if b == 0 then s.fw.bankA else s.fw.bankB

/-- Change a bank. -/
def modBank (b : Nat) (f : Bank → Bank) (s : State) : State :=
  modFw (fun w => if b == 0 then { w with bankA := f w.bankA } else { w with bankB := f w.bankB }) s

/-- A Firmware Commit discards the staged image. -/
def dropStaged (s : State) : State := modFw (fun f => { f with staged := [], stagedBytes := 0 }) s

/-- Bytes of the staged image, from its header (Table 17-8). -/
def stagedLength (s : State) : Nat := field (memRead s.fw.staged 0 128) 32 4

/-- The Firmware Commit under way is lost: its image has no commit record, so it is never booted (R126, R429, Table 17-6). The staged image goes
with it, and FirmwareUpdate.3 records it. -/
def dropCommit (s : State) : State :=
  match s.fw.job with
  | some _ => storeSet 0x1360 3 4 (dropStaged (modFw (fun f => { f with job := none }) s))
  | none => s

/-- The Firmware Commit under way ends: FirmwareUpdate.3 takes its outcome and the command completes. -/
def endCommit (j : FwJob) (outcome : Nat) (st : Status) (s : State) : State :=
  post j.fn j.sq j.cid st 0 0 (storeSet 0x1360 3 outcome (dropStaged (modFw (fun f => { f with job := none }) s)))

/-- The commit record is complete: the bank holds the image, and action 001b names it for the next boot (R429 steps 5 and 6). -/
def commitRecord (j : FwJob) (s : State) : State :=
  let h := memRead s.fw.staged 0 128
  let seq := 1 + max (s.fw.bankA.commit.getD 0) (s.fw.bankB.commit.getD 0)
  let s := modBank j.bank (fun _ =>
    { header := h, digest := sha256 (memRead s.fw.staged 0 (stagedLength s)), sig := j.sig, commit := some seq }) s
  if j.action == 1 then endCommit j 1 stFwNeedsReset (storeSet 0x1001 4 j.bank s) else endCommit j 1 stSuccess s

/-- FW_FLASH_SEQUENCER_DONE: the sector erase or page program of the commit under way ends (R128). First come the commit sector and the sectors
that the image occupies, then its pages, then the read-back and the commit record (R429). -/
def fwFlashSequencerDoneF (s : State) : State :=
  match s.fw.job with
  | none => s
  | some j =>
    let go := fun (phase pos : Nat) => modFw (fun f => { f with job := some { j with phase := phase, pos := pos } }) s
    let len := stagedLength s
    if j.phase == 2 then
      if j.pos < (len + 65535) / 65536 then go 2 (j.pos + 1) else go 3 0
    else if j.phase == 3 then
      if j.pos + 1 < (len + 255) / 256 then go 3 (j.pos + 1)
      else if j.readBackOk then go 5 0
      else endCommit j 3 stInvalidFwImage s
    else commitRecord j s

def execFwFlashSequencerDone (s : State) : Res := finish s (fwFlashSequencerDoneF s)

/-- Is the hardware sequencer busy: does it program a record of the store, or carry out a commit (FirmwareFlash.4, R127)? -/
def sequencerBusy (s : State) : Bool := s.dict.pendingWrite.isSome || s.fw.job.isSome

/-- BUS_FAULT: the read returns no data, the fault is logged with its address and counted, and the sequencer's operation goes on
(R127). The sequencer works in the inactive bank; a read of a bank it is not using gives no fault. -/
def busFaultF (addr : Nat) (s : State) : State :=
  if sequencerBusy s && addr / 2 ^ 26 % 2 != s.fw.active then
    logEv { source := 9, cls := 6, address := addr % 2 ^ 27 } (bump 0x2050 1 s)
  else s

def execBusFault (addr : Nat) (s : State) : Res := finish s (busFaultF addr s)

end Sys2Proof.Machine
end

