-- ==== Sys2Proof/Machine/Units.lean ====
section
/-! DEFINITION. Program units, the parity of their stripes, the start of die operations, and the reads of pages (R112, R119 to R121, R135, R149 to
R153, R449). -/

namespace Sys2Proof.Machine

open Sys2Proof

/-! ### Starting what waits for a die (Table 5-4, R122, R449) -/

/-- Dies of a channel that may program at once (R449). -/
def programLimit (s : State) : Nat := [20, 10, 5, 2, 1].getD s.thr.prog 1

/-- Programs under way on a channel. -/
def programsOn (s : State) (c : Nat) : Nat := (s.nand.dieOps.filter fun o => !o.erase && o.channel == c).length

/-- Is a die idle: no operation at it, and no read, which goes first (R112)? -/
def dieIdle (s : State) (c d : Nat) : Bool := (dieOp s c d).isNone && readsAt s c d == []

/-- The dies a unit programs: one, or the same die of both channels of a pair (R122). -/
def unitDies (u : ProgUnit) : List Nat := u.ch :: (if u.locked then [u.ch + 32] else [])

/-- Start the program of a waiting unit once each of its dies is idle and its channels are below the program level; it is verified against the
VerifyThreshold then in force (R129). -/
def issueUnit (s : State) (u : ProgUnit) : State :=
  if u.waiting && (unitDies u).all fun c => dieIdle s c u.die && decide (programsOn s c < programLimit s) then
    modNand (fun n => { n with dieOps := n.dieOps ++ (unitDies u).map fun c =>
      ({ channel := c, die := u.die, erase := false, sb := u.sb, unit := u.phys, susp := 0 } : DieOp) })
      (modBlk (fun b => { b with
        units := updWhere (·.phys == u.phys) (fun v => { v with waiting := false, threshold := obj s 0x2003 1 }) b.units }) s)
  else s

/-- Start the erase of a superblock's member on a channel once its die is idle. -/
def issueErase (id : Nat) (s : State) (c : Nat) : State :=
  match (findSb s id).bind (·.member c) with
  | some m =>
    if dieIdle s c m.die then
      modNand (fun n => { n with
        dieOps := n.dieOps ++ [{ channel := c, die := m.die, erase := true, sb := id, unit := 0, susp := 0 }] })
        (modSb id (fun b => { b with toErase := b.toErase.filter (· != c) }) s)
    else s
  | none => s

/-- Start every waiting program and erase whose dies are idle, programs first. -/
def issueAll (s : State) : State :=
  let s := s.blk.units.foldl issueUnit s
  s.blk.sbs.foldl (fun s b => b.toErase.foldl (issueErase b.id) s) s

/-- Remove the operations of a unit. -/
def endOps (u : ProgUnit) (s : State) : State :=
  modNand (fun n => { n with dieOps := n.dieOps.filter fun o => o.erase || o.unit != u.phys }) s

/-! ### Placing units (R119, R134, R135) -/

/-- The superblocks that the copies of a unit come from. -/
def sourcesOf (s : State) (ps : List UnitPage) : List Superblock := ps.filterMap fun x => x.src.bind (sbAt s)

/-- A unit joins its stripe, which is open from its first unit on (R120). -/
def joinStripe (sb wl : Nat) (srcs : List Nat) (s : State) : State :=
  modBlk (fun b => { b with
    stripes :=
      if b.stripes.any fun t => t.sb == sb && t.wl == wl then
        updWhere (fun t => t.sb == sb && t.wl == wl) (fun t => { t with srcs := (t.srcs ++ srcs).eraseDups }) b.stripes
      else b.stripes ++ [{ sb := sb, wl := wl, done := [], closing := false, srcs := srcs.eraseDups }] }) s

/-- A place in a superblock, for when it has none. -/
def noMember : Member := { ch := 0, die := 0, blocks := [] }

/-- The next program unit of a superblock: its member and wordline, channel by channel. -/
def nextPlace (b : Superblock) : Member × Nat :=
  let ms := dataMembers b
  (ms.getD (b.next % max 1 ms.length) noMember, b.next / max 1 ms.length)

/-- Give pages the next program unit of their stream's open superblock, where it waits for its dies; none where no superblock can be opened. -/
def placeUnit (stream : Nat) (seg : Option Nat) (ps : List UnitPage) (s : State) : Option State :=
  match streamSb stream s with
  | (none, _) => none
  | (some b, s) =>
    let (m, wl) := nextPlace b
    let srcs := sourcesOf s ps
    let u : ProgUnit := { phys := m.place wl 0, sb := b.id, wl := wl, ch := m.ch, die := m.die, locked := b.stream == 6, pages := ps,
                          parity := false, seg := seg, waiting := true, threshold := 0 }
    let s := modSb b.id (fun b => { b with next := b.next + 1, birth := srcs.foldl (fun t x => min t x.birth) b.birth }) s
    let s := if b.stream == 6 then s else joinStripe b.id wl (srcs.map (·.id)) s
    some (modBlk (fun k => { k with
      units := k.units ++ [u]
      programmed := k.programmed + (if seg.isSome then 0 else ps.length) }) s)

/-! ### Stripes (R119 to R121) -/

/-- Place `i` of a stripe's parity: the XOR of that place of every member that holds data (R119). -/
def parityPage (s : State) (b : Superblock) (wl i : Nat) : Page :=
  (dataMembers b).foldl (fun p m => match pageAt s (m.place wl i) with
    | some q => p.xor q
    | none => p) zeroPage

/-- Store a stripe's parity. -/
def landParity (b : Superblock) (wl : Nat) (s : State) : State :=
  match b.member (parityChannel b) with
  | some m => (List.range unitPages).foldl (fun t i => putPage (m.place wl i) (parityPage s b wl i) t) s
  | none => s

/-- The entry of kind 03h that closes a stripe, with the members present, the parity's among them (Table 6-4). -/
def stripeEntry (b : Superblock) (wl : Nat) (done : List Nat) : JEntry :=
  { kind := 3, count := wl, key := b.id, value := 0, extra := total ((parityChannel b :: done).map (2 ^ ·)), desc := [] }

/-- Have all data members of a stripe been programmed? -/
def stripeFull (b : Superblock) (t : Stripe) : Bool := (dataMembers b).all fun m => t.done.contains m.ch

/-- Forget a stripe. -/
def dropStripe (sb wl : Nat) (s : State) : State :=
  modBlk (fun b => { b with stripes := b.stripes.filter fun t => !(t.sb == sb && t.wl == wl) }) s

/-- A stripe's parity is verified: the stripe is closed, with an entry where it closed early (R120). -/
def closedStripe (b : Superblock) (wl : Nat) (s : State) : State :=
  match s.blk.stripes.find? fun t => t.sb == b.id && t.wl == wl with
  | some t =>
    let s := dropStripe b.id wl s
    if stripeFull b t then s else modBlk (fun k => { k with jbuf := k.jbuf ++ [stripeEntry b wl t.done] }) s
  | none => s

/-- A stripe whose parity cannot be programmed: the data that the Pail still holds is programmed again elsewhere, and the superblock is to be
relocated (DESIGN CHOICE, assumption 71). -/
def loseStripe (sb wl : Nat) (s : State) : State :=
  let lies := fun (a : Nat) => wordlineOf a == wl && (match findSb s sb with | some b => b.holds a | none => false)
  let here := fun (p : PailPage) => let e := kvGet 0 s.blk.map p.lpn
    (p.phase == 2 && bitOf e 39 && lies (e % 2 ^ 35)) || p.verified.any lies
  dropStripe sb wl (modSb sb (fun b => { b with queued := true, st := if b.st == 1 then 2 else b.st }) (modBlk (fun b => { b with
    pail := updWhere here (fun p => { p with phase := 0, verified := none }) b.pail }) s))

/-- Start the parity program of a stripe. -/
def startParity (b : Superblock) (wl : Nat) (s : State) : State :=
  match b.member (parityChannel b) with
  | some m =>
    if dieLost s m.ch m.die then loseStripe b.id wl s
    else modBlk (fun k => { k with units := k.units ++
      [{ phys := m.place wl 0, sb := b.id, wl := wl, ch := m.ch, die := m.die, locked := false, pages := [], parity := true, seg := none,
         waiting := true, threshold := 0 }] }) s
  | none => loseStripe b.id wl s

/-- Is a unit of a stripe, data or parity, still to be verified? -/
def stripeBusy (s : State) (t : Stripe) : Bool := s.blk.units.any fun u => u.sb == t.sb && u.wl == t.wl

/-- Program the parity of every stripe that is full or closing, once none of its units is under way. -/
def pumpStripes (s : State) : State :=
  s.blk.stripes.foldl (fun s t =>
    match findSb s t.sb with
    | none => dropStripe t.sb t.wl s
    | some b =>
      if stripeBusy s t || !(t.closing || stripeFull b t) then s
      else if t.done == [] then dropStripe t.sb t.wl s
      else startParity b t.wl s) s

/-- Close the stripes early that `p` picks: what is not placed yet of their wordlines stays erased (R120). -/
def closeEarly (p : Stripe → Bool) (s : State) : State :=
  let ts := s.blk.stripes.filter p
  let s := modBlk (fun b => { b with stripes := updWhere p (fun t => { t with closing := true }) b.stripes }) s
  ts.foldl (fun s t => modSb t.sb (fun b => { b with next := max b.next ((t.wl + 1) * (dataMembers b).length) }) s) s

/-- A superblock takes no further unit: it is closed, and its stripes close early (R120). -/
def abandonSb (id : Nat) (s : State) : State :=
  closeEarly (·.sb == id) (modSb id (fun b => if b.st == 1 then { b with st := 2, programmedAt := s.time } else b) s)

/-- Close a superblock whose units are all programmed. -/
def closeIfFull (id : Nat) (s : State) : State :=
  match findSb s id with
  | some b => if b.st == 1 && decide (unitsIn b ≤ b.next) && !s.blk.units.any (·.sb == id) then
      modSb id (fun b => { b with st := 2, programmedAt := s.time }) s else s
  | none => s

/-- Does the page at an address lie in an open stripe? -/
def stripeOpenAt (s : State) (a : Nat) : Bool :=
  s.blk.stripes.any fun t => t.wl == wordlineOf a && (match findSb s t.sb with | some b => b.holds a | none => false)

/-! ### Rebuild (R121) -/

/-- The other members of a page's stripe that hold something there, the parity's among them. -/
def stripeMates (s : State) (b : Superblock) (a : Nat) : List Nat :=
  (b.members.map fun m => m.place (wordlineOf a) (placeOf a)).filter fun x => x != a && (pageAt s x).isSome

/-- The page rebuilt from the stripe: the XOR of the other members with the parity, which an open stripe has in its accumulator (R120, R121). -/
def rebuiltPage (s : State) (b : Superblock) (a : Nat) : Page :=
  let parity := match b.member (parityChannel b) with
    | some m => (pageAt s (m.place (wordlineOf a) (placeOf a))).getD (parityPage s b (wordlineOf a) (placeOf a))
    | none => zeroPage
  if physChannel a == parityChannel b then parityPage s b (wordlineOf a) (placeOf a)
  else (dataMembers b).foldl (fun p m =>
    let x := m.place (wordlineOf a) (placeOf a)
    if x == a then p else match pageAt s x with | some q => p.xor q | none => p) parity

/-- Does the rebuild of codeword `k` of a page succeed: every other member that holds something there is on a working die, in no bad block and
decoded (`bad` lists the channels and codewords that are not), and the result's crc matches (R121)? Locked superblocks have no parity (R122). -/
def rebuildOk (s : State) (b : Superblock) (a : Nat) (bad : List (Nat × Nat)) (k : Nat) : Bool :=
  b.stream != 6 &&
  ((stripeMates s b a).all fun x => !dieLost s (physChannel x) (physDie x) && !blockBad s (physUnit x) (physBlock x) &&
    !bad.contains (physChannel x, k)) &&
  (physChannel a == parityChannel b || (rebuiltPage s b a).crcOk k)

/-! ### Reads of pages, and the counts they keep (R112, R150, R151, R153) -/

/-- Ask for the rebuild of codewords of a page. -/
def askRebuild (a : Nat) (cws : List Nat) (s : State) : State :=
  modNand (fun n => { n with
    rebuilds := if n.rebuilds.any (·.phys == a) then updWhere (·.phys == a) (fun r => { r with cws := (r.cws ++ cws).eraseDups }) n.rebuilds
      else n.rebuilds ++ [{ phys := a, cws := cws }] }) s

/-- Start the read of a page: at its die, or by rebuild where the die or its channel has failed or the block is bad (R105, R115, R121). -/
def startRead (a : Nat) (s : State) : State :=
  if dieLost s (physChannel a) (physDie a) || blockBad s (physUnit a) (physBlock a) then askRebuild a [0, 1, 2, 3] s
  else modNand (fun n => { n with reads := if n.reads.contains a then n.reads else n.reads ++ [a] }) s

/-- Block key of the read counters. -/
def blockKey (a : Nat) : Nat := blockEntry (physUnit a) (physBlock a)

/-- A block's read counter (R150). -/
def readsOf (s : State) (key : Nat) : Nat := kvGet s.nand.readFloor s.nand.readCount key

/-- Set a block's read counter. -/
def setReads (key v : Nat) (s : State) : State :=
  modNand (fun n => { n with readCount := kvPut n.readFloor n.readCount key v }) s

/-- The programmed pages of a block. -/
def pagesOfBlock (s : State) (key : Nat) : List Nat := (s.nand.pages.map (·.1)).filter fun a => blockKey a == key

/-- A block's counter has reached Patrol.2: its pages are read once, to find a codeword that asks for refresh (R151). -/
def startScan (key : Nat) (s : State) : State :=
  if s.nand.scans.any (·.block == key) then s
  else
    let l := pagesOfBlock s key
    if l == [] then setReads key 0 s
    else l.foldl (fun s a => startRead a s) (modNand (fun n => { n with scans := n.scans ++ [{ block := key, left := l }] }) s)

/-- Count a read of a page's block: host, internal, patrol or scoring (R150). -/
def countRead (a : Nat) (s : State) : State :=
  let key := blockKey a
  let n := readsOf s key + 1
  let s := setReads key n s
  if decide (obj s 0x2120 2 ≤ n) then startScan key s else s

/-- A page of a scan has been read; the scan of a block in which nothing was found puts its counter back to 0, and one that found something has
queued its superblock and ends (R151). -/
def scanRead (a : Nat) (found : Bool) (s : State) : State :=
  let key := blockKey a
  match s.nand.scans.find? (·.block == key) with
  | none => s
  | some g =>
    let rest := g.left.filter (· != a)
    if found || rest == [] then
      let s := modNand (fun n => { n with scans := n.scans.filter (·.block != key) }) s
      if found then s else setReads key 0 s
    else modNand (fun n => { n with scans := updWhere (·.block == key) (fun g => { g with left := rest }) n.scans }) s

/-- Does a read's outcome ask for the refresh of its superblock (R151)? -/
def asksRefresh (s : State) (cws : List CwResult) : Bool :=
  cws.any fun c => decide (obj s 0x2120 3 < c.corrected) || decide (2 ≤ c.step)

/-- A read's corrections are weighed for refresh, and for the scan it may belong to (R151). -/
def weighRead (a : Nat) (cws : List CwResult) (s : State) : State :=
  let hit := asksRefresh s cws
  let s := if hit then (match sbAt s a with | some b => queueRefresh b.id s | none => s) else s
  scanRead a hit s

/-- A read of a block has needed step 4 of Table 5-6 (R153). -/
def countDeep (a : Nat) (s : State) : State :=
  modNand (fun n => { n with deepReads := kvPut 0 n.deepReads (blockKey a) (kvGet 0 n.deepReads (blockKey a) + 1) }) s

/-- Count decodes of a block's codewords and the bits they corrected, for its tracked rate (R277). -/
def countRate (a : Nat) (cws : List CwResult) (s : State) : State :=
  let k := blockKey a
  let ok := cws.filter fun c => decide (c.step ≤ 3)
  modNand (fun n => { n with
    decodes := kvPut 0 n.decodes k (kvGet 0 n.decodes k + ok.length)
    corrected := kvPut 0 n.corrected k (kvGet 0 n.corrected k + total (ok.map (·.corrected))) }) s

/-- Blocks that are programmed or erased have no decodes since. -/
def clearRate (keys : List Nat) (s : State) : State :=
  modNand (fun n => { n with
    decodes := n.decodes.filter fun x => !keys.contains x.1
    corrected := n.corrected.filter fun x => !keys.contains x.1 }) s

/-- A die read of a page ends: it leaves its die's queue, a suspension with no allowed read left ends, and the die may go on (R112 step 3). -/
def readServed (a : Nat) (s : State) : State :=
  let c := physChannel a
  let d := physDie a
  let s := modNand (fun n => { n with reads := n.reads.filter (· != a) }) (countRead a s)
  let s := match dieOp s c d with
    | some o => if o.susp == 2 && !(readsAt s c d).any (readAllowed s o) then modDieOp c d (fun o => { o with susp := 0 }) s else s
    | none => s
  issueAll s

end Sys2Proof.Machine
end

