-- ==== Sys2Proof/Machine/Journal.lean ====
section
/-! DEFINITION. The map, its journal and its checkpoints (R131, R133, R140 to R145, R157): entries, segments and their slots, what is committed,
and what waits for a commit (R55, R57, R73, R136). -/

namespace Sys2Proof.Machine

open Sys2Proof

/-! ### Map entries (Table 6-1) -/

/-- A map entry of a written page. -/
def mapEntry (poison pinned : Bool) (stream phys : Nat) : Nat :=
  2 ^ 39 + boolNat poison * 2 ^ 38 + boolNat pinned * 2 ^ 37 + (if pinned then 0 else stream % 4) * 2 ^ 35 + phys % 2 ^ 35

/-- The map entry of a logical page (R131). -/
def mapGet (s : State) (lpn : Nat) : Nat := kvGet 0 s.blk.map lpn

def entryValid (e : Nat) : Bool := bitOf e 39
def entryPoison (e : Nat) : Bool := bitOf e 38
def entryPinned (e : Nat) : Bool := bitOf e 37
def entryStream (e : Nat) : Nat := bitsOf e 36 35
def entryPhys (e : Nat) : Nat := e % 2 ^ 35

/-- The HBM stack that holds the entry of a logical page, and the line of the map its first byte lies in (R131). A line is 64 bytes. -/
def stackOf (lpn : Nat) : Nat := lpn / 2 ^ 31
def lineOf (lpn : Nat) : Nat := lpn * 5 / 64

/-- Does a line of the map hold a byte of a page's entry? -/
def lineHolds (line lpn : Nat) : Bool := decide (lineOf lpn ≤ line) && decide (line ≤ (lpn * 5 + 4) / 64)

/-- The slice that a map entry is written with: that of its first byte (R144). -/
def sliceOf (lpn : Nat) : Nat := lpn * 5 / 2 ^ 30

/-- Append an entry to the journal. -/
def journal (e : JEntry) (s : State) : State := modBlk (fun b => { b with jbuf := b.jbuf ++ [e] }) s

/-- Set a map entry and append the change to the journal in the same order (R142). -/
def mapSet (lpn e : Nat) (s : State) : State :=
  journal (if e == 0 then { kind := 2, count := 1, key := lpn, value := 0, extra := 0, desc := [] }
           else { kind := 1, count := 1, key := lpn, value := e, extra := 0, desc := [] })
    (modBlk (fun b => { b with map := kvPut 0 b.map lpn e }) s)

/-! ### Entries and segments (R140, R141) -/

/-- Apply a journal entry to a map (R140: entries are absolute). -/
def replayEntry (m : KV) (e : JEntry) : KV :=
  if e.kind == 1 then kvPut 0 m e.key e.value
  else if e.kind == 2 then m.filter fun x => !(decide (e.key ≤ x.1) && decide (x.1 < e.key + e.count))
  else m

/-- The map that the checkpoints hold. -/
def ckptMap (b : Block) : KV := b.ckpts.foldl (fun m c => c.data.foldl (fun m x => kvPut 0 m x.1 x.2) m) []

/-- The map that start-up rebuilds: the newest checkpoints, then every committed segment in order (R145). -/
def replayMap (b : Block) : KV := b.committed.foldl (fun m g => g.entries.foldl replayEntry m) (ckptMap b)

/-- Slots an entry takes: that of a superblock's opening is followed by its descriptors (Table 6-4). -/
def entrySlots (e : JEntry) : Nat := if e.kind == 4 then 17 else 1

/-- Slots of a segment, and bytes of a slot (R140). -/
def segSlots : Nat := 6144
def slotBytes : Nat := 32

/-- The bytes of an entry with what follows it (Table 6-3). -/
def entryBytes (e : JEntry) : Bytes :=
  natLE 1 e.kind ++ natLE 3 0 ++ natLE 4 e.count ++ natLE 8 e.key ++ natLE 5 e.value ++ natLE 3 0 ++ natLE 8 e.extra ++
    e.desc.flatMap (natLE 8)

/-- An entry of kind 00h (Table 6-4). -/
def paddingEntry : JEntry := { kind := 0, count := 0, key := 0, value := 0, extra := 0, desc := [] }

/-- The slots of a segment: the Commit entry of the one before in slot 0, its entries, and Padding (R141). -/
def segmentSlots (g : Segment) : List JEntry :=
  let es := g.commit.getD paddingEntry :: g.entries
  es ++ List.replicate (segSlots - total (es.map entrySlots)) paddingEntry

/-- The bytes of a segment. -/
def segmentBytes (g : Segment) : Bytes := (segmentSlots g).flatMap entryBytes

/-- The CRC-32 over slots 1 to 6,143 of a segment (kind 0Fh). -/
def segmentCrc (g : Segment) : Nat := crc32 ((segmentBytes g).drop slotBytes)

/-- The Commit entry of a segment (kind 0Fh). -/
def commitEntry (g : Segment) : JEntry :=
  { kind := 15, count := g.entries.length, key := g.seq, value := segmentCrc g, extra := 0xA55A0FF0, desc := [] }

/-- The pages of a segment: one program unit of kind 2 (R141). -/
def segmentPages (g : Segment) (seq : Nat) : List UnitPage :=
  let m := memOf (segmentBytes g)
  (List.range unitPages).map fun i =>
    { lpn := g.seq, seq := seq, src := none, page := mkPage 2 g.seq seq 0 (memSlice m (16384 * i) (16384 * i + 16384)) }

/-- Slots that the first entry of a list takes with those tied to it. -/
def tiedSlots : List JEntry → Nat
  | [] => 0
  | e :: l => entrySlots e + (if e.tied then tiedSlots l else 0)

/-- The first entries of a list that fit in `n` slots, tied ones together, and the rest. -/
def takeSlots : Nat → List JEntry → List JEntry × List JEntry
  | _, [] => ([], [])
  | n, e :: l =>
    if tiedSlots (e :: l) ≤ n then
      let r := takeSlots (n - entrySlots e) l
      (e :: r.1, r.2)
    else ([], e :: l)

/-! ### What is committed -/

/-- Does a journal entry change the map entry of a page? -/
def touches (e : JEntry) (lpn : Nat) : Bool :=
  (e.kind == 1 && e.key == lpn) || (e.kind == 2 && decide (e.key ≤ lpn) && decide (lpn < e.key + e.count))

/-- Journal entries that are not committed. -/
def uncommittedEntries (b : Block) : List JEntry := b.segs.flatMap (·.entries) ++ b.jbuf

/-- Is some write or deallocation of a page not yet on flash with its map change committed? -/
def uncommittedPage (b : Block) (lpn : Nat) : Bool :=
  (b.pail.any fun p => p.lpn == lpn && p.phase != 2) || (uncommittedEntries b).any (touches · lpn)

/-- Is a change that a command waits for, a write of a page or a deallocation of a run of pages, not yet on flash or not committed? -/
def waitLeft (b : Block) (r : Nat × Nat) : Bool :=
  if r.2 ≤ 1 then uncommittedPage b r.1
  else (uncommittedEntries b).any fun e => e.kind == 2 && e.key == r.1 && e.count == r.2

/-- Is a waiting command's data on flash with its map change committed, with no tile left to write back (R169)? -/
def waitOver (b : Block) (x : Inflight) : Bool := x.tiles == [] && x.lpns.all fun r => !waitLeft b r

/-- The changes that waiting commands still wait for: one that has been committed is no longer waited for, whatever comes after it (R57). -/
def stillWaiting (b : Block) (xs : List Inflight) : List Inflight :=
  xs.map fun x => if x.started && x.lpns != [] && !waitOver b x then { x with lpns := x.lpns.filter (waitLeft b) } else x

/-- Does a command wait for the pages of a range? -/
def Inflight.waits (x : Inflight) (first count : Nat) : Bool :=
  x.started && x.lpns.any fun r => decide (r.1 < first + count) && decide (first < r.1 + max 1 r.2)

/-- Is a shutdown under way, which waits for the whole Pail (R73)? -/
def shuttingDown (s : State) : Bool := s.host.ctrls.any (·.shst == 1)

/-- The id of the full-vector object of an index (DESIGN CHOICE, assumption 77). -/
def fvObject (id : Nat) : Nat := 2 ^ 63 + 2 ^ 62 + id

/-- Is a page of the object store one of an index's? -/
def indexPage (id : Nat) (p : StorePage) : Bool :=
  match p.owner with
  | .segment i _ _ => i == id
  | .object o => o == fvObject id
  | _ => false

/-- Does the commit of an index's epoch, whose Ingests have all ended, wait for a range of pages (R143, R283 step 3; DEDUCED, assumption 84)? -/
def epochWaits (s : State) (first count : Nat) : Bool :=
  s.retr.indexes.any fun x => match x.closing with
    | some e => !(s.retr.ingests.any fun g => g.index == x.id && g.epoch == e) &&
        s.tier.pages.any fun p => indexPage x.id p && decide (first ≤ p.lpn) && decide (p.lpn < first + max 1 count)
    | none => false

/-- Does something wait for a range of pages to reach flash: a Flush, a FUA or uncached write, a shutdown, or the commit of an epoch (R452)? -/
def waited (s : State) (first count : Nat) : Bool :=
  shuttingDown s || s.host.inflight.any (·.waits first count) || epochWaits s first count

/-- Does a Flush or a shutdown wait for a page (R120)? -/
def flushWaits (s : State) (lpn : Nat) : Bool :=
  shuttingDown s || s.host.inflight.any fun x => x.opc == 0 && x.waits lpn 1

/-- Does something wait for the commit of a journal entry (R142)? -/
def entryWaited (s : State) (e : JEntry) : Bool := (e.kind == 1 || e.kind == 2) && waited s e.key e.count

/-- Complete the commands whose commit has come, and the shutdowns that found the Pail and the journal empty. -/
def settle (s : State) : State :=
  let b := s.blk
  let done := s.host.inflight.filter fun x => x.started && x.lpns != [] && waitOver b x
  let s := modHost (fun h => { h with inflight := stillWaiting b h.inflight }) s
  let s := done.foldl (fun s x => post x.fn x.sq x.cid stSuccess 0 0 s) s
  if s.blk.pail == [] && uncommittedEntries s.blk == [] then
    modHost (fun h => { h with ctrls := updWhere (·.shst == 1) (fun c => { c with shst := 2 }) h.ctrls }) s
  else s

/-- Let go of Pail pages that are programmed, whose map change has committed, and whose stripe has its parity (R120, R136). -/
def releasePail (s : State) : State :=
  let es := uncommittedEntries s.blk
  modBlk (fun b => { b with
    pail := b.pail.filter fun p => !(p.phase == 2 && !es.any (touches · p.lpn) && !stripeOpenAt s (entryPhys (mapGet s p.lpn))) }) s

/-- Deallocate a range of pages: the Pail lets their data go, the map entries become 0, and one entry of kind 02h is appended
(R157). -/
def deallocRange (first count : Nat) (s : State) : State :=
  if count == 0 then s
  else journal { kind := 2, count := count, key := first, value := 0, extra := 0, desc := [] } (modBlk (fun b => { b with
    pail := b.pail.filter fun p => !(decide (first ≤ p.lpn) && decide (p.lpn < first + count))
    merges := b.merges.filter fun l => !(decide (first ≤ l) && decide (l < first + count))
    map := b.map.filter fun x => !(decide (first ≤ x.1) && decide (x.1 < first + count)) }) s)

/-! ### Programming segments (R141, R142, R124) -/

/-- The Commit entry that the next segment carries: of the last one, once that is verified (R141). -/
def nextCommit (b : Block) : Option JEntry := (b.segs.getLast?).map commitEntry

/-- The next segment, with the entries that fit after slot 0. -/
def nextSegment (b : Block) : Segment :=
  { seq := b.nextSeg, commit := nextCommit b, entries := (takeSlots (segSlots - 1) b.jbuf).1, unit := none, verified := false }

/-- Take the next segment's entries from the journal's buffer. -/
def takeSegment (s : State) : State :=
  modBlk (fun b => { b with
    segs := b.segs ++ [nextSegment b]
    jbuf := (takeSlots (segSlots - 1) b.jbuf).2
    nextSeg := b.nextSeg + 1 }) s

/-- Give a segment a program unit of a locked superblock (R141). -/
def placeSegment (g : Segment) (s : State) : State :=
  match placeUnit 6 (some g.seq) (segmentPages g s.blk.nextSeq) s with
  | none => s
  | some t => modBlk (fun b => { b with
      nextSeq := b.nextSeq + 1
      segs := updWhere (·.seq == g.seq) (fun g => { g with unit := (t.blk.units.getLast?).map (·.phys) }) b.segs }) t

/-- Start the next segment; where a locked superblock must be opened for it, its opening is among the entries that the segment can take. -/
def startSegment (s : State) : State :=
  let s := takeSegment (streamSb 6 s).2
  match s.blk.segs.getLast? with
  | some g => placeSegment g s
  | none => s

/-- Must the next segment be programmed now: it is full, something waits for an entry, or with no entry pending the last one still lacks its Commit
entry (R141, R142)? -/
def segmentDue (s : State) : Bool :=
  decide (segSlots - 1 ≤ total (s.blk.jbuf.map entrySlots)) || (uncommittedEntries s.blk).any (entryWaited s) ||
  (s.blk.jbuf == [] && s.blk.segs.any (·.entries != []))

/-- The journal goes on: a segment without a place is placed again, and the next one is started where it is due (R141, R142). -/
def pumpJournal (s : State) : State :=
  match s.blk.segs.getLast? with
  | some g =>
    if !g.verified then (if g.unit == none then placeSegment g s else s)
    else if segmentDue s then startSegment s else s
  | none => if segmentDue s then startSegment s else s

/-- JOURNAL_SEGMENT_TIMER: 200 µs after its first entry, the next segment is programmed, once the last one has been verified (R141, R142). -/
def journalSegmentTimerF (s : State) : State :=
  if s.blk.segs.all (·.verified) && (s.blk.jbuf != [] || s.blk.segs.any (·.entries != [])) then issueAll (startSegment s) else s

def execJournalSegmentTimer (s : State) : Res := finish s (journalSegmentTimerF s)

end Sys2Proof.Machine
end

