-- ==== Sys2Proof/Machine/Ftl.lean ====
section
/-! DEFINITION. The translation layer at work (chapter 6): the Pail, programs, commits, checkpoints, erases and garbage collection. -/

namespace Sys2Proof.Machine

open Sys2Proof

/-! ### Write caching and capacity (R27, R55, R138, R156) -/

/-- Do the holdup bank, the dump set, the HBM stacks and the Pail copies allow write caching (R27, R138, R203, Table 8-5)? -/
def cachingAllowed (s : State) : Bool :=
  obj s 0x1320 2 == 1 && !s.pwr.charging && s.blk.dumpSet.length == 4 && !s.pwr.cachingBarred &&
  !s.blk.pail.any fun p => s.blk.oneCopy.contains p.lpn

/-- Is write caching in effect for a controller (R55, R56)? -/
def caching (s : State) (fn : Nat) : Bool :=
  cachingAllowed s && (match ctrl s fn with | some c => c.wce | none => false)

/-- Remaining over-provisioning in MiB: the 51.82 TiB of Table 6-6, less the bad blocks beyond the bad-block reserve of 279,552 blocks
(DEDUCED, assumption 41). A block is 24 MiB. -/
def overProvisioning (s : State) : Nat := 54337208 - 24 * (lostBlocks s - 279552)

/-- Is the module read-only: is the over-provisioning below CapacityFloor.1 thousandths of the user capacity (R156)? -/
def readOnly (s : State) : Bool := decide (overProvisioning s * 1000 < obj s 0x2140 1 * 268435456)

/-! ### Programming the Pail (R136, R452) -/

/-- Pages of a stream that wait to be programmed and hold their whole logical page. -/
def readyPages (s : State) (stream : Nat) : List PailPage :=
  s.blk.pail.filter fun p => p.phase == 0 && p.stream == stream && p.quarters == 15

/-- The page that programs a Pail page. -/
def pailUnit (p : PailPage) : UnitPage :=
  { lpn := p.lpn, seq := p.seq, src := none, page := mkPage p.kind p.lpn p.seq p.poison p.data }

/-- Is a page of a unit the one of a Pail page, of the same write? -/
def UnitPage.is (x : UnitPage) (p : PailPage) : Bool := x.src == none && x.lpn == p.lpn && x.seq == p.seq

/-- The pages that the stream's next program takes: a whole unit, or fewer that something waits on, and all of them where `all` is set (R452). -/
def nextUnit (all : Bool) (stream : Nat) (s : State) : List PailPage :=
  let ps := readyPages s stream
  if unitPages ≤ ps.length then ps.take unitPages else ps.filter fun p => all || waited s p.lpn 1

/-- Program the stream's data as soon as it fills a unit, and at once what something waits on (R452). -/
def programStream (all : Bool) (stream : Nat) : Nat → State → State
  | 0, s => s
  | n + 1, s =>
    let xs := (nextUnit all stream s).map pailUnit
    if xs.isEmpty then s
    else match placeUnit stream none xs s with
      | none => s
      | some t => programStream all stream n (modBlk (fun b => { b with
          pail := updWhere (fun p => p.phase == 0 && xs.any (·.is p)) (fun p => { p with phase := 1 }) b.pail }) t)

/-- Program what may be programmed of the host streams and of the pinned pages. -/
def programPail (all : Bool) (s : State) : State :=
  [0, 1, 2, 3, 6].foldl (fun s k => programStream all k (s.blk.pail.length / unitPages + 1) s) s

/-- Does a stripe hold data that a Flush or a shutdown waits for, in a unit under way or in the Pail (R120)? -/
def stripeFlushed (s : State) (t : Stripe) : Bool :=
  (s.blk.units.any fun u => u.sb == t.sb && u.wl == t.wl && u.pages.any fun x => x.src == none && flushWaits s x.lpn) ||
  s.blk.pail.any fun p => p.phase == 2 && flushWaits s p.lpn &&
    (let a := entryPhys (mapGet s p.lpn)
     wordlineOf a == t.wl && (match findSb s t.sb with | some b => b.holds a | none => false))

/-- The pages of a group move in the map together once each of them is verified, by entries that one segment takes (R164). -/
def mapGroup (s : State) (g : Nat) : State :=
  let ps := s.blk.pail.filter (·.group == some g)
  if ps.any (·.verified == none) then s
  else
    let s := ps.foldl (fun s p => mapSet p.lpn (mapEntry (p.poison == 15) false p.stream (p.verified.getD 0)) s) s
    let k := s.blk.jbuf.length - ps.length
    modBlk (fun b => { b with
      jbuf := b.jbuf.take k ++ ((b.jbuf.drop k).dropLast.map fun e => { e with tied := true }) ++ (b.jbuf.drop k).getLast?.toList
      pail := updWhere (·.group == some g) (fun p => { p with phase := 2, group := none, verified := none }) b.pail }) s

/-- Every group that is verified moves in the map. -/
def mapGroups (s : State) : State := ((s.blk.pail.filter (·.verified.isSome)).filterMap (·.group)).eraseDups.foldl mapGroup s

/-- The flash goes on after a change: the Pail is programmed, the journal and the parity follow, and what waits for a die starts. -/
def pump (all : Bool) (s : State) : State :=
  let s := pumpJournal (programPail all (mapGroups s))
  issueAll (pumpStripes (closeEarly (stripeFlushed s) s))

/-! ### Accepting writes (R134, R136, R137) -/

/-- Stream class of a write: the age of the copy it replaces, by Table 6-2; warm without a valid copy (R134). The copy replaced is the one on flash,
also where newer data of the page is still in the Pail, which lies in no superblock (DESIGN CHOICE, assumption 73). -/
def classOf (s : State) (lpn : Nat) : Nat :=
  let e := mapGet s lpn
  if entryValid e then
    match sbAt s (entryPhys e) with
    | some b =>
      let age := (s.time - b.birth) / 10 ^ 9
      if age < obj s 0x2102 1 then 0 else if age < obj s 0x2102 2 then 1 else if age < obj s 0x2102 3 then 2 else 3
    | none => 1
  else 1

/-- Pages the host share of the Pail holds: 1 GiB less 72 MiB (R452). -/
def pailPages : Nat := (1024 - 72) * 64

/-- Does garbage collection leave the host room for `n` pages: below GcPolicy.2 only as many as it has freed (R146)? -/
def gcRoom (s : State) (n : Nat) : Bool := decide (obj s 0x2104 2 ≤ freeCount s) || decide (n ≤ s.blk.credit)

/-- Is there Pail space for `n` more pages, does garbage collection leave them room, and may `part` of them start a merge read, of which
4,096 may be outstanding (R137, R146, R452)? -/
def pailHasRoom (s : State) (n part : Nat) : Bool :=
  decide (s.blk.pail.length + n ≤ pailPages) && gcRoom s n && decide (s.blk.merges.length + part ≤ 4096)

/-- Logical pages that `len` bytes at byte `off` touch. -/
def pagesTouched (off len : Nat) : Nat := (off + len - 1) / 16384 - off / 16384 + 1

/-- Which quarters of a page `[off, off + len)` covers wholly. -/
def quarterMask (off len : Nat) : Nat :=
  (List.range 4).foldl (fun m q => if decide (off ≤ q * 4096) && decide (q * 4096 + 4096 ≤ off + len) then m + 2 ^ q else m) 0

/-- Accept `data` at byte `off` of a logical page into both Pail copies, as data of a page kind and a stream. A page not wholly written starts a
merge read of its current copy; without a current copy the rest reads zero (R136, R137). Below GcPolicy.2 it uses up room that garbage
collection has freed (R146). -/
def acceptAs (kind stream lpn off : Nat) (data : Bytes) (s : State) : State :=
  let old := s.blk.pail.find? (·.lpn == lpn)
  let q := quarterMask off data.length
  let e := mapGet s lpn
  let base : Mem := match old with | some p => p.data | none => []
  let have' := match old with | some p => p.quarters | none => 0
  let full := q ||| have'
  let needMerge := full != 15 && entryValid e
  let poison := (match old with | some p => p.poison | none => 0) &&& (15 - q)
  let pg : PailPage := { kind := kind, lpn := lpn, seq := s.blk.nextSeq, data := memOver base off data.length (memOf data),
                         quarters := if needMerge then full else 15, stream := stream, phase := 0, poison := poison,
                         parts := if needMerge then (match old with | some p => p.parts | none => []) ++ [(off, data.length)] else []
                         group := match old with | some p => p.group | none => none }
  modBlk (fun b => { b with
    pail := b.pail.filter (·.lpn != lpn) ++ [pg]
    nextSeq := b.nextSeq + 1
    credit := b.credit - 1
    oneCopy := b.oneCopy.filter (· != lpn)
    merges := if needMerge then (if b.merges.contains lpn then b.merges else b.merges ++ [lpn])
              else b.merges.filter (· != lpn) }) s

/-- Accept a whole logical page into both Pail copies. -/
def acceptWhole (kind stream lpn : Nat) (data : Mem) (s : State) : State :=
  let pg : PailPage := { kind := kind, lpn := lpn, seq := s.blk.nextSeq, data := data, quarters := 15, stream := stream, phase := 0, poison := 0,
                         parts := [] }
  modBlk (fun b => { b with
    pail := b.pail.filter (·.lpn != lpn) ++ [pg]
    nextSeq := b.nextSeq + 1
    credit := b.credit - 1
    oneCopy := b.oneCopy.filter (· != lpn)
    merges := b.merges.filter (· != lpn) }) s

/-- Accept host data. -/
def acceptPage (lpn off : Nat) (data : Bytes) (s : State) : State := acceptAs 0 (classOf s lpn) lpn off data s

/-! ### Reading logical pages (R58, R132) -/

/-- The bytes and poisoned quarters of a page's copy on flash; a deallocated page reads zeroes, and a lost one is poison. -/
def flashCopy (s : State) (lpn : Nat) : Mem × Nat :=
  let e := mapGet s lpn
  if !entryValid e then ([], 0)
  else if entryPoison e then ([], 15)
  else match pageAt s (entryPhys e) with
    | some p => (p.data, p.poison)
    | none => ([], 15)

/-- Does a poisoned quarter of a page meet the bytes of a piece? -/
def pieceBad (mask off len : Nat) : Bool :=
  (List.range 4).any fun q => bitOf mask q && decide (off < q * 4096 + 4096) && decide (q * 4096 < off + len)

/-- A page as a read finds it: the Pail first, then the copy on flash, which also gives the rest of a partly accepted page. -/
def overPail (s : State) (lpn : Nat) (flash : Mem × Nat) : Mem × Nat :=
  match s.blk.pail.find? (·.lpn == lpn) with
  | none => flash
  | some p =>
    if p.quarters == 15 then (p.data, p.poison)
    else
      let m := (List.range 4).foldl (fun m q =>
        if bitOf p.quarters q then memOver m (q * 4096) 4096 (memSlice p.data (q * 4096) (q * 4096 + 4096)) else m) flash.1
      let m := p.parts.foldl (fun m r => memOver m r.1 r.2 (memSlice p.data r.1 (r.1 + r.2))) m
      (m, (flash.2 &&& (15 - p.quarters)) ||| p.poison)

/-- The bytes and poisoned quarters of a logical page. -/
def pageData (s : State) (lpn : Nat) : Mem × Nat := overPail s lpn (flashCopy s lpn)

/-- Must a read of a page wait for its die: no whole copy in the Pail, and a written, unpoisoned page on flash? -/
def needsDie (s : State) (lpn : Nat) : Option Nat :=
  let e := mapGet s lpn
  if entryValid e && !entryPoison e then
    match s.blk.pail.find? (·.lpn == lpn) with
    | some p => if p.quarters == 15 then none else some (entryPhys e)
    | none => some (entryPhys e)
  else none

/-- Must the entry of a page be rebuilt first: its map line has an uncorrectable error (R133), or its stack has failed and the rebuild has not come to it
(R203)? -/
def lineWaits (s : State) (lpn : Nat) : Bool :=
  (s.blk.badLines.any fun l => lineHolds l lpn) ||
  s.blk.badStacks.any fun k => stackOf lpn == k.1 && decide (k.2 ≤ (lpn * 5 + 4) / 64)

/-! ### Checkpoints (R144, R145) -/

/-- Program units of a slice: 1 GiB in pages of 16 KiB. -/
def sliceUnits : Nat := 5462

/-- Take program units of metadata superblocks, whole stripes at a time: the superblocks and the address of the first (R144; DESIGN CHOICE,
assumption 68). -/
def takeMeta : Nat → Nat → State → Option (List Nat × Nat × State)
  | 0, _, _ => none
  | fuel + 1, n, s =>
    match streamSb 5 s with
    | (none, _) => none
    | (some b, s) =>
      let w := max 1 (dataMembers b).length
      let k := min (unitsIn b - b.next) (ceilDiv n w * w)
      let p := nextPlace b
      let s := closeIfFull b.id (modSb b.id (fun b => { b with next := b.next + k }) s)
      if n ≤ k then some ([b.id], p.1.place p.2 0, s)
      else match takeMeta fuel (n - k) s with
        | none => none
        | some (l, _, s) => some (b.id :: l, p.1.place p.2 0, s)

/-- The map entries of a slice. -/
def sliceData (b : Block) (k : Nat) : KV := b.map.filter fun x => sliceOf x.1 == k

/-- Write a slice: its pages go to metadata superblocks, with the read counters as they are (R144, R150). -/
def writeSlice (k : Nat) (s : State) : Option (Ckpt × State) :=
  let seq := s.blk.nextSeg
  (takeMeta 64 sliceUnits s).map fun r =>
    ({ slice := k, seq := seq, sbs := r.1, first := r.2.1, data := sliceData s.blk k, counts := s.nand.readCount, floor := s.nand.readFloor }, r.2.2)

/-- The entry of kind 05h of a checkpoint (Table 6-4). -/
def ckptEntry (c : Ckpt) : JEntry := { kind := 5, count := c.slice, key := c.seq, value := 0, extra := c.first, desc := [] }

/-- The journal sequence that a start replays from: the oldest of all slices; 0 while a slice has no checkpoint (R145). -/
def oldestSeq (b : Block) : Nat :=
  if decide (80 ≤ b.ckpts.length) then b.ckpts.foldl (fun n c => min n c.seq) b.nextSeg else 0

/-- A checkpoint has become the newest of its slice: the one before goes, with the segments that no start replays any more (R144, R145). -/
def takeCkpt (c : Ckpt) (s : State) : State :=
  let s := modBlk (fun b => { b with ckpts := b.ckpts.filter (·.slice != c.slice) ++ [c] }) s
  let s := modBlk (fun b => { b with committed := b.committed.filter fun g => decide (oldestSeq b ≤ g.seq) }) s
  setObj 0x2100 3 c.slice (modNand (fun n => { n with savedCount := c.counts, savedFloor := c.floor }) s)

/-- CHECKPOINT_SLICE: the next slice in order is copied from the map, and its Checkpoint entry appended with the journal sequence at
which the copy began; the slice's old checkpoint stays valid until that entry commits (R144). MapState.3 is 0 on a new module, so slice 1 is the first
one written (DESIGN CHOICE, assumption 72). -/
def checkpointSliceF (s : State) : State :=
  if s.blk.ckptNew.isSome then s
  else match writeSlice ((obj s 0x2100 3 + 1) % 80) s with
    | some (c, s) => journal (ckptEntry c) (modBlk (fun b => { b with ckptNew := some c }) s)
    | none => s

def execCheckpointSlice (s : State) : Res := finish s (checkpointSliceF s)

/-- Fresh checkpoints of all 80 slices, one after the other (R158 step 4). -/
def checkpointAll (s : State) : State :=
  (List.range 80).foldl (fun s k => match writeSlice k s with
    | some (c, s) => takeCkpt c (journal (ckptEntry c) s)
    | none => s) (modBlk (fun b => { b with ckptNew := none }) s)

/-- Lines of the map that the entries of a stack take (R131). -/
def stackLines (k : Nat) : Nat × Nat := (k * 2 ^ 31 * 5 / 64, (k + 1) * 2 ^ 31 * 5 / 64)

/-- The lines of a failed stack that are still to be rebuilt, in ascending order: its number and the first of them (R203; DESIGN CHOICE,
assumption 80). -/
def rebuildStack (line : Nat) (s : State) : State :=
  let next := fun (k : Nat × Nat) =>
    if k.2 ≤ line ∧ line < (stackLines k.1).2 then
      if line + 1 = (stackLines k.1).2 then none else some (k.1, line + 1)
    else some k
  modBlk (fun b => { b with badStacks := b.badStacks.filterMap next }) s

/-- Is a line of the map being rebuilt? -/
def rebuilding (s : State) (line : Nat) : Bool :=
  s.blk.badLines.contains line || s.blk.badStacks.any fun k => decide (k.2 ≤ line) && decide (line < (stackLines k.1).2)

/-- MAP_LINE_REBUILD_DONE: the entries of the line are rebuilt from the checkpoint and the journal, a change made since taking
precedence, and the reads that waited proceed (R133); of a failed stack, those of every line up to it (R203). -/
def mapLineRebuildDoneF (line : Nat) (s : State) : State :=
  let s := rebuildStack line s
  if s.blk.badLines.contains line then
    let es := uncommittedEntries s.blk
    let rebuilt := (replayMap s.blk).filter fun x => lineHolds line x.1 && !es.any (touches · x.1)
    modBlk (fun b => { b with
      badLines := b.badLines.filter (· != line)
      map := rebuilt.foldl (fun m x => kvPut 0 m x.1 x.2) b.map }) s
  else s

/-! ### Erase (R114, R138, R146, R147, R153, R158) -/

/-- Reserve fresh erased superblocks for the dump set, until it has four whose blocks lie on four dies of every channel (R138). -/
def reserveDump : Nat → State → State
  | 0, s => s
  | n + 1, s =>
    if decide (4 ≤ s.blk.dumpSet.length) then s
    else
      let used := fun c => s.blk.dumpSet.filterMap fun id => ((findSb s id).bind (·.member c)).map (·.die)
      match openSb 4 5 used s with
      | (some b, t) => reserveDump n (modBlk (fun k => { k with dumpSet := k.dumpSet ++ [b.id] }) t)
      | (none, _) => s

/-- The entry of kind 06h or 07h of a superblock; its value holds the stream and, from bit 8, the state (Table 6-4; DESIGN CHOICE, assumption 20). -/
def eraseEntry (kind : Nat) (b : Superblock) : JEntry :=
  { kind := kind, count := 1, key := b.id, value := b.stream + 256 * (if kind == 6 then 4 else 0), extra := 0, desc := [] }

/-- Must a block be retired instead of erased (R153)? -/
def mustRetire (s : State) (b : Superblock) (key : Nat) : Bool :=
  decide (5000 ≤ kvGet 0 s.nand.wear key) || decide (2 ≤ kvGet 0 s.nand.deepReads key) || b.early

/-- The blocks of a member, as unit and block numbers. -/
def Member.units (m : Member) : List (Nat × Nat) := (List.range 4).map fun p => (m.ch * 80 + m.die * 4 + p, m.blocks.getD p 0)

/-- Does a superblock hold journal segments that a start replays, or a checkpoint in use? Those are metadata in use. -/
def holdsMeta (b : Block) (x : Superblock) : Bool :=
  (b.segs ++ b.committed).any (fun g => match g.unit with | some a => x.holds a | none => false) ||
  (b.ckpts ++ b.ckptNew.toList).any fun c => c.sbs.contains x.id

/-- Step 4 of Sanitize, once every superblock but the metadata in use is erased: fresh checkpoints, and the command completes (R158). -/
def sanitizeStep (s : State) : State :=
  match s.blk.sanitize with
  | none => s
  | some who =>
    if s.blk.sbs.any fun b => b.st == 3 || b.st == 4 then s
    else
      let s := reserveDump 4 (checkpointAll (modBlk (fun b => { b with sanitize := none }) s))
      match who with
      | some w => post w.1 w.2.1 w.2.2 stSuccess 0 0 s
      | none => s

/-- The erase of a superblock has ended: Erase done is appended (R147 step 5). A refresh has ended with it (Patrol.5), and the pages it frees beyond
those copied out of it are room for host writes (R146). -/
def eraseEnd (id : Nat) (s : State) : State :=
  match findSb s id with
  | none => s
  | some b =>
    let s := if b.refresh then bump 0x2120 5 s else s
    let s := journal (eraseEntry 7 b) (modSb id (fun b => { b with st := 6, queued := false, refresh := false, early := false }) s)
    sanitizeStep (reserveDump 4 (modBlk (fun k => { k with
      credit := k.credit + (unitPages * unitsIn b - k.moved)
      moved := if k.victim == some id then 0 else k.moved
      victim := if k.victim == some id then none else k.victim }) s))

/-- Begin the erase of a superblock: blocks that R153 retires are added as grown bad instead, and the others are erased die by die (R114, R147, R153).
`retire` is false for an erase that is done again. -/
def beginErase (retire : Bool) (id : Nat) (s : State) : State :=
  match findSb s id with
  | none => s
  | some b =>
    let gone := (b.members.flatMap Member.units).filter fun u => retire && mustRetire s b (blockEntry u.1 u.2)
    let s := gone.foldl (fun s u => growBad u.1 u.2 s) s
    let chs := (b.members.filter fun m => !dieLost s m.ch m.die && m.units.any fun u => !blockBad s u.1 u.2).map (·.ch)
    let s := modSb id (fun b => { b with st := 4, toErase := chs }) s
    if chs == [] then eraseEnd id s else issueAll s

/-- Committed valid pages of a superblock: entries of the map that point into it. -/
def validPages (s : State) (b : Superblock) : List (Nat × Nat) := s.blk.map.filter fun x => entryValid x.2 && b.holds (entryPhys x.2)

/-- Is a copy out of a superblock still on its way: read, waiting for a unit, in a unit, or in a stripe without its parity (R120, R147); or does a
verified page lie in it that waits for others of its group (R164)? -/
def copiesLeft (s : State) (b : Superblock) : Bool :=
  (s.blk.gcReads.any fun r => b.holds r.2) || (s.blk.gcBuf.any fun x => x.src.any b.holds) ||
  (s.blk.units.any fun u => u.pages.any fun x => x.src.any b.holds) || (s.blk.stripes.any fun t => t.srcs.contains b.id) ||
  s.blk.pail.any fun p => p.verified.any b.holds

/-- Once nothing valid is left in the victim and every change that moved a page out of it has committed, append Erase begin, and
once that has committed begin the erase (R147 steps 4 and 5). -/
def eraseStep (s : State) : State :=
  match s.blk.victim.bind (findSb s) with
  | none => s
  | some b =>
    let es := uncommittedEntries s.blk
    if b.st == 2 then
      if validPages s b == [] && !holdsMeta s.blk b && !copiesLeft s b && !es.any fun e => e.kind == 1 || e.kind == 2 then
        journal (eraseEntry 6 b) (modSb b.id (fun b => { b with st := 3 }) s)
      else s
    else if b.st == 3 && !es.any fun e => e.kind == 6 && e.key == b.id then beginErase true b.id s
    else s

/-! ### Commits (R136, R141, R143, R144) -/

/-- What the commit of a segment does by its entries: a Checkpoint makes its slice's checkpoint the newest, and an Erase done makes the
superblock's blocks free. -/
def commitEntries (g : Segment) (s : State) : State :=
  g.entries.foldl (fun s e =>
    if e.kind == 5 then
      (match s.blk.ckptNew with
       | some c => if c.slice == e.count && c.seq == e.key then takeCkpt c (modBlk (fun b => { b with ckptNew := none }) s) else s
       | none => s)
    else if e.kind == 7 then modBlk (fun b => { b with sbs := b.sbs.filter fun x => !(x.id == e.key && x.st == 6) }) s
    else s) s

/-- A commit of the journal has taken effect: slices whose Checkpoint entry committed become the checkpoint, the Pail releases,
what waited completes, and a victim may be erased. -/
def afterCommit (g : Segment) (s : State) : State := eraseStep (settle (releasePail (commitEntries g (setObj 0x2100 4 g.seq s))))

/-- Store the pages of a unit on its member, and on the other channel of a pair where `high` is set (R122). -/
def landPages (b : Superblock) (ch wl : Nat) (low high : Bool) (ps : List UnitPage) (s : State) : State :=
  ps.zipIdx.foldl (fun s x =>
    let put := fun c s => match b.member c with | some m => putPage (m.place wl x.2) x.1.page s | none => s
    let s := if low then put ch s else s
    if high then put (ch + 32) s else s) s

/-- The newest segment, if it is being programmed, is verified (R141). -/
def landSegment (s : State) : State :=
  match s.blk.segs.getLast? with
  | some g =>
    if g.verified then s
    else
      let s := match s.blk.units.find? fun u => u.seg == some g.seq with
        | some u =>
          let s := endOps u (modBlk (fun b => { b with units := b.units.filter (·.phys != u.phys) }) s)
          (match findSb s u.sb with
           | some b => closeIfFull u.sb (landPages b u.ch u.wl true true u.pages s)
           | none => s)
        | none => s
      modBlk (fun b => { b with segs := [{ g with verified := true }], committed := b.committed ++ b.segs.dropLast }) s
  | none => s

/-- Program a segment at once and verify it, as a part of a commit of the whole journal. -/
def writeSegment (s : State) : State := landSegment (startSegment s)

/-- Segments for everything pending and the one that holds the last Commit entry; `n` bounds their number. -/
def writeSegments : Nat → State → State
  | 0, s => s
  | n + 1, s => if s.blk.jbuf == [] && s.blk.segs.all (·.entries == []) then s else writeSegments n (writeSegment s)

/-- Append everything pending and commit it at once, as the operations that wait for the whole journal do (R139 step 5, R143, R158, R73). -/
def commitAll (s : State) : State :=
  let es := uncommittedEntries s.blk
  if es == [] then s
  else
    let old := s.blk.committed.length
    let s := writeSegments (s.blk.jbuf.length + 4) (landSegment s)
    (s.blk.committed.drop old).foldl (fun s g => afterCommit g s) s

/-! ### Programs (R111, R116, R147 to R149) -/

/-- One page of a verified unit: the map moves to it only if it still holds the newest data (host page) or the entry still points at
the source (copy, R147 step 3); otherwise the program is left invalid (R136, R148). A copy of a page that was delivered poisoned makes its
entry poison (R149). A page of a group waits for the others (R164). -/
def placePage (stream a : Nat) (x : UnitPage) (s : State) : State :=
  let e := mapGet s x.lpn
  let lost := x.page.poison
  match x.src with
  | some src =>
    if x.page.kind == 2 then s
    else if entryValid e && entryPhys e == src then
      let s := if lost == 0 then s
        else logEv { source := 4, cls := 2, action := 3, unit := physChannel src, address := src, context := x.lpn } s
      mapSet x.lpn (mapEntry (entryPoison e || lost != 0) (entryPinned e) (entryStream e) a) s
    else s
  | none =>
    match s.blk.pail.find? x.is with
    | none => s
    | some p =>
      if p.group.isSome then modBlk (fun b => { b with pail := updWhere x.is (fun p => { p with verified := some a }) b.pail }) s
      else
        let s := mapSet x.lpn (mapEntry (lost == 15) (stream == 6) stream a) s
        modBlk (fun b => { b with pail := updWhere x.is (fun p => { p with phase := 2 }) b.pail }) s

/-- Place the pages of a unit in order. -/
def placeAll (stream : Nat) (m : Member) (wl : Nat) (ps : List UnitPage) (s : State) : State :=
  ps.zipIdx.foldl (fun s x => placePage stream (m.place wl x.2) x.1 s) s

/-- Planes of a unit whose program failed: by status, or by a codeword with more corrected bits than the threshold (R111). A plane that is not
listed passed. -/
def failedPlanes (threshold : Nat) (ps : List (Bool × Nat)) : List Nat :=
  (List.range 4).filter fun p => let x := ps.getD p (true, 0); !(x.1 && decide (x.2 ≤ threshold))

/-- Is a die's program suspended? It cannot complete then. -/
def unitSuspended (s : State) (u : ProgUnit) : Bool :=
  (unitDies u).any fun c => match dieOp s c u.die with | some o => o.susp == 2 | none => false

/-- Add the blocks of a member's failed planes as grown bad blocks (R116). -/
def growPlanes (b : Superblock) (ch : Nat) (ps : List Nat) (s : State) : State :=
  match b.member ch with
  | some m => ps.foldl (fun s p => growBad (ch * 80 + m.die * 4 + p) (m.blocks.getD p 0) s) s
  | none => s

/-- Does a page belong in a locked superblock: of the map journal or of a coherent region (R122, R141)? -/
def UnitPage.locks (x : UnitPage) : Bool := x.page.kind == 7 || x.page.kind == 2

/-- The copies waiting for a unit take one: twelve of them, or what is left of the last (R147 step 1); pages of locked superblocks go to one. -/
def gcUnits : Nat → State → State
  | 0, s => s
  | n + 1, s =>
    let lock := s.blk.gcBuf.head?.any (·.locks)
    let xs := (s.blk.gcBuf.filter (·.locks == lock)).take unitPages
    if xs.isEmpty || (decide (xs.length < unitPages) && s.blk.gcReads != [] && !lock) then s
    else match placeUnit (if lock then 6 else 4) none xs s with
      | none => s
      | some t => gcUnits n (modBlk (fun b => { b with
          gcBuf := b.gcBuf.filter fun x => !xs.any fun y => y.src == x.src
          moved := b.moved + xs.length }) t)

/-- Garbage collection goes on: copies take units, and once a victim's last copy has one, the stripes that hold its copies close (R120, R147). -/
def pumpGc (s : State) : State :=
  let s := gcUnits (s.blk.gcBuf.length + 1) s
  if s.blk.gcReads == [] && s.blk.gcBuf.isEmpty then closeEarly (fun t => t.srcs != []) s else s

/-- A verified unit: parity closes its stripe; a segment programmed again has its new place; any other unit moves the map (R120, R124, R147). -/
def unitVerified (b : Superblock) (u : ProgUnit) (s : State) : State :=
  let s := if u.parity then closedStripe b u.wl (landParity b u.wl s)
    else
      let s := landPages b u.ch u.wl true u.locked u.pages s
      match u.seg, b.member u.ch with
      | some q, _ => modBlk (fun k => { k with
          segs := updWhere (·.seq == q) (fun g => { g with unit := some u.phys }) k.segs
          committed := updWhere (·.seq == q) (fun g => { g with unit := some u.phys }) k.committed }) s
      | none, some m => placeAll b.stream m u.wl u.pages (modBlk (fun k => { k with
          stripes := updWhere (fun t => t.sb == u.sb && t.wl == u.wl) (fun t => { t with done := t.done ++ [u.ch] }) k.stripes }) s)
      | none, none => s
  closeIfFull u.sb s

/-- The pages of a unit that failed are to be programmed again into a fresh superblock: host pages wait in the Pail, copies in their buffer, and a
segment takes another place at once (R124, R149). -/
def unitAgain (u : ProgUnit) (s : State) : State :=
  if u.parity then loseStripe u.sb u.wl s
  else match u.seg with
    | some q =>
      if s.blk.segs.any fun g => g.seq == q && !g.verified then
        modBlk (fun b => { b with segs := updWhere (·.seq == q) (fun g => { g with unit := none }) b.segs }) s
      else (placeUnit 6 (some q) u.pages s).getD s
    | none => modBlk (fun b => { b with
        pail := updWhere (fun p => p.phase == 1 && u.pages.any (·.is p)) (fun p => { p with phase := 0 }) b.pail
        gcBuf := b.gcBuf ++ u.pages.filter (·.src.isSome) }) s

/-- What follows a program that ended: garbage collection, the Pail, the journal and the erases go on. -/
def pumpAll (s : State) : State := pump false (eraseStep (settle (releasePail (pumpGc s))))

/-- PROGRAM_DONE: a verified program (status pass, and a read-back with no codeword above VerifyThreshold) moves the map; a failed one
makes the blocks of the planes that failed grown bad blocks, and its pages are programmed again into a fresh superblock of the stream (R111, R116,
R124, R149). `planes` gives status and most corrected bits by plane, `other` those of the other channel of a pair. An address of no unit that is being
programmed has no effect, and an invalid one is refused (R104). A segment's first program is JOURNAL_SEGMENT_VERIFIED's. -/
def programDoneF (phys : Nat) (planes other : List (Bool × Nat)) (s : State) : State :=
  match s.blk.units.find? fun u => u.phys == phys && !s.blk.segs.any fun g => !g.verified && g.unit == some phys with
  | none => refuseAddress phys s
  | some u =>
    match findSb s u.sb with
    | none => s
    | some b =>
      if u.waiting || unitSuspended s u then s
      else
        let low := failedPlanes u.threshold planes
        let high := if u.locked then failedPlanes u.threshold other else []
        let s := endOps u (modBlk (fun b => { b with units := b.units.filter (·.phys != phys) }) s)
        let s := clearRate (match b.member u.ch with | some m => m.units.map fun x => blockEntry x.1 x.2 | none => []) s
        let s := growPlanes b (u.ch + 32) high (growPlanes b u.ch low s)
        pumpAll (if low == [] && high == [] then unitVerified b u s else unitAgain u (abandonSb u.sb s))

def execProgramDone (phys : Nat) (planes other : List (Bool × Nat)) (s : State) : Res :=
  finish s (programDoneF phys planes other s)

/-- The newest segment is verified: the ones before it are committed by the Commit entry in slot 0 (R141). -/
def segmentVerified (s : State) : State :=
  match s.blk.segs.reverse with
  | [] => s
  | g :: older =>
    let s := modBlk (fun b => { b with segs := [{ g with verified := true }], committed := b.committed ++ older.reverse }) s
    older.reverse.foldl (fun s c => afterCommit c s) s

/-- JOURNAL_SEGMENT_VERIFIED: the newest segment's program has ended on its pair, with `low` and `high` as in PROGRAM_DONE. Verified on at least one
channel it commits the segment before it (R141). A failure makes the blocks grown bad and programs the page pair again into a fresh pair; a
segment that failed on both channels is not verified (R124). -/
def journalSegmentVerifiedF (low high : List (Bool × Nat)) (s : State) : State :=
  match s.blk.segs.getLast? with
  | none => s
  | some g =>
    match s.blk.units.find? fun u => u.seg == some g.seq && g.unit == some u.phys, g.verified with
    | some u, false =>
      (match findSb s u.sb with
       | none => s
       | some b =>
         if u.waiting || unitSuspended s u then s
         else
           let l := failedPlanes u.threshold low
           let h := failedPlanes u.threshold high
           let s := endOps u (modBlk (fun b => { b with units := b.units.filter (·.phys != u.phys) }) s)
           let s := growPlanes b (u.ch + 32) h (growPlanes b u.ch l s)
           let s := landPages b u.ch u.wl (l == []) (h == []) u.pages s
           let s := if l == [] && h == [] then closeIfFull u.sb s else abandonSb u.sb s
           let s := if l == [] || h == [] then segmentVerified s else s
           pumpAll (if l == [] && h == [] then s else unitAgain u s))
    | _, _ => s

def execJournalSegmentVerified (r : PairVerify) (s : State) : Res := finish s (journalSegmentVerifiedF r.low r.high s)

/-- MERGE_READ_DONE: the rest of a partly written page joins the new data; a poisoned rest leaves those quarters unreadable until they
are rewritten, and the write still succeeds (R137). The read counts against its block (R150), and it waits while the page's map line is rebuilt (R133). -/
def mergeReadDoneF (lpn : Nat) (poisoned : Bool) (s : State) : State :=
  if s.blk.merges.contains lpn && !lineWaits s lpn then
    match s.blk.pail.find? (·.lpn == lpn) with
    | none => modBlk (fun b => { b with merges := b.merges.filter (· != lpn) }) s
    | some p =>
      let (m, bad) := pageData s lpn
      let bad := if poisoned then (15 - p.quarters) ||| p.poison else bad
      let s := match needsDie s lpn with | some a => countRead a s | none => s
      pump false (modBlk (fun b => { b with
        merges := b.merges.filter (· != lpn)
        pail := updWhere (·.lpn == lpn) (fun p => { p with data := m, quarters := 15, poison := bad, parts := [] }) b.pail }) s)
  else s

def execMergeReadDone (lpn : Nat) (poisoned : Bool) (s : State) : Res := finish s (mergeReadDoneF lpn poisoned s)

/-! ### Garbage collection (R146, R147, R151 to R154) -/

/-- The better victim of two: queued superblocks first, then fewest valid pages, then oldest birth time. -/
def betterVictim (s : State) (a b : Superblock) : Bool :=
  let qa := a.queued || a.refresh
  let qb := b.queued || b.refresh
  if qa != qb then qa
  else
    let va := (validPages s a).length
    let vb := (validPages s b).length
    decide (va < vb) || (va == vb && decide (a.birth ≤ b.birth))

/-- May a closed superblock be chosen: one of metadata only once nothing of it is in use? -/
def mayEmpty (s : State) (b : Superblock) : Bool := b.st == 2 && (b.stream != 5 || !holdsMeta s.blk b)

/-- The victim of garbage collection among the closed superblocks. -/
def pickVictim (s : State) : List Superblock → Option Superblock
  | [] => none
  | b :: l =>
    match pickVictim s l with
    | none => if mayEmpty s b then some b else none
    | some c => if mayEmpty s b && betterVictim s b c then some b else some c

/-- The spread between the highest and lowest erase counts of blocks in use (R152). -/
def wearSpread (s : State) : Nat :=
  let es := (s.blk.sbs.filter fun b => b.st == 1 || b.st == 2).flatMap fun b =>
    b.members.flatMap fun m => m.units.map fun u => kvGet 0 s.nand.wear (blockEntry u.1 u.2)
  es.foldl max 0 - es.foldl min (es.headD 0)

/-- The frozen or cold superblock with the oldest birth time (R152). -/
def wearVictim : List Superblock → Option Superblock
  | [] => none
  | b :: l =>
    match wearVictim l with
    | none => if b.st == 2 && (b.stream == 2 || b.stream == 3) then some b else none
    | some c => if b.st == 2 && (b.stream == 2 || b.stream == 3) && decide (b.birth ≤ c.birth) then some b else some c

/-- Read pages (lpn and address) for their copies (R147 step 1). -/
def readCopies (l : List (Nat × Nat)) (s : State) : State :=
  l.foldl (fun s x => startRead x.2 s) (modBlk (fun b => { b with gcReads := b.gcReads ++ l }) s)

/-- Journal segments that lie in a superblock are programmed again elsewhere, so that it can be emptied. -/
def moveSegments (b : Superblock) (s : State) : State :=
  ((s.blk.segs ++ s.blk.committed).filter fun g => g.verified && match g.unit with | some a => b.holds a | none => false).foldl
    (fun s g => (placeUnit 6 (some g.seq) (segmentPages g s.blk.nextSeq) s).getD s) s

/-- Empty a superblock: its valid pages are read for their copies. -/
def emptySb (b : Superblock) (s : State) : State :=
  let s := modBlk (fun k => { k with victim := some b.id, moved := 0 }) s
  pumpAll (moveSegments b (readCopies ((validPages s b).map fun x => (x.1, entryPhys x.2)) s))

/-- GC_START: pages of stripes without parity are copied first (R145 step 4); then, with the free pool below GcPolicy.1 or a superblock queued for
relocation, a victim is chosen and its valid pages are copied (R146, R147); without either, wear levelling chooses one when erase counts have
spread (R152). One victim is emptied at a time. -/
def gcStartF (s : State) : State :=
  if s.blk.gcReads == [] && s.blk.gcBuf.isEmpty then
    if s.blk.urgent != [] then
      let l := s.blk.urgent.filterMap fun lpn => if entryValid (mapGet s lpn) then some (lpn, entryPhys (mapGet s lpn)) else none
      pumpAll (readCopies l (modBlk (fun b => { b with urgent := [] }) s))
    else if s.blk.victim.isSome then s
    else
      match (if decide (freeCount s < obj s 0x2104 1) || s.blk.sbs.any (fun b => (b.queued || b.refresh) && mayEmpty s b) then pickVictim s s.blk.sbs
             else if decide (300 < wearSpread s) then wearVictim s.blk.sbs else none) with
      | none => s
      | some b => emptySb b s
  else s

def execGcStart (s : State) : Res := finish s (gcStartF s)

/-- ERASE_DONE: the erases of a superblock that are under way, and not suspended, have ended on their dies. `failed` lists units (channel · 80 + die · 4 +
plane) whose block reported fail, which become grown bad. Once no die is left to erase, Erase done is appended (R116, R147 step 5). -/
def eraseDoneF (id : Nat) (failed : List Nat) (s : State) : State :=
  match findSb s id with
  | none => s
  | some b =>
    let chs := (s.nand.dieOps.filter fun o => o.erase && o.sb == id && o.susp != 2).map (·.channel)
    if b.st != 4 || chs == [] then s
    else
      let ms := b.members.filter fun m => chs.contains m.ch
      let us := (ms.flatMap Member.units).filter fun u => !blockBad s u.1 u.2
      let s := (us.filter fun u => failed.contains u.1).foldl (fun s u => growBad u.1 u.2 s) s
      let keys := us.map fun u => blockEntry u.1 u.2
      let s := modNand (fun n => { n with
        pages := n.pages.filter fun x => !ms.any (·.holds x.1)
        dieOps := n.dieOps.filter fun o => !(o.erase && o.sb == id && o.susp != 2)
        wear := keys.foldl (fun m k => kvPut 0 m k (kvGet 0 m k + 1)) n.wear
        readCount := keys.foldl (fun m k => kvPut n.readFloor m k 0) n.readCount
        deepReads := n.deepReads.filter fun x => !keys.contains x.1 }) s
      let s := clearRate keys s
      let left := s.nand.dieOps.any fun o => o.erase && o.sb == id
      pumpAll (if b.toErase == [] && !left then eraseEnd id s else s)

def execEraseDone (sb : Nat) (failed : List Nat) (s : State) : Res := finish s (eraseDoneF sb failed s)

/-- Does a superblock's coherent data lose a side with a lost die: each region that has pages in it is flagged unprotected until they are copied
(R124)? A region whose pages lie elsewhere is not. -/
def breakPairs (b : Superblock) (s : State) : State :=
  let gibs := (s.tier.coherentAus.filter fun a => (validPages s b).any fun x => x.1 / 65536 == a.2).map (·.1)
  (s.tier.regions.filter fun r => !r.single && gibs.any fun k => decide (r.base < (k + 1) * 16384) && decide (k * 16384 < r.base + r.len)).foldl (fun s r =>
    logEv { source := 12, cls := 9, context := r.no } (modTier (fun t => { t with
      regions := updWhere (·.no == r.no) (fun r => { r with single := true }) t.regions }) s)) s

/-- Queue every superblock with a member on a lost die for relocation, and flag it in the log (R154); an open one takes no further unit, and one of
the dump set leaves it. -/
def relocateDie (c d : Nat) (s : State) : State :=
  (s.blk.sbs.filter fun b => b.st != 6 && b.members.any fun m => m.ch == c && m.die == d).foldl (fun s b =>
    let s := logEv { source := 4, cls := 9, unit := c, object := b.id } (modSb b.id (fun b => { b with
      queued := true
      st := if b.st == 5 then 2 else b.st
      toErase := b.toErase.filter (· != c) }) s)
    let s := modBlk (fun k => { k with dumpSet := k.dumpSet.filter (· != b.id) }) s
    let s := if b.stream == 6 then breakPairs b s else s
    if b.st == 1 then abandonSb b.id s else s) s

/-- The operations of a lost die end: programs under way on it are taken again elsewhere, reads queued for it are served by rebuild, and a superblock
that only its erase kept is erased (R105, R149, R154). -/
def dropDie (c d : Nat) (s : State) : State :=
  let us := s.blk.units.filter fun u => u.die == d && (unitDies u).contains c
  let rs := readsAt s c d
  let s := modNand (fun n => { n with
    dieOps := n.dieOps.filter fun o => !(o.channel == c && o.die == d) && !us.any fun u => !o.erase && o.unit == u.phys
    reads := n.reads.filter fun a => !rs.contains a }) s
  let s := us.foldl (fun s u => unitAgain u (modBlk (fun b => { b with units := b.units.filter (·.phys != u.phys) }) s)) s
  let s := rs.foldl (fun s a => askRebuild a [0, 1, 2, 3] s) s
  (s.blk.sbs.filter fun b => b.st == 4 && b.toErase == [] && !s.nand.dieOps.any fun o => o.erase && o.sb == b.id).foldl (fun s b => eraseEnd b.id s) s

/-- DIE_TIMEOUT: the die is declared failed, its pages are served by rebuild, its superblocks are queued for relocation, and programs
under way on it are taken again elsewhere (R105, R154). -/
def dieTimeoutF (c d : Nat) (s : State) : State :=
  if dieFailed s c d || !(decide (c < 64) && decide (d < 20)) then s
  else
    let s := setObj (0x2011 + c / 12) (c % 12 * 20 + d + 1) 1 s
    let s := logEv { source := 4, cls := 6, action := 7, unit := c, address := physAddr c d 0 0 0 } s
    pumpAll (reserveDump 4 (dropDie c d (relocateDie c d s)))

def execDieTimeout (channel die : Nat) (s : State) : Res := finish s (dieTimeoutF channel die s)

/-- Does a codeword count as decoded by step 3 of Table 5-6 (R108)? -/
def decodedBy3 (c : CwResult) : Bool := decide (1 ≤ c.step) && decide (c.step ≤ 3) && c.crcOk

/-- PATROL_READ: the patrol reads a codeword, skipping blocks in erase states, and queues its superblock for refresh under R151
(R113, R150). A pass ends at the last page of the array. -/
def patrolReadF (phys : Nat) (cw : CwResult) (s : State) : State :=
  let s := if phys == physAddr 63 19 3 2729 1535 then setObj 0x2120 4 s.time s else s
  match sbAt s phys with
  | some b =>
    if (b.st == 1 || b.st == 2 || b.st == 5) && (pageAt s phys).isSome && !blockBad s (physUnit phys) (physBlock phys) then
      let s := countRate phys [cw] (countRead phys s)
      let s := if cw.step == 4 && b.stream != 6 then countDeep phys s else s
      let s := if decide (1 ≤ cw.step) && decide (cw.step ≤ 4) && cw.crcOk then bump 0x2040 cw.step s
        else bump 0x2040 5 (logEv { source := 4, cls := 2, action := 3, unit := physChannel phys, detail := cw.step,
                                    address := phys } s)
      weighRead phys [cw] s
    else s
  | none => refuseAddress phys s

def execPatrolRead (phys : Nat) (cw : CwResult) (s : State) : Res := finish s (patrolReadF phys cw s)

end Sys2Proof.Machine
end

