-- ==== Sys2Proof/Machine/Pages.lean ====
section
/-! DEFINITION. Placed objects and tile formats (R161 to R163), the pages of the object store (R46, R130, R157, R164), and the division of HBM
(R165, Table 7-4). -/

namespace Sys2Proof.Machine

open Sys2Proof

/-! ### Placed objects and tiles (R161 to R163) -/

/-- A placed object. -/
def findObj (s : State) (id : Nat) : Option PObj := s.tier.objects.find? (·.id == id)

/-- Change a placed object. -/
def modObj (id : Nat) (f : PObj → PObj) (s : State) : State :=
  modTier (fun t => { t with objects := updWhere (·.id == id) f t.objects }) s

/-- Body bytes of a tile format (Table 7-2); FFh stands for an untiled page. -/
def bodyBytes (format : Nat) : Nat :=
  if format == 0xFF then 16384 else if format == 2 || format == 4 || format == 8 then 2048 else if format == 5 then 8192 else 4096

/-- The Churn table whose planes an object id names (DESIGN CHOICE, assumption 22). -/
def tableOfObj (s : State) (object : Nat) : Option Table :=
  if decide (2 ^ 63 ≤ object) then s.churn.tables.find? fun t => 2 ^ 63 + 2 ^ 16 * t.id == object else none

/-- Fields of a table layout word (Table 13-1). -/
def layoutD (w : Nat) : Nat := w % 4096
def layoutHasM (w : Nat) : Bool := bitOf w 16
def layoutHasV (w : Nat) : Bool := bitOf w 17
def layoutPlanes (w : Nat) : Nat := 1 + w / 2 ^ 16 % 2 + w / 2 ^ 17 % 2
def layoutBlocks (w : Nat) : Nat := (layoutD w + 63) / 64

/-- The format of plane `p` of a table: the parameters' for plane 0, the state's for the others (R311). -/
def planeFormat (w p : Nat) : Nat := if p == 0 then bitsOf w 47 40 else bitsOf w 39 32

/-- A scale block of 64 BF16 ones. -/
def onesBlock : Mem := memOf ((List.range 64).flatMap fun _ => natLE 2 0x3F80)

/-- A tile that has never been written: zeros, and in the 8-bit planes of a Churn table row scales of 1 (R163, R311, R312). -/
def newTile (s : State) (object index : Nat) : Tile :=
  let base : Tile :=
    { object := object, index := index, format := (match findObj s object with | some o => o.format | none => 0), rows := 64,
      cols := 64, flags := 0, version := 0, writeTime := 0, scale := [], body := [], poison := false, inT1 := false, dirty := false,
      pinned := false, used := 0, node := ownNode s, replicas := [], fetching := false, migration := none, cancels := 0,
      writers := [], saved := 0, reserved := false, frame := 0, crc := 0 }
  match tableOfObj s object with
  | none => base
  | some t =>
    let nb := layoutBlocks t.layout
    let per := layoutPlanes t.layout * nb
    let g := index / per
    let f := planeFormat t.layout (index % per / nb)
    let b := index % nb
    { base with
      format := f
      rows := min 64 (t.rows - 64 * g)
      cols := min 64 (layoutD t.layout - 64 * b)
      flags := if f == 5 then 0 else 8
      scale := if f == 5 then [] else onesBlock }

/-- The record of a tile, where there is one. -/
def findTile (s : State) (object index : Nat) : Option Tile :=
  s.tier.tiles.find? fun t => t.object == object && t.index == index

/-- Store the record of a tile. -/
def putTile (t : Tile) (s : State) : State :=
  modTier (fun r => { r with tiles := r.tiles.filter (fun u => !(u.object == t.object && u.index == t.index)) ++ [t] }) s

/-- Is an element position of a body inside the valid rows and columns (R162)? -/
def Tile.inside (t : Tile) (e : Nat) : Bool := decide (e / 64 < t.rows) && decide (e % 64 < t.cols)

/-- The body with zeros at and beyond valid_rows and valid_cols (R162). -/
def Tile.clipped (t : Tile) : Mem :=
  if decide (64 ≤ t.rows) && decide (64 ≤ t.cols) then t.body
  else t.body.filterMap fun c =>
    if bodyBytes t.format == 2048 then
      if t.inside (2 * c.1 + 1) then some c
      else if t.inside (2 * c.1) && c.2 &&& 0x0F != 0 then some (c.1, c.2 &&& 0x0F) else none
    else if t.inside (c.1 / (bodyBytes t.format / 4096)) then some c else none

/-- Bytes a tile or page takes in T1. -/
def tileBytes (t : Tile) : Nat := bodyBytes t.format + 256

/-! ### Headers (Table 7-3) -/

/-- The tile_flags byte outside T1, where dirty is 0 (Table 7-3). -/
def tileFlags (t : Tile) : Nat := (t.flags &&& 0x0C) + boolNat t.poison

/-- The header of a tile with the given format, flags, scale block and body. -/
def headerBytes (t : Tile) (format flags : Nat) (scale body : Bytes) : Bytes :=
  natLE 8 t.object ++ natLE 4 t.index ++ natLE 1 format ++ natLE 1 t.rows ++ natLE 1 t.cols ++ natLE 1 flags ++
  natLE 8 t.version ++ natLE 8 t.writeTime ++ natLE 4 (crc32 body) ++ List.replicate 92 0 ++ slice scale 0 128

/-- The header of a tile as its header page holds it. -/
def storedHeader (t : Tile) : Bytes :=
  headerBytes t t.format (tileFlags t) (memRead t.scale 0 128) (memRead t.body 0 (bodyBytes t.format))

/-- A tile with what a stored header says of it. -/
def Tile.withHeader (t : Tile) (h : Bytes) : Tile :=
  { t with
    rows := field h 13 1
    cols := field h 14 1
    flags := field h 15 1 &&& 0x0C
    version := field h 16 8
    writeTime := field h 24 8
    scale := memOf ((h.drop 128).take 128)
    poison := t.poison || bitOf (field h 15 1) 0 }

/-! ### Allocation units (R130, R179) -/

/-- Allocation units in use: of the namespaces, of the object store, and those reserved for coherent data. -/
def takenUnits (s : State) : List Nat :=
  s.host.namespaces.flatMap (·.aus) ++ s.tier.storeAus ++ s.tier.coherentAus.map (·.2)

/-- The lowest free allocation unit, from `a` on. -/
def freeUnit (taken : List Nat) : Nat → Nat → Option Nat
  | 0, _ => none
  | n + 1, a => if decide (262144 ≤ a) then none else if taken.contains a then freeUnit taken n (a + 1) else some a

/-! ### Pages of the object store (R164; DESIGN CHOICE, assumption 25) -/

/-- Pages of 16 KiB that hold `n` bytes. -/
def pagesOf (n : Nat) : Nat := ceilDiv n 16384

/-- Is a page the one of an owner with a body size and a number? -/
def StorePage.named (p : StorePage) (o : StoreOwner) (size no : Nat) : Bool := p.owner == o && p.size == size && p.no == no

/-- The logical page of a page of the object store. -/
def storeLpn (s : State) (o : StoreOwner) (size no : Nat) : Option Nat := (s.tier.pages.find? (·.named o size no)).map (·.lpn)

/-- The page of the object store that a logical page holds. -/
def pageOwner (s : State) (lpn : Nat) : Option StorePage := s.tier.pages.find? (·.lpn == lpn)

/-- The lowest free page of an allocation unit, from page `k` of it on. -/
def freePageIn (used : List Nat) (a : Nat) : Nat → Nat → Option Nat
  | 0, _ => none
  | n + 1, k => if used.contains (a * 65536 + k) then freePageIn used a n (k + 1) else some (a * 65536 + k)

/-- The lowest free page of the object store's allocation units. -/
def freePage (s : State) : Option Nat :=
  let used := s.tier.pages.map (·.lpn)
  s.tier.storeAus.findSome? fun a =>
    if (used.filter fun l => l / 65536 == a).length < 65536 then freePageIn used a 65536 0 else none

/-- Give a page of the object store its logical page, from a new allocation unit when the store's are full. It stays without one when none is left. -/
def takePage (o : StoreOwner) (kind size no : Nat) (s : State) : State :=
  if (storeLpn s o size no).isSome then s
  else
    let add := fun (l : Nat) (aus : List Nat) => modTier (fun t => { t with
      storeAus := t.storeAus ++ aus
      pages := t.pages ++ [{ owner := o, kind := kind, size := size, no := no, lpn := l }] }) s
    match freePage s with
    | some l => add l []
    | none => match freeUnit (takenUnits s) ((takenUnits s).length + 1) 0 with
      | some a => add (a * 65536) [a]
      | none => s

/-- Give up the pages of the object store that `p` picks: an entry of kind 02h for each, and an allocation unit left empty goes back (R157). -/
def dropPages (p : StorePage → Bool) (s : State) : State :=
  let gone := s.tier.pages.filter p
  if gone.isEmpty then s
  else
    let s := gone.foldl (fun s x => deallocRange x.lpn 1 s) s
    modTier (fun t =>
      let rest := t.pages.filter fun x => !p x
      { t with
        pages := rest
        storeAus := t.storeAus.filter fun a => rest.any fun x => x.lpn / 65536 == a }) s

/-- Free pages that the object store can still take: in its allocation units, and in those of the pool (R46). -/
def storeLeft (s : State) : Nat :=
  65536 * s.tier.storeAus.length - s.tier.pages.length + 65536 * (262144 - (takenUnits s).length)

/-- Would `n` more pages of the object store exceed 256 TiB (R46)? -/
def storeFull (s : State) (n : Nat) : Bool := decide (storeLeft s < n)

/-- Where a tile's body lies: body size, page number, and byte in the page (R164). -/
def bodyPlace (t : Tile) : Nat × Nat × Nat :=
  let n := bodyBytes t.format
  (n, t.index / (16384 / n), t.index % (16384 / n) * n)

/-- Where a tile's header lies: header page, and byte in it (R164). -/
def headerPlace (t : Tile) : Nat × Nat := (t.index / 64, t.index % 64 * 256)

/-- The logical pages of a tile's body and header. -/
def bodyLpn (s : State) (t : Tile) : Option Nat := storeLpn s (.object t.object) (bodyPlace t).1 (bodyPlace t).2.1
def headerLpn (s : State) (t : Tile) : Option Nat := storeLpn s (.object t.object) 0 (headerPlace t).1

/-- The logical pages of a tile: an untiled page has no header. -/
def tileLpns (s : State) (t : Tile) : List Nat := (bodyLpn s t).toList ++ (if t.format == 0xFF then [] else (headerLpn s t).toList)

/-- Give a tile its pages. -/
def takeTilePages (t : Tile) (s : State) : State :=
  let s := takePage (.object t.object) 4 (bodyPlace t).1 (bodyPlace t).2.1 s
  if t.format == 0xFF then s else takePage (.object t.object) 4 0 (headerPlace t).1 s

/-- The number of pages that tiles still lack. -/
def pagesLacking (s : State) (ts : List Tile) : Nat :=
  ((ts.flatMap fun t =>
    ((t.object, (bodyPlace t).1, (bodyPlace t).2.1) :: if t.format == 0xFF then [] else [(t.object, 0, (headerPlace t).1)])).eraseDups.filter
    fun k => (storeLpn s (.object k.1) k.2.1 k.2.2).isNone).length

/-- A tile as its pages give it: with either poison flag set it is poisoned (R192). -/
def fromPages (s : State) (t : Tile) : Tile :=
  match bodyLpn s t with
  | none => t
  | some l =>
    let d := pageData s l
    let off := (bodyPlace t).2.2
    let n := bodyBytes t.format
    let t := { t with body := memSlice d.1 off (off + n), poison := pieceBad d.2 off n }
    match headerLpn s t with
    | none => t
    | some h =>
      let d := pageData s h
      let off := (headerPlace t).2
      if pieceBad d.2 off 256 then { t with poison := true } else t.withHeader (memRead d.1 off 256)

/-- A tile as a reader sees it: its frame in T1, else its pages; on another node, what is known of it here. -/
def tileOf (s : State) (object index : Nat) : Tile :=
  let t := (findTile s object index).getD (newTile s object index)
  if t.inT1 || t.version == 0 || t.node != ownNode s then t else fromPages s t

/-- Is a tile served from this module, by T1 or its own flash? -/
def tileHere (s : State) (t : Tile) : Bool := t.node == ownNode s

/-- Must a read fetch the tile from T2 first (R166)? A tile never written needs no fetch (R163). -/
def needsFetch (t : Tile) : Bool := !t.inT1 && t.version != 0

/-- Give up the pages of an object on which no tile of this node lies any more; its digest pages stay while a tile does (R400). -/
def trimPages (object : Nat) (s : State) : State :=
  let ts := s.tier.tiles.filter fun t => t.object == object && t.version != 0 && tileHere s t
  dropPages (fun p => p.owner == .object object && !ts.any fun t => p.size == 32 ||
    p.named (.object object) (bodyPlace t).1 (bodyPlace t).2.1 || p.named (.object object) 0 (headerPlace t).1) s

/-! ### The division of HBM (R165, Table 7-4), in MiB -/

/-- Is a node inside the extent of a policy group (R171)? -/
def inExtent (s : State) (g node : Nat) : Bool :=
  let i := 0x2210 + g
  let x := node % 32
  let y := node / 32 % 32
  let z := node / 1024
  decide (obj s i 1 ≤ x) && decide (x ≤ obj s i 2) && decide (obj s i 3 ≤ y) && decide (y ≤ obj s i 4) &&
  decide (obj s i 5 ≤ z) && decide (z ≤ obj s i 6)

/-- The reservation of a policy group on this node, and of all of them: at most 207 GiB. -/
def groupMiB (s : State) (g : Nat) : Nat := if inExtent s g (ownNode s) then obj s (0x2210 + g) 8 * 1024 else 0
def askedMiB (s : State) : Nat := min (207 * 1024) (total ((List.range 16).map (groupMiB s)))

/-- Scratch of jobs that hold it, of one class. An Express job's is taken from the tile cache (R351). -/
def scratchOf (s : State) (express : Bool) : Nat :=
  total ((s.jobs.jobs.filter fun j => decide (1 ≤ j.st) && j.express == express).map fun j => j.basket.scratch / 2 ^ 20)

/-- MiB of retired HBM pages, of 64 KiB each (HbmRetired). -/
def retiredMiB (s : State) : Nat := total ((List.range 8).map fun k => obj s 0x2311 (k + 1)) / 16

/-- What retirement leaves of the placeable 414 GiB. -/
def keptMiB (s : State) : Nat := 414 * 1024 - retiredMiB s

/-- A reservation or scratch, reduced in proportion where retirement leaves them unmet (R165). -/
def reduced (s : State) (n : Nat) : Nat :=
  let d := askedMiB s + scratchOf s false
  if d ≤ keptMiB s then n else n * keptMiB s / d

def reservedMiB (s : State) : Nat := reduced s (askedMiB s)
def scratchMiB (s : State) : Nat := reduced s (scratchOf s false)

/-- What remains after reservations and scratch. -/
def sharedMiB (s : State) : Nat := 414 * 1024 - reservedMiB s - scratchMiB s

def hotMiB (s : State) : Nat := sharedMiB s * obj s 0x2201 1 / 100
def cacheMiB (s : State) : Nat := sharedMiB s - hotMiB s - retiredMiB s - scratchOf s true

/-- Reservations and scratch that retirement leaves unmet. -/
def shortfallMiB (s : State) : Nat := askedMiB s + scratchOf s false - keptMiB s

/-- Bytes of the tile cache that pinned tiles hold. -/
def pinnedBytes (s : State) : Nat := total ((s.tier.tiles.filter (·.pinned)).map tileBytes)

/-! ### Frames (R164, R166) -/

/-- The policy group of an object's tiles. -/
def groupOf (s : State) (object : Nat) : Nat := match findObj s object with | some o => o.group | none => 0

/-- Bytes that the tiles of a group picked by `p` take in T1 here. -/
def groupBytes (s : State) (g : Nat) (p : Tile → Bool) : Nat :=
  total ((s.tier.tiles.filter fun t => t.inT1 && tileHere s t && groupOf s t.object == g && p t).map tileBytes)

/-- The bytes of a group's reservation here. -/
def reservation (s : State) (g : Nat) : Nat := reduced s (groupMiB s g) * 2 ^ 20

/-- Do a tile and the group's tiles in T1 fit the group's reservation (R166)? -/
def fitsReserved (s : State) (t : Tile) : Bool :=
  let g := groupOf s t.object
  decide (groupBytes s g (fun u => !(u.object == t.object && u.index == t.index)) + tileBytes t ≤ reservation s g)

/-- The count page whose HBM stack a tile of a Churn table, or a count page, shares: the table's count object and the page's number (R312). -/
def stackMate (s : State) (object index : Nat) : Option (Nat × Nat) :=
  match tableOfObj s object with
  | some t => some (object + 1, index / (layoutPlanes t.layout * layoutBlocks t.layout) / 64)
  | none => if (tableOfObj s (object - 1)).isSome then some (object, index) else none

/-- The address of the frame that a tile takes in T1: the device's own choice (DESIGN CHOICE, assumption 24), but for the stack of a table's tiles. -/
def frameOf (s : State) (t : Tile) : Nat :=
  let a := 64 * (Config.frameAt t.object t.index s.time % 2 ^ 33)
  match stackMate s t.object t.index with
  | some k => Config.frameAt k.1 k.2 0 % 8 * 2 ^ 36 + a % 2 ^ 36
  | none => a

/-- A tile takes a frame in T1: in its group's reservation while that has room, else in the tile cache (R164, R166). -/
def framed (s : State) (t : Tile) : Tile :=
  if t.inT1 then { t with used := s.time }
  else { t with
    inT1 := true
    used := s.time
    reserved := fitsReserved s t
    frame := frameOf s t }

/-- Is a tile kept in a reservation that still covers what it holds? -/
def keptReserved (s : State) (t : Tile) : Bool :=
  t.reserved && decide (groupBytes s (groupOf s t.object) (·.reserved) ≤ reservation s (groupOf s t.object))

/-- Does a tile take its frame from the tile cache? -/
def inCache (s : State) (t : Tile) : Bool := t.inT1 && tileHere s t && !keptReserved s t

/-- Bytes of the tile cache in use. -/
def cacheUsed (s : State) : Nat := total ((s.tier.tiles.filter (inCache s)).map tileBytes)

end Sys2Proof.Machine
end

