-- ==== Sys2Proof/Machine/Tiers.lean ====
section
/-! DEFINITION. Memory tiers, tiles and placement (chapter 7): reading and writing tiles, write-back, migration, and coherent
regions. -/

namespace Sys2Proof.Machine

open Sys2Proof

/-! ### Reading and writing tiles (R163, R166 to R169) -/

/-- The pages on flash that the fetch of a tile reads. -/
def fetchReads (s : State) (t : Tile) : List Nat := (tileLpns s t).filterMap (needsDie s)

/-- Start the fetch of a tile from T2, shared by all that wait for it: the pages of its body and header are read at their dies (R166). -/
def startFetch (object index : Nat) (s : State) : State :=
  let t := tileOf s object index
  if t.fetching then s else (fetchReads s t).foldl (fun s a => startRead a s) (putTile { t with fetching := true } s)

/-- Have the page reads of a tile's fetch ended? -/
def fetchRead (s : State) (t : Tile) : Bool :=
  (fetchReads s t).all fun a => !s.nand.reads.contains a && !s.nand.rebuilds.any (·.phys == a)

/-- Flag an object degraded in the integrity log and count it (R196). -/
def flagDegraded (object index : Nat) (s : State) : State :=
  let s := logEv { source := 13, cls := 9, object := object, context := index } s
  match findObj s object with
  | some o => if o.degraded then s else bump 0x2302 8 (modObj object (fun o => { o with degraded := true }) s)
  | none => s

/-- After four cancellations a migration holds the writes of its tile until its switch (R176). -/
def Tile.held (t : Tile) : Bool :=
  decide (4 ≤ t.cancels) && (match t.migration with | some m => decide (m.step < 3) | none => false)

/-- A write of a tile in T1 under its lock: the body changes, the version advances, the tile is dirty, replicas are dropped, and a
migration under way is cancelled (R163, R167, R173, R176). What writes a tile waits while it is held. A tile's first write gives it its pages.
`whole` says that every element of the body is replaced, which clears poison (R194). -/
def tileWrite (fn object index : Nat) (whole : Bool) (f : Tile → Tile) (s : State) : State :=
  let t := tileOf s object index
  let cancelled := match t.migration with | some m => decide (m.step < 3) | none => false
  let u := framed s (f t)
  let s := if cancelled then bump 0x2202 2 s else s
  let s := takeTilePages u (modObj object (fun o => { o with written := true }) s)
  putTile { u with
    body := u.clipped
    version := t.version + 1
    writeTime := s.time
    dirty := true
    replicas := []
    writers := if t.writers.contains fn then t.writers else t.writers ++ [fn]
    poison := if whole then false else t.poison
    migration := if cancelled then none else t.migration
    cancels := if cancelled then t.cancels + 1 else t.cancels } s

/-- Poison the quarters of a page in the Pail that some bytes touch (R192). -/
def poisonPail (lpn off len : Nat) (s : State) : State :=
  let mask := total ((List.range 4).map fun q => if decide (off < q * 4096 + 4096) && decide (q * 4096 < off + len) then 2 ^ q else 0)
  modBlk (fun b => { b with pail := updWhere (·.lpn == lpn) (fun p => { p with poison := p.poison ||| mask }) b.pail }) s

/-- Accept bytes of a page of the object store, poisoned where what they copy is. -/
def acceptBytes (kind : Nat) (bad : Bool) (lpn off : Nat) (data : Bytes) (s : State) : State :=
  let s := acceptAs kind (classOf s lpn) lpn off data s
  if bad then poisonPail lpn off data.length s else s

/-- A tile's copy goes to the Pail: its body page and its header page, which move in the map together (R164, R168). -/
def acceptPair (t : Tile) (b : Nat) (s : State) : State :=
  let s := acceptBytes 4 t.poison b (bodyPlace t).2.2 (memRead t.body 0 (bodyBytes t.format)) s
  if t.format == 0xFF then s
  else match headerLpn s t with
    | none => s
    | some h =>
      let s := acceptBytes 4 false h (headerPlace t).2 (storedHeader t) s
      modBlk (fun k => { k with pail := updWhere (fun p => p.lpn == b || p.lpn == h) (fun p => { p with group := some h }) k.pail }) s

/-- Write a dirty tile back: the Pail takes it as new data of its pages, and once both copies hold it the dirty flag clears (R168). A poisoned tile is
written back poisoned (R192). Where the Pail has no room, or the tile no page, the tile stays dirty; `force` is set where the module waits for the
room. -/
def writeBack (force : Bool) (object index : Nat) (s : State) : State :=
  match findTile s object index with
  | none => s
  | some t =>
    if !t.dirty || !tileHere s t then s
    else
      let s := takeTilePages t s
      match bodyLpn s t with
      | none => s
      | some b =>
        if !force && !pailHasRoom s 2 2 then s
        else bump 0x2202 4 (pump false (putTile { t with dirty := false, writers := [], saved := t.version } (acceptPair t b s)))

/-- Write back every dirty tile that `p` picks. -/
def writeBackAll (p : Tile → Bool) (s : State) : State :=
  (s.tier.tiles.filter fun t => t.dirty && p t).foldl (fun s t => writeBack true t.object t.index s) s

/-- The tiles that a Flush with NSID FFFFFFFFh writes back: those that hold a write of the function's commands not yet written back (R169;
DESIGN CHOICE, assumption 21). -/
def tilesToFlush (s : State) (fn : Nat) : List (Nat × Nat) :=
  (s.tier.tiles.filter fun t => t.dirty && t.writers.contains fn).map fun t => (t.object, t.index)

/-- Is a tile dirty? -/
def isDirty (s : State) (t : Nat × Nat) : Bool := match findTile s t.1 t.2 with | some u => u.dirty | none => false

/-- What a loss of power leaves of T1: each tile's last version that reached the Pail, in T2 (R169), and the coherent regions, whose
writes are durable at completion (R179). -/
def loseTiles (s : State) : State :=
  modTier (fun r => { r with
    waits := []
    tiles := (r.tiles.filter (·.saved != 0)).map fun t =>
      { t with
        version := t.saved
        body := []
        scale := []
        inT1 := false
        dirty := false
        pinned := false
        reserved := false
        fetching := false
        migration := none
        replicas := [] }
    window := r.window.filter fun c => r.regions.any fun g =>
      g.homed && decide (g.base * 65536 ≤ c.1) && decide (c.1 < (g.base + g.len) * 65536)
    windowPoison := [] }) s

/-- DIRTY_TILE_TIMEOUT: the tile is written back through the Pail (R168). -/
def dirtyTileTimeoutF (object tile : Nat) (s : State) : State := writeBack false object tile s

def execDirtyTileTimeout (object tile : Nat) (s : State) : Res := finish s (dirtyTileTimeoutF object tile s)

/-! ### Placement and migration (R171 to R176) -/

/-- Is an object named by an admitted job (R174)? -/
def namedByJob (s : State) (object : Nat) : Bool :=
  s.jobs.jobs.any fun j => j.objects.any fun o =>
    (decide (o.1 < 2) && o.2 == object) || (o.1 == 2 && 2 ^ 63 + 2 ^ 16 * o.2 == object)

/-- Is a node unavailable or lost (R186)? -/
def nodeDown (s : State) (n : Nat) : Bool := s.wyv.unavailable.contains n || s.wyv.lost.contains n

/-- Carry out one decision of the placement engine: to tier 1 or 2 of this node, to another node (tier 3), or a replica on another
node (tier 4); the copy of step 1 is taken under the tile's lock (R173, R175, R186). Churn tables stay on their node (DEDUCED, assumption 29). -/
def placeMove (m : Nat × Nat × Nat × Nat) (s : State) : State :=
  let (object, index, tier, node) := m
  match findTile s object index, findObj s object with
  | some t, some o =>
    let allowed := t.migration == none && !t.pinned && !(obj s 0x4200 3 == 1 && namedByJob s object) && tileHere s t &&
      !nodeDown s t.node
    if !allowed then s
    else if tier == 4 then
      if !o.written && decide (object < 2 ^ 63) && inExtent s o.group node && !nodeDown s node && decide (t.replicas.length + 1 < obj s (0x2210 + o.group) 7)
      then putTile { t with replicas := t.replicas ++ [node] } s else s
    else if tier == 2 then
      let s := writeBack false object index s
      if isDirty s (object, index) then s
      else putTile { tileOf s object index with migration := some { step := 1, tier := 2, node := ownNode s, version := t.version } } s
    else if tier == 1 then putTile { t with migration := some { step := 1, tier := 1, node := ownNode s, version := t.version } } s
    else if decide (object < 2 ^ 63) && inExtent s o.group node && !nodeDown s node then
      putTile { t with migration := some { step := 1, tier := 3, node := node, version := t.version } } s
    else s
  | _, _ => s

/-- PLACEMENT_EVALUATION: the engine's decisions start migrations and replicas; in Basic mode placement is stopped (R174, R205). -/
def placementEvaluationF (moves : List (Nat × Nat × Nat × Nat)) (s : State) : State :=
  if basicMode s || !computeReady s then s else moves.foldl (fun s m => placeMove m s) s

def execPlacementEvaluation (moves : List (Nat × Nat × Nat × Nat)) (s : State) : Res := finish s (placementEvaluationF moves s)

/-- MIGRATION_INSTALL_DONE: a checked copy makes the location record switch, and the source serves nothing more; a copy whose check fails
is taken again from the source (R163, R175 steps 2 and 3). -/
def migrationInstallDoneF (object tile : Nat) (crcOk : Bool) (s : State) : State :=
  match findTile s object tile with
  | some t =>
    match t.migration with
    | some m =>
      if m.step < 3 && crcOk then
        let u := if m.tier == 1 then framed s (tileOf s object tile) else { t with inT1 := false }
        bump 0x2202 1 (putTile { u with node := m.node, migration := some { m with step := 3 }, cancels := 0 } s)
      else s
    | none => s
  | none => s

/-- Does the node hold placed data that a drain must move (R391)? Churn tables stay (DEDUCED, assumption 29). -/
def holdsPlaced (s : State) : Bool := s.tier.tiles.any fun t => t.node == ownNode s && decide (t.object < 2 ^ 63) && t.version != 0

/-- A drain ends when its last tile has been released. -/
def endIfDrained (s : State) : State := if obj s 0x4003 2 == 1 && !holdsPlaced s then endActing 2 0 (setObj 0x4003 2 0 s) else s

/-- MIGRATION_RELEASE: after the switch every node has acknowledged and no reader is left; the source is freed (R175 step 4). -/
def migrationReleaseF (object tile : Nat) (s : State) : State :=
  match findTile s object tile with
  | some t =>
    match t.migration with
    | some m =>
      if m.step == 3 then
        if m.tier == 3 then
          endIfDrained (trimPages object (putTile { t with migration := none, inT1 := false, dirty := false, body := [], scale := [], saved := 0 } s))
        else if t.inT1 then putTile { t with migration := none } s
        else putTile { t with migration := none, body := [], scale := [] } s
      else s
    | none => s
  | none => s

def execMigrationRelease (object tile : Nat) (s : State) : Res := finish s (migrationReleaseF object tile s)

/-! ### Coherent regions (R178 to R183) -/

/-- Is this node part of a formed twinned pair (WyvasSystem.9)? -/
def twinned (s : State) : Bool := obj s 0x4000 9 == 1

/-- Is a port up, at ×8 or ×4 (WyvasPort.1)? -/
def portUp (s : State) (p : Nat) : Bool := obj s (0x4010 + p) 1 == 2 || obj s (0x4010 + p) 1 == 3

/-- Length of the coherent area in 64 KiB units. -/
def coherentUnits : Nat := 262144

/-- Is `[base, base + len)` free of regions? -/
def regionFree (rs : List Region) (base len : Nat) : Bool :=
  decide (base + len ≤ coherentUnits) && rs.all fun r => decide (r.base + r.len ≤ base) || decide (base + len ≤ r.base)

/-- The lowest free base: 0 or the end of some region (R178). -/
def lowestBase (rs : List Region) (len : Nat) : Option Nat :=
  (0 :: rs.map fun r => r.base + r.len).foldl (fun best b =>
    if regionFree rs b len then (match best with | some x => some (min x b) | none => some b) else best) none

/-- The check of COHERENT_CREATE: a length in range, a number that is free and not a rim region's, free space, and the twin ports of
R18 (R178). -/
def coherentCreateCheck (no len : Nat) (s : State) : Nat × Nat :=
  if decide (254 < no) then (0x26, 1)
  else if len == 0 || decide (coherentUnits < len) then (0x26, 2)
  else if s.tier.regions.any (·.no == no) then (0x27, 3)
  else if no == 254 && twinned s && ownNode s == 0 then (0x27, 3)
  else if decide (256 ≤ s.tier.regions.length) then (0x27, 3)
  else if lowestBase s.tier.regions len == none then (0x27, 3)
  else if twinned s && !(portUp s 12 && portUp s 13) then (0x27, 3)
  else (0, 0)

/-- The GiB of the coherent area that units `[base, base + len)` meet. -/
def coherentGibs (base len : Nat) : List Nat := (List.range 16).filter fun k => decide (base < (k + 1) * 16384) && decide (k * 16384 < base + len)

/-- Reserve an allocation unit for each GiB of the coherent area that a region meets and that has none (R179). -/
def reserveCoherent (base len : Nat) (s : State) : State :=
  (coherentGibs base len).foldl (fun s k =>
    if s.tier.coherentAus.any (·.1 == k) then s
    else match freeUnit (takenUnits s) ((takenUnits s).length + 1) 0 with
      | some a => modTier (fun t => { t with coherentAus := t.coherentAus ++ [(k, a)] }) s
      | none => s) s

/-- The logical page of a page of the coherent area (R179). -/
def coherentLpn (s : State) (page : Nat) : Option Nat :=
  (s.tier.coherentAus.find? (·.1 == page / 65536)).map fun a => a.2 * 65536 + page % 65536

/-- The logical pages that a region's pages lie in are deallocated. -/
def dropCoherent (base len : Nat) (s : State) : State :=
  (coherentGibs base len).foldl (fun s k =>
    let lo := max (base * 4) (k * 65536)
    let hi := min ((base + len) * 4) ((k + 1) * 65536)
    match coherentLpn s lo with
    | some l => deallocRange l (hi - lo) s
    | none => s) s

/-- Allocation units of GiB that no region meets any more are given back. -/
def releaseCoherent (s : State) : State :=
  modTier (fun t => { t with coherentAus := t.coherentAus.filter fun a => t.regions.any fun r => (coherentGibs r.base r.len).contains a.1 }) s

/-- Create a zeroed region at the lowest free base (R178). -/
def coherentCreate (no len : Nat) (s : State) : State :=
  match lowestBase s.tier.regions len with
  | some b => reserveCoherent b len (modTier (fun t => { t with
      regions := t.regions ++ [{ no := no, base := b, len := len, homed := true, mirrored := twinned s, unprotected := false, single := false }]
      window := memClear t.window (b * 65536) ((b + len) * 65536)
      windowPoison := memClear t.windowPoison (b * 65536) ((b + len) * 65536) }) s)
  | none => s

/-- The pages of the coherent area that `len` bytes at an offset touch. -/
def coherentPages (off len : Nat) : List Nat := if len == 0 then [] else (List.range ((off + len - 1) / 16384 - off / 16384 + 1)).map (off / 16384 + ·)

/-- Serve the code words of pages of the coherent area that are uncorrectable in HBM from the locked pair, or the Pail, and rewrite them (R179). -/
def healCoherent (off len : Nat) (s : State) : State :=
  (coherentPages off len).foldl (fun s p =>
    match coherentLpn s p with
    | none => s
    | some l =>
      let d := pageData s l
      let bad := fun (a : Nat) => decide (p * 16384 ≤ a) && decide (a < p * 16384 + 16384) && !bitOf d.2 (a % 16384 / 4096)
      modTier (fun t => { t with
        window := (t.windowPoison.filter fun c => bad c.1).foldl (fun m c => memPut m c.1 (memByte d.1 (c.1 % 16384))) t.window
        windowPoison := t.windowPoison.filter fun c => !bad c.1 }) s) s

/-- The pages of the coherent area that `len` bytes at an offset touch go to both Pail copies, whole, as pinned pages of kind 7, with their
poison (R179, R192). Pages of a region that goes on unmirrored are noted for its resynchronisation (R18). -/
def storeCoherent (off len : Nat) (s : State) : State :=
  let missed := (coherentPages off len).filter fun p =>
    s.tier.regions.any fun r => r.homed && r.unprotected && !r.mirrored && decide (r.base * 4 ≤ p) && decide (p < (r.base + r.len) * 4)
  let s := modTier (fun t => { t with stale := (t.stale ++ missed).eraseDups }) s
  pump false ((coherentPages off len).foldl (fun s p =>
    match coherentLpn s p with
    | some l =>
      let s := acceptWhole 7 6 l (memSlice s.tier.window (p * 16384) (p * 16384 + 16384)) s
      (List.range 4).foldl (fun s q => if memAny s.tier.windowPoison (p * 16384 + q * 4096) 4096 then poisonPail l (q * 4096) 4096 s else s) s
    | none => s) s)

/-- Is a range of the coherent area? -/
def inCoherent (off len : Nat) : Bool := decide (off + len ≤ 2 ^ 34)

/-- Has the Pail room for a write of the coherent area? -/
def coherentRoom (s : State) (off len : Nat) : Bool := pailHasRoom s (coherentPages off len).length 0

/-- The check of COHERENT_DELETE: the region is present on this node, and is no rim region (R172, R178). -/
def coherentDeleteCheck (no : Nat) (s : State) : Nat × Nat :=
  if decide (254 < no) then (0x26, 1)
  else if !(s.tier.regions.any fun r => r.no == no && r.homed) then (0x27, 3)
  else if no == 254 && twinned s && ownNode s == 0 then (0x27, 3)
  else (0, 0)

/-- Delete a region; its space reads zero (R178). -/
def coherentDelete (no : Nat) (s : State) : State :=
  match s.tier.regions.find? (·.no == no) with
  | some r => releaseCoherent (modTier (fun t => { t with
      regions := t.regions.filter (·.no != no)
      window := memClear t.window (r.base * 65536) ((r.base + r.len) * 65536)
      windowPoison := memClear t.windowPoison (r.base * 65536) ((r.base + r.len) * 65536) }) (dropCoherent r.base r.len s))
  | none => s

/-- The region that holds a byte range of the coherent area. -/
def regionAt (s : State) (off len : Nat) : Option Region :=
  s.tier.regions.find? fun r => decide (r.base * 65536 ≤ off) && decide (off + len ≤ (r.base + r.len) * 65536)

/-- The check of COHERENT_TAKE_HOME: the node holds the region as a twin copy, and its twin ports are up (R18, R181, R183). -/
def coherentTakeHomeCheck (no : Nat) (s : State) : Nat × Nat :=
  if decide (254 < no) then (0x26, 1)
  else if s.tier.regions.any (fun r => r.no == no && !r.homed) && twinned s && portUp s 12 && portUp s 13 then (0, 0)
  else (0x27, 3)

/-- Move a region's home to this node, and nothing else (R183). -/
def coherentTakeHome (no : Nat) (s : State) : State :=
  modTier (fun t => { t with regions := updWhere (·.no == no) (fun r => { r with homed := true, taken := true }) t.regions }) s

end Sys2Proof.Machine
end

