-- ==== Sys2Proof/Machine/Sanitize.lean ====
section
/-! DEFINITION. Keys and their epochs (R443), and what Sanitize does on the flash (R158). -/

namespace Sys2Proof.Machine

open Sys2Proof

/-- The key epoch in force (R443). -/
def keyEpoch (s : State) : Nat := (s.fw.epochA ++ s.fw.epochB).foldl max 0

/-- A key of a namespace or of the object store, generated afresh under the key epoch in force (R443). -/
def newKey (owner : Nat) (s : State) : State :=
  let k : Key := { owner := owner, id := freshNat s, epoch := keyEpoch s }
  storePut (keyItem k) true (drew (modFw (fun f => { f with keys := f.keys.filter (·.owner != owner) ++ [k] }) s))

/-- A key epoch record is appended, and fresh keys replace every namespace's and the object store's (R443). -/
def newEpoch (s : State) : State :=
  let k := keyEpoch s + 1
  let s := modFw (fun f => if f.active == 0 then { f with epochB := f.epochB ++ [k] } else { f with epochA := f.epochA ++ [k] }) s
  setObj 0x1402 5 s.time ((0 :: s.host.namespaces.map (·.id)).foldl (fun s o => newKey o s) s)

/-- Deallocate every page of allocation units (R157). -/
def deallocUnits (aus : List Nat) (s : State) : State := aus.foldl (fun s a => deallocRange (a * 65536) 65536 s) s

/-- Deallocate every page of a namespace (R157). -/
def deallocNs (n : Ns) (s : State) : State := deallocUnits n.aus s

/-- Step 1 of Sanitize: every logical page of every namespace and of the object store is deallocated; what the object store held is gone
with it: baskets, indexes, tables, placed objects and coherent regions (DEDUCED, assumption 44). -/
def dropAllPages (s : State) : State :=
  let s := s.host.namespaces.foldl (fun s n => deallocNs n s) s
  let s := deallocUnits (s.tier.storeAus ++ s.tier.coherentAus.map (·.2)) s
  let s := modBlk (fun b => { b with gcReads := [], gcBuf := [], urgent := [] }) s
  let s := modTier (fun t => { t with objects := [], tiles := [], regions := [], storeAus := [], pages := [], waits := [], coherentAus := [], window := [], windowPoison := [], stale := [] }) s
  let s := modRetr (fun r => { r with indexes := [], handles := [] }) (modChurn (fun c => { c with tables := [] }) s)
  modJobs (fun j => { j with baskets := [], outputs := [] }) s

/-- Step 3 of Sanitize: the erase of every superblock but the reserved one and the metadata ones in use begins; the command completes by
`sanitizeStep` once the last has ended (R158). What was being programmed into them is given up. -/
def sanitizeErase (who : Option (Nat × Nat × Nat)) (s : State) : State :=
  let gone := s.blk.sbs.filter fun b => (b.st == 1 || b.st == 2 || b.st == 5) && !holdsMeta s.blk b
  let ids := gone.map (·.id)
  let us := s.blk.units.filter fun u => ids.contains u.sb
  let s := us.foldl (fun s u => endOps u s) s
  let s := modBlk (fun b => { b with
    sbs := updWhere (fun x => ids.contains x.id) (fun x => { x with st := 3 }) b.sbs
    units := b.units.filter fun u => !ids.contains u.sb
    stripes := b.stripes.filter fun t => !ids.contains t.sb
    dumpSet := []
    dumped := []
    victim := none
    sanitize := some who
    jbuf := b.jbuf ++ gone.map (eraseEntry 6) }) s
  let s := commitAll s
  sanitizeStep (ids.foldl (fun s id => beginErase true id s) s)

/-- Is a Sanitize under way? -/
def sanitizing (s : State) : Bool := s.blk.sanitize.isSome

end Sys2Proof.Machine
end

