-- ==== Sys2Proof/Machine/BlockIo.lean ====
section
/-! DEFINITION. Block storage (R54 to R59, R130, R136): Read, Write, Write Zeroes, Flush, Dataset Management, the reads of the dies
they wait for, and the wait for Pail space. -/

namespace Sys2Proof.Machine

open Sys2Proof

/-- The namespace an entry names, if it is attached to the function (R45). -/
def nsOf (s : State) (fn nsid : Nat) : Option Ns := s.host.namespaces.find? fun n => n.id == nsid && n.ctrls.contains fn

/-- Logical blocks of a namespace. -/
def Ns.blocks (n : Ns) : Nat := n.nsze

/-- Runs of device bytes, one per allocation unit, of `len` bytes at byte `off` of a namespace (R130). -/
def auRuns (aus : List Nat) : Nat → Nat → Nat → List (Nat × Nat)
  | 0, _, _ => []
  | n + 1, off, len =>
    if len == 0 then []
    else
      let k := min len (2 ^ 30 - off % 2 ^ 30)
      (aus.getD (off / 2 ^ 30) 0 * 2 ^ 30 + off % 2 ^ 30, k) :: auRuns aus n (off + k) (len - k)

/-- The pieces of a run, page by page: logical page, byte within it, bytes. -/
def pagePieces : Nat → Nat → Nat → List (Nat × Nat × Nat)
  | 0, _, _ => []
  | n + 1, a, len =>
    if len == 0 then []
    else
      let k := min len (16384 - a % 16384)
      (a / 16384, a % 16384, k) :: pagePieces n (a + k) (len - k)

/-- The pieces of `len` bytes at byte `off` of a namespace, in order. -/
def piecesOf (n : Ns) (off len : Nat) : List (Nat × Nat × Nat) :=
  (auRuns n.aus (n.aus.length + 1) off len).flatMap fun r => pagePieces (r.2 / 16384 + 2) r.1 r.2

/-- Starting block and number of blocks of a Read, Write or Write Zeroes (the published NVM command set). -/
def slba (e : Sqe) : Nat := e.cdw10 + e.cdw11 * 2 ^ 32
def nlb (e : Sqe) : Nat := e.cdw12 % 65536 + 1

/-- Force Unit Access. -/
def fua (e : Sqe) : Bool := bitOf e.cdw12 30

/-- The directive type of a Write. No directive is supported (R15). -/
def dtype (e : Sqe) : Nat := bitsOf e.cdw12 23 20

/-- The check every block command makes of its entry: no reserved value (R4), no fused operation (Table 3-2), an attached namespace,
and blocks inside it. -/
def ioCheck (s : State) (e : Sqe) (first count : Nat) : Except Status Ns :=
  if e.rsvd || e.fuse != 0 || e.psdt == 3 then .error stInvalidField
  else match nsOf s e.fn e.nsid with
    | none => .error stInvalidNamespace
    | some n => if decide (first + count ≤ n.nsze) then .ok n else .error stLbaOutOfRange

/-- Start a command of the NVM command set: a command of a compute queue is of the wrong set (R50), and while a Sanitize is under way none is carried
out (R158; DEDUCED, assumption 44); otherwise `body` runs. -/
def blockCmd (e : Sqe) (opc : Nat) (body : Inflight → State → State) (s : State) : State :=
  match startable e opc s with
  | none => s
  | some x =>
    if isCompute s e.fn e.sq then endCmd e stInvalidOpcode 0 (startCmd e s)
    else if sanitizing s then answer e stSanitizeInProgress 0 0 (startCmd e s)
    else body x (startCmd e s)

/-- The bytes and poisoned quarters of a page for a Read: what its die read delivered, under what the Pail now holds (R132). -/
def readData (s : State) (x : Inflight) (lpn : Nat) : Mem × Nat :=
  match x.got.find? (·.1 == lpn) with
  | some g => overPail s lpn (g.2.data, g.2.poison)
  | none => pageData s lpn

/-- Deliver a Read: its data to host memory, or Unrecovered Read Error where it meets poison or an uncorrectable page (R58, R193). -/
def finishRead (e : Sqe) (s : State) : State :=
  match nsOf s e.fn e.nsid, inflight? s e.fn e.sq e.cid with
  | some n, some x =>
    let ps := (piecesOf n (slba e * n.block) (nlb e * n.block)).map fun p => (p, readData s x p.1)
    match ps.find? fun p => pieceBad p.2.2 p.1.2.1 p.1.2.2 with
    | some p =>
      answer e stUnrecoveredRead 0 0
        (logEv { source := 4, cls := 3, context := p.1.1 } (bump 0x2302 4 s))
    | none => answer e stSuccess 0 0 (dma e.fn e.dptr (ps.flatMap fun p => memRead p.2.1 p.1.2.1 p.1.2.2) s)
  | _, _ => answer e stInvalidNamespace 0 0 s

/-- Look the pages of a Read up: while a line of the map is being rebuilt it waits, with its entry kept; otherwise it queues the die
reads it needs, and is delivered at once when it needs none (R58, R132, R133). -/
def lookupRead (e : Sqe) (s : State) : State :=
  match nsOf s e.fn e.nsid with
  | none => answer e stInvalidNamespace 0 0 s
  | some n =>
    let ls := (piecesOf n (slba e * n.block) (nlb e * n.block)).map (·.1)
    if ls.any (lineWaits s) then s
    else
      let rs := ls.filterMap fun l => (needsDie s l).map fun a => (l, a)
      if rs == [] then finishRead e s
      else rs.foldl (fun s r => startRead r.2 s) (modInflight e.fn e.sq e.cid (fun x => { x with reads := rs, got := [] }) s)

/-- The largest transfer of an NVM command: MDTS 9, 2 MiB (Table 3-2). -/
def mdts : Nat := 2 ^ 21

/-- READ (R58, R132). -/
def readF (e : Sqe) (s : State) : State :=
  blockCmd e 2 (fun _ s =>
    match ioCheck s e (slba e) (nlb e) with
    | .error st => answer e st 0 0 s
    | .ok n => if decide (mdts < nlb e * n.block) then answer e stInvalidField 0 0 s else lookupRead e s) s

def execRead (e : Sqe) (s : State) : Res := finish s (readF e s)

/-- The reads that waited for a map line are looked up again (R133). -/
def pumpReads (s : State) : State :=
  (s.host.inflight.filter fun x => x.started && x.opc == 2 && x.reads == [] && x.sq != 0 && !isCompute s x.fn x.sq).foldl
    (fun s x => match x.entry with | some e => lookupRead e s | none => s) s

/-- A page is delivered to the Reads that wait for it, the last of which completes the Read, and to the copy that garbage collection makes of it,
which gets a write sequence number of its own (R147, R149). -/
def deliver (a : Nat) (pg : Page) (s : State) : State :=
  let xs := s.host.inflight.filter fun x => x.reads.any (·.2 == a)
  let s := xs.foldl (fun s x =>
    let rest := x.reads.filter (·.2 != a)
    let s := modInflight x.fn x.sq x.cid (fun x => { x with
      reads := rest
      got := x.got ++ (x.reads.filter (·.2 == a)).map fun r => (r.1, pg) }) s
    if rest == [] then (match x.entry with | some e => finishRead e s | none => s) else s) s
  let gs := s.blk.gcReads.filter (·.2 == a)
  if gs == [] then s
  else pumpAll (modBlk (fun b => { b with
    gcReads := b.gcReads.filter (·.2 != a)
    gcBuf := b.gcBuf ++ gs.map fun g => { lpn := g.1, seq := b.nextSeq, src := some a, page := pg.copied b.nextSeq }
    nextSeq := b.nextSeq + 1 }) s)

/-- Record that codewords of a page stay undecoded: they are delivered poisoned, counted, and the read is logged (R109). -/
def codewordsLost (a n : Nat) (s : State) : State :=
  if n == 0 then s else bumpBy 0x2040 5 n (logEv { source := 4, cls := 2, action := 3, unit := physChannel a, detail := 4, address := a } s)

/-- Count the codewords recovered at each step (R129), and log a recovery beyond step 1. -/
def countDecodes (a : Nat) (cws : List CwResult) (s : State) : State :=
  cws.foldl (fun s c =>
    if decodedBy3 c then
      let s := bump 0x2040 c.step s
      if decide (2 ≤ c.step) then
        logEv { source := 4, cls := 1, action := 1, unit := physChannel a, detail := c.step, address := a } s
      else s
    else s) s

/-- The codewords of a page that no step up to 3 decoded. -/
def undecoded (cws : List CwResult) : List Nat := (cws.zipIdx.filter fun c => !decodedBy3 c.1).map (·.2)

/-- A bit mask of codewords. -/
def cwMask (ks : List Nat) : Nat := total (ks.map (2 ^ ·))

/-- PAGE_READ_DONE of a page outside locked superblocks: a page whose codewords are all decoded is delivered; a codeword undecoded after step 3 starts
the rebuild of step 4 (R109, R121). -/
def pageReadPlain (a : Nat) (pg : Page) (cws : List CwResult) (s : State) : State :=
  let s := weighRead a cws (countDecodes a cws (countRate a cws (readServed a s)))
  if undecoded cws == [] then deliver a pg s else askRebuild a (undecoded cws) s

/-- The page pair of a locked read with one side undecodable is programmed again into a fresh pair (R123). -/
def rewritePair (a : Nat) (pg : Page) (s : State) : State :=
  pumpAll (modBlk (fun b => { b with
    gcBuf := b.gcBuf ++ [{ lpn := pg.no, seq := b.nextSeq, src := some a, page := pg.copied b.nextSeq }]
    nextSeq := b.nextSeq + 1 }) s)

/-- PAGE_READ_DONE of a locked page: each side decodes by step 3 and the two are compared; the outcome is Table 5-7's (R122, R123). Both sides
undecodable count with one side undecodable (DESIGN CHOICE, assumption 74). A side whose die has failed leaves the other to serve alone (R124). -/
def pageReadLocked (a : Nat) (pg : Page) (cws other : List CwResult) (equal : Bool) (s : State) : State :=
  let c := physChannel a
  let high := a + 32 * 80 * 2 ^ 22
  let lowUp := !dieLost s c (physDie a)
  let highUp := !dieLost s (c + 32) (physDie a)
  let mine := lowUp && undecoded cws == []
  let theirs := highUp && undecoded other == []
  let pgHigh := (pageAt s high).getD pg
  let s := weighRead a (cws ++ other) (countDecodes a (cws ++ other) (readServed high (readServed a s)))
  if !lowUp || !highUp then
    if mine then deliver a pg s else if theirs then deliver a pgHigh s
    else deliver a (pg.poisoned 15) (codewordsLost a 4 s)
  else if mine && theirs then
    if equal then deliver a pg s
    else deliver a (pg.poisoned 15) (bump 0x2030 3 (logEv { source := 2, cls := 5, action := 3, unit := c, address := a } s))
  else if mine || theirs then
    let good := if mine then pg else pgHigh
    rewritePair a good (deliver a good (bump 0x2030 2 (logEv { source := 2, cls := 2, action := 4, unit := c, address := a } s)))
  else deliver a (pg.poisoned 15) (bump 0x2030 2 (codewordsLost a (undecoded cws).length s))

/-- Is a page in a block that is being erased, or whose erase is uncertain? It is never read (R114). -/
def inErase (b : Superblock) (a : Nat) : Bool := b.st == 4 && !b.toErase.contains (physChannel a)

/-- PAGE_READ_DONE: the read of a page at its die ends: at a die that serves it now (R112, R113). An invalid address is refused as an internal fault and
logged (R104); a parity error in the page buffer has the page read again (R189); `pair` gives the other channel's codewords of a locked read and whether both results are equal. -/
def pageReadDoneF (a : Nat) (cws : List CwResult) (pair : Option (List CwResult × Bool)) (s : State) : State :=
  match pageAt s a, sbAt s a with
  | some pg, some b =>
    if !dieServes s (physChannel a) (physDie a) a || inErase b a then s
    else if cws.any (·.parity) then parityError { source := 2, cls := 4, action := 2, unit := physChannel a, address := a } (countRead a s)
    else if b.stream == 6 then
      (if dieServes s (physChannel a + 32) (physDie a) (a + 32 * 80 * 2 ^ 22) then
        match pair with
        | some p => pageReadLocked a pg cws p.1 p.2 s
        | none => pageReadLocked a pg cws [{ step := 5 }] false s
      else s)
    else pageReadPlain a pg cws s
  | _, _ => refuseAddress a s

def execPageReadDone (phys : Nat) (cws : List CwResult) (pair : Option (List CwResult × Bool)) (s : State) : Res :=
  finish s (pageReadDoneF phys cws pair s)

/-- A page with codewords of another. -/
def Page.takeFrom (q : Page) (ks : List Nat) (p : Page) : Page :=
  { data := ks.foldl (fun m k => memOver m (k * 4096) 4096 (memSlice q.data (k * 4096) (k * 4096 + 4096))) p.data
    cws := (List.range 4).map fun k => if ks.contains k then q.cw k else p.cw k }

/-- REBUILD_DONE: the XOR of the other members, checked by its crc, gives the codewords; one whose rebuild fails stays poisoned (R109, R121). `bad`
lists the channels and codewords that the rebuild's own reads could not decode. The read counts against the block under R153, and the reads of the
other members against theirs (R150). -/
def rebuildDoneF (a : Nat) (bad : List (Nat × Nat)) (s : State) : State :=
  match s.nand.rebuilds.find? (·.phys == a) with
  | none => refuseAddress a s
  | some r =>
    let s := modNand (fun n => { n with rebuilds := n.rebuilds.filter (·.phys != a) }) s
    match sbAt s a with
    | none => deliver a (((pageAt s a).getD zeroPage).poisoned 15) (codewordsLost a r.cws.length s)
    | some b =>
      let good := r.cws.filter (rebuildOk s b a bad)
      let lost := r.cws.filter fun k => !good.contains k
      let pg := (Page.takeFrom (rebuiltPage s b a) good ((pageAt s a).getD zeroPage)).poisoned (cwMask lost)
      let s := (stripeMates s b a).foldl (fun s x => countRead x s) s
      let s := if dieLost s (physChannel a) (physDie a) then s else queueRefresh b.id (countDeep a s)
      let s := if good == [] then s
        else bumpBy 0x2040 4 good.length (logEv { source := 4, cls := 2, action := 2, unit := physChannel a, detail := 4, address := a } s)
      deliver a pg (scanRead a true (codewordsLost a lost.length s))

def execRebuildDone (phys : Nat) (bad : List (Nat × Nat)) (s : State) : Res := finish s (rebuildDoneF phys bad s)

/-- A read that R113 does not allow is refused as an internal fault and logged: its requester receives Tier Error naming T2; a copy's source is read
again later (R113, R185). -/
def refuseRead (a : Nat) (s : State) : State :=
  let s := logEv { source := 2, cls := 8, unit := physChannel a, address := a } s
  let s := modNand (fun n => { n with reads := n.reads.filter (· != a) }) s
  let s := modBlk (fun b => { b with
    urgent := b.urgent ++ (b.gcReads.filter (·.2 == a)).map (·.1)
    gcReads := b.gcReads.filter (·.2 != a) }) s
  (s.host.inflight.filter fun x => x.reads.any (·.2 == a)).foldl (fun s x => post x.fn x.sq x.cid stTierError 2 0 s) (scanRead a false s)

/-- SUSPEND_READY: the die serves the queued reads R113 allows and refuses any other; with no allowed read queued the operation resumes (R112 steps
2 and 3). -/
def suspendReadyF (c d : Nat) (s : State) : State :=
  match dieOp s c d with
  | some o =>
    if o.susp == 1 then
      let rs := readsAt s c d
      let s := (rs.filter fun a => !readAllowed s o a).foldl (fun s a => refuseRead a s) s
      modDieOp c d (fun x => { x with susp := if rs.any (readAllowed s o) then 2 else 0 }) s
    else s
  | none => s

/-- Cut a buffer into the pieces' bytes and accept them in order. -/
def acceptPieces : List (Nat × Nat × Nat) → Bytes → State → State
  | [], _, s => s
  | p :: ps, bs, s => acceptPieces ps (bs.drop p.2.2) (acceptPage p.1 p.2.1 (slice bs 0 p.2.2) s)

/-- Has the Pail room for a Write: for the pages it touches, and for the merge reads of those it covers in part (R137, R452)? -/
def writeRoom (n : Ns) (e : Sqe) (s : State) : Bool :=
  let ps := piecesOf n (slba e * n.block) (nlb e * n.block)
  pailHasRoom s ps.length (ps.filter (·.2.2 != 16384)).length

/-- The logical pages of pieces, as ranges. -/
def pieceRanges (ps : List (Nat × Nat × Nat)) : List (Nat × Nat) := ps.map fun p => (p.1, 1)

/-- Accept a Write's data into the Pail: it completes at once with write caching on and FUA clear, and otherwise waits for flash and
the journal (R55, R136). -/
def acceptWrite (e : Sqe) (n : Ns) (buf : Bytes) (s : State) : State :=
  let ps := piecesOf n (slba e * n.block) (nlb e * n.block)
  let s := modBlk (fun b => { b with hostQuarters := b.hostQuarters + nlb e * n.block / 4096 }) (acceptPieces ps buf s)
  if caching s e.fn && !fua e then pump false (answer e stSuccess 0 0 s)
  else pump false (modInflight e.fn e.sq e.cid (fun x => { x with lpns := pieceRanges ps, buf := [] }) s)

/-- WRITE (R55, R452): accepted when the Pail has room; otherwise it waits with its data. -/
def writeF (e : Sqe) (buf : Bytes) (s : State) : State :=
  blockCmd e 1 (fun _ s =>
    match ioCheck s e (slba e) (nlb e) with
    | .error st => answer e st 0 0 s
    | .ok n =>
      if decide (mdts < nlb e * n.block) || dtype e != 0 then answer e stInvalidField 0 0 s
      else if readOnly s then answer e stWriteProtected 0 0 s
      else
        let buf := slice buf 0 (nlb e * n.block)
        if writeRoom n e s then acceptWrite e n buf s
        else modInflight e.fn e.sq e.cid (fun x => { x with buf := buf, space := true }) s) s

def execWrite (e : Sqe) (buf : Bytes) (s : State) : Res := finish s (writeF e buf s)

/-- Deallocate `len` bytes at byte `off` of a namespace: whole logical pages leave the map, and the blocks of a partly covered page
read zero (R58, R157). -/
def deallocBytes (n : Ns) (off len : Nat) (s : State) : State :=
  (auRuns n.aus (n.aus.length + 1) off len).foldl (fun s r =>
    let head := min r.2 ((16384 - r.1 % 16384) % 16384)
    let mid := (r.2 - head) / 16384
    let tail := (r.2 - head) % 16384
    let s := if head == 0 then s else acceptPage (r.1 / 16384) (r.1 % 16384) (List.replicate head 0) s
    let s := deallocRange ((r.1 + head) / 16384) mid s
    if tail == 0 then s else acceptPage ((r.1 + head) / 16384 + mid) 0 (List.replicate tail 0) s) s

/-- What `len` bytes deallocated at byte `off` of a namespace change: the partly covered pages, and the run of whole ones (R57, R58). -/
def byteRanges (n : Ns) (off len : Nat) : List (Nat × Nat) :=
  (auRuns n.aus (n.aus.length + 1) off len).flatMap fun r =>
    let head := min r.2 ((16384 - r.1 % 16384) % 16384)
    let mid := (r.2 - head) / 16384
    let first := (r.1 + head) / 16384
    (if head == 0 then [] else [(r.1 / 16384, 1)]) ++ (if mid == 0 then [] else [(first, mid)]) ++
      (if (r.2 - head) % 16384 == 0 then [] else [(first + mid, 1)])

/-- Pages that a deallocation puts into the Pail: those it covers in part, each with a merge read. -/
def partPages (n : Ns) (off len : Nat) : Nat :=
  total ((auRuns n.aus (n.aus.length + 1) off len).map fun r =>
    boolNat ((16384 - r.1 % 16384) % 16384 != 0) + boolNat ((r.1 + r.2) % 16384 != 0))

/-- Complete a deallocating command as a Write would be: at once with caching on and no FUA, else when it is committed (R55, R58). -/
def deallocDone (e : Sqe) (ranges : List (Nat × Nat)) (now : Bool) (s : State) : State :=
  if now || ranges == [] then pump false (answer e stSuccess 0 0 s)
  else pump false (modInflight e.fn e.sq e.cid (fun x => { x with lpns := ranges }) s)

/-- Deallocate runs of bytes of a namespace, and complete the command. -/
def acceptDealloc (e : Sqe) (n : Ns) (rs : List (Nat × Nat)) (now : Bool) (s : State) : State :=
  deallocDone e (rs.flatMap fun r => byteRanges n r.1 r.2) now (rs.foldl (fun s r => deallocBytes n r.1 r.2 s) s)

/-- Has the Pail room for the partly covered pages of runs of bytes? A run with none needs no room. -/
def deallocRoom (n : Ns) (rs : List (Nat × Nat)) (s : State) : Bool :=
  let k := total (rs.map fun r => partPages n r.1 r.2)
  k == 0 || pailHasRoom s k k

/-- Deallocate now, or wait for Pail space with the runs kept (R55, R452). -/
def deallocOrWait (e : Sqe) (n : Ns) (rs : List (Nat × Nat)) (now : Bool) (s : State) : State :=
  if deallocRoom n rs s then acceptDealloc e n rs now s
  else modInflight e.fn e.sq e.cid (fun x => { x with space := true, ranges := rs }) s

/-- WRITE_ZEROES (R55, R58): deallocates whether or not DEAC is set. -/
def writeZeroesF (e : Sqe) (s : State) : State :=
  blockCmd e 8 (fun _ s =>
    match ioCheck s e (slba e) (nlb e) with
    | .error st => answer e st 0 0 s
    | .ok n =>
      if readOnly s then answer e stWriteProtected 0 0 s
      else deallocOrWait e n [(slba e * n.block, nlb e * n.block)] (caching s e.fn && !fua e) s) s

def execWriteZeroes (e : Sqe) (s : State) : Res := finish s (writeZeroesF e s)

/-- DATASET_MANAGEMENT (R58, R157): the deallocate attribute deallocates every range; without it the command only completes. -/
def datasetManagementF (e : Sqe) (ranges : List (Nat × Nat)) (s : State) : State :=
  blockCmd e 9 (fun _ s =>
    match ioCheck s e 0 0 with
    | .error st => answer e st 0 0 s
    | .ok n =>
      if !bitOf e.cdw11 2 then answer e stSuccess 0 0 s
      else if !ranges.all (fun r => decide (r.1 + r.2 ≤ n.nsze)) then answer e stLbaOutOfRange 0 0 s
      else if readOnly s then answer e stWriteProtected 0 0 s
      else deallocOrWait e n ((ranges.filter (·.2 != 0)).map fun r => (r.1 * n.block, r.2 * n.block)) (caching s e.fn) s) s

def execDatasetManagement (e : Sqe) (ranges : List (Nat × Nat)) (s : State) : Res := finish s (datasetManagementF e ranges s)

/-- The pages that the namespaces of a Flush, and tiles, have changes in. -/
def pagesOfTiles (s : State) (ts : List (Nat × Nat)) : List (Nat × Nat) :=
  (ts.flatMap fun t => match findTile s t.1 t.2 with | some u => tileLpns s u | none => []).eraseDups.map fun l => (l, 1)

/-- A Flush writes back, as far as the Pail has room, the tiles it has still to write back, and waits for their pages; with nothing left to wait for
it completes (R169). -/
def flushMore (e : Sqe) (s : State) : State :=
  match inflight? s e.fn e.sq e.cid with
  | none => s
  | some x =>
    let s := x.tiles.foldl (fun s t => writeBack false t.1 t.2 s) s
    let left := x.tiles.filter (isDirty s)
    let lpns := x.lpns ++ pagesOfTiles s (x.tiles.filter fun t => !left.contains t)
    if lpns == [] && left == [] then answer e stSuccess 0 0 s
    else pump false (modInflight e.fn e.sq e.cid (fun x => { x with tiles := left, lpns := lpns }) s)

/-- PAIL_SPACE_AVAILABLE: the oldest command that waits for Pail space is accepted if the Pail now has room for it (R452); a module that has become
read-only meanwhile refuses it (R156). A Flush writes back further tiles (R169). -/
def pailSpaceAvailableF (s : State) : State :=
  match s.host.inflight.find? fun x => x.started && (x.space || x.tiles != []) && !isCompute s x.fn x.sq with
  | none => s
  | some x =>
    match x.entry with
    | none => s
    | some e =>
      if x.tiles != [] then flushMore e s
      else match nsOf s e.fn e.nsid with
      | none => answer e stInvalidNamespace 0 0 s
      | some n =>
        if readOnly s then answer e stWriteProtected 0 0 s
        else
          let go := modInflight e.fn e.sq e.cid (fun x => { x with buf := [], space := false, ranges := [] }) s
          if x.opc == 1 then (if writeRoom n e s then acceptWrite e n x.buf go else s)
          else if deallocRoom n x.ranges s then acceptDealloc e n x.ranges (caching s e.fn && !(x.opc == 8 && fua e)) go
          else s

/-- Does a write or deallocation fetched before a Flush wait to be accepted (R57)? The Flush is then not started. -/
def flushHeld (e : Sqe) (s : State) : Bool :=
  !isCompute s e.fn e.sq && (s.host.inflight.takeWhile fun x => !x.named e.fn e.sq e.cid).any fun x =>
    x.sq != 0 && !isCompute s x.fn x.sq && (x.opc == 1 || x.opc == 8 || x.opc == 9) && (!x.started || x.space)

/-- The writes and deallocations accepted and not yet on flash with their map change committed. -/
def pendingChanges (b : Block) : List (Nat × Nat) :=
  ((b.pail.filter (·.phase != 2)).map fun p => (p.lpn, 1)) ++
  ((uncommittedEntries b).filter fun e => e.kind == 1 || e.kind == 2).map fun e => (e.key, e.count)

/-- FLUSH (R57, R169): waits for every write and deallocation of its namespaces fetched before it; with NSID FFFFFFFFh it also
writes back the tiles of the function's commands. -/
def flushF (e : Sqe) (s : State) : State :=
  if flushHeld e s then s
  else blockCmd e 0 (fun _ s =>
    if e.rsvd || e.fuse != 0 || e.psdt == 3 then answer e stInvalidField 0 0 s
    else
      let all := e.nsid == 0xFFFFFFFF
      let ns := s.host.namespaces.filter fun n => n.ctrls.contains e.fn && (all || n.id == e.nsid)
      if ns == [] && !all then answer e stInvalidNamespace 0 0 s
      else
        let rs := (pendingChanges s.blk).filter fun r => (ns.flatMap (·.aus)).any fun a =>
          decide (r.1 < a * 65536 + 65536) && decide (a * 65536 < r.1 + r.2)
        flushMore e (modInflight e.fn e.sq e.cid (fun x => { x with lpns := rs, tiles := if all then tilesToFlush s e.fn else [] }) s)) s

def execFlush (e : Sqe) (s : State) : Res := finish s (flushF e s)

/-- IO_INVALID_OPCODE: an opcode outside the queue's command set completes with Invalid Opcode, and freezes a compute queue (R50). -/
def ioInvalidOpcodeF (e : Sqe) (opc : Nat) (s : State) : State :=
  match startable e opc s with
  | none => s
  | some _ =>
    let basket := [0x81, 0x82, 0x85, 0x89, 0x8D, 0x91, 0x94].contains opc
    let block := [0, 1, 2, 8, 9].contains opc
    if isCompute s e.fn e.sq then (if basket then s else endCmd e stInvalidOpcode 0 (startCmd e s))
    else (if block || e.sq == 0 then s else answer e stInvalidOpcode 0 0 (startCmd e s))

def execIoInvalidOpcode (e : Sqe) (opc : Nat) (s : State) : Res := finish s (ioInvalidOpcodeF e opc s)

end Sys2Proof.Machine
end

