-- ==== Sys2Proof/Machine/Audit.lean ====
section
/-! DEFINITION. Version digests of objects and their commits, the mode word and the result digest (chapter 16). -/

namespace Sys2Proof.Machine

open Sys2Proof

/-! ### Version digests (R399, R400) -/

/-- The leaf of a tile. -/
def leafTile (t : Tile) : Bytes :=
  sha256 (natLE 1 t.format ++ natLE 1 t.rows ++ natLE 1 t.cols ++ natLE 1 (t.flags &&& 0x0C) ++ memRead t.scale 0 128 ++
          memRead t.body 0 (bodyBytes t.format))

/-- The leaf of an untiled page. -/
def leafPage (t : Tile) : Bytes := sha256 (memRead t.body 0 16384)

/-- The page digests over 512 consecutive leaves each. The fuel is the number of leaves. -/
def pageDigests : Nat → List Bytes → List Bytes
  | 0, _ => []
  | _, [] => []
  | n + 1, l => sha256 (l.take 512).flatten :: pageDigests n (l.drop 512)

/-- The version digest over leaves. -/
def versionOf (kind : Nat) (leaves : List Bytes) : Bytes :=
  sha256 (natLE 1 kind ++ natLE 8 leaves.length ++ (pageDigests leaves.length leaves).flatten)

/-- Object id of a Churn table's planes, and of its count pages (DESIGN CHOICE, assumption 22). -/
def tableObj (id : Nat) : Nat := 2 ^ 63 + 2 ^ 16 * id
def countObj (id : Nat) : Nat := tableObj id + 1

/-- The table with an id. -/
def findTable (s : State) (id : Nat) : Option Table := s.churn.tables.find? (·.id == id)

/-- The leaves of an object of kind 0, 1 or 2, in ascending order (R400). -/
def leavesOf (s : State) (kind id : Nat) : List Bytes :=
  if kind == 2 then
    match findTable s id with
    | some t =>
      (List.range ((t.rows + 63) / 64 * layoutPlanes t.layout * layoutBlocks t.layout)).map
        (fun i => leafTile (tileOf s (tableObj id) i)) ++
      (List.range ((t.rows + 4095) / 4096)).map (fun i => leafPage (tileOf s (countObj id) i))
    | none => []
  else
    match findObj s id with
    | some o => (List.range o.size).map fun i => if kind == 0 then leafTile (tileOf s id i) else leafPage (tileOf s id i)
    | none => []

/-- The record of an auditable object of kind 0, 1 or 2. -/
def auditRec (s : State) (kind id : Nat) : Option PObj :=
  match findObj s (if kind == 2 then tableObj id else id) with
  | some o => if o.kind == kind then some o else none
  | none => none

/-- Bytes of an object's leaves that were written since its last commit. -/
def changedBytes (s : State) (o : PObj) : Nat :=
  ((s.tier.tiles.filter fun t => t.object == o.id && t.version != 0 && decide (o.commitTime ≤ t.writeTime)).map
    fun t => bodyBytes t.format + 132).foldl (· + ·) 0

/-- Give an object the digest pages that keep its leaves, 512 of 32 bytes to a page (R400). -/
def takeDigestPages (id leaves : Nat) (s : State) : State :=
  (List.range (ceilDiv leaves 512)).foldl (fun s p => takePage (.object id) 0 32 p s) s

/-- Commit an object of kind 0, 1 or 2: its version digest, the commit count and the fabric time (R399). Its leaves go to its digest pages, whose
bytes no command shows and the model does not hold (assumption 25). -/
def commitObj (kind id : Nat) (s : State) : State :=
  match auditRec s kind id with
  | none => s
  | some o =>
    let leaves := leavesOf s kind id
    let d := versionOf kind leaves
    let s := takeDigestPages o.id leaves.length (bumpBy 0x4203 4 (changedBytes s o) (bump 0x4203 2 s))
    modObj o.id (fun o => { o with
      commits := o.commits + 1
      commitTime := s.time
      digest := d
      written := false }) s

/-- Commit an object if it has writes since its last commit, or none yet (R402). -/
def commitIfWritten (kind id : Nat) (s : State) : State :=
  match auditRec s kind id with
  | some o => if o.written || o.commits == 0 then commitObj kind id s else s
  | none => s

/-- The index with an id. -/
def findIndex (s : State) (id : Nat) : Option Index := s.retr.indexes.find? (·.id == id)

/-- The version digest of an index at an epoch, where it is held (R401, R405). -/
def indexDigest (s : State) (id epoch : Nat) : Option Bytes :=
  match findIndex s id with
  | some x => (x.digests.find? (·.1 == epoch)).map (·.2)
  | none => none

/-- The version a digest names for an object read: kind, id and version digest (Table 16-3); an index at `epoch`. -/
def versionRead (s : State) (epoch kind id : Nat) : Nat × Nat × Bytes :=
  if kind == 3 then (3, id, (indexDigest s id epoch).getD [])
  else (kind, id, match auditRec s kind id with | some o => o.digest | none => [])

/-- Order of objects in a digest: ascending (kind, object id). -/
def insertVersion (v : Nat × Nat × Bytes) : List (Nat × Nat × Bytes) → List (Nat × Nat × Bytes)
  | [] => [v]
  | u :: l =>
    if u.1 == v.1 && u.2.1 == v.2.1 then u :: l
    else if decide (v.1 < u.1) || (v.1 == u.1 && decide (v.2.1 < u.2.1)) then v :: u :: l
    else u :: insertVersion v l

/-- The objects of a digest in order, each once. -/
def sortVersions (l : List (Nat × Nat × Bytes)) : List (Nat × Nat × Bytes) := l.foldl (fun a v => insertVersion v a) []

/-! ### Holding of writes (R402) -/

/-- Is an object read by an audited command that has not ended, other than the job `self`? -/
def auditHeld (s : State) (self : Nat) (kind id : Nat) : Bool :=
  (s.jobs.jobs.any fun j => j.digest && j.id != self && decide (j.st ≤ 4) && j.versions.any fun v => v.1 == kind && v.2.1 == id) ||
  (s.retr.queries.any fun q => q.digest && q.versions.any fun v => v.1 == kind && v.2.1 == id)

/-- A write that waits for an audited command is counted (AuditState.3). -/
def holdWrite (s : State) : State := bump 0x4203 3 s

/-! ### The result digest (R403, Table 16-4) -/

/-- Is deterministic mode applied on this node (DeterministicMode.3)? -/
def deterministic (s : State) : Bool := obj s 0x4200 3 == 1

/-- The mode word of new admissions: raw_read is RetrievalPolicy.2 while deterministic mode is off, and 0 while it is on. -/
def modeWord (s : State) : Nat :=
  1 + 2 ^ 16 * obj s 0x3100 3 + (if deterministic s then 256 else if obj s 0x3200 2 == 1 then 512 else 0)

/-- The digest of a command's input (Table 16-3). -/
def inputDigest (opc cdw14 cdw15 len : Nat) (buf : Bytes) : Bytes :=
  sha256 (natLE 1 opc ++ natLE 3 0 ++ natLE 4 cdw14 ++ natLE 4 cdw15 ++ natLE 4 len ++ slice buf 0 len)

/-- The result digest of Table 16-3. -/
def resultDigest (basket : Bytes) (versions : List (Nat × Nat × Bytes)) (input : Bytes) (epoch cells mode : Nat) : Bytes :=
  sha256 (basket ++ natLE 4 versions.length ++ (versions.map (·.2.2)).flatten ++ input ++ natLE 8 epoch ++ natLE 2 cells ++
          natLE 8 mode)

/-- Write an entry of the audit log of a controller, newest first, 256 kept (R404). -/
def logAudit (fn : Nat) (a : AuditEntry) (s : State) : State :=
  bump 0x4203 1 (modCtrl fn (fun c => { c with auditLog := (a :: c.auditLog).take 256 }) s)

/-! ### AUDIT_COMMIT -/

/-- The check of AUDIT_COMMIT: a kind of Table 14-6, and an object that exists. An index commits with its epochs (R401). -/
def auditCommitCheck (kind id : Nat) (s : State) : Nat × Nat :=
  if decide (3 < kind) then (0x26, 1)
  else if kind == 3 then (if (findIndex s id).isSome then (0, 0) else (0x27, 3))
  else if (auditRec s kind id).isSome then (0, 0) else (0x27, 3)

def execAuditCommit (s : State) : Res :=
  let kind := obj s 0x4201 1
  let id := obj s 0x4201 2
  finish s (runAction (auditCommitCheck kind id s) (commitObj kind id) s)

end Sys2Proof.Machine
end

