-- ==== Sys2Proof/Machine/Arith.lean ====
section
/-! DEFINITION. Number formats and arithmetic (chapter 10): exact dyadic values, decoding and rounding of every format, FP32
operations on bit patterns, stochastic rounding and its hash, and the accumulation step of R250. -/

namespace Sys2Proof.Machine

open Sys2Proof

/-- A value: NaN, an infinity, or (−1)^neg · m · 2^e exactly (a zero keeps its sign). -/
inductive FV where
  | nan
  | inf (neg : Bool)
  | fin (neg : Bool) (m : Nat) (e : Int)
  deriving DecidableEq, Repr

/-- Exponent bits, mantissa bits and bias of a floating format (Table 10-1). -/
def fmtShape (code : Nat) : Nat × Nat × Nat :=
  match code with
  | 0x00 => (4, 3, 7)
  | 0x01 => (5, 2, 15)
  | 0x02 => (2, 1, 1)
  | 0x05 => (8, 7, 127)
  | 0x11 => (5, 10, 15)
  | _ => (8, 23, 127)

/-- Bits of a format's element. -/
def fmtBits (code : Nat) : Nat :=
  match code with
  | 0x02 => 4
  | 0x04 => 4
  | 0x05 => 16
  | 0x10 => 32
  | 0x11 => 16
  | 0x12 => 32
  | _ => 8

/-- Is a format an integer format? -/
def fmtInt (code : Nat) : Bool := code == 3 || code == 4 || code == 0x12

/-- A two's-complement field of `w` bits. -/
def sint (w v : Nat) : Int := if v % 2 ^ w < 2 ^ (w - 1) then (v % 2 ^ w : Nat) else (v % 2 ^ w : Nat) - (2 ^ w : Nat)

/-- The `w`-bit two's-complement pattern of an integer. -/
def wrapInt (w : Nat) (i : Int) : Nat := (i % (2 ^ w : Nat)).toNat

/-- The exact value of an integer. -/
def ofInt (i : Int) : FV := .fin (decide (i < 0)) i.natAbs 0

/-- Decode an element (R234, Table 10-2). -/
def decodeFmt (code v : Nat) : FV :=
  if fmtInt code then ofInt (sint (fmtBits code) v)
  else
    let (eb, mb, bias) := fmtShape code
    let neg := bitOf v (eb + mb)
    let e := v / 2 ^ mb % 2 ^ eb
    let m := v % 2 ^ mb
    let top := e == 2 ^ eb - 1
    if code == 0 && top && m == 7 then .nan
    else if (code == 1 || code == 5 || code == 0x10 || code == 0x11) && top then
      (if m == 0 then .inf neg else .nan)
    else if e == 0 then .fin neg m (1 - (bias : Int) - mb)
    else .fin neg (2 ^ mb + m) ((e : Int) - bias - mb)

/-- ⌊m / 2^d⌋ rounded to nearest, ties to even. -/
def rneShift (m d : Nat) : Nat :=
  let q := m / 2 ^ d
  let r := m % 2 ^ d
  if 2 * r < 2 ^ d then q else if 2 ^ d < 2 * r then q + 1 else if q % 2 == 0 then q else q + 1

/-- Multiply by a power of two, rounding to nearest even where the exponent is negative. -/
def scaleRne (m : Nat) (k : Int) : Nat := if 0 ≤ k then m * 2 ^ k.toNat else rneShift m (-k).toNat

/-- Multiply by a power of two, truncating. -/
def scaleTrunc (m : Nat) (k : Int) : Nat := if 0 ≤ k then m * 2 ^ k.toNat else m / 2 ^ (-k).toNat

/-- The exponent of the unit in the last place of a magnitude in a format: never below the subnormal step (R234). -/
def ulpExp (code m : Nat) (e : Int) : Int :=
  let (_, mb, bias) := fmtShape code
  max ((Nat.log2 m : Int) + e - mb) (1 - (bias : Int) - mb)

/-- The bits of a magnitude `q · 2^u` that the format represents. -/
def packMag (code q : Nat) (u : Int) : Nat :=
  let (_, mb, bias) := fmtShape code
  if q == 0 then 0
  else
    let l := Nat.log2 q
    let e := (l : Int) + u
    if e < 1 - (bias : Int) then scaleTrunc q (u - (1 - (bias : Int) - mb))
    else (e + bias).toNat * 2 ^ mb + (scaleTrunc q ((mb : Int) - l) - 2 ^ mb)

/-- The bits of a format's largest finite magnitude (Table 10-1). -/
def maxFinite (code : Nat) : Nat :=
  match code with
  | 0x00 => 0x7E
  | 0x01 => 0x7B
  | 0x02 => 0x7
  | 0x05 => 0x7F7F
  | 0x11 => 0x7BFF
  | _ => 0x7F7FFFFF

/-- The canonical NaN written (Table 10-2). -/
def canonNan (code : Nat) : Nat :=
  match code with
  | 0x00 => 0x7F
  | 0x01 => 0x7F
  | 0x05 => 0x7FC0
  | 0x11 => 0x7E00
  | 0x10 => 0x7FC00000
  | _ => 0

/-- The bits of positive infinity, where the format has one. -/
def infBits (code : Nat) : Nat :=
  match code with
  | 0x01 => 0x7C
  | 0x05 => 0x7F80
  | 0x11 => 0x7C00
  | _ => 0x7F800000

/-- Put a sign on a magnitude's bits. -/
def withSign (code : Nat) (neg : Bool) (v : Nat) : Nat := if neg then v + 2 ^ (fmtBits code - 1) else v

/-- The outcome of a conversion: bits, whether a finite value saturated, and whether a NaN was written as zero (R239). -/
structure Conv where
  bits : Nat
  sat : Bool := false
  nanZero : Bool := false
  deriving DecidableEq, Repr

/-- Is a magnitude `q · 2^u` beyond the largest finite of a floating format? -/
def beyond (code q : Nat) (u : Int) : Bool :=
  match decodeFmt code (maxFinite code) with
  | .fin _ m e =>
    let k := min u e
    decide (m * 2 ^ (e - k).toNat < q * 2 ^ (u - k).toNat)
  | _ => false

/-- The least and largest value of an integer format. -/
def intMax (code : Nat) : Int := (2 ^ (fmtBits code - 1) : Nat) - 1
def intMin (code : Nat) : Int := -(2 ^ (fmtBits code - 1) : Nat)

/-- Clamp an integer result to its format. -/
def clampInt (code : Nat) (i : Int) : Conv :=
  if intMax code < i then { bits := wrapInt (fmtBits code) (intMax code), sat := true }
  else if i < intMin code then { bits := wrapInt (fmtBits code) (intMin code), sat := true }
  else { bits := wrapInt (fmtBits code) i }

/-- Does a floating format write an infinity beyond its largest finite (BF16, FP16, FP32: IEEE 754)? -/
def overflowsToInf (code : Nat) : Bool := code == 5 || code == 0x10 || code == 0x11

/-- Conversion by round-to-nearest-even (R239); a finite value that BF16, FP16 or FP32 write as an infinity counts as saturated too. -/
def convRne (code : Nat) (v : FV) : Conv :=
  if fmtInt code then
    match v with
    | .nan => { bits := 0, nanZero := true }
    | .inf neg => { bits := wrapInt (fmtBits code) (if neg then intMin code else intMax code) }
    | .fin neg m e =>
      let q : Int := scaleRne m e
      clampInt code (if neg then -q else q)
  else
    match v with
    | .nan => { bits := canonNan code, nanZero := code == 2 }
    | .inf neg =>
      if code == 0 || code == 2 then { bits := withSign code neg (maxFinite code) }
      else { bits := withSign code neg (infBits code) }
    | .fin neg m e =>
      if m == 0 then { bits := withSign code neg 0 }
      else
        let u := ulpExp code m e
        let q := scaleRne m (e - u)
        if beyond code q u then
          if overflowsToInf code then { bits := withSign code neg (infBits code), sat := true }
          else { bits := withSign code neg (maxFinite code), sat := true }
        else { bits := withSign code neg (packMag code q u) }

/-- The mixing function of R241. -/
def hashMix (z : Nat) : Nat :=
  let z := (z ^^^ (z / 2 ^ 30)) * 0xBF58476D1CE4E5B9 % 2 ^ 64
  let z := (z ^^^ (z / 2 ^ 27)) * 0x94D049BB133111EB % 2 ^ 64
  z ^^^ (z / 2 ^ 31)

/-- The hash of row, step, element and lane (R241). -/
def srHash (row step element lane : Nat) : Nat :=
  let z := hashMix ((row + 0x9E3779B97F4A7C15 * (step + 1)) % 2 ^ 64)
  hashMix ((z + element * 256 + lane + 1) % 2 ^ 64)

/-- Conversion by stochastic rounding with the hash `h` (R240); of the infinities only that of E5M2 stays one. -/
def convSr (code h : Nat) (v : FV) : Conv :=
  let r := h / 2 ^ 48
  match v with
  | .fin neg m e =>
    if fmtInt code then
      let big : Int := if neg then -(intMin code) else intMax code
      let lo := scaleTrunc m e
      if decide (big < (lo : Int)) || (big == (lo : Int) && decide (e < 0) && m % 2 ^ (-e).toNat != 0) then { bits := wrapInt (fmtBits code) (if neg then intMin code else intMax code), sat := true }
      else
        let f16 := if 0 ≤ e then 0 else (m % 2 ^ (-e).toNat) * 2 ^ 16 / 2 ^ (-e).toNat
        let q : Int := if r < f16 then lo + 1 else lo
        clampInt code (if neg then -q else q)
    else if m == 0 then { bits := withSign code neg 0 }
    else
      let u := ulpExp code m e
      let lo := scaleTrunc m (e - u)
      if beyond code lo u || (beyond code (lo + 1) u && decide (u > e) && decide (m % 2 ^ (u - e).toNat ≠ 0)) then
        { bits := withSign code neg (maxFinite code), sat := true }
      else
        let f16 := if u ≤ e then 0 else (m % 2 ^ (u - e).toNat) * 2 ^ 16 / 2 ^ (u - e).toNat
        let q := if r < f16 then lo + 1 else lo
        { bits := withSign code neg (packMag code q u) }
  | .inf neg =>
    if fmtInt code then { bits := wrapInt (fmtBits code) (if neg then intMin code else intMax code) }
    else if code == 1 then { bits := withSign code neg (infBits code) }
    else { bits := withSign code neg (maxFinite code) }
  | .nan => convRne code .nan

/-! ### FP32 on bit patterns (R238) -/

/-- The value of FP32 bits. -/
def f32 (v : Nat) : FV := decodeFmt 0x10 v

/-- Round a value to FP32 bits, to nearest even (R238). -/
def rne32 (v : FV) : Nat := (convRne 0x10 v).bits

/-- Exact sum of two values, with the signs of IEEE 754. -/
def addV (a b : FV) : FV :=
  match a, b with
  | .nan, _ => .nan
  | _, .nan => .nan
  | .inf x, .inf y => if x == y then .inf x else .nan
  | .inf x, _ => .inf x
  | _, .inf y => .inf y
  | .fin na ma ea, .fin nb mb eb =>
    let k := min ea eb
    let x : Int := (ma * 2 ^ (ea - k).toNat : Nat)
    let y : Int := (mb * 2 ^ (eb - k).toNat : Nat)
    let z := (if na then -x else x) + (if nb then -y else y)
    if z == 0 then .fin (na && nb) 0 k else .fin (decide (z < 0)) z.natAbs k

/-- The negation of a value. -/
def negV : FV → FV
  | .nan => .nan
  | .inf x => .inf (!x)
  | .fin n m e => .fin (!n) m e

/-- Exact product of two values (R248: infinity times zero is NaN). -/
def mulV (a b : FV) : FV :=
  match a, b with
  | .nan, _ => .nan
  | _, .nan => .nan
  | .inf x, .inf y => .inf (x != y)
  | .inf x, .fin n m _ => if m == 0 then .nan else .inf (x != n)
  | .fin n m _, .inf y => if m == 0 then .nan else .inf (n != y)
  | .fin na ma ea, .fin nb mb eb => .fin (na != nb) (ma * mb) (ea + eb)

def fadd (a b : Nat) : Nat := rne32 (addV (f32 a) (f32 b))
def fsub (a b : Nat) : Nat := rne32 (addV (f32 a) (negV (f32 b)))
def fmul (a b : Nat) : Nat := rne32 (mulV (f32 a) (f32 b))

/-- Fused multiply-add: one rounding. -/
def ffma (a b c : Nat) : Nat := rne32 (addV (mulV (f32 a) (f32 b)) (f32 c))

/-- Is the value a NaN? -/
def isNan (v : FV) : Bool := v == .nan

/-- Is the value finite? -/
def isFin : FV → Bool
  | .fin _ _ _ => true
  | _ => false

/-- a < b, with −0 below +0 (R238). -/
def ltV (a b : FV) : Bool :=
  match a, b with
  | .nan, _ => false
  | _, .nan => false
  | .inf x, .inf y => x && !y
  | .inf x, .fin _ _ _ => x
  | .fin _ _ _, .inf y => !y
  | .fin na ma ea, .fin nb mb eb =>
    let k := min ea eb
    let x : Int := (ma * 2 ^ (ea - k).toNat : Nat)
    let y : Int := (mb * 2 ^ (eb - k).toNat : Nat)
    let x := if na then -x else x
    let y := if nb then -y else y
    if x == y then ma == 0 && na && !nb else decide (x < y)

/-- Minimum and maximum of FP32 bits: the other operand when one is NaN (R238). -/
def fminB (a b : Nat) : Nat :=
  if isNan (f32 a) then (if isNan (f32 b) then canonNan 0x10 else b)
  else if isNan (f32 b) then a else if ltV (f32 b) (f32 a) then b else a

def fmaxB (a b : Nat) : Nat :=
  if isNan (f32 a) then (if isNan (f32 b) then canonNan 0x10 else b)
  else if isNan (f32 b) then a else if ltV (f32 a) (f32 b) then b else a

/-- A quotient carried to 64 bits more than asked, with a sticky last bit, so that rounding it once rounds the exact quotient. -/
def divV (a b : FV) : FV :=
  match a, b with
  | .nan, _ => .nan
  | _, .nan => .nan
  | .inf _, .inf _ => .nan
  | .inf x, .fin n _ _ => .inf (x != n)
  | .fin n _ _, .inf y => .fin (n != y) 0 0
  | .fin na ma ea, .fin nb mb eb =>
    if mb == 0 then (if ma == 0 then .nan else .inf (na != nb))
    else if ma == 0 then .fin (na != nb) 0 0
    else
      let k := 64 + Nat.log2 mb
      let q := ma * 2 ^ k / mb
      let r := ma * 2 ^ k % mb
      .fin (na != nb) (2 * q + (if r == 0 then 0 else 1)) (ea - eb - k - 1)

/-- Bits `n - 1` down to 0 of the integer square root of `x`, above the part `r` found so far. -/
def sqrtBits (x : Nat) : Nat → Nat → Nat
  | 0, r => r
  | n + 1, r => let c := r + 2 ^ n; sqrtBits x n (if c * c ≤ x then c else r)

/-- The integer square root. -/
def isqrt (x : Nat) : Nat := sqrtBits x (Nat.log2 x / 2 + 1) 0

/-- A square root with a sticky last bit, to be rounded once (R238: correctly rounded). -/
def sqrtV (a : FV) : FV :=
  match a with
  | .nan => .nan
  | .inf x => if x then .nan else .inf false
  | .fin n m e =>
    if m == 0 then .fin n 0 0
    else if n then .nan
    else
      let k : Nat := 128 + (if (e % 2) == 0 then 0 else 1)
      let x := m * 2 ^ k
      let r := isqrt x
      .fin false (2 * r + (if r * r == x then 0 else 1)) ((e - k) / 2 - 1)

def fdiv (a b : Nat) : Nat := rne32 (divV (f32 a) (f32 b))
def fsqrt (a : Nat) : Nat := rne32 (sqrtV (f32 a))

/-- FP32 one. -/
def one32 : Nat := 0x3F800000

/-- The reciprocal a scale register keeps: RNE(1/s). -/
def frecip (a : Nat) : Nat := fdiv one32 a

/-- Widen an element to FP32 bits; exact but for large INT32 values, which round to nearest even (R236). -/
def widen (code v : Nat) : Nat := rne32 (decodeFmt code v)

/-! ### Accumulation (R248, R250, R252, R254) -/

/-- Exact sum of a list of values; an exact zero is +0 unless every value is −0 (R248). -/
def sumV : List FV → FV
  | [] => .fin false 0 0
  | [a] => a
  | a :: l => addV a (sumV l)

/-- The group sum of a floating-point MMA, in FP32 bits (R248). -/
def groupSum (ps : List FV) : Nat := rne32 (sumV ps)

/-- The two-sum of R250: the rounded sum and its error term. -/
def twoSum (a b : Nat) : Nat × Nat :=
  let t := fadd a b
  let z := fsub t a
  (t, fadd (fsub a (fsub t z)) (fsub b z))

/-- One step of the chain (R250). -/
def chainStep (se : Nat × Nat) (x : Nat) : Nat × Nat :=
  let (t, err) := twoSum se.1 x
  (t, if isFin (f32 t) then fadd se.2 err else 0)

/-- Chain the group sums of one row and column in ascending K order (R249, R250). -/
def chain (gs : List Nat) : Nat × Nat := gs.foldl chainStep (0, 0)

/-- Start from the sum and whey word already there (R250). -/
def accumulate (se0 se : Nat × Nat) : Nat × Nat :=
  let (t, err) := twoSum se0.1 se.1
  (t, if isFin (f32 t) then fadd (fadd se0.2 se.2) err else 0)

/-- The fixed pairwise tree of R254, over a list of FP32 bits. The fuel is the list's length. -/
def treeSum : Nat → List Nat → Nat
  | 0, l => l.headD 0
  | _, [] => 0
  | _, [x] => x
  | n + 1, l =>
    let k := 2 ^ (Nat.log2 (l.length - 1))
    fadd (treeSum n (l.take k)) (treeSum n (l.drop k))

/-! ### Scales (R242 to R244) -/

/-- Is FP32 a positive, finite normal (R244)? -/
def scaleOk (v : Nat) : Bool := decide (0x00800000 ≤ v) && decide (v < 0x7F800000)

/-- The target's largest finite magnitude f of R243, where the rule uses one. -/
def scaleTarget (code : Nat) : Option FV :=
  match code with
  | 0 => some (.fin false 448 0)
  | 1 => some (.fin false 57344 0)
  | 2 => some (.fin false 6 0)
  | 3 => some (.fin false 127 0)
  | 4 => some (.fin false 7 0)
  | 0x12 => some (.fin false (2 ^ 31 - 1) 0)
  | _ => none

/-- Clamp a scale to 2^-126 to 2^127 (R243). -/
def clampScale (v : Nat) : Nat := if v < 0x00800000 then 0x00800000 else if 0x7F000000 < v then 0x7F000000 else v

/-- ⌈log2⌉ of a positive quotient m·2^e given with a sticky bit. -/
def ceilLog2 (m : Nat) (e : Int) : Int :=
  let l := Nat.log2 m
  (l : Int) + e + (if m == 2 ^ l then 0 else 1)

/-- The scale of a channel whose largest magnitude is `a`, FP32 bits (R243): rule 0 rounds the quotient, rule 1 takes the power of
two at or above it. -/
def scaleOf (code rule a : Nat) : Nat :=
  match scaleTarget code with
  | none => one32
  | some f =>
    match divV (f32 a) f with
    | .fin _ m e =>
      if m == 0 then one32
      else if rule == 0 then clampScale (rne32 (.fin false m e))
      else
        let k := ceilLog2 m e
        if k < -126 then 0x00800000 else if 127 < k then 0x7F000000 else (k + 127).toNat * 2 ^ 23
    | _ => one32

/-! ### Microscaling (R237) -/

/-- The element format of a microscaling format, and the extra power of two of MXINT8. -/
def mxElement (code : Nat) : Nat × Int :=
  match code with
  | 6 => (0, 0)
  | 7 => (1, 0)
  | 8 => (2, 0)
  | _ => (3, -6)

/-- Convert a microscaling element with block exponent X into BF16 bits (R237). -/
def mxToBf16 (code x v : Nat) : Nat :=
  if x == 0xFF then canonNan 5
  else
    let (el, k) := mxElement code
    (convRne 5 (mulV (decodeFmt el v) (.fin false 1 ((x : Int) - 127 + k)))).bits

end Sys2Proof.Machine
end

