-- ==== Sys2Proof/Machine/Select.lean ====
section
/-! DEFINITION. The Skimmer (chapter 12): the order of candidates, the best k, candidate lists and duplicate removal. -/

namespace Sys2Proof.Machine

open Sys2Proof

/-- The 72-bit order key of a candidate (R292). -/
def orderKey (c : Cand) : Nat := c.node * 2 ^ 57 + c.source * 2 ^ 48 + c.position

/-- The value of a score: type 0 FP32, 1 INT32, 2 FP16 (Table 12-1). -/
def scoreVal (ty bits : Nat) : FV :=
  if ty == 1 then ofInt (sint 32 bits) else if ty == 2 then decodeFmt 0x11 bits else decodeFmt 0x10 bits

/-- Strictly less as a value, −0 equal to +0 (R294). -/
def ltScore (a b : FV) : Bool :=
  match a, b with
  | .fin _ 0 _, .fin _ 0 _ => false
  | _, _ => ltV a b

/-- Does candidate `a` rank ahead of `b`: the better score, and the lower key on equal scores (R294)? -/
def ranksAhead (smaller : Bool) (ty : Nat) (a b : Cand) : Bool :=
  let x := scoreVal ty a.score
  let y := scoreVal ty b.score
  if (if smaller then ltScore x y else ltScore y x) then true
  else if (if smaller then ltScore y x else ltScore x y) then false
  else decide (orderKey a < orderKey b)

/-- Insert a candidate into a list in rank order. -/
def rankInsert (smaller : Bool) (ty : Nat) (c : Cand) : List Cand → List Cand
  | [] => [c]
  | d :: l => if ranksAhead smaller ty c d then c :: d :: l else d :: rankInsert smaller ty c l

/-- The best k candidates in rank order; a NaN score never enters (R295, R296). -/
def skimBest (smaller : Bool) (ty k : Nat) (cs : List Cand) : List Cand :=
  ((cs.filter fun c => !isNan (scoreVal ty c.score)).foldl (fun l c => rankInsert smaller ty c l) []).take k

/-- Candidates dropped for NaN scores (R295). -/
def nanCount (ty : Nat) (cs : List Cand) : Nat := (cs.filter fun c => isNan (scoreVal ty c.score)).length

/-- Keep the first copy of each index of a list in rank order: the better score, then the lower key (R303). -/
def dedupFirst : List Nat → List Cand → List Cand
  | _, [] => []
  | seen, c :: l => if seen.contains c.index then dedupFirst seen l else c :: dedupFirst (c.index :: seen) l

/-- Merge candidates into the best k, with duplicates removed first where asked (R303). -/
def mergeBest (smaller : Bool) (ty k : Nat) (dedup : Bool) (cs : List Cand) : List Cand :=
  let all := skimBest smaller ty cs.length cs
  (if dedup then dedupFirst [] all else all).take k

/-- Copies that duplicate removal takes away. -/
def dedupCount (smaller : Bool) (ty : Nat) (cs : List Cand) : Nat :=
  let all := skimBest smaller ty cs.length cs
  all.length - (dedupFirst [] all).length

/-- The 32 bytes of a candidate record (Table 12-1). -/
def candBytes (ty : Nat) (c : Cand) : Bytes :=
  natLE 8 c.index ++ natLE 4 (if ty == 2 then c.score % 65536 else c.score) ++ natLE 2 c.node ++ natLE 2 c.source ++
  natLE 6 c.position ++ List.replicate 10 0

/-- A candidate list of Table 12-1. -/
def candList (smaller : Bool) (ty : Nat) (cs : List Cand) : Bytes :=
  natLE 2 cs.length ++ natLE 1 (boolNat smaller) ++ natLE 1 ty ++ List.replicate 60 0 ++ cs.flatMap (candBytes ty)

/-- The candidate of record bytes, or none where a reserved bit is set. -/
def parseCand (ty : Nat) (b : Bytes) : Option Cand :=
  if decide (2 ^ 15 ≤ field b 12 2) || decide (512 ≤ field b 14 2) || (b.drop 22).any (· != 0) || (ty == 2 && field b 10 2 != 0) then
    none
  else some { score := field b 8 4, index := field b 0 8, node := field b 12 2, source := field b 14 2, position := field b 16 6 }

/-- Is a list in rank order? -/
def ranked (smaller : Bool) (ty : Nat) : List Cand → Bool
  | [] => true
  | [_] => true
  | a :: b :: l => ranksAhead smaller ty a b && ranked smaller ty (b :: l)

/-- Read a candidate list with the given direction and score type; none where it breaks Table 12-1 (R297, R303). -/
def parseList (smaller : Bool) (ty : Nat) (b : Bytes) : Option (List Cand) :=
  let n := field b 0 2
  if decide (64 < n) || field b 2 1 != boolNat smaller || field b 3 1 != ty || ((b.take 64).drop 4).any (· != 0) then none
  else
    let cs := (List.range n).map fun r => parseCand ty ((b.drop (64 + 32 * r)).take 32)
    if cs.all (·.isSome) then
      let l := cs.filterMap id
      if ranked smaller ty l then some l else none
    else none

end Sys2Proof.Machine
end

