-- ==== Sys2Proof/Machine/Cells.lean ====
section
/-! DEFINITION. The cell array (chapter 9): where cells and chain rows lie, the SRAM of a cell with its poison, the cycle formulas,
and the outcome of an operation of the stream. -/

namespace Sys2Proof.Machine

open Sys2Proof

/-! ### Shapes (R207, R211, R222) -/

/-- Physical cell rows in service, in physical order (ArrayState.4). -/
def physRows (s : State) : List Nat := (List.range 16).filter fun i => bitOf (obj s 0x3000 4) i

/-- Cell rows in service, h_a. -/
def rowsInService (s : State) : Nat := (physRows s).length

/-- The active cells by logical number 16 · i + j (R222). -/
def activeCells (s : State) : List Nat := List.range (16 * rowsInService s)

/-- Is a logical cell in service? -/
def cellIn (s : State) (c : Nat) : Bool := decide (c < 16 * rowsInService s)

/-- The logical cell rows of a partition: those of its physical rows in service (R211). -/
def partRows (s : State) (part : Nat) : List Nat :=
  (List.range (rowsInService s)).filter fun i => (physRows s).getD i 0 / 8 == part / 2

/-- The chain rows of a shape, each as its cells in width order (R211). -/
def chainRows (s : State) (shape part : Nat) : List (List Nat) :=
  match shape with
  | 1 => (List.range 4).flatMap fun q => (List.range (rowsInService s)).map fun i => (List.range 4).map fun p => 16 * i + 4 * q + p
  | 2 => (partRows s part).map fun i => (List.range 8).map fun p => 16 * i + 8 * (part % 2) + p
  | _ => (List.range (rowsInService s)).map fun i => (List.range 16).map fun p => 16 * i + p

/-- The drain cells of a shape, in width order: the last chain row. -/
def drainCells (s : State) (shape part : Nat) : List Nat := (chainRows s shape part).getLastD []

/-- The partitions of a shape. -/
def partsOf (shape : Nat) : List Nat := if shape == 2 then [0, 1, 2, 3] else [0]

/-- The drain cells of every partition of the shape in force that has a chain row. -/
def drainGroups (s : State) : List (List Nat) := ((partsOf s.arr.shape).map (drainCells s s.arr.shape)).filter (· != [])

/-- Width of a shape in cells. -/
def shapeW (shape : Nat) : Nat := match shape with | 1 => 4 | 2 => 8 | _ => 16

/-- Chain rows of a shape with `ha` cell rows in service; in the Partitioned shape the most a partition can have. -/
def shapeH (shape ha : Nat) : Nat := match shape with | 1 => 4 * ha | 2 => min 8 ha | _ => ha

/-- The J term of Table 9-3. -/
def shapeJ (shape : Nat) : Nat := if shape == 1 then 18 else 0

/-! ### Cell SRAM (R208, R351) -/

/-- The key of a byte of a cell's SRAM. -/
def sramKey (c off : Nat) : Nat := c * 2 ^ 21 + off

/-- Read bytes of a cell's SRAM. -/
def sramRead (s : State) (c off n : Nat) : Bytes := memRead s.arr.sram (sramKey c off) n

/-- Read a number from a cell's SRAM. -/
def sramNat (s : State) (c off n : Nat) : Nat := leNat (sramRead s c off n)

/-- Is a byte of a range poisoned? -/
def sramBad (s : State) (c off n : Nat) : Bool := memAny s.arr.poison (sramKey c off) n

/-- Write bytes to a cell's SRAM; what they held before, poison included, is replaced. -/
def sramPut (c off : Nat) (bs : Bytes) (s : State) : State :=
  modArr (fun a => { a with
    sram := memWrite a.sram (sramKey c off) bs
    poison := memClear a.poison (sramKey c off) (sramKey c off + bs.length) }) s

/-- Mark a range of a cell's SRAM poisoned. -/
def sramPoison (c off n : Nat) (s : State) : State :=
  modArr (fun a => { a with poison := memWrite a.poison (sramKey c off) (List.replicate n 1) }) s

/-- Copy `n` bytes from cell to cell with their poison (R192). -/
def sramCopy (c off d dst n : Nat) (s : State) : State :=
  let bs := sramRead s c off n
  let ps := memRead s.arr.poison (sramKey c off) n
  let s := sramPut d dst bs s
  modArr (fun a => { a with poison := memWrite a.poison (sramKey d dst) ps }) s

/-- The SRAM area of a class: Express and Either baskets use the last `e` banks, Standard baskets the others (R351). -/
def areaLo (s : State) (cls : Nat) : Nat := if cls == 0 then 0 else (32 - obj s 0x3501 3) * 65536
def areaHi (s : State) (cls : Nat) : Nat := if cls == 0 then (32 - obj s 0x3501 3) * 65536 else 2 ^ 21

/-- Does a range lie wholly in the area of a class? -/
def inArea (s : State) (cls off n : Nat) : Bool := decide (areaLo s cls ≤ off) && decide (off + n ≤ areaHi s cls)

/-- Zero the SRAM area of a class in every cell, with its poison (R349, R351). -/
def zeroArea (cls : Nat) (s : State) : State :=
  let lo := areaLo s cls
  let hi := areaHi s cls
  let keep := fun (c : Nat × Byte) => !(decide (lo ≤ c.1 % 2 ^ 21) && decide (c.1 % 2 ^ 21 < hi))
  modArr (fun a => { a with sram := a.sram.filter keep, poison := a.poison.filter keep }) s

/-! ### Outcomes of operations -/

/-- What becomes of an operation of the stream: it completes, its job ends with a status (DW0 the operation index unless another
value is given), or it stays under way. -/
inductive OpRes where
  | done (s : State)
  | fail (st : Status) (dw0 : Option Nat) (s : State)
  | wait (s : State)
  deriving DecidableEq, Repr

/-- Go on with an operation that has not ended. -/
def opBind (r : OpRes) (f : State → OpRes) : OpRes :=
  match r with
  | .done s => f s
  | .fail st d s => .fail st d s
  | .wait s => .wait s

/-- Do something for each element in order, as long as the operation goes on. -/
def opEach {α : Type} : List α → (α → State → OpRes) → State → OpRes
  | [], _, s => .done s
  | x :: l, f, s => opBind (f x s) (opEach l f)

/-- The operation ends its job with Job Fault. -/
def opFault (s : State) : OpRes := .fail stJobFault none s

/-- The operation consumed poison in cell SRAM: Poisoned Input, tier 0 (R193). -/
def opPoison (s : State) : OpRes := .fail stPoisonedInput (some 0) s

/-! ### Worst cases (Tables 9-8, 9-9 and 12-5), in CK_ARR cycles -/

/-- Fill and repair allowance, F + A of Table 9-8. -/
def mmaFill (shape h g : Nat) : Nat := 2 * shapeW shape + Nat.log2 g + h * (64 / g + 2) + shapeJ shape + 8 + 2 * h

/-- Issue cycles of one pass, I of Table 9-8: width class, shape, load field, preload, rows. -/
def mmaIssue (bf16 : Bool) (shape load : Nat) (preload : Bool) (m : Nat) : Nat :=
  let cf := if bf16 then 4 else 1
  let w := if bf16 then 132 else 68
  let l := match load with | 1 => w | 2 => 1 | _ => 0
  let ms := if shape == 0 then 1024 else m
  l + max (ms * cf) (if preload then w else 0)

end Sys2Proof.Machine
end

