-- ==== Sys2Proof/Machine/Repair.lean ====
section
/-! DEFINITION. Repair of the cell array (R207, R220 to R224, R395): which cells have failed, the spare column of each die, the cell
rows in service, and the objects that report them. -/

namespace Sys2Proof.Machine

open Sys2Proof

/-- Die, physical row on the die and physical column of a cell's physical number (R207). -/
def cellDie (c : Nat) : Nat := c / 68
def cellRowOnDie (c : Nat) : Nat := c % 68 / 17
def cellCol (c : Nat) : Nat := c % 17

/-- The failed physical rows of a cell (64 is the spare row), each once. -/
def failedRowsOf (s : State) (c : Nat) : List Nat := ((s.integ.failedRows.filter (·.1 == c)).map (·.2)).eraseDups

/-- Does a cell count as failed: found failed whole, or with a failed row while its spare row is in use or failed (R220)? -/
def cellFailed (s : State) (c : Nat) : Bool :=
  s.integ.failedCells.contains c || decide (2 ≤ (failedRowsOf s c).length)

/-- The excluded physical column of a die; 16 while the spare is unused (ColumnMap). -/
def excluded (s : State) (d : Nat) : Nat := obj s 0x3010 (d + 1)

/-- Cover failed cells of a die by its spare column, lowest column first, while it is unused and working (R221). -/
def coverDie (d : Nat) (s : State) : State :=
  let bad := (List.range 68).filter fun k => cellFailed s (68 * d + k)
  let s := if bad.any fun k => k % 17 == 16 then setObj 0x3010 5 (obj s 0x3010 5 ||| 2 ^ d) s else s
  if excluded s d == 16 && !bitOf (obj s 0x3010 5) d then
    match (List.range 16).find? fun x => bad.any fun k => k % 17 == x with
    | some x => setObj 0x3010 (d + 1) x s
    | none => s
  else s

/-- Physical cell rows that repair leaves in service: those whose every cell outside the excluded column, and outside an unused spare
column, works (R222). -/
def repairedRows (s : State) : List Nat :=
  (List.range 16).filter fun i =>
    let d := i / 4
    (List.range 17).all fun x => x == excluded s d || !cellFailed s (68 * d + 17 * (i % 4) + x)

/-- The physical number of a logical cell (R207, R222). -/
def physCell (s : State) (c : Nat) : Nat :=
  let i := (physRows s).getD (c / 16) 0
  let d := i / 4
  let j := c % 16
  68 * d + 17 * (i % 4) + (if j < excluded s d then j else j + 1)

/-- Repair cycles a chain row adds at a cell: 1 for its spare row, 1 right of an excluded column (R223). -/
def cellAdder (s : State) (c : Nat) : Nat :=
  let p := physCell s c
  boolNat ((failedRowsOf s p).any fun r => decide (r < 64)) + boolNat (decide (excluded s (cellDie p) < cellCol p))

/-- Repair cycles that the first `c` chain rows of a partition add along width position `p`. -/
def repairAbove (s : State) (shape part p c : Nat) : Nat :=
  (((chainRows s shape part).take c).map fun r => cellAdder s (r.getD p 0)).foldl (· + ·) 0

/-- The largest repair adder of a shape over columns and partitions (ArrayCycleAdders). -/
def shapeAdder (s : State) (shape : Nat) : Nat :=
  ((partsOf shape).flatMap fun part => (List.range (shapeW shape)).map fun p => repairAbove s shape part p (shapeH shape 16)).foldl max 0

/-- The skew of the cell in chain row `c` and width position `p` for group size `g`, in CK_ARR cycles (R217): what Rennet holds of it follows from the
shape and the repair map. -/
def skewOf (s : State) (g part c p : Nat) : Nat :=
  c * (64 / g + 2) + (if s.arr.shape == 1 then 6 * (c / max 1 (rowsInService s)) else 0) + repairAbove s s.arr.shape part p c

/-- CellRepair of a cell (R233): a row that CellRowLimit withholds is not recorded as out of service (R395). -/
def cellRepairWord (s : State) (c : Nat) : Nat :=
  let i := 4 * cellDie c + cellRowOnDie c
  let e := excluded s (cellDie c)
  let out := cellFailed s c || (e != 16 && cellCol c == e) || !(repairedRows s).contains i
  let rs := failedRowsOf s c
  (if out then 128 else 0) + (match rs with | [] => 0x7F | r :: _ => if r == 64 then 0x40 else r)

/-- Put the repair map, capped by CellRowLimit, in force, and publish it (R222 to R224, R395). -/
def applyRepair (s : State) : State :=
  let s := [0, 1, 2, 3].foldl (fun s d => coverDie d s) s
  let rows := (repairedRows s).take (obj s 0x4200 2)
  let s := setObj 0x3000 4 ((rows.map fun i => 2 ^ i).foldl (· + ·) 0) s
  let s := setObj 0x3000 2 rows.length (setObj 0x3000 3 (16 * rows.length) (setObj 0x2302 5 (16 * rows.length) s))
  let s := [0, 1, 2].foldl (fun s k => setObj 0x3002 (k + 1) (shapeAdder s k) s) s
  let hp := ([0, 1, 2, 3].map fun p => (partRows s p).length).foldl max 0
  let s := setObj 0x3002 4 (2 * rows.length) (setObj 0x3002 5 (8 * rows.length) (setObj 0x3002 6 (2 * hp) s))
  let s := (List.range 272).foldl (fun s c => setObj (0x3011 + c / 68) (c % 68 + 1) (cellRepairWord s c) s) s
  let s := setObj 0x2302 10 ((List.range 272).filter fun c => (failedRowsOf s c).any fun r => decide (r < 64)).length s
  let s := setObj 0x2302 11 ([0, 1, 2, 3].filter fun d => excluded s d != 16).length s
  modArr (fun a => { a with limitPending := false }) s

/-- Apply a change of the repair map or of CellRowLimit that waited for the array to be free (R224, R395). -/
def applyPending (s : State) : State := if s.arr.limitPending && s.jobs.owner == none then applyRepair s else s

/-- A datum of cell SRAM fails its parity at use: it is poisoned, and what consumes it ends (R189, R193). -/
def cellParity (c off n : Nat) (s : State) : State := parityError { source := 1, cls := 4, action := 3, unit := physCell s c } (sramPoison c off n s)

end Sys2Proof.Machine
end

