-- ==== Sys2Proof/Machine/Route.lean ====
section
/-! DEFINITION. Routing and sending over Wyvas (R367 to R372, R379): coordinates, productive ports, credits, and the requests this
node has outstanding. -/

namespace Sys2Proof.Machine

open Sys2Proof

/-! ### Messages and channels (Tables 15-3 to 15-5) -/

def msgRead : Nat := 0x01
def msgWrite : Nat := 0x02
def msgAtomic : Nat := 0x03
def msgSync : Nat := 0x04
def msgCancel : Nat := 0x05
def msgDelivery : Nat := 0x06
def msgResponse : Nat := 0x08
def msgManagement : Nat := 0x0C
def msgNotice : Nat := 0x0D

/-- The virtual channel of a message: `sync` marks the Response of a sync operation. -/
def vcOf (mtype : Nat) (express sync : Bool) : Nat :=
  (if express then 4 else 0) +
  (if mtype == msgResponse then (if sync then 2 else 1)
   else if mtype == msgSync || mtype == msgCancel then 2
   else if mtype == msgManagement || mtype == msgNotice then 3
   else 0)

/-- Is a message of the management channel? -/
def isManagement (m : Msg) : Bool := m.mtype == msgManagement || m.mtype == msgNotice

/-- Flits a message takes: a header of two slots and four slots per beat, 15 slots a flit (DEDUCED, assumption 23). -/
def flitsOf (m : Msg) : Nat := (2 + 4 * ((m.data.length + 63) / 64) + 14) / 15

/-! ### Coordinates (R31, R369) -/

/-- The coordinate of a node id. -/
def nodeX (n : Nat) : Nat := n % 32
def nodeY (n : Nat) : Nat := n / 32 % 32
def nodeZ (n : Nat) : Nat := n / 1024

/-- The node id of a coordinate. -/
def nodeOf (x y z : Nat) : Nat := x + 32 * y + 1024 * z

/-- Does a node id name a node: its coordinates lie inside the discovered extents (R371)? -/
def nodeNamed (s : State) (n : Nat) : Bool :=
  let e := s.wyv.extents
  decide (n < 0x5000) && decide (nodeX n < e.1) && decide (nodeY n < e.2.1) && decide (nodeZ n < e.2.2)

/-- The productive directions of one dimension, + before − (R371: both when the two ways round are equally long). -/
def productive (extent a b : Nat) : List Nat :=
  let f := (b + extent - a) % max 1 extent
  let g := (a + extent - b) % max 1 extent
  if f == 0 then [] else if f < g then [0] else if g < f then [1] else [0, 1]

/-- The productive ports of a plane (0 warp, 1 weft) from this node to another, X first: W0 +X, W1 −X, W2 +Y, … W6 +X of weft. -/
def productivePorts (s : State) (plane dst : Nat) : List Nat :=
  let o := ownNode s
  let e := s.wyv.extents
  ((productive e.1 (nodeX o) (nodeX dst)).map fun d => plane * 6 + d) ++
  ((productive e.2.1 (nodeY o) (nodeY dst)).map fun d => plane * 6 + 2 + d) ++
  ((productive e.2.2 (nodeZ o) (nodeZ dst)).map fun d => plane * 6 + 4 + d)

/-! ### Ports and credits (R367) -/

/-- The record of a port. -/
def port? (s : State) (p : Nat) : Option Port := s.wyv.ports.find? (·.no == p)

/-- Change the record of a port. -/
def modPort (p : Nat) (f : Port → Port) (s : State) : State :=
  modWyv (fun w => { w with ports := updWhere (·.no == p) f w.ports }) s

/-- Credits a port holds for a virtual channel. -/
def credits (s : State) (p vc : Nat) : Nat := match port? s p with | some x => kvGet 0 x.credits vc | none => 0

/-- May this port take a message: it is up, and its neighbour is not unavailable unless the message is a management one (R372)? -/
def portTakes (s : State) (m : Msg) (p : Nat) : Bool :=
  portUp s p && (isManagement m || !nodeDown s (obj s (0x4010 + p) 2))

/-- The port with the most credits, the first of equals (R372: ties go to X, then Y, then Z). -/
def mostCredits (s : State) (vc : Nat) : List Nat → Option Nat
  | [] => none
  | p :: l =>
    match mostCredits s vc l with
    | none => some p
    | some q => if credits s p vc < credits s q vc then some q else some p

/-- The port of a plane a message leaves by: in deterministic mode the first productive one in dimension order, otherwise the one
with the most credits; none when every productive port is blocked. -/
def pickPort (s : State) (m : Msg) (plane : Nat) : Option Nat :=
  let ps := (productivePorts s plane m.dst).filter (portTakes s m)
  if obj s 0x4200 3 == 1 then ps.head? else mostCredits s m.vc ps

/-- The plane a source sends on: in deterministic mode by the parity of the two ids, otherwise the one whose first-hop port holds more
credits, warp when equal; the other plane when one is lost (R372, R375). -/
def sourcePlane (s : State) (m : Msg) : Nat :=
  if s.wyv.planesLost.contains 0 then 1
  else if s.wyv.planesLost.contains 1 then 0
  else if obj s 0x4200 3 == 1 then (ownNode s + m.dst) % 2
  else
    let c := fun k => match pickPort s m k with | some p => credits s p m.vc + 1 | none => 0
    if c 0 < c 1 then 1 else 0

/-- The hop of a message that both planes block: + in the lowest dimension in which a working port exists (R372). -/
def detourPort (s : State) (m : Msg) (plane : Nat) : Option Nat :=
  let k := plane * 6
  let j := (1 - plane) * 6
  [k, j, k + 2, j + 2, k + 4, j + 4].find? (portTakes s m)

/-- Does a hop by a plane port cross the dateline of its ring, between the last coordinate and 0? -/
def crossesDateline (s : State) (p : Nat) : Bool :=
  let o := ownNode s
  let e := s.wyv.extents
  match p % 6 with
  | 0 => nodeX o + 1 == e.1
  | 1 => nodeX o == 0
  | 2 => nodeY o + 1 == e.2.1
  | 3 => nodeY o == 0
  | 4 => nodeZ o + 1 == e.2.2
  | _ => nodeZ o == 0

/-- Is a port cabled, as far as its transceiver has shown (R34)? -/
def portCabled (s : State) (p : Nat) : Bool := s.wyv.ports.any fun x => x.no == p && x.cabled

/-- May a hop use the escape share: it crosses a dateline, or it is the hop aside of a message that both planes block (R372)? -/
def usesEscape (s : State) (p : Nat) (m : Msg) : Bool :=
  decide (p < 12) && (crossesDateline s p || (m.detours != 0 && !(productivePorts s (p / 6) m.dst).contains p))

/-- The escape share of a virtual channel at a port: a quarter of the credits it was given at the port's training (R367). -/
def escapeShare (s : State) (p vc : Nat) : Nat := match port? s p with | some x => kvGet 0 x.share vc / 4 | none => 0

/-- Flits that a port holds for replay, of the 8,192 it has room for (R366). -/
def unacked (s : State) (p : Nat) : Nat :=
  match port? s p with | some x => ((x.replay.flatMap (·.2)).map flitsOf).foldl (· + ·) 0 | none => 0

/-- May a port send a message now: it holds the credits, but for the escape quarter, which is left to the hops that may use it, and of it the half of
the ring's other side; and the replay buffer takes the flits (R366, R367, R372). -/
def maySend (p : Nat) (m : Msg) (s : State) : Bool :=
  let spare := if usesEscape s p m then escapeShare s p m.vc / 2 else escapeShare s p m.vc
  decide (flitsOf m + spare ≤ credits s p m.vc) && decide (unacked s p + flitsOf m ≤ 8192)

/-- Put a message on a port: it is sent if the port may send it, and waits otherwise. -/
def emit (p : Nat) (m : Msg) (s : State) : State :=
  let n := flitsOf m
  if maySend p m s then
    let s := modPort p (fun x => { x with
      credits := kvPut 0 x.credits m.vc (credits s p m.vc - n)
      txSeq := (x.txSeq + n) % 65536
      replay := x.replay ++ [((x.txSeq + n - 1) % 65536, [m])] }) s
    bump 0x4002 1 (modWyv (fun w => { w with tx := w.tx ++ [(p, m)] }) s)
  else modWyv (fun w => { w with held := w.held ++ [(p, m)] }) s

/-- Route a message from this node on a plane: by a productive port, else by the other plane, else one hop aside; a third detour drops
it (R372). -/
def forward (plane : Nat) (m : Msg) (s : State) : State :=
  match pickPort s m plane with
  | some p => emit p m s
  | none =>
    match pickPort s m (1 - plane) with
    | some p => emit p { m with crossed := true } (bump 0x4002 3 s)
    | none =>
      if decide (2 ≤ m.detours) then s
      else match detourPort s m plane with
        | some p => emit p { m with detours := m.detours + 1 } (bump 0x4002 4 s)
        | none => s

/-- Does the fabric level of 0 hold a message of this node back (R449)? -/
def injectHeld (s : State) (m : Msg) : Bool := decide (4 ≤ s.thr.fab) && !isManagement m

/-- A message of this node waits until the fabric level rises. -/
def holdInject (twin : Bool) (m : Msg) (s : State) : State := modWyv (fun w => { w with inject := w.inject ++ [(twin, m)] }) s

/-- Send a message of this node on a plane. -/
def injectOn (plane : Nat) (m : Msg) (s : State) : State := if injectHeld s m then holdInject false m s else forward plane m s

/-- Send a message of this node. -/
def sendMsg (m : Msg) (s : State) : State := injectOn (sourcePlane s m) m s

/-- Send a message over the twin ports: W12 when both are up (R379). -/
def sendTwin (m : Msg) (s : State) : State :=
  if injectHeld s m then holdInject true m s
  else if portUp s 12 then emit 12 m s else if portUp s 13 then emit 13 m s else s

/-- Send what a fabric level of 0 held back, in order, once the level has risen (R449). -/
def releaseInject (s : State) : State :=
  if decide (4 ≤ s.thr.fab) then s
  else s.wyv.inject.foldl (fun s x => if x.1 then sendTwin x.2 s else sendMsg x.2 s) (modWyv (fun w => { w with inject := [] }) s)

/-- Send what waits for credits, management first, then Express, then Standard (R368). -/
def pumpHeld (p : Nat) (s : State) : State :=
  let mine := s.wyv.held.filter (·.1 == p)
  let s := modWyv (fun w => { w with held := w.held.filter (·.1 != p) }) s
  let sorted := (mine.filter fun x => isManagement x.2) ++ (mine.filter fun x => !isManagement x.2 && x.2.express) ++
    (mine.filter fun x => !isManagement x.2 && !x.2.express)
  sorted.foldl (fun s x => emit p x.2 s) s

/-! ### Requests and responses (R370, R371, R378) -/

/-- Issue a request of this node to another: a fresh tag, a record of who waits, and the message. -/
def issueRequest (dst mtype op target fn : Nat) (express : Bool) (len : Nat) (data : Bytes) (mask : Nat) (who : SyncWho)
    (tile : Option (Nat × Nat)) (off : Nat) (s : State) : State :=
  let m : Msg := { vc := vcOf mtype express false, mtype := mtype, express := express, dataLength := len, dst := dst,
                   src := ownNode s, function := fn, tag := s.wyv.nextTag, op := op, target := target, poisonMask := mask, data := data }
  let r : Request := { tag := s.wyv.nextTag, dst := dst, msg := m, who := who,
                       job := s.jobs.owner.getD 0, issued := s.time, reissued := false,
                       plane := sourcePlane s m, tile := tile, off := off, atomic := false }
  sendMsg m (modWyv (fun w => { w with requests := w.requests ++ [r], nextTag := (w.nextTag + 1) % 2 ^ 24 }) s)

/-- Issue a request over the twin ports (R379); `old` is the old value where it mirrors an atomic. -/
def issueTwin (mtype op target fn : Nat) (express : Bool) (len : Nat) (data : Bytes) (mask : Nat) (who : SyncWho) (old : Option Nat)
    (s : State) : State :=
  let m : Msg := { vc := vcOf mtype express false, mtype := mtype, express := express, dataLength := len, dst := ownNode s,
                   src := ownNode s, function := fn, tag := s.wyv.nextTag, op := op, target := target, poisonMask := mask, data := data }
  let r : Request := { tag := s.wyv.nextTag, dst := ownNode s, msg := m, who := who, job := s.jobs.owner.getD 0, issued := s.time,
                       reissued := false, plane := 2, tile := none, off := old.getD 0, atomic := old.isSome }
  sendTwin m (modWyv (fun w => { w with requests := w.requests ++ [r], nextTag := (w.nextTag + 1) % 2 ^ 24 }) s)

/-- A Wyvas address: node id [63:49], space [48], byte offset [47:0]. -/
def wyvasAddr (node space off : Nat) : Nat := node * 2 ^ 49 + space * 2 ^ 48 + off % 2 ^ 48

/-- Is the node fenced (PlacementState.5)? -/
def fenced (s : State) : Bool := obj s 0x2202 5 == 1

/-- Is this node unavailable to the others (R186): in PS3 or PS4, in Basic mode, or fenced? -/
def selfDown (s : State) : Bool := decide (3 ≤ s.pwr.ps) || basicMode s || fenced s

/-- Answer a request with one Response, and keep it with its tag for 2 ms (R370, R378). -/
def respond (m : Msg) (status : Nat) (data : Bytes) (poison : Nat) (s : State) : State :=
  let r : Msg := { vc := vcOf msgResponse m.express (m.mtype == msgSync), mtype := msgResponse, express := m.express,
                   dataLength := data.length, dst := m.src, src := ownNode s, function := m.function, tag := m.tag, op := status,
                   poisonMask := poison, data := data }
  let s := modWyv (fun w => { w with keptResp := (m.src, m.tag, r) :: w.keptResp }) s
  if decide (12 ≤ m.port) then sendTwin r s else sendMsg r s

/-- Send a Notice to every neighbour on every up plane port (R186, R376). -/
def floodNotice (op node plane : Nat) (except : Option Nat) (s : State) : State :=
  ((List.range 12).filter fun p => portUp s p && except != some p).foldl (fun s p =>
    emit p { vc := vcOf msgNotice true false, mtype := msgNotice, express := true, dataLength := 64,
             dst := obj s (0x4010 + p) 2, src := ownNode s, op := op,
             data := natLE 2 node ++ natLE 1 plane ++ List.replicate 61 0 } s) s

/-- Announce this node unavailable (op 1) or available (op 2) to the others (R186), and over the twin ports, where an unavailability
counts as notice of loss (R205). -/
def announceNode (op : Nat) (s : State) : State :=
  let s := floodNotice op (ownNode s) 0 none s
  sendTwin { vc := vcOf msgNotice true false, mtype := msgNotice, express := true, dataLength := 64, dst := ownNode s,
             src := ownNode s, op := op, data := natLE 2 (ownNode s) ++ List.replicate 62 0 } s

/-- Withdraw the requests of this node that `p` picks: a waiting sync operation is sent a cancel at its home, and the tags are retired, so
that a late Response is discarded (R354, R370). -/
def withdrawRequests (p : Request → Bool) (s : State) : State :=
  let gone := s.wyv.requests.filter p
  let s := modWyv (fun w => { w with requests := w.requests.filter fun r => !p r }) s
  (gone.filter fun r => r.msg.mtype == msgSync).foldl (fun s r =>
    sendMsg { r.msg with mtype := msgCancel, vc := vcOf msgCancel r.msg.express false, dataLength := 0, data := [] } s) s

end Sys2Proof.Machine
end

