-- ==== Sys2Proof/Machine/JobCore.lean ====
section
/-! DEFINITION. Jobs (chapter 14): their records, the end of a job with everything it leaves, and the running of one operation of the
stream. -/

namespace Sys2Proof.Machine

open Sys2Proof

/-! ### Records -/

/-- The job with an id. -/
def findJob (s : State) (id : Nat) : Option Job := s.jobs.jobs.find? (·.id == id)

/-- Change a job. -/
def modJob (id : Nat) (f : Job → Job) (s : State) : State :=
  modJobs (fun r => { r with jobs := updWhere (·.id == id) f r.jobs }) s

/-- The job that owns the array. -/
def ownerJob (s : State) : Option Job := match s.jobs.owner with | some id => findJob s id | none => none

/-- Is throttling active (R30)? -/
def throttling (s : State) : Bool := s.thr.fa != 16 || s.thr.prog != 0 || s.thr.fab != 0

/-- Fields of an object slot (Table 14-6). -/
def slotAccess (b : Bytes) : Nat := field b 0 1
def slotKind (b : Bytes) : Nat := field b 1 1
def slotFormat (b : Bytes) : Nat := field b 2 1
def slotResident (b : Bytes) : Bool := bitOf (field b 3 1) 0
def slotSize (b : Bytes) : Nat := field b 4 4

/-- A slot of a job's basket with the object bound to it. -/
def jobSlot (j : Job) (n : Nat) : Option (Bytes × Nat) :=
  if n < j.basket.slots.length then some (j.basket.slots.getD n [], (j.objects.getD n (0, 0)).2) else none

/-- The slots of a job with their bound objects. -/
def jobSlots (j : Job) : List (Bytes × Nat) := j.basket.slots.zip (j.objects.map (·.2))

/-- The index of the operation that the stream was issuing or had last issued (R330). -/
def jobOp (j : Job) : Nat := min j.pos (j.basket.ops.length - 1)

/-- Run time of a job up to now (R348): not counted while it is pre-empted. -/
def runTimeOf (s : State) (j : Job) : Nat := j.runTime + (if j.st == 1 || j.st == 2 then s.time - j.resumed else 0)

/-! ### Queries -/

/-- Is a query the one of a command? -/
def Query.named (q : Query) (fn sq cid : Nat) : Bool := q.fn == fn && q.sq == sq && q.cid == cid

/-- Change a query. -/
def modQuery (fn sq cid : Nat) (f : Query → Query) (s : State) : State :=
  modRetr (fun r => { r with queries := updWhere (·.named fn sq cid) f r.queries }) s

/-- An index goes, with its pages and its full vectors (R157, R257). -/
def removeIndex (id : Nat) (s : State) : State :=
  dropPages (indexPage id) (modTier (fun t => { t with
    objects := t.objects.filter (·.id != fvObject id)
    tiles := t.tiles.filter (·.object != fvObject id) }) (modRetr (fun r => { r with indexes := r.indexes.filter (·.id != id) }) s))

/-- A deleted index goes once its last query has finished. -/
def dropDeleted (s : State) : State :=
  (s.retr.indexes.filter fun x => x.st == 2 && !s.retr.queries.any (·.index == x.id)).foldl (fun s x => removeIndex x.id s) s

/-- A query leaves; the last query of a deleted index takes it along. -/
def dropQuery (fn sq cid : Nat) (s : State) : State :=
  dropDeleted (modRetr (fun r => { r with queries := r.queries.filter fun q => !q.named fn sq cid }) s)

/-- The queries of a pipeline job that have not ended. -/
def liveMembers (s : State) (j : Job) : List Query :=
  j.members.filterMap fun m => s.retr.queries.find? (·.named m.1 m.2.1 m.2.2)

/-- The functions a job is accounted to: its own, and for a pipeline job those of its queries (R360). -/
def acctFns (s : State) (j : Job) : List Nat := if j.stage == none then [j.fn] else ((liveMembers s j).map (·.fn)).eraseDups

/-- Add to a value of FunctionAccounting of every function that a job is accounted to. -/
def account (j : Job) (sub n : Nat) (s : State) : State := (acctFns s j).foldl (fun s fn => bumpBy (fnIdx fn + 1) sub n s) s

/-- Functions reached by a grant mask. -/
def granted (mask fn : Nat) : Bool := bitOf mask fn

/-! ### The end of a job (R210, R348, R349, R351) -/

/-- Zero Rennet: stakes, scales, rescale banks and pattern slots (R210). -/
def zeroRennet (s : State) : State :=
  modArr (fun a => { a with
    stakeA := [], stakeS := [], stakeAPoison := [], stakeSPoison := [], colScale := [], rowScale := [], rescale := [], patterns := [] }) s

/-- Base of the scratch area in the HBM window (R161). -/
def scratchBase : Nat := 2 ^ 34

/-- Zero the scratch area (R349). -/
def zeroScratch (s : State) : State :=
  modTier (fun t => { t with
    window := t.window.filter fun c => decide (c.1 < scratchBase)
    windowPoison := t.windowPoison.filter fun c => decide (c.1 < scratchBase) }) s

/-- Delete a placed object, and give up its pages (R157). -/
def deleteObj (id : Nat) (s : State) : State :=
  dropPages (fun p => p.owner == .object id) (modTier (fun t => { t with
    objects := t.objects.filter (·.id != id)
    tiles := t.tiles.filter (·.object != id) }) s)

/-- Does an access wait for an answer: a load or an atomic? -/
def Access.answered (a : Access) : Bool := match a with | .store _ _ => false | _ => true

/-- A job's loads and atomics that wait for a tier of this node are withdrawn; its stores complete regardless (R70). -/
def dropWaits (id : Nat) (s : State) : State :=
  modTier (fun t => { t with waits := t.waits.filter fun w => !(w.job == id && w.access.answered) }) s

/-- Unpin the resident tiles of a job that no other job holds resident (Table 14-12 step 3). -/
def unpin (j : Job) (s : State) : State :=
  let mine := ((jobSlots j).filter fun x => slotResident x.1).map (·.2)
  let others := (s.jobs.jobs.filter fun k => k.id != j.id && decide (1 ≤ k.st)).flatMap fun k =>
    ((jobSlots k).filter fun x => slotResident x.1).map (·.2)
  modTier (fun t => { t with
    tiles := updWhere (fun u => mine.contains u.object && !others.contains u.object) (fun u => { u with pinned := false }) t.tiles }) s

/-- Is a waiter one of the job that owns the array? -/
def localWaiter (w : Waiter) : Bool := match w.who with | .remote _ _ _ => false | _ => true

/-- The object with a number. -/
def findSync (s : State) (no : Nat) : Option SyncObj := s.sync.objs.find? (·.no == no)

/-- Change an object. -/
def modSyncObj (no : Nat) (f : SyncObj → SyncObj) (s : State) : State :=
  modSync (fun y => { y with objs := updWhere (·.no == no) f y.objs }) s

/-- Is a waiting operation satisfied by the object as it stands, and with what value? -/
def syncMeets (o : SyncObj) (w : Waiter) : Option Nat :=
  match w.op with
  | 0 => if w.n ≤ o.value then some 0 else none
  | 4 => if o.value == 1 then some 0 else none
  | 6 => if o.gen != w.n then some o.gen else none
  | 9 => if w.n ≤ o.value then some o.value else none
  | _ => none

/-- Satisfy a semaphore's waiters in order; the first that must wait holds back every later one (R338). -/
def serveSem (v : Nat) : List Waiter → Nat × List Waiter × List Waiter
  | [] => (v, [], [])
  | w :: l =>
    if w.n ≤ v then
      let r := serveSem (v - w.n) l
      (r.1, w :: r.2.1, r.2.2)
    else (v, [], w :: l)

/-- The object after its waiters are served, and those served with their values, in order (R338). -/
def serveObj (o : SyncObj) : SyncObj × List (SyncWho × Nat) :=
  if o.kind == 0 then
    let r := serveSem o.value o.waiters
    ({ o with value := r.1, waiters := r.2.2 }, r.2.1.map fun w => (w.who, 0))
  else
    ({ o with waiters := o.waiters.filter fun w => (syncMeets o w).isNone },
     o.waiters.filterMap fun w => (syncMeets o w).map fun v => (w.who, v))

/-- The request of another node that a remote waiter stands for. -/
def remoteSync (s : State) (node tag fn : Nat) (express : Bool) : Msg :=
  { port := if node == ownNode s then 12 else 0, mtype := msgSync, express := express, dst := ownNode s, src := node, function := fn, tag := tag }

/-- Serve the waiters of other nodes that a withdrawn waiter held back (R338). -/
def serveRemote (no : Nat) (s : State) : State :=
  match findSync s no with
  | none => s
  | some o =>
    (serveObj o).2.foldl (fun s x => match x.1 with
      | .remote node tag fn => respond (remoteSync s node tag fn o.express) 0 (natLE 8 x.2 ++ List.replicate 56 0) 0
          (modSync (fun y => { y with results := y.results ++ [x] }) s)
      | _ => s) (modSyncObj no (fun _ => (serveObj o).1) s)

/-! ### The twin's copies of synchronisation objects (R337) -/

/-- Where in the flash window, which no other twin traffic names, the record of an object goes: a write of 64 bytes for each number (DESIGN CHOICE,
assumption 79). -/
def syncBase : Nat := 2 ^ 32

/-- The record of an object as the twin is told it. -/
def syncRecord (o : SyncObj) : Bytes :=
  natLE 1 1 ++ natLE 1 o.kind ++ natLE 1 (boolNat o.express) ++ natLE 1 0 ++ natLE 4 o.gen ++ natLE 8 o.value ++ natLE 8 o.parts ++
  natLE 8 o.grants ++ natLE 8 o.release ++ List.replicate 24 0

/-- The twin's record of an object: the copy is made or brought up to date, or goes; one that is homed here stands. -/
def takeSync (no : Nat) (b : Bytes) (s : State) : State :=
  match findSync s no with
  | some o =>
    if o.homed then s
    else modSync (fun y => { y with objs := y.objs.filter (·.no != no) ++ (if field b 0 1 == 1 then
      [{ o with kind := field b 1 1, express := field b 2 1 == 1, gen := field b 4 4, value := field b 8 8, parts := field b 16 8,
                grants := field b 24 8, release := field b 32 8 }] else []) }) s
  | none =>
    if field b 0 1 != 1 then s
    else modSync (fun y => { y with objs := y.objs ++
      [{ no := no, kind := field b 1 1, express := field b 2 1 == 1, value := field b 8 8, gen := field b 4 4, parts := field b 16 8,
         grants := field b 24 8, release := field b 32 8, waiters := [], homed := false, mirrored := false }] }) s

/-- Send the twin a record of an object. -/
def sendSync (no : Nat) (b : Bytes) (s : State) : State :=
  issueTwin msgWrite 0 (wyvasAddr (ownNode s) 1 (syncBase + 64 * no)) 0 false 64 b 0 .stream none s

/-- Send the twin every object homed here whose copy is not as it stands. -/
def sendSyncs (s : State) : State :=
  (s.sync.objs.filter fun o => o.homed && !o.mirrored).foldl (fun s o =>
    sendSync o.no (syncRecord o) (modSyncObj o.no (fun x => { x with mirrored := true }) s)) s

/-- In a twinned pair, what has changed since `old` of the objects homed here goes to the twin's copies (R337). -/
def mirrorSync (old : List SyncObj) (s : State) : State :=
  if !twinned s then s
  else
    let same := fun (o : SyncObj) => old.any fun k => k.no == o.no && syncRecord k == syncRecord o
    let s := modSync (fun y => { y with objs := y.objs.map fun o => if same o then o else { o with mirrored := false } }) s
    if !(portUp s 12 || portUp s 13) then s
    else sendSyncs ((old.filter fun k => k.homed && (findSync s k.no).isNone).foldl (fun s k => sendSync k.no (List.replicate 64 0) s) s)

/-- The local waiters of synchronisation objects leave (R338, R354), and those of other nodes behind them are served. -/
def dropWaiters (s₀ : State) : State :=
  let s := modSync (fun y => { y with objs := y.objs.map fun o => { o with waiters := o.waiters.filter fun w => !localWaiter w } }) s₀
  mirrorSync s₀.sync.objs ((s.sync.objs.map (·.no)).foldl (fun s no => serveRemote no s) s)

/-- Withdraw what a job waits for at other nodes: remote reads, and waiting synchronisation operations; writes and atomics already
issued complete regardless (R70, R354). -/
def cancelRemote (id : Nat) (s : State) : State :=
  withdrawRequests (fun r => r.job == id && (r.msg.mtype == msgRead || r.msg.mtype == msgSync)) s

/-- The objects of an audited job's digest, with the versions fixed at its admission. -/
def jobDigest (j : Job) : Bytes := resultDigest j.basket.digest j.versions j.inputDigest 0 j.cells j.modeWord

/-- The result region of a basket command (Table 3-5). -/
def resultRegion (handle valid flags epoch detail : Nat) (digest : Bytes) : Bytes :=
  natLE 8 handle ++ natLE 4 valid ++ natLE 4 flags ++ natLE 8 epoch ++ natLE 8 detail ++ slice digest 0 32

/-- The handle of commands that return none. -/
def noHandle : Nat := 2 ^ 64 - 1

/-- The successful end of a job: created objects become ready, written slots are committed, the output is kept, the result region and the
audit entry are written (R62, R349, R399, R404). -/
def jobSucceeds (j : Job) (s : State) : State :=
  let s := (jobSlots j).foldl (fun s x =>
    let s := if slotAccess x.1 == 2 then modObj x.2 (fun o => { o with ready := true }) s else s
    if slotAccess x.1 != 0 && decide (slotKind x.1 ≤ 2) then commitObj (slotKind x.1) x.2 s else s) s
  let s := modJobs (fun r => { r with
    outputs := r.outputs ++ [{ job := j.id, fn := j.fn, len := j.basket.output, data := j.output, poison := j.outPoison }] }) s
  let dg := if j.digest then jobDigest j else []
  let flags := boolNat j.digest + (if j.throttled then 8 else 0) + (if bitOf j.modeWord 8 then 16 else 0)
  let s := dmaResult j.resultAddr (resultRegion j.id 0 flags 0 (s.time - j.started) dg) s
  let s := account j 4 1 s
  if j.digest then
    logAudit j.fn { handle := j.id, sq := j.sq, cid := j.cid, opc := 0x85, time := s.time, digest := dg,
                    basketDigest := j.basket.digest, inputDigest := j.inputDigest, epoch := 0, cells := j.cells,
                    modeWord := j.modeWord, objects := j.versions } s
  else s

/-- The end of a job on any other status: created objects are deleted and the output is discarded (R349). -/
def jobFails (j : Job) (s : State) : State :=
  if j.st == 0 then s
  else ((jobSlots j).filter fun x => slotAccess x.1 == 2).foldl (fun s x => deleteObj x.2 s) s

/-- Free the array of a job that owns it: Rennet and the class's SRAM area are zeroed, its threads, waits and CHURN end, and its scratch is
released (R210, R349, R351). -/
def releaseArray (j : Job) (s : State) : State :=
  let s := cancelRemote j.id (dropWaiters s)
  let left := ((s.churn.updates.filter (·.fromJob)).map fun u => u.records.length).foldl (· + ·) 0
  let s := bumpBy 0x3401 5 left (modChurn (fun c => { c with updates := c.updates.filter fun u => !u.fromJob }) s)
  let s := zeroScratch (zeroArea j.basket.cls (zeroRennet s))
  let s := modJobs (fun r => { r with owner := none, threads := [], preemptAsked := false }) s
  let s := modRetr (fun r => { r with pools := r.pools.filter (·.1 != j.id) }) s
  applyPending s

/-- Count the poison a job or command consumed, and log it (R193). -/
def logPoison (context : Nat) (s : State) : State := logEv { source := 1, cls := 3, context := context } (bump 0x2302 4 s)

/-- A job leaves: everything it holds is released (R348, R349). -/
def clearJob (j : Job) (s : State) : State :=
  let s := if s.jobs.owner == some j.id then releaseArray j s else s
  let s := if s.jobs.preempted == some j.id then
      account j 3 (s.time - j.saveStart) (modJobs (fun r => { r with preempted := none }) (zeroArea j.basket.cls s))
    else s
  let s := unpin j (dropWaits j.id s)
  bump 0x3500 1 (modJobs (fun r => { r with
    jobs := r.jobs.filter (·.id != j.id)
    stdQ := r.stdQ.filter (· != j.id)
    expQ := r.expQ.filter (· != j.id) }) s)

/-- Pipeline jobs none of whose queries is left end. -/
def dropIdleStages (s : State) : State :=
  (s.jobs.jobs.filter fun j => j.stage != none && liveMembers s j == []).foldl (fun s j => clearJob j s) s

/-- End a query with a status other than Success. -/
def failQuery (q : Query) (st : Status) (dw0 : Nat) (s : State) : State :=
  let s := if st == stPoisonedInput then logPoison q.pipeline s else s
  endBasket q.fn q.sq q.cid st dw0 0 noOp (dropIdleStages (dropQuery q.fn q.sq q.cid s))

/-- End a job with a status: its outcome is applied, everything it holds is released, and its completion is posted (R348, R349). A pipeline job
that fails ends its queries with its status. -/
def finishJob (j : Job) (st : Status) (dw0 : Nat) (s : State) : State :=
  if j.stage != none then
    let qs := liveMembers s j
    qs.foldl (fun s q => failQuery q st dw0 s) (clearJob j s)
  else
    let s := if st == stSuccess then jobSucceeds j s else jobFails j s
    let s := if st == stPoisonedInput then logPoison j.id s else s
    endBasket j.fn j.sq j.cid st dw0 j.id (if j.st == 0 then noOp else jobOp j) (clearJob j s)

/-- End the job with a number. -/
def endJob (id : Nat) (st : Status) (dw0 : Nat) (s : State) : State :=
  match findJob s id with
  | none => s
  | some j => finishJob j st dw0 s

/-- End the job that owns the array with a status whose DW0 is the operation index unless another is given. -/
def endOwner (st : Status) (dw0 : Option Nat) (s : State) : State :=
  match ownerJob s with
  | some j => endJob j.id st (dw0.getD (jobOp j)) s
  | none => s

/-! ### Running an operation (R209, R336, R344) -/

/-- Is a request the module's own write that keeps the twin's copies? Of the operation stream only a WAIT or SIGNAL goes over the twin ports. -/
def Request.mirrors (r : Request) : Bool := r.plane == 2 && r.who == .stream && r.msg.mtype == msgWrite

/-- Is the stream held by an operation under way: a WAIT or SIGNAL that waits or is at another home, a tile operation with pieces of a frame to come, or
a CHURN? -/
def streamBusy (s : State) : Bool :=
  (s.sync.objs.any fun o => o.waiters.any fun w => w.who == .stream) ||
  (s.wyv.requests.any fun r => r.who == .stream && !r.mirrors && some r.job == s.jobs.owner) || (s.churn.updates.any fun u => u.fromJob)

/-- The job whose next operation is `d`: it owns the array and runs, the issue rate is not 0, pre-emption is not requested, no earlier operation is
under way, and the descriptor has one of the row's opcodes (R336, R352, R449). -/
def issuable (opc : Nat) (d : Bytes) (s : State) : Option Job :=
  match ownerJob s with
  | none => none
  | some j =>
    if j.st == 2 && s.thr.fa != 0 && !s.jobs.preemptAsked && !streamBusy s && j.basket.ops[j.pos]? == some d && field d 0 1 == opc then some j
    else none

/-- An operation has completed: the stream moves to the next one (ArrayState.5). -/
def opDone (j : Job) (s : State) : State := bump 0x3000 5 (modJob j.id (fun k => { k with pos := k.pos + 1 }) s)

/-- Apply the outcome of an operation to its job. -/
def settleOp (j : Job) (r : OpRes) : State :=
  match r with
  | .done s => opDone j s
  | .fail st dw0 s => endJob j.id st (dw0.getD (jobOp j)) s
  | .wait s => s

/-- Run an operation of the stream where it may issue; otherwise nothing happens. -/
def runOp (opc : Nat) (d : Bytes) (body : Job → State → OpRes) (s : State) : State :=
  match issuable opc d s with
  | some j => settleOp j (body j s)
  | none => s

end Sys2Proof.Machine
end

