-- ==== Sys2Proof/Machine/ArrayOps.lean ====
section
/-! DEFINITION. The array operations of Table 9-6: MMA, SHAPE, PATTERN_LOAD, SCALE_LOAD and RESCALE_LOAD. -/

namespace Sys2Proof.Machine

open Sys2Proof

/-! ### Weaver patterns (Table 9-5, R218, R219) -/

/-- A weaver pattern record. -/
structure Pat where
  n0 : Nat
  n1 : Nat
  n2 : Nat
  s0 : Int
  s1 : Int
  s2 : Int
  su : Int
  sv : Int
  bu : Nat
  bv : Nat
  base : Int
  cu : Int
  cv : Int
  deriving DecidableEq, Repr

/-- The record of 40 bytes. -/
def parsePat (b : Bytes) : Pat :=
  { n0 := field b 0 2
    n1 := field b 2 2
    n2 := field b 4 2
    s0 := sint 32 (field b 8 4)
    s1 := sint 32 (field b 12 4)
    s2 := sint 32 (field b 16 4)
    su := sint 16 (field b 20 2)
    sv := sint 16 (field b 22 2)
    bu := field b 24 2
    bv := field b 26 2
    base := sint 32 (field b 28 4)
    cu := sint 16 (field b 32 2)
    cv := sint 16 (field b 34 2) }

/-- Is a coordinate outside its bound (0 disables the check)? -/
def outOf (bound : Nat) (x : Int) : Bool := bound != 0 && (decide (x < 0) || decide ((bound : Int) ≤ x))

/-- The address of the slice of row `m`, or none where it is zeros (R218). -/
def sliceAddr (p : Pat) (m : Nat) : Option Int :=
  let i0 := m % max 1 p.n0
  let i1 := m / max 1 p.n0 % max 1 p.n1
  let i2 := m / max 1 (p.n0 * p.n1)
  if outOf p.bu (p.cu + i1 * p.su) || outOf p.bv (p.cv + i0 * p.sv) then none
  else some (p.base + i0 * p.s0 + i1 * p.s1 + i2 * p.s2)

/-- Least and largest of a list of integers. -/
def leastI (l : List Int) : Int := l.foldl min (l.headD 0)
def largestI (l : List Int) : Int := l.foldl max (l.headD 0)

/-- Does a record keep R219: counts in range, reserved bytes zero, and every address it can read aligned and inside the 2 MiB? -/
def patOk (b : Bytes) : Bool :=
  let p := parsePat b
  let a0 := ((List.range p.n0).filter fun (i : Nat) => !outOf p.bv (p.cv + i * p.sv)).map fun (i : Nat) => (i : Int) * p.s0
  let a1 := ((List.range p.n1).filter fun (i : Nat) => !outOf p.bu (p.cu + i * p.su)).map fun (i : Nat) => (i : Int) * p.s1
  let a2 := [(0 : Int), ((p.n2 : Int) - 1) * p.s2]
  let same := fun (l : List Int) => l.all fun x => (x - l.headD 0) % 64 == 0
  decide (1 ≤ p.n0) && decide (p.n0 ≤ 8192) && decide (1 ≤ p.n1) && decide (p.n1 ≤ 8192) && decide (1 ≤ p.n2) &&
  decide (p.n2 ≤ 8192) && field b 6 2 == 0 && field b 36 4 == 0 &&
  (a0 == [] || a1 == [] ||
    (same a0 && same a1 && (p.n2 == 1 || p.s2 % 64 == 0) && (p.base + a0.headD 0 + a1.headD 0) % 64 == 0 &&
     decide (0 ≤ p.base + leastI a0 + leastI a1 + leastI a2) &&
     decide (p.base + largestI a0 + largestI a1 + largestI a2 + 64 ≤ 2 ^ 21)))

/-- The record a cell holds in a slot. -/
def patAt (s : State) (cell slot : Nat) : Pat := parsePat (memRead s.arr.patterns ((cell * 64 + slot) * 64) 40)

/-- The leftmost cells of every chain row of a shape. -/
def leftCells (s : State) (shape : Nat) : List Nat := (partsOf shape).flatMap fun p => (chainRows s shape p).map (·.headD 0)

/-! ### The MMA (Table 9-7, R212 to R216, R222, R227, R248 to R252) -/

/-- The fields of an MMA descriptor. -/
structure Mma where
  parts : Nat
  af : Nat
  wf : Nat
  whey : Bool
  acc : Bool
  g : Nat
  preload : Bool
  load : Nat
  m : Nat
  k : Nat
  n : Nat
  pat : Nat
  wAddr : Nat
  pAddr : Nat
  sAddr : Nat
  yAddr : Nat
  deriving DecidableEq, Repr

/-- Read an MMA descriptor. -/
def parseMma (d : Bytes) : Mma :=
  let c := field d 3 1
  { parts := field d 1 1 % 16
    af := field d 2 1 / 16
    wf := field d 2 1 % 16
    whey := bitOf c 6
    acc := bitOf c 5
    g := 4 * 2 ^ bitsOf c 4 3
    preload := bitOf c 2
    load := c % 4
    m := field d 4 2
    k := field d 6 2
    n := field d 8 2
    pat := field d 10 1 % 64
    wAddr := field d 12 4 % 2 ^ 21
    pAddr := field d 16 4 % 2 ^ 21
    sAddr := field d 20 4 % 2 ^ 21
    yAddr := field d 24 4 % 2 ^ 21 }

def is4bit (f : Nat) : Bool := f == 2 || f == 4
def isBf16 (f : Nat) : Bool := f == 5

/-- K rows of a chain row, and bytes of a cell's weight block. -/
def kPerRow (f : Nat) : Nat := if is4bit f then 128 else 64
def blockLen (f : Nat) : Nat := if isBf16 f then 8192 else 4096

/-- Bytes of a slice. -/
def sliceLen (f : Nat) : Nat := if isBf16 f then 128 else 64

/-- The element at an element position of a body, row-major; the even position of a pair of 4-bit elements is the low half (R162). -/
def bodyElem (f : Nat) (m : Mem) (base pos : Nat) : Nat :=
  if is4bit f then (memByte m (base + pos / 2)).toNat / (if pos % 2 == 0 then 1 else 16) % 16
  else if isBf16 f then memNat m (base + 2 * pos) 2
  else (memByte m (base + pos)).toNat

/-- The element of a slice. -/
def sliceElem (f : Nat) (sl : Bytes) (e : Nat) : Nat :=
  if is4bit f then field sl (e / 2) 1 / (if e % 2 == 0 then 1 else 16) % 16
  else if isBf16 f then field sl (2 * e) 2
  else field sl e 1

/-- The partitions an MMA drives, of those that have a chain row (R211, R214). -/
def mmaParts (s : State) (shape : Nat) (x : Mma) : List Nat :=
  (if shape == 2 then (List.range 4).filter fun p => bitOf x.parts p else [0]).filter fun p => chainRows s shape p != []

/-- Load a block per cell into the active or shadow registers; poison moves with it (R192, R215). -/
def loadStakes (shadow : Bool) (cells : List Nat) (off n : Nat) (s : State) : State :=
  cells.foldl (fun s c =>
    let put := fun (m src : Mem) => memOver m (c * 8192) 8192 (memSlice src (sramKey c off) (sramKey c off + n))
    modArr (fun a =>
      if shadow then { a with stakeS := put a.stakeS a.sram, stakeSPoison := put a.stakeSPoison a.poison }
      else { a with stakeA := put a.stakeA a.sram, stakeAPoison := put a.stakeAPoison a.poison }) s) s

/-- Exchange the active and shadow registers of cells (R215). -/
def swapStakes (cells : List Nat) (s : State) : State :=
  let pick := fun (m : Mem) (yes : Bool) => m.filter fun b => cells.contains (b.1 / 8192) == yes
  let merge := fun (a b : Mem) => b.foldl (fun m x => memPut m x.1 x.2) a
  modArr (fun a => { a with
    stakeA := merge (pick a.stakeA false) (pick a.stakeS true)
    stakeS := merge (pick a.stakeS false) (pick a.stakeA true)
    stakeAPoison := merge (pick a.stakeAPoison false) (pick a.stakeSPoison true)
    stakeSPoison := merge (pick a.stakeSPoison false) (pick a.stakeAPoison true) }) s

/-- Bytes that `n` elements of a format take. -/
def elemBytes (f n : Nat) : Nat := if is4bit f then ceilDiv n 2 else if isBf16 f then 2 * n else n

/-- Does a pass of `kp` K rows use a poisoned weight: one of the active registers at a valid position (R193, R227)? -/
def weightBad (s : State) (x : Mma) (rows : List (List Nat)) (kp : Nat) : Bool :=
  !s.arr.stakeAPoison.isEmpty && (List.range (ceilDiv kp (kPerRow x.wf))).any fun c =>
    (List.range (ceilDiv x.n 64)).any fun p => (List.range (min (kPerRow x.wf) (kp - c * kPerRow x.wf))).any fun k =>
      memAny s.arr.stakeAPoison (((rows.getD c []).getD p 0) * 8192 + elemBytes x.wf (64 * k)) (elemBytes x.wf (min 64 (x.n - 64 * p)))

/-- The products of group `q` of a chain row in one column, as values; none of a masked position or a zero slice (R248, R249). -/
def groupProducts (s : State) (x : Mma) (kp c cell col : Nat) (sl : Option Bytes) (q : Nat) : List FV :=
  let per := kPerRow x.wf
  let gs := if is4bit x.wf then 2 * x.g else x.g
  (List.range gs).map fun i =>
    let kk := gs * q + i
    match sl with
    | some b =>
      if c * per + kk < kp then
        mulV (decodeFmt x.af (sliceElem x.af b kk)) (decodeFmt x.wf (bodyElem x.wf s.arr.stakeA (cell * 8192) (64 * kk + col)))
      else .fin false 0 0
    | none => .fin false 0 0

/-- The integer value of an exact product. -/
def intOf : FV → Int
  | .fin n m _ => if n then -(m : Int) else m
  | _ => 0

/-- The sum and whey word of one row and column of a pass, before the accumulate start (R250, R252). -/
def columnSum (s : State) (x : Mma) (rows : List (List Nat)) (kp : Nat) (slices : List (Option Bytes)) (n : Nat) : Nat × Nat :=
  let gs := (List.range rows.length).flatMap fun c => (List.range (64 / x.g)).map fun q =>
    groupProducts s x kp c ((rows.getD c []).getD (n / 64) 0) (n % 64) (slices.getD c none) q
  if fmtInt x.wf then (wrapInt 32 ((gs.map fun g => (g.map intOf).foldl (· + ·) 0).foldl (· + ·) 0), 0)
  else chain (gs.map groupSum)

/-- The words written for a sum: started from the words already there where the pass accumulates (R250, R252). -/
def finishSum (x : Mma) (start : Option (Nat × Nat)) (se : Nat × Nat) : Nat × Nat :=
  if fmtInt x.wf then
    (match start with
     | some o => ((o.1 + se.1) % 2 ^ 32, 0)
     | none => se)
  else
    let t := match start with | some o => accumulate o se | none => se
    if x.whey then t else (fadd t.1 t.2, 0)

/-- The banks of a cell's SRAM that a region touches, given as its address and length (R208). -/
def banksOf (r : Nat × Nat) : List Nat :=
  if r.2 == 0 then [] else (List.range ((r.1 + r.2 - 1) / 65536 - r.1 / 65536 + 1)).map (r.1 / 65536 + ·)

/-- The banks of the regions of an MMA beside its slices: preloaded weights, sums and whey words (R226). -/
def mmaBanks (x : Mma) : List Nat :=
  (if x.preload then banksOf (x.pAddr, blockLen x.wf) else []) ++ banksOf (x.sAddr, 256 * x.m) ++ (if x.whey then banksOf (x.yAddr, 256 * x.m) else [])

/-- The slices of row `m` in pass `t`: the weaver's cell and the slice's address there, none where it is zeros (R216, R218). -/
def mmaSlices (s : State) (x : Mma) (rows : List (List Nat)) (kp t m : Nat) : List (Nat × Option Int) :=
  (List.range (ceilDiv kp (kPerRow x.wf))).map fun c =>
    let cell := (rows.getD c []).headD 0
    (cell, sliceAddr (patAt s cell ((x.pat + t) % 64)) m)

/-- The bytes of the slices of a row. -/
def sliceBytes (s : State) (x : Mma) (sl : List (Nat × Option Int)) : List (Option Bytes) :=
  sl.map fun p => p.2.map fun a => sramRead s p.1 a.toNat (sliceLen x.af)

/-- Where the words of column `n` and row `m` of an MMA lie in the drain cell, from the base of a region (R212). -/
def wordAt (base m n : Nat) : Nat := base + 256 * m + 4 * (n % 64)

/-- One row of a pass in one partition: the slices and the starting sums are consumed, then every column is written (R212, R216, R227). A
slice of a pattern loaded by the stream is checked against the banks of the MMA's other regions (R226). -/
def mmaRow (x : Mma) (rows : List (List Nat)) (kp t m : Nat) (acc checkBank : Bool) (s : State) : OpRes :=
  let used := ceilDiv kp (kPerRow x.wf)
  let addrs := mmaSlices s x rows kp t m
  let bad := addrs.any fun p => match p.2 with
    | some a => checkBank && (banksOf (a.toNat, sliceLen x.af)).any (mmaBanks x).contains
    | none => false
  if bad then opFault s
  else if (List.range used).any fun c => match addrs.getD c (0, none) with
      | (cell, some a) => sramBad s cell a.toNat (elemBytes x.af (min (kPerRow x.wf) (kp - c * kPerRow x.wf)))
      | (_, none) => false then opPoison s
  else
    let drain := rows.getLastD []
    let cols := List.range x.n
    if acc && cols.any (fun n =>
        let c := drain.getD (n / 64) 0
        sramBad s c (wordAt x.sAddr m n) 4 || (x.whey && sramBad s c (wordAt x.yAddr m n) 4)) then opPoison s
    else
      let slices := sliceBytes s x addrs
      let outs := cols.map fun n =>
        let c := drain.getD (n / 64) 0
        let start := if acc then
            some (sramNat s c (wordAt x.sAddr m n) 4, if x.whey then sramNat s c (wordAt x.yAddr m n) 4 else 0) else none
        (c, n, finishSum x start (columnSum s x rows kp slices n))
      .done (outs.foldl (fun s o =>
        let s := sramPut o.1 (wordAt x.sAddr m o.2.1) (natLE 4 o.2.2.1) s
        if x.whey then sramPut o.1 (wordAt x.yAddr m o.2.1) (natLE 4 o.2.2.2) s else s) s)

/-- Does a chain row that holds a valid K row lack a loaded record (R219)? -/
def patMissing (s : State) (x : Mma) (rows : List (List Nat)) (kp t ms : Nat) : Bool :=
  (rows.take (ceilDiv kp (kPerRow x.wf))).any fun r =>
    let p := patAt s (r.headD 0) ((x.pat + t) % 64)
    p.n0 == 0 || p.n1 == 0 || p.n2 == 0 || decide (p.n0 * p.n1 * p.n2 < ms)

/-- Passes of an MMA in a partition (R222). -/
def mmaPasses (s : State) (x : Mma) (shape part : Nat) : Nat := max 1 (ceilDiv x.k ((chainRows s shape part).length * kPerRow x.wf))

/-- K rows of pass `t` in a partition (R222). -/
def passK (s : State) (x : Mma) (shape part t : Nat) : Nat :=
  let cap := (chainRows s shape part).length * kPerRow x.wf
  min x.k ((t + 1) * cap) - t * cap

/-- The stakes before the first row of pass `t`, and which weights its rows use poisoned: the load or swap, then the preload of the last pass
(R215, R222). -/
def passStakes (x : Mma) (shape t part : Nat) (s : State) : State × Bool :=
  let rows := chainRows s shape part
  let len := blockLen x.wf
  let s := if t != 0 || x.load == 1 then loadStakes false rows.flatten (x.wAddr + t * len) len s
           else if x.load == 2 then swapStakes rows.flatten s else s
  let bad := weightBad s x rows (passK s x shape part t)
  (if x.preload && t + 1 == mmaPasses s x shape part then loadStakes true rows.flatten x.pAddr len s else s, bad)

/-- One pass of an MMA over the partitions that have it: every pattern slot is checked before the first row issues, and each row runs in every
partition before the next (R214, R219, R222). -/
def mmaPassRun (x : Mma) (shape t : Nat) (parts : List Nat) (checkBank : Bool) (s : State) : OpRes :=
  let ps := parts.filter fun p => decide (t < mmaPasses s x shape p)
  if ps.any fun p => patMissing s x (chainRows s shape p) (passK s x shape p t) t (if shape == 0 then 1024 else x.m) then opFault s
  else
    let (s, bad) := ps.foldl (fun (r : State × Bool) p => let q := passStakes x shape t p r.1; (q.1, r.2 || q.2)) (s, false)
    if bad then opPoison s
    else opEach (List.range x.m) (fun m s => opEach ps (fun p s =>
      mmaRow x (chainRows s shape p) (passK s x shape p t) t m (x.acc || t != 0) checkBank s) s) s

/-- Did an MMA leave a sum that is not finite? -/
def nonFinite (s : State) (x : Mma) (shape : Nat) : Bool :=
  !fmtInt x.wf && (mmaParts s shape x).any fun p =>
    let drain := drainCells s shape p
    (List.range x.m).any fun m => (List.range x.n).any fun n =>
      !isFin (f32 (sramNat s (drain.getD (n / 64) 0) (x.sAddr + 256 * m + 4 * (n % 64)) 4))

/-- Has a PATTERN_LOAD of the stream before the job's position loaded a slot? -/
def streamLoaded (j : Job) (slot : Nat) : Bool :=
  (j.basket.ops.take j.pos).any fun d => field d 0 1 == 0x22 && field d 4 1 % 64 == slot

/-- An MMA over its passes. -/
def mmaBody (j : Job) (d : Bytes) (s : State) : OpRes :=
  let x := parseMma d
  let shape := s.arr.shape
  let ps := mmaParts s shape x
  let n := (ps.map (mmaPasses s x shape)).foldl max 0
  let s := if 1 < n then bump 0x3000 6 s else s
  let r := opEach (List.range n) (fun t s => mmaPassRun x shape t ps (streamLoaded j ((x.pat + t) % 64)) s) s
  opBind r fun s => .done (if nonFinite s x shape then bump 0x3101 3 s else s)

/-- The state once data of cell SRAM have failed their parity (R189). -/
def parityHits (parity : List (Nat × Nat × Nat)) (s : State) : State := parity.foldl (fun s p => cellParity p.1 p.2.1 p.2.2 s) s

/-- MMA: no row issues while the array issue-rate fraction is 0 (R232). `parity` lists data of cell SRAM, by cell, byte and length, that fail their parity
as the operation uses them (R189). -/
def mmaF (d : Bytes) (parity : List (Nat × Nat × Nat)) (s : State) : State := runOp 0x20 d (fun j s => mmaBody j d (parityHits parity s)) s

def execMma (d : MmaRun) (s : State) : Res := finish s (mmaF d.op d.parity s)

/-! ### SHAPE, PATTERN_LOAD, SCALE_LOAD, RESCALE_LOAD -/

/-- Set the shape and recompute what reports it (R209, R217). -/
def setShape (k : Nat) (s : State) : State := setObj 0x3000 1 k (modArr (fun a => { a with shape := k }) s)

/-- SHAPE (Table 9-6). -/
def shapeF (d : Bytes) (s : State) : State := runOp 0x21 d (fun _ s => .done (setShape (field d 4 1) s)) s

def execShape (d : Bytes) (s : State) : Res := finish s (shapeF d s)

/-- Store a pattern record in a slot of a cell. -/
def putPat (cell slot : Nat) (b : Bytes) (s : State) : State :=
  modArr (fun a => { a with patterns := memOver a.patterns ((cell * 64 + slot) * 64) 64 (memOf (slice b 0 40)) }) s

/-- Put one record per leftmost cell into a slot: a record that breaks R219, or records whose shared bytes differ, end the job with Job
Fault (R219). -/
def patternsBody (slot : Nat) (recs : List (Nat × Bytes)) (s : State) : OpRes :=
  if !recs.all (fun r => patOk r.2) || !recs.all (fun r => r.2.take 28 == (recs.headD (0, [])).2.take 28) then opFault s
  else .done (recs.foldl (fun s r => putPat r.1 slot r.2 s) s)

/-- PATTERN_LOAD: each chain row's leftmost cell reads its record from its own SRAM (Table 9-6, R219). -/
def patternLoadBody (d : Bytes) (s : State) : OpRes :=
  let slot := field d 4 1 % 64
  let off := field d 12 4 % 2 ^ 21
  let cells := leftCells s s.arr.shape
  if cells.any fun c => sramBad s c off 40 then opPoison s
  else patternsBody slot (cells.map fun c => (c, sramRead s c off 40)) s

def patternLoadF (d : Bytes) (s : State) : State := runOp 0x22 d (fun _ s => patternLoadBody d s) s

def execPatternLoad (d : Bytes) (s : State) : Res := finish s (patternLoadF d s)

/-- Write a scale register of a cell: kind 0 column, 1 row. -/
def putScale (kind cell i v : Nat) (s : State) : State :=
  modArr (fun a => if kind == 0 then { a with colScale := kvPut 0 a.colScale (cell * 64 + i) v }
                   else { a with rowScale := kvPut 0 a.rowScale (cell * 64 + i) v }) s

/-- The scale a register holds, and its reciprocal RNE(1/s), computed when it is written; a zeroed register has a zero reciprocal. -/
def scaleReg (s : State) (kind cell i : Nat) : Nat := kvGet 0 (if kind == 0 then s.arr.colScale else s.arr.rowScale) (cell * 64 + i)
def recipReg (s : State) (kind cell i : Nat) : Nat := let v := scaleReg s kind cell i; if v == 0 then 0 else frecip v

/-- The 64 values of a SCALE_LOAD, widened. -/
def scaleVals (bf16 : Bool) (b : Bytes) : List Nat :=
  (List.range 64).map fun i => if bf16 then field b (2 * i) 2 * 65536 else field b (4 * i) 4

/-- Put 64 scales per cell; an unacceptable one ends the job with Job Fault and nothing is written (R244). -/
def scalesBody (kind : Nat) (bf16 : Bool) (recs : List (Nat × Bytes)) (s : State) : OpRes :=
  if !recs.all fun r => (scaleVals bf16 r.2).all scaleOk then opFault (bump 0x3101 5 s)
  else .done (recs.foldl (fun s r => (List.range 64).foldl (fun s i => putScale kind r.1 i ((scaleVals bf16 r.2).getD i 0) s) s) s)

/-- SCALE_LOAD (Table 10-3, R244). -/
def scaleLoadBody (d : Bytes) (s : State) : OpRes :=
  let f := field d 1 1
  let off := field d 12 4 % 2 ^ 21
  let n := if bitOf f 1 then 128 else 256
  if (activeCells s).any fun c => sramBad s c off n then opPoison s
  else scalesBody (f % 2) (bitOf f 1) ((activeCells s).map fun c => (c, sramRead s c off n)) s

def scaleLoadF (d : Bytes) (s : State) : State := runOp 0x23 d (fun _ s => scaleLoadBody d s) s

def execScaleLoad (d : Bytes) (s : State) : Res := finish s (scaleLoadF d s)

/-- Is a rescale entry acceptable (R246)? -/
def rescaleOk (b : Bytes) : Bool :=
  f32Finite (field b 0 4) && f32Finite (field b 8 4) && decide (-64 ≤ sint 8 (field b 4 1)) && decide (sint 8 (field b 4 1) ≤ 63)

/-- Put a bank of 64 entries per cell; a bad entry ends the job with Job Fault and the banks keep their contents (R246). -/
def rescalesBody (bank : Nat) (recs : List (Nat × Bytes)) (s : State) : OpRes :=
  if !recs.all fun r => (List.range 64).all fun i => rescaleOk ((r.2.drop (16 * i)).take 16) then opFault (bump 0x3101 5 s)
  else .done (recs.foldl (fun s r =>
    modArr (fun a => { a with rescale := memOver a.rescale ((r.1 * 16 + bank) * 1024) 1024 (memOf (slice r.2 0 1024)) }) s) s)

/-- RESCALE_LOAD (Table 10-4, R246). -/
def rescaleLoadBody (d : Bytes) (s : State) : OpRes :=
  let bank := field d 4 1 % 16
  let off := field d 12 4 % 2 ^ 21
  if (activeCells s).any fun c => sramBad s c off 1024 then opPoison s
  else rescalesBody bank ((activeCells s).map fun c => (c, sramRead s c off 1024)) s

def rescaleLoadF (d : Bytes) (s : State) : State := runOp 0x24 d (fun _ s => rescaleLoadBody d s) s

def execRescaleLoad (d : Bytes) (s : State) : Res := finish s (rescaleLoadF d s)

end Sys2Proof.Machine
end

