-- ==== Sys2Proof/Machine/Transc.lean ====
section
/-! DEFINITION. The four functions of the vector unit that R238 bounds and does not round correctly: each exact value is enclosed in fixed
point, and the result is one of the FP32 values within the bound, picked by a free function of the operand. -/

namespace Sys2Proof.Machine

open Sys2Proof

/-! ### Exact values with 256 fraction bits -/

/-- ln 2 with 256 fraction bits. -/
def ln2Fix : Nat := 0xb17217f7d1cf79abc9e3b39803f2f6af40f343267298b62d8a0d175b8baafa2b

/-- Terms `k` and up of the exponential series at `r`, given the term before: `n` of them. -/
def expTerms (r : Nat) : Nat → Nat → Nat → Nat
  | 0, _, _ => 0
  | n + 1, k, t => let t' := t * r / 2 ^ 256 / k; t' + expTerms r n (k + 1) t'

/-- 2^256 · e^(z / 2^256), truncated, as a mantissa and a power of two to take it by. -/
def expFix (z : Int) : Nat × Int :=
  let n := z.fdiv ln2Fix
  let r := (z - n * ln2Fix).toNat
  (2 ^ 256 + expTerms r 64 1 (2 ^ 256), n)

/-- Terms of the series of the inverse hyperbolic tangent from power `k` on: `p` is that power of the argument, `q` its square. -/
def atanhTerms (q : Nat) : Nat → Nat → Nat → Nat
  | 0, _, _ => 0
  | n + 1, k, p => p / k + atanhTerms q n (k + 2) (p * q / 2 ^ 256)

/-- 2^256 · ln (m · 2^e), near enough to round, of a positive m. -/
def logFix (m : Nat) (e : Int) : Int :=
  let l := Nat.log2 m
  let z := (m - 2 ^ l) * 2 ^ 256 / (m + 2 ^ l)
  (e + l) * ln2Fix + 2 * (atanhTerms (z * z / 2 ^ 256) 100 1 z : Nat)

/-- A finite value with 256 fraction bits. -/
def toFix (n : Bool) (m : Nat) (e : Int) : Int :=
  let v : Int := scaleTrunc m (e + 256)
  if n then -v else v

/-! ### The results within a bound (R238) -/

/-- The largest FP32 magnitude not above m · 2^e, as bits. -/
def floor32 (m : Nat) (e : Int) : Nat :=
  if m == 0 then 0
  else
    let u := ulpExp 0x10 m e
    let q := scaleTrunc m (e - u)
    if beyond 0x10 q u then maxFinite 0x10 else packMag 0x10 q u

/-- FP32 bits by their place in ascending order, place 0 being `z0`. -/
def bitsAt (z0 : Nat) (i : Int) : Nat := if i == 0 then z0 else if i < 0 then 2 ^ 31 + (-i).toNat else i.toNat

/-- One of the places `a` to `b`, none past the infinities. -/
def pickPlace (z0 : Nat) (a b : Int) (pick : Nat) : Nat :=
  let top : Int := (infBits 0x10 : Nat)
  let i := a + ((pick % ((b - a).toNat + 1) : Nat) : Int)
  bitsAt z0 (max (-top) (min top i))

/-- A result within `k` ulp of a value that lies strictly between the magnitude `lo` and the next one, with a sign. -/
def between (neg : Bool) (lo k pick : Nat) : Nat :=
  let a : Int := (lo : Int) - (k - 1 : Nat)
  let b : Int := (lo : Int) + k
  if neg then pickPlace (2 ^ 31) (-b) (-a) pick else pickPlace 0 a b pick

/-- A result within `k` ulp of a value that is the FP32 value `v` itself. -/
def around (v k pick : Nat) : Nat :=
  let i : Int := if v < 2 ^ 31 then (v : Int) else -((v - 2 ^ 31 : Nat) : Int)
  pickPlace v (i - k) (i + k) pick

/-- exp within 1 ulp (R238), with the IEEE default results of its exceptions. -/
def vexpB (x : Nat) : Nat :=
  match f32 x with
  | .nan => canonNan 0x10
  | .inf n => if n then 0 else infBits 0x10
  | .fin n m e =>
    let z := toFix n m e
    if m == 0 then around one32 1 (Config.vexp x)
    else if 128 * (ln2Fix : Int) ≤ z then infBits 0x10
    else if z ≤ -(150 * (ln2Fix : Int)) then between false 0 1 (Config.vexp x)
    else
      let r := expFix z
      between false (floor32 r.1 (r.2 - 256)) 1 (Config.vexp x)

/-- log within 1 ulp (R238), with the IEEE default results of its exceptions. -/
def vlogB (x : Nat) : Nat :=
  match f32 x with
  | .nan => canonNan 0x10
  | .inf n => if n then canonNan 0x10 else infBits 0x10
  | .fin n m e =>
    if m == 0 then withSign 0x10 true (infBits 0x10)
    else if n then canonNan 0x10
    else if x == one32 then around 0 1 (Config.vlog x)
    else
      let l := logFix m e
      between (decide (l < 0)) (floor32 l.natAbs (-256)) 1 (Config.vlog x)

/-- Reciprocal square root within 1 ulp (R238), with the IEEE default results of its exceptions. -/
def vrsqrtB (x : Nat) : Nat :=
  match f32 x with
  | .nan => canonNan 0x10
  | .inf n => if n then canonNan 0x10 else 0
  | .fin n m e =>
    if m == 0 then withSign 0x10 n (infBits 0x10)
    else if n then canonNan 0x10
    else
      let odd := e % 2 != 0
      let m' := if odd then 2 * m else m
      let h := (if odd then e - 1 else e) / 2
      let r := isqrt (2 ^ 280 / m')
      let lo := floor32 r (-140 - h)
      if r * r * m' == 2 ^ 280 then around lo 1 (Config.vrsqrt x) else between false lo 1 (Config.vrsqrt x)

/-- tanh within 2 ulp (R238). Near 0 it lies just below its operand in magnitude, and far from 0 just below 1. -/
def vtanhB (x : Nat) : Nat :=
  match f32 x with
  | .nan => canonNan 0x10
  | .inf n => withSign 0x10 n one32
  | .fin n m e =>
    let mag := x % 2 ^ 31
    if m == 0 then around x 2 (Config.vtanh x)
    else if mag < 0x2B800000 then between n (mag - 1) 2 (Config.vtanh x)
    else if 0x42000000 ≤ mag then between n (one32 - 1) 2 (Config.vtanh x)
    else
      let r := expFix (2 * toFix false m e)
      let v := scaleTrunc r.1 r.2
      between n (floor32 ((v - 2 ^ 256) * 2 ^ 256 / (v + 2 ^ 256)) (-256)) 2 (Config.vtanh x)

end Sys2Proof.Machine
end

