-- ==== Sys2Proof/Machine/VecOps.lean ====
section
/-! DEFINITION. The vector operations of Table 14-9: AMAX, CONVERT, RESCALE, VEC, VTRANS and REDUCE (R242 to R247, R254, R345). -/

namespace Sys2Proof.Machine

open Sys2Proof

/-- The fields of a vector descriptor. -/
structure Vdesc where
  func : Nat
  sf : Nat
  df : Nat
  rows : Nat
  cols : Nat
  stride : Nat
  aux : Nat
  cells : Nat
  src : Nat
  src2 : Nat
  dst : Nat
  imm : Nat
  step : Nat
  deriving DecidableEq, Repr

/-- Read a vector descriptor. -/
def parseVec (d : Bytes) : Vdesc :=
  { func := field d 1 1
    sf := field d 2 1
    df := field d 3 1
    rows := field d 4 2
    cols := field d 6 2
    stride := field d 8 2
    aux := field d 10 1
    cells := field d 11 1
    src := field d 12 4 % 2 ^ 21
    src2 := field d 16 4 % 2 ^ 21
    dst := field d 20 4 % 2 ^ 21
    imm := field d 24 4
    step := field d 28 4 }

/-- Bytes of a row of `n` elements. -/
def rowBytes (f n : Nat) : Nat := (n * fmtBits f + 7) / 8

/-- The elements of a row of bytes. -/
def unpackRow (f n : Nat) (b : Bytes) : List Nat :=
  (List.range n).map fun i =>
    match fmtBits f with
    | 4 => field b (i / 2) 1 / (if i % 2 == 0 then 1 else 16) % 16
    | 8 => field b i 1
    | 16 => field b (2 * i) 2
    | _ => field b (4 * i) 4

/-- Pack 4-bit elements in pairs; `old` is the byte whose high half an odd last element leaves. -/
def packNibbles (old : Nat) : List Nat → Bytes
  | [] => []
  | [a] => [BitVec.ofNat 8 (old / 16 * 16 + a)]
  | a :: b :: l => BitVec.ofNat 8 (a + 16 * b) :: packNibbles old l

/-- The bytes of a row of elements. -/
def packRow (f : Nat) (old : Nat) (l : List Nat) : Bytes :=
  match fmtBits f with
  | 4 => packNibbles old l
  | 8 => l.map (BitVec.ofNat 8)
  | 16 => l.flatMap (natLE 2)
  | _ => l.flatMap (natLE 4)

/-- The groups of cells that hold an operand: every active cell, or the drain cells of the shape, partition by partition (R301, R345). -/
def vecGroups (s : State) (v : Vdesc) : List (List Nat) :=
  if v.cells == 1 then drainGroups s else [activeCells s]

/-- Is any byte of the operand's rows at `base` poisoned in a cell of a group? -/
def operandBad (s : State) (v : Vdesc) (f base : Nat) : Bool :=
  (vecGroups s v).any fun g => g.any fun c => (List.range v.rows).any fun r =>
    sramBad s c (base + 64 * v.stride * r) (rowBytes f v.cols)

/-- The elements of row `r` of an operand in a cell. -/
def rowOf (s : State) (v : Vdesc) (f base c r : Nat) : List Nat :=
  unpackRow f v.cols (sramRead s c (base + 64 * v.stride * r) (rowBytes f v.cols))

/-- Write row `r` of the destination in a cell. -/
def putRow (v : Vdesc) (c r : Nat) (l : List Nat) (s : State) : State :=
  let a := v.dst + 64 * v.stride * r
  let old := sramNat s c (a + rowBytes v.df l.length - 1) 1
  sramPut c a (packRow v.df old l) s

/-- Count what conversions saturated or wrote as zero (R239). -/
def countConv (cs : List Conv) (s : State) : State :=
  bumpBy 0x3101 1 (cs.filter (·.sat)).length (bumpBy 0x3101 2 (cs.filter (·.nanZero)).length s)

/-- Write rows computed per cell: each `(cell, row, conversions)`; all are computed from the state before the operation. -/
def putConvs (v : Vdesc) (outs : List (Nat × Nat × List Conv)) (s : State) : State :=
  outs.foldl (fun s o => putRow v o.1 o.2.1 (o.2.2.map (·.bits)) (countConv o.2.2 s)) s

/-- Every (cell, row) of the operand, cell by cell. -/
def vecRows (s : State) (v : Vdesc) : List (Nat × Nat) :=
  (vecGroups s v).flatten.flatMap fun c => (List.range v.rows).map fun r => (c, r)

/-! ### AMAX (R242, R243) -/

/-- The magnitude of an element for AMAX, FP32 bits: none for NaN, the largest finite for an infinity. -/
def amaxMag (f v : Nat) : Nat :=
  let w := widen f v % 2 ^ 31
  if decide (0x7F800000 < w) then 0 else if w == 0x7F800000 then 0x7F7FFFFF else w

/-- The largest magnitude of a channel in one cell: axis 0 row `i`, 1 column `i`, 2 everything. -/
def amaxCell (s : State) (v : Vdesc) (axis c i : Nat) : Nat :=
  let rows := if axis == 0 then [i] else List.range v.rows
  let mags := rows.flatMap fun r =>
    let l := rowOf s v v.sf v.src c r
    if axis == 1 then [amaxMag v.sf (l.getD i 0)] else l.map (amaxMag v.sf)
  mags.foldl max 0

/-- AMAX (Table 14-9). -/
def amaxBody (v : Vdesc) (s : State) : OpRes :=
  if operandBad s v v.sf v.src then opPoison s
  else
    let axis := v.func % 4
    let reach := bitOf v.func 2
    let rule := bitsOf v.func 3 3
    let kind := bitsOf v.func 4 4
    let chans := if axis == 0 then v.rows else if axis == 1 then v.cols else 1
    let writes := (vecGroups s v).flatMap fun g => (List.range chans).flatMap fun i =>
      let all := (g.map fun c => amaxCell s v axis c i).foldl max 0
      g.flatMap fun c =>
        let sc := scaleOf v.df rule (if reach then all else amaxCell s v axis c i)
        (if axis == 2 then List.range 64 else [i]).map fun k => (c, k, sc)
    .done (writes.foldl (fun s w => putScale kind w.1 w.2.1 w.2.2 s) s)

def amaxF (d : Bytes) (s : State) : State := runOp 0x40 d (fun _ s => amaxBody (parseVec d) s) s

def execAmax (d : Bytes) (s : State) : Res := finish s (amaxF d s)

/-! ### CONVERT (R245) -/

/-- The source elements of a row as FP32 bits: a sum with its whey word is RNE(s + e) (step 1 of R245). -/
def sumRow (s : State) (v : Vdesc) (c r : Nat) : List Nat :=
  let l := (rowOf s v v.sf v.src c r).map (widen v.sf)
  if bitOf v.func 3 then List.zipWith fadd l (rowOf s v 0x10 v.src2 c r) else l

/-- Do the sources of a CONVERT or RESCALE hold poison? -/
def sumBad (s : State) (v : Vdesc) : Bool := operandBad s v v.sf v.src || (bitOf v.func 3 && operandBad s v 0x10 v.src2)

/-- The reciprocal scale of an element: its row's or its column's register, or 1. -/
def convRecip (s : State) (v : Vdesc) (c r i : Nat) : Nat :=
  match v.func % 4 with
  | 0 => recipReg s 1 c r
  | 1 => recipReg s 0 c i
  | _ => one32

/-- Convert one element: the exact product with the reciprocal, rounded once (R239, R240). `p` is the cell's width position. -/
def convElem (s : State) (v : Vdesc) (c p r i x : Nat) : Conv :=
  let e := mulV (f32 x) (f32 (convRecip s v c r i))
  if bitOf v.func 2 then
    convSr v.df (srHash (v.imm + r) v.step (if v.cells == 1 then v.cols * p + i else i) v.aux) e
  else convRne v.df e

/-- The converted rows of every cell: cell, row, conversions. -/
def convAll (s : State) (v : Vdesc) : List (Nat × Nat × List Conv) :=
  (vecGroups s v).flatMap fun g => g.mapIdx (fun p c => (List.range v.rows).map fun r =>
    (c, r, (sumRow s v c r).mapIdx fun i x => convElem s v c p r i x)) |>.flatten

/-- The frame of tile (a, b) of a cell: its header and its body (Table 7-3, R245). -/
def convFrame (s : State) (v : Vdesc) (c a b : Nat) (rows : List (List Nat)) : Bytes :=
  let axis := v.func % 4
  let vr := min 64 (v.rows - 64 * a)
  let vc := min 64 (v.cols - 64 * b)
  let flags := if axis == 2 then 0 else 8 + (if axis == 1 then 4 else 0)
  let scale := if axis == 2 then List.replicate 128 0
    else (List.range 64).flatMap fun i => natLE 2 (convRne 5 (f32 (scaleReg s (if axis == 0 then 1 else 0) c i))).bits
  let body := (List.range 64).flatMap fun r =>
    let l := ((rows.getD (64 * a + r) []).drop (64 * b)).take vc
    packRow v.df 0 ((if r < vr then l else []) ++ List.replicate (64 - (if r < vr then l.length else 0)) 0)
  List.replicate 12 0 ++ natLE 1 v.df ++ natLE 1 vr ++ natLE 1 vc ++ natLE 1 flags ++ List.replicate 112 0 ++ scale ++ body

/-- Write the tile frames of every cell. -/
def putFrames (s0 : State) (v : Vdesc) (outs : List (Nat × Nat × List Conv)) (s : State) : State :=
  let nb := (v.cols + 63) / 64
  let flen := 256 + bodyBytes v.df
  (vecGroups s0 v).flatten.foldl (fun s c =>
    let rows := (outs.filter (·.1 == c)).map fun o => o.2.2.map (·.bits)
    (List.range (((v.rows + 63) / 64) * nb)).foldl (fun s k =>
      sramPut c (v.dst + k * flen) (convFrame s0 v c (k / nb) (k % nb) rows) s) s)
    (outs.foldl (fun s o => countConv o.2.2 s) s)

/-- CONVERT (Table 14-9). -/
def convertBody (v : Vdesc) (s : State) : OpRes :=
  if sumBad s v then opPoison s
  else
    let outs := convAll s v
    .done (if bitOf v.func 4 then putFrames s v outs s else putConvs v outs s)

def convertF (d : Bytes) (s : State) : State := runOp 0x41 d (fun _ s => convertBody (parseVec d) s) s

def execConvert (d : Bytes) (s : State) : Res := finish s (convertF d s)

/-! ### RESCALE (R247) -/

/-- FP32 bits times a power of two, rounded once. -/
def fscale2 (x : Nat) (k : Int) : Nat := rne32 (mulV (f32 x) (.fin false 1 k))

/-- One sum through an entry, with row scale `rs`. -/
def rescaleElem (entry : Bytes) (rs x : Nat) : Nat :=
  let t1 := if bitOf (field entry 5 1) 0 then fmul x rs else x
  fadd (fscale2 (fmul t1 (field entry 0 4)) (sint 8 (field entry 4 1))) (field entry 8 4)

/-- RESCALE (Table 14-9): the block's rows run from m0 to the operand's last row, at most 64 of them. -/
def rescaleBody (v : Vdesc) (s : State) : OpRes :=
  if sumBad s v then opPoison s
  else
    let m0 := v.imm % 65536
    let bank := v.aux % 16
    let outs := (vecRows s v).filterMap fun cr =>
      if decide (m0 ≤ cr.2) && decide (cr.2 < m0 + 64) then
        some (cr.1, cr.2, (sumRow s v cr.1 cr.2).mapIdx fun j x =>
          rescaleElem (memRead s.arr.rescale ((cr.1 * 16 + bank) * 1024 + 16 * j) 16) (scaleReg s 1 cr.1 (cr.2 - m0)) x)
      else none
    .done (outs.foldl (fun s o => putRow { v with df := 0x10 } o.1 o.2.1 o.2.2 s) s)

def rescaleF (d : Bytes) (s : State) : State := runOp 0x42 d (fun _ s => rescaleBody (parseVec d) s) s

def execRescale (d : Bytes) (s : State) : Res := finish s (rescaleF d s)

/-! ### VEC, VTRANS and REDUCE (R238, R254, R345) -/

/-- One element of VEC: source, second operand and old destination, FP32 bits. -/
def vecElem (op a b z : Nat) : Nat :=
  match op with
  | 0 => fadd a b
  | 1 => fmul a b
  | 2 => ffma a b z
  | 3 => fminB a b
  | _ => fmaxB a b

/-- Round FP32 bits into the destination format, to nearest even (R345). -/
def toDst (v : Vdesc) (x : Nat) : Conv := convRne v.df (f32 x)

/-- VEC (Table 14-9). -/
def vecBody (v : Vdesc) (s : State) : OpRes :=
  let op := v.func % 16
  let scalar := bitOf v.func 7
  if operandBad s v v.sf v.src || (!scalar && operandBad s v v.sf v.src2) || (op == 2 && operandBad s v v.df v.dst) then opPoison s
  else
    let outs := (vecRows s v).map fun cr =>
      let a := (rowOf s v v.sf v.src cr.1 cr.2).map (widen v.sf)
      let b := if scalar then List.replicate v.cols v.imm else (rowOf s v v.sf v.src2 cr.1 cr.2).map (widen v.sf)
      let z := if op == 2 then (rowOf s v v.df v.dst cr.1 cr.2).map (widen v.df) else List.replicate v.cols 0
      (cr.1, cr.2, (List.range v.cols).map fun i => toDst v (vecElem op (a.getD i 0) (b.getD i 0) (z.getD i 0)))
    .done (putConvs v outs s)

def vecF (d : Bytes) (s : State) : State := runOp 0x43 d (fun _ s => vecBody (parseVec d) s) s

def execVec (d : Bytes) (s : State) : Res := finish s (vecF d s)

/-- One element of VTRANS (Table 14-9, R238). -/
def vtransElem (op x : Nat) : Nat :=
  match op with
  | 0 => vexpB x
  | 1 => vlogB x
  | 2 => fsqrt x
  | 3 => frecip x
  | 4 => vrsqrtB x
  | _ => vtanhB x

/-- VTRANS (Table 14-9). -/
def vtransBody (v : Vdesc) (s : State) : OpRes :=
  if operandBad s v v.sf v.src then opPoison s
  else .done (putConvs v ((vecRows s v).map fun cr =>
    (cr.1, cr.2, (rowOf s v v.sf v.src cr.1 cr.2).map fun x => toDst v (vtransElem v.func (widen v.sf x)))) s)

def vtransF (d : Bytes) (s : State) : State := runOp 0x44 d (fun _ s => vtransBody (parseVec d) s) s

def execVtrans (d : Bytes) (s : State) : Res := finish s (vtransF d s)

/-- Reduce a list of FP32 bits: 0 the tree of R254, 1 maximum, 2 minimum. -/
def reduceList (op : Nat) (l : List Nat) : Nat :=
  match op with
  | 0 => treeSum l.length l
  | 1 => l.tail.foldl fmaxB (l.headD 0)
  | _ => l.tail.foldl fminB (l.headD 0)

/-- REDUCE (R345): each row to one element at the start of its destination row, or each position across the cells of its group, in logical
cell order. -/
def reduceBody (v : Vdesc) (s : State) : OpRes :=
  if operandBad s v v.sf v.src then opPoison s
  else
    let op := v.func % 4
    let vals := fun c r => (rowOf s v v.sf v.src c r).map (widen v.sf)
    if bitOf v.func 2 then
      let outs := (vecGroups s v).flatMap fun g => (List.range v.rows).flatMap fun r =>
        let rows := g.map fun c => vals c r
        let l := (List.range v.cols).map fun i => toDst v (reduceList op (rows.map fun x => x.getD i 0))
        g.map fun c => (c, r, l)
      .done (putConvs v outs s)
    else .done (putConvs v ((vecRows s v).map fun cr => (cr.1, cr.2, [toDst v (reduceList op (vals cr.1 cr.2))])) s)

def reduceF (d : Bytes) (s : State) : State := runOp 0x45 d (fun _ s => reduceBody (parseVec d) s) s

def execReduce (d : Bytes) (s : State) : Res := finish s (reduceF d s)

end Sys2Proof.Machine
end

