-- ==== Sys2Proof/Machine/SelectOps.lean ====
section
/-! DEFINITION. The Skimmer operations of jobs: SKIM, MERGE and GATHER (R301 to R306). -/

namespace Sys2Proof.Machine

open Sys2Proof

/-- The node id of candidates formed here: 7FFFh while there is none (R293). -/
def keyNode (s : State) : Nat := if ownNode s == 0xFFFF then 0x7FFF else ownNode s

/-- Bytes of a score of a type. -/
def scoreBytes (ty : Nat) : Nat := if ty == 2 then 2 else 4

/-- Count candidates that a NaN score keeps out (SkimmerState.4). -/
def countNan (ty : Nat) (cs : List Cand) (s : State) : State := bumpBy 0x3301 4 (nanCount ty cs) s

/-- The groups of cells of a selection: each active cell alone at reach 0, the drain cells of each partition at reach 1 (R301). -/
def skimGroups (s : State) (reach : Bool) : List (List Nat) := if reach then drainGroups s else (activeCells s).map fun c => [c]

/-- The candidates a cell forms over its part of row `r`: element `c` carries index `base + c` (R293, R301). -/
def skimCands (s : State) (ty src stride n cell base r : Nat) : List Cand :=
  (List.range n).map fun c =>
    { score := sramNat s cell (src + 64 * stride * r + scoreBytes ty * c) (scoreBytes ty), index := base + c, node := keyNode s,
      source := 64 + cell, position := base + c }

/-- Write the output of one row: the 64 index slots, the count, and where asked the candidate list (R302). -/
def putSkim (cell idx cnt : Nat) (recs : Option Nat) (smaller : Bool) (ty r : Nat) (best : List Cand) (s : State) : State :=
  let slots := (List.range 64).flatMap fun i => natLE 4 (match best[i]? with | some c => c.index | none => 0xFFFFFFFF)
  let s := sramPut cell (idx + 256 * r) slots s
  let s := sramPut cell (cnt + r) (natLE 1 best.length) s
  match recs with
  | some a => sramPut cell (a + 2112 * r) (candList smaller ty best) s
  | none => s

/-- SKIM (Table 12-2, R301, R302): a group is one cell at reach 0, and the drain cells of a partition at reach 1, whose first cell takes the
output. -/
def skimBody (d : Bytes) (s : State) : OpRes :=
  let f := field d 1 1
  let reach := bitOf f 5
  let ty := bitsOf f 3 2
  let smaller := bitOf f 1
  let k := field d 2 1
  let rows := field d 4 2
  let n := field d 6 2
  let stride := field d 8 2
  let src := field d 12 4 % 2 ^ 21
  let recs := if bitOf f 4 then some (field d 24 4 % 2 ^ 21) else none
  let groups := skimGroups s reach
  let s := bump 0x3301 1 s
  opEach (List.range rows) (fun r s =>
    opEach groups (fun g s =>
      if g.any fun c => sramBad s c (src + 64 * stride * r) (scoreBytes ty * n) then opPoison s
      else
        let cs := (g.mapIdx fun p c => skimCands s ty src stride n c (n * p) r).flatten
        .done (putSkim (g.headD 0) (field d 16 4 % 2 ^ 21) (field d 20 4 % 2 ^ 21) recs smaller ty r (skimBest smaller ty k cs)
          (countNan ty cs s))) s) s

def skimF (d : Bytes) (s : State) : State := runOp 0x30 d (fun _ s => skimBody d s) s

def execSkim (d : Bytes) (s : State) : Res := finish s (skimF d s)

/-- MERGE (Table 12-3, R297, R303): a list outside the class's area or one that breaks its layout ends the job with Job Fault. -/
def mergeBody (j : Job) (d : Bytes) (s : State) : OpRes :=
  let f := field d 1 1
  let dedup := bitOf f 4
  let ty := bitsOf f 3 2
  let smaller := bitOf f 1
  let k := field d 2 1
  let nl := field d 3 1
  let cell := field d 4 1
  let tab := field d 8 4 % 2 ^ 21
  let out := field d 12 4 % 2 ^ 21
  let s := bump 0x3301 2 s
  if !cellIn s cell then opFault s
  else if sramBad s cell tab (4 * nl) then opPoison s
  else
    let offs := (List.range nl).map fun i => sramNat s cell (tab + 4 * i) 4
    if offs.any fun o => o % 64 != 0 || !inArea s j.basket.cls o 64 then opFault s
    else if offs.any fun o => sramBad s cell o 64 then opPoison s
    else
      let lens := offs.map fun o => 64 + 32 * min 64 (sramNat s cell o 2)
      if (offs.zip lens).any fun x => !inArea s j.basket.cls x.1 x.2 then opFault s
      else if (offs.zip lens).any fun x => sramBad s cell x.1 x.2 then opPoison s
      else
        let lists := (offs.zip lens).map fun x => parseList smaller ty (sramRead s cell x.1 x.2)
        if lists.any (·.isNone) then opFault s
        else
          let cs := (lists.filterMap id).flatten
          let s := countNan ty cs s
          let s := if dedup then bumpBy 0x3301 5 (dedupCount smaller ty cs) s else s
          .done (sramPut cell out (candList smaller ty (mergeBest smaller ty k dedup cs)) s)

def mergeF (d : Bytes) (s : State) : State := runOp 0x31 d (fun j s => mergeBody j d s) s

def execMerge (d : Bytes) (s : State) : Res := finish s (mergeF d s)

/-- Copy one 4-byte word with its poison. -/
def copyWord (c off d dst : Nat) (s : State) : State := sramCopy c off d dst 4 s

/-- GATHER (Table 12-4, R305): a value is copied, not consumed; an index is consumed, and one beyond the row ends the job with Job
Fault. -/
def gatherBody (d : Bytes) (s : State) : OpRes :=
  let reach := bitOf (field d 1 1) 0
  let k := field d 2 1
  let rows := field d 4 2
  let n := field d 6 2
  let stride := field d 8 2
  let idx := field d 12 4 % 2 ^ 21
  let src := field d 16 4 % 2 ^ 21
  let dst := field d 20 4 % 2 ^ 21
  let fill := natLE 4 (field d 28 4)
  let groups := skimGroups s reach
  let s := bump 0x3301 3 s
  opEach (List.range rows) (fun r s =>
    opEach groups (fun g s =>
      let home := g.headD 0
      if sramBad s home (idx + 256 * r) (4 * k) then opPoison s
      else opEach (List.range k) (fun i s =>
        let x := sramNat s home (idx + 256 * r + 4 * i) 4
        let at_ := dst + 256 * r + 4 * i
        if x == 0xFFFFFFFF then .done (sramPut home at_ fill s)
        else if decide (n * g.length ≤ x) then opFault s
        else .done (copyWord (g.getD (x / max 1 n) 0) (src + 64 * stride * r + 4 * (x % max 1 n)) home at_ s)) s) s) s

def gatherF (d : Bytes) (s : State) : State := runOp 0x32 d (fun _ s => gatherBody d s) s

def execGather (d : Bytes) (s : State) : Res := finish s (gatherF d s)

end Sys2Proof.Machine
end

