-- ==== Sys2Proof/Machine/TileOps.lean ====
section
/-! DEFINITION. Tile frames and the moving operations of jobs: TILE_LOAD, TILE_STORE, MESH_MOVE and OUT_WRITE (R231, R237, R346). -/

namespace Sys2Proof.Machine

open Sys2Proof

/-! ### Frames (Tables 7-2, 7-3, R163, R164) -/

/-- The BF16 body of a microscaling tile (R237). -/
def mxBody (t : Tile) : Bytes :=
  (List.range 4096).flatMap fun i =>
    let v := if t.format == 8 then bodyElem 2 t.body 0 i else (memByte t.body i).toNat
    natLE 2 (mxToBf16 t.format (memByte t.scale (i / 64 * 2 + i % 64 / 32)).toNat v)

/-- Is a format a microscaling one? -/
def isMx (f : Nat) : Bool := decide (6 ≤ f) && decide (f ≤ 9)

/-- The frame of a tile in T0: a microscaling tile arrives as BF16 without scales (R237). -/
def frameBytes (t : Tile) : Bytes :=
  if isMx t.format then
    let b := mxBody t
    headerBytes t 5 (tileFlags t &&& 5) [] b ++ b
  else
    let b := memRead t.body 0 (bodyBytes t.format)
    headerBytes t t.format (tileFlags t) (memRead t.scale 0 128) b ++ b

/-- Bytes of the frame of a format in T0. -/
def frameLen (f : Nat) : Nat := 256 + (if isMx f then 8192 else bodyBytes f)

/-! ### Waiting for a tier (R166, R185, R186, R231) -/

/-- The operation ends its job with Tier Error, naming the tier and for T3 the node (Table 3-6). -/
def opTier (tier node : Nat) (s : State) : OpRes := .fail stTierError (some (tier + (if tier == 3 then node * 2 ^ 16 else 0))) s

/-- May T3 be reached: the system is ready (R389) and the node is neither unavailable nor lost (R186)? -/
def t3Open (s : State) (node : Nat) : Bool := s.wyv.systemReady && !nodeDown s node

/-- Is a tile on another node, with no copy here? -/
def tileAway (s : State) (t : Tile) : Bool := t.node != ownNode s && !t.replicas.contains (ownNode s) && !t.inT1

/-- Issue an access to the frame of a tile on another node, in messages of at most 4,096 bytes (R369). The frame's address there is the
device's own: a free value (DESIGN CHOICE, assumption 24). -/
def issueFrame (node mtype fn : Nat) (express : Bool) (len : Nat) (data : Bytes) (bad : Bool) (who : SyncWho)
    (tile : Nat × Nat) (s : State) : State :=
  let base := freshNat s
  (List.range (ceilDiv len 4096)).foldl (fun s i =>
    let n := min 4096 (len - 4096 * i)
    issueRequest node mtype 0 (base + 4096 * i) fn express n ((data.drop (4096 * i)).take n)
      (if bad then 2 ^ 64 - 1 else 0) who (some tile) (4096 * i) s) (drew s)

/-- Bring the tiles of an operation within reach: a tile in T2 starts its fetch, a tile of another node is read over the fabric, and an unreachable one ends the job with Tier Error. -/
def bringTiles (fn : Nat) (express : Bool) (object : Nat) (idx : List Nat) (go : State → OpRes) (s : State) : OpRes :=
  let ts := idx.map (tileOf s object)
  let away := ts.filter (tileAway s)
  match away.find? fun t => !t3Open s t.node with
  | some t => opTier 3 t.node s
  | none =>
    if away != [] then
      .wait (away.foldl (fun s t =>
        issueFrame t.node msgRead fn express (256 + bodyBytes t.format) [] false .stream (object, t.index) s) s)
    else
      let cold := ts.filter needsFetch
      if cold != [] then .wait (cold.foldl (fun s t => startFetch object t.index s) s) else go s

/-- A copy read from another node has been used: the next access reads it again. -/
def dropAway (object : Nat) (idx : List Nat) (s : State) : State :=
  idx.foldl (fun s i =>
    let t := tileOf s object i
    if t.node != ownNode s && !t.replicas.contains (ownNode s) && t.inT1 then putTile { t with inT1 := false } s else s) s

/-! ### TILE_LOAD and TILE_STORE (Table 14-10, R346) -/

/-- The moves of a tile operation: cell, SRAM address of its first frame, first tile. -/
def tileMoves (s : State) (d : Bytes) : List (Nat × Nat) :=
  let n := field d 2 2
  let first := field d 4 4
  if bitOf (field d 10 1) 0 then (activeCells s).map fun c => (c, first + n * c) else [(field d 8 1, first)]

/-- The object a tile operation names, with its size, where its slot is one of tiles. -/
def tileTarget (s : State) (j : Job) (d : Bytes) : Option PObj :=
  match jobSlot j (field d 1 1) with
  | some (sl, id) => if slotKind sl == 0 then findObj s id else none
  | none => none

/-- Put one tile's frame into a cell: poison travels with its body (R192); a poisoned microscaling tile is consumed by its conversion. -/
def loadFrame (cell addr : Nat) (t : Tile) (s : State) : OpRes :=
  if t.poison && isMx t.format then .fail stPoisonedInput (some 1) s
  else
    let fr := frameBytes t
    let s := sramPut cell addr fr s
    let s := if t.poison then sramPoison cell (addr + 256) (fr.length - 256) s else s
    .done (if isMx t.format then bump 0x3101 4 s else s)

/-- TILE_LOAD: frames one after another at the SRAM address (R237, R346). -/
def tileLoadBody (j : Job) (d : Bytes) (s : State) : OpRes :=
  let n := field d 2 2
  let addr := field d 12 4 % 2 ^ 21
  let mv := tileMoves s d
  match tileTarget s j d with
  | none => opFault s
  | some o =>
    if mv.any fun m => !cellIn s m.1 || decide (o.size < m.2 + n) then opFault s
    else
      let idx := mv.flatMap fun m => (List.range n).map (m.2 + ·)
      bringTiles j.fn j.express o.id idx (fun s =>
        opBind (opEach (mv.flatMap fun m => (List.range n).map fun i => (m.1, i, m.2 + i)) (fun x s =>
          let t := tileOf s o.id x.2.2
          opBind (loadFrame x.1 (addr + x.2.1 * frameLen t.format) t s) fun s => .done (putTile { t with used := s.time } s)) s)
          fun s => .done (dropAway o.id idx s)) s

def tileLoadF (d : Bytes) (s : State) : State := runOp 0x50 d (fun j s => tileLoadBody j d s) s

def execTileLoad (d : Bytes) (s : State) : Res := finish s (tileLoadF d s)

/-- Is a frame one TILE_STORE may write: the object's format, 00h to 05h, valid_rows and valid_cols from 1 to 64, and no reserved flag
(R346)? -/
def frameOk (o : PObj) (h : Bytes) : Bool :=
  field h 0 1 == o.format && decide (o.format ≤ 5) && decide (1 ≤ field h 1 1) && decide (field h 1 1 ≤ 64) &&
  decide (1 ≤ field h 2 1) && decide (field h 2 1 ≤ 64) && decide (field h 3 1 < 16)

/-- Write one tile from its frame (R167, R192, R346); on another node, as a Write of the frame. -/
def storeFrame (j : Job) (o : PObj) (cell addr tile : Nat) (s : State) : OpRes :=
  if sramBad s cell (addr + 12) 4 then opPoison s
  else
    let h := sramRead s cell (addr + 12) 4
    if !frameOk o h then opFault s
    else
      let n := bodyBytes o.format
      let t := tileOf s o.id tile
      if t.node != ownNode s then
        if t3Open s t.node then
          .done (issueFrame t.node msgWrite j.fn j.express (256 + n) (sramRead s cell addr (256 + n))
            (sramBad s cell (addr + 128) (128 + n)) .stream (o.id, tile) s)
        else opTier 3 t.node s
      else
        let bad := sramBad s cell (addr + 128) (128 + n)
        .done (tileWrite j.fn o.id tile true (fun t => { t with
          format := o.format
          rows := field h 1 1
          cols := field h 2 1
          flags := field h 3 1 &&& 0x0C
          scale := memOf (sramRead s cell (addr + 128) 128)
          body := memOf (sramRead s cell (addr + 256) n) }) s |> fun s =>
          if bad then putTile { tileOf s o.id tile with poison := true } s else s)

/-- TILE_STORE: whole tiles in order; one that may not be written ends the job with the earlier ones written (R346). A tile that an audited
command holds makes it wait (R402). -/
def tileStoreBody (j : Job) (d : Bytes) (s : State) : OpRes :=
  let n := field d 2 2
  let addr := field d 12 4 % 2 ^ 21
  let mv := tileMoves s d
  match tileTarget s j d with
  | none => opFault s
  | some o =>
    if mv.any fun m => !cellIn s m.1 || decide (o.size < m.2 + n) then opFault s
    else if auditHeld s j.id 0 o.id then .wait (holdWrite s)
    else
      let local' := (mv.flatMap fun m => (List.range n).map (m.2 + ·)).filter fun i => (tileOf s o.id i).node == ownNode s
      if local'.any fun i => (tileOf s o.id i).held then .wait s
      else bringTiles j.fn j.express o.id local' (fun s =>
        opBind (opEach (mv.flatMap fun m => (List.range n).map fun i => (m.1, i, m.2 + i)) (fun x s =>
          storeFrame j o x.1 (addr + x.2.1 * frameLen o.format) x.2.2 s) s)
          fun s => if streamBusy s then .wait s else .done s) s

def tileStoreF (d : Bytes) (s : State) : State := runOp 0x51 d (fun j s => tileStoreBody j d s) s

def execTileStore (d : Bytes) (s : State) : Res := finish s (tileStoreF d s)

/-! ### MESH_MOVE and OUT_WRITE -/

/-- MESH_MOVE: bytes of one cell to another, with their poison (R192, R344). -/
def meshMoveF (d : Bytes) (s : State) : State :=
  runOp 0x52 d (fun _ s =>
    let a := field d 8 1
    let b := field d 9 1
    if !cellIn s a || !cellIn s b then opFault s
    else .done (sramCopy a (field d 16 4 % 2 ^ 21) b (field d 12 4 % 2 ^ 21) (field d 20 4) s)) s

def execMeshMove (d : Bytes) (s : State) : Res := finish s (meshMoveF d s)

/-- OUT_WRITE: bytes of a cell into the job's output, with their poison; a later write stands over an earlier one (R346). -/
def outWriteF (d : Bytes) (s : State) : State :=
  runOp 0x58 d (fun j s =>
    let c := field d 8 1
    let off := field d 12 4 % 2 ^ 21
    let n := field d 20 4
    let out := field d 4 4
    if !cellIn s c then opFault s
    else
      let bs := sramRead s c off n
      let ps := memRead s.arr.poison (sramKey c off) n
      .done (modJob j.id (fun j => { j with
        output := memWrite j.output out bs
        outPoison := memWrite j.outPoison out ps }) s)) s

def execOutWrite (d : Bytes) (s : State) : Res := finish s (outWriteF d s)

end Sys2Proof.Machine
end

