-- ==== Sys2Proof/Machine/Sync.lean ====
section
/-! DEFINITION. Synchronisation objects (R332, R333, R337 to R339, R354, R361, R385): their operations at the home, waiters, and the
WAIT and SIGNAL operations of the stream. -/

namespace Sys2Proof.Machine

open Sys2Proof

/-! ### Threads -/

/-- Change a thread of the job that owns the array. -/
def modThread (t : ThreadId) (f : Thread → Thread) (s : State) : State :=
  modJobs (fun r => { r with threads := updWhere (·.id == t) f r.threads }) s

/-- A thread of the job that owns the array. -/
def findThread (s : State) (t : ThreadId) : Option Thread := s.jobs.threads.find? (·.id == t)

/-- A thread that may issue: its job runs, and it waits on nothing (R329). -/
def readyThread (s : State) (t : ThreadId) : Option (Job × Thread) :=
  match ownerJob s, findThread s t with
  | some j, some x => if j.st == 2 && !x.wait then some (j, x) else none
  | _, _ => none

/-- An access of a thread has completed with a value. -/
def threadDone (t : ThreadId) (v : Nat) (s : State) : State :=
  modThread t (fun x => { x with wait := false, result := v }) s

/-! ### Handles and objects -/

/-- The home a sync handle names: 7FFFh is the node that runs the job. -/
def syncHome (s : State) (h : Nat) : Nat := let n := h / 65536 % 32768; if n == 0x7FFF then ownNode s else n

/-- The kind an operation of Table 14-4 acts on. -/
def syncKind (code : Nat) : Nat := if code ≤ 1 then 0 else if code ≤ 4 then 1 else if code ≤ 6 then 2 else 3

/-- Is an operation's operand in range (n is 1 to 65,535)? -/
def syncOperandOk (code n : Nat) : Bool := if code ≤ 1 then decide (1 ≤ n) && decide (n ≤ 65535) else true

/-- Advance a barrier whose participants have all arrived and whose release instant has come (R337, R385). -/
def advanceBarrier (now : Nat) (o : SyncObj) : SyncObj :=
  if o.kind == 2 && decide (o.parts ≤ o.value) && decide (o.release ≤ now) then
    { o with value := o.value - o.parts, gen := (o.gen + 1) % 2 ^ 32 }
  else o

/-- What an operation does to the object at once: the object, and the value returned; none where it must wait; `Except.error` where it
ends the job (Table 14-4). -/
def applySync (now code a b : Nat) (o : SyncObj) : Except Unit (Option (SyncObj × Nat)) :=
  match code with
  | 0 => .ok (if o.waiters == [] && decide (a ≤ o.value) then some ({ o with value := o.value - a }, 0) else none)
  | 1 => if o.value + a < 2 ^ 32 then .ok (some ({ o with value := o.value + a }, 0)) else .error ()
  | 2 => .ok (some ({ o with value := 1 }, 0))
  | 3 => .ok (some ({ o with value := 0 }, 0))
  | 4 => .ok (if o.value == 1 then some (o, 0) else none)
  | 5 => .ok (some (advanceBarrier now { o with value := o.value + 1 }, o.gen))
  | 6 => .ok (if o.gen != a then some (o, o.gen) else none)
  | 7 => .ok (some ({ o with value := (o.value + a) % 2 ^ 64 }, o.value))
  | 8 => .ok (some (o, o.value))
  | 9 => .ok (if a ≤ o.value then some (o, o.value) else none)
  | _ => .ok (some (if o.value == a then { o with value := b } else o, o.value))

/-- Write the returned value of a WAIT or SIGNAL in logical cell 0, unless its address is FFFF_FFFFh (Table 14-10), and end the
operation. -/
def streamDone (v : Nat) (s : State) : State :=
  match ownerJob s with
  | none => s
  | some j =>
    let d := j.basket.ops.getD j.pos []
    let a := field d 12 4
    opDone j (if a == 0xFFFFFFFF then s else sramPut 0 (a % 2 ^ 21) (natLE 8 v) s)

/-- Deliver the value of a completed operation to who asked for it. -/
def syncDeliver (express : Bool) (who : SyncWho) (v : Nat) (s : State) : State :=
  let s := modSync (fun y => { y with results := y.results ++ [(who, v)] }) s
  match who with
  | .thread t => threadDone t v s
  | .stream => streamDone v s
  | .remote node tag fn => respond (remoteSync s node tag fn express) 0 (natLE 8 v ++ List.replicate 56 0) 0 s

/-- Serve the waiters of an object. -/
def syncServe (no : Nat) (s : State) : State :=
  match findSync s no with
  | none => s
  | some o =>
    let (o', done) := serveObj o
    done.foldl (fun s x => syncDeliver o.express x.1 x.2 s) (modSyncObj no (fun _ => o') s)

/-- End the job, or answer the node, whose operation may not be performed (Table 15-6: 1 invalid target, 2 refused by isolation). -/
def syncRefuse (who : SyncWho) (status : Nat) (express : Bool) (s : State) : State :=
  match who with
  | .remote node tag fn => respond (remoteSync s node tag fn express) status [] 0 s
  | _ => endOwner stJobFault none s

/-- The function that an operation is done for. -/
def syncFn (s : State) (who : SyncWho) : Nat :=
  match who with | .remote _ _ fn => fn | _ => (match ownerJob s with | some j => j.fn | none => 0)

/-- Forward an operation on an object that the twin homes; one that comes from the twin goes no further (R181, R337). -/
def syncTwin (who : SyncWho) (code h a b : Nat) (o : SyncObj) (s : State) : State :=
  let fromThere := match who with | .remote node _ _ => node == ownNode s | _ => false
  if fromThere then syncRefuse who 1 o.express s
  else
    let s := match who with | .thread t => modThread t (fun x => { x with wait := true }) s | _ => s
    issueTwin msgSync code h (syncFn s who) o.express 64 (natLE 8 a ++ natLE 8 b ++ List.replicate 48 0) 0 who none s

/-- Perform an operation at this home (R337). -/
def syncAtHome (who : SyncWho) (code h a b : Nat) (s : State) : State :=
  match findSync s (h % 65536) with
  | none => syncRefuse who 1 false s
  | some o =>
    let allowed := match who with | .remote _ _ fn => granted o.grants fn | _ => true
    if !o.homed then syncTwin who code h a b o s
    else if !allowed then syncRefuse who 2 o.express s
    else if o.kind != syncKind code || !syncOperandOk code a then syncRefuse who 1 o.express s
    else match applySync s.time code a b o with
      | .error _ => syncRefuse who 1 o.express s
      | .ok (some (o', v)) => syncServe o.no (syncDeliver o.express who v (modSyncObj o.no (fun _ => o') s))
      | .ok none =>
        let s := modSyncObj o.no (fun o => { o with waiters := o.waiters ++ [{ who := who, op := code, n := a }] }) s
        match who with
        | .thread t => modThread t (fun x => { x with wait := true }) s
        | _ => s

/-- Send an operation to another node that is its home (Table 15-5 type 04h). -/
def syncAway (who : SyncWho) (j : Job) (code h a b : Nat) (s : State) : State :=
  let home := syncHome s h
  if !nodeNamed s home then endOwner stJobFault none s
  else if !t3Open s home then endOwner stTierError (some (3 + home * 2 ^ 16)) s
  else
    let s := match who with | .thread t => modThread t (fun x => { x with wait := true }) s | _ => s
    issueRequest home msgSync code h j.fn j.express 64 (natLE 8 a ++ natLE 8 b ++ List.replicate 48 0) 0 who none 0 s

/-- Is a handle in the sync table of a job's basket (Table 14-2)? -/
def inSyncTable (j : Job) (h : Nat) : Bool := j.basket.sync.any fun e => field e 0 4 == h

/-- Does an operation release, or may it, so that it waits for its thread's stores (R332)? -/
def releases (code : Nat) : Bool := code == 1 || code == 2 || code == 5 || code == 7 || code == 10

/-- A request of another node is acted on once: a repeat of a kept tag has its kept Response sent again, one of a request that waits is dropped, and an
unavailable node answers Unavailable (R186, R378). -/
def syncOnce (node tag fn : Nat) (serve : State → State) (s : State) : State :=
  match s.wyv.keptResp.find? fun k => k.1 == node && k.2.1 == tag with
  | some k => let s := bump 0x4002 6 s; if node == ownNode s then sendTwin k.2.2 s else sendMsg k.2.2 s
  | none =>
    if s.sync.objs.any fun o => o.waiters.any fun w => w.who == .remote node tag fn then s
    else if selfDown s then respond (remoteSync s node tag fn false) 3 [] 0 s
    else serve s

/-- A synchronisation operation of a thread, or of another node at this home; the stream asks only through WAIT and SIGNAL. A release
takes effect once the stores of its thread have completed. -/
def syncOp (who : SyncWho) (code h a b : Nat) (s : State) : State :=
  match who with
  | .stream => s
  | .remote node tag fn => if syncHome s h == ownNode s then syncOnce node tag fn (syncAtHome who code h a b) s else s
  | .thread t =>
    match readyThread s t with
    | none => s
    | some (j, x) =>
      if releases code && x.stores != 0 then s
      else if !inSyncTable j h then endOwner stJobFault none s
      else if syncHome s h == ownNode s then syncAtHome who code h a b s
      else syncAway who j code h a b s

def acquireF (w : SyncWho) (h n : Nat) (s : State) : State := syncOp w 0 h n 0 s
def execAcquire (w : SyncWho) (h n : Nat) (s : State) : Res := finish s (mirrorSync s.sync.objs (acquireF w h n s))
def releaseF (w : SyncWho) (h n : Nat) (s : State) : State := syncOp w 1 h n 0 s
def execRelease (w : SyncWho) (h n : Nat) (s : State) : Res := finish s (mirrorSync s.sync.objs (releaseF w h n s))
def setF (w : SyncWho) (h : Nat) (s : State) : State := syncOp w 2 h 0 0 s
def execSet (w : SyncWho) (h : Nat) (s : State) : Res := finish s (mirrorSync s.sync.objs (setF w h s))
def clearF (w : SyncWho) (h : Nat) (s : State) : State := syncOp w 3 h 0 0 s
def execClear (w : SyncWho) (h : Nat) (s : State) : Res := finish s (mirrorSync s.sync.objs (clearF w h s))
def waitF (w : SyncWho) (h : Nat) (s : State) : State := syncOp w 4 h 0 0 s
def execWait (w : SyncWho) (h : Nat) (s : State) : Res := finish s (mirrorSync s.sync.objs (waitF w h s))
def arriveF (w : SyncWho) (h : Nat) (s : State) : State := syncOp w 5 h 0 0 s
def execArrive (w : SyncWho) (h : Nat) (s : State) : Res := finish s (mirrorSync s.sync.objs (arriveF w h s))
def awaitF (w : SyncWho) (h g : Nat) (s : State) : State := syncOp w 6 h g 0 s
def execAwait (w : SyncWho) (h g : Nat) (s : State) : Res := finish s (mirrorSync s.sync.objs (awaitF w h g s))
def addF (w : SyncWho) (h v : Nat) (s : State) : State := syncOp w 7 h v 0 s
def execAdd (w : SyncWho) (h v : Nat) (s : State) : Res := finish s (mirrorSync s.sync.objs (addF w h v s))
def syncReadF (w : SyncWho) (h : Nat) (s : State) : State := syncOp w 8 h 0 0 s
def execSyncRead (w : SyncWho) (h : Nat) (s : State) : Res := finish s (mirrorSync s.sync.objs (syncReadF w h s))
def waitGeF (w : SyncWho) (h v : Nat) (s : State) : State := syncOp w 9 h v 0 s
def execWaitGe (w : SyncWho) (h v : Nat) (s : State) : Res := finish s (mirrorSync s.sync.objs (waitGeF w h v s))
def casF (w : SyncWho) (h a b : Nat) (s : State) : State := syncOp w 10 h a b s
def execCas (w : SyncWho) (h a b : Nat) (s : State) : Res := finish s (mirrorSync s.sync.objs (casF w h a b s))

/-! ### WAIT, SIGNAL, cancel and release instant -/

/-- A WAIT or SIGNAL of the stream (Table 14-10, R336): every earlier operation has completed. -/
def streamSync (j : Job) (d : Bytes) (s : State) : OpRes :=
  let e := j.basket.sync.getD (field d 2 2) []
  let h := field e 0 4
  let code := field d 1 1
  let a := field d 16 8
  let b := field d 24 8
  if syncHome s h == ownNode s then .wait (syncAtHome .stream code h a b s)
  else .wait (syncAway .stream j code h a b s)

/-- WAIT_OPERATION: acquires; no later operation issues until it completes (R333, R336). -/
def waitOperationF (d : Bytes) (s : State) : State := runOp 0x60 d (fun j s => streamSync j d s) s

def execWaitOperation (d : Bytes) (s : State) : Res := finish s (mirrorSync s.sync.objs (waitOperationF d s))

/-- SIGNAL: releases on behalf of every earlier operation (R336). -/
def signalF (d : Bytes) (s : State) : State := runOp 0x61 d (fun j s => streamSync j d s) s

def execSignal (d : Bytes) (s : State) : Res := finish s (mirrorSync s.sync.objs (signalF d s))

/-- SYNC_CANCEL: a waiting operation is withdrawn at its home, unless it was satisfied first (R354). Later waiters that it held back may
then proceed. -/
def syncCancelF (w : SyncWho) (h : Nat) (s : State) : State :=
  match findSync s (h % 65536) with
  | none => s
  | some o =>
    if o.homed && syncHome s h == ownNode s && o.waiters.any (·.who == w) then
      let s := modSyncObj o.no (fun o => { o with waiters := o.waiters.filter (·.who != w) }) s
      let s := match w with
        | .thread t => modThread t (fun x => { x with wait := false }) s
        | .stream => s
        | .remote node tag fn => respond (remoteSync s node tag fn o.express) 5 [] 0 s
      syncServe o.no s
    else s

def execSyncCancel (w : SyncWho) (h : Nat) (s : State) : Res := finish s (mirrorSync s.sync.objs (syncCancelF w h s))

/-- BARRIER_RELEASE_INSTANT: a barrier whose last arrival came before its instant advances at it, and its waiters release (R385). -/
def barrierReleaseInstantF (h : Nat) (s : State) : State :=
  let no := h % 65536
  match findSync s no with
  | some o =>
    if o.kind == 2 && o.homed && syncHome s h == ownNode s then syncServe no (modSyncObj no (advanceBarrier s.time) s) else s
  | none => s

def execBarrierReleaseInstant (h : Nat) (s : State) : Res := finish s (mirrorSync s.sync.objs (barrierReleaseInstantF h s))

/-! ### SyncControl (R361) -/

/-- The check of SYNC_CREATE: a kind, class and value in range, and a number that is free. -/
def syncCreateCheck (no kind cls v : Nat) (s : State) : Nat × Nat :=
  if decide (3 < kind) then (0x26, 2)
  else if decide (1 < cls) then (0x26, 3)
  else if (kind == 0 && decide (2 ^ 32 ≤ v)) || (kind == 1 && decide (1 < v)) ||
      (kind == 2 && (v == 0 || decide (65535 < v))) then (0x26, 4)
  else if (findSync s no).isSome then (0x27, 6)
  else (0, 0)

def execSyncCreate (s : State) : Res :=
  let no := obj s 0x3601 1
  let kind := obj s 0x3601 2
  let cls := obj s 0x3601 3
  let v := obj s 0x3601 4
  let o : SyncObj := { no := no, kind := kind, express := cls == 1, value := if kind == 2 then 0 else v, gen := 0,
                       parts := if kind == 2 then v else 0, grants := obj s 0x3601 5,
                       release := if kind == 2 then obj s 0x3601 7 else 0, waiters := [], homed := true, mirrored := false }
  finish s (runAction (syncCreateCheck no kind cls v s) (fun s => mirrorSync s.sync.objs (modSync (fun y => { y with objs := y.objs ++ [o] }) s)) s)

/-- Is an object homed here? One that the twin homes is created, deleted and signalled there. -/
def homedSync (s : State) (no : Nat) : Bool := match findSync s no with | some o => o.homed | none => false

/-- Delete an object: its waiters end with Job Fault (R338). -/
def syncDelete (no : Nat) (s : State) : State :=
  match findSync s no with
  | none => s
  | some o =>
    let s := modSync (fun y => { y with objs := y.objs.filter (·.no != no) }) s
    o.waiters.foldl (fun s w => syncRefuse w.who 1 o.express s) s

def execSyncDelete (s : State) : Res :=
  let no := obj s 0x3601 1
  finish s (runAction (if homedSync s no then (0, 0) else (0x27, 6)) (fun s => mirrorSync s.sync.objs (syncDelete no s)) s)

/-- The operation action 3 applies to a kind: RELEASE, SET, ARRIVE or ADD. -/
def signalCode (kind : Nat) : Nat := match kind with | 0 => 1 | 1 => 2 | 2 => 5 | _ => 7

/-- The check of SYNC_SIGNAL: the object is there, and a RELEASE keeps its range. -/
def syncSignalCheck (no v : Nat) (s : State) : Nat × Nat :=
  match findSync s no with
  | none => (0x27, 6)
  | some o =>
    if !o.homed then (0x27, 6)
    else if o.kind == 0 && (v == 0 || decide (65535 < v)) then (0x26, 4)
    else if o.kind == 0 && decide (2 ^ 32 ≤ o.value + v) then (0x27, 6)
    else (0, 0)

/-- Apply action 3. -/
def syncSignal (no v : Nat) (s : State) : State :=
  match findSync s no with
  | none => s
  | some o =>
    match applySync s.time (signalCode o.kind) v 0 o with
    | .ok (some (o', _)) => syncServe no (modSyncObj no (fun _ => o') s)
    | _ => s

def execSyncSignal (s : State) : Res :=
  let no := obj s 0x3601 1
  let v := obj s 0x3601 4
  finish s (runAction (syncSignalCheck no v s) (fun s => mirrorSync s.sync.objs (syncSignal no v s)) s)

end Sys2Proof.Machine
end

