-- ==== Sys2Proof/Machine/Store.lean ====
section
/-! DEFINITION. The gate every basket command
passes first (R30, R60, R61, R66, R75, R397). -/

namespace Sys2Proof.Machine

open Sys2Proof

/-! ### The gate of basket commands -/

/-- Opcodes of Table 3-4. -/
def opReadResult : Nat := 0x82
def opRunJob : Nat := 0x85
def opQuery : Nat := 0x89
def opIngest : Nat := 0x8D
def opUpdate : Nat := 0x91
def opGather : Nat := 0x94

/-- Is the result region aligned and within one 4 KiB page (R61)? -/
def regionOk (addr len : Nat) : Bool := addr % 64 == 0 && decide (addr % 4096 + len ≤ 4096)

/-- The address of the result region. -/
def resultAddr (e : Sqe) : Nat := e.cdw12 + e.cdw13 * 2 ^ 32

/-- Bits of CDW11. -/
def wantsDigest (e : Sqe) : Bool := bitOf e.cdw11 0
def wantsExpress (e : Sqe) : Bool := bitOf e.cdw11 1

/-- Does an entry keep Table 3-3 and R61: no reserved bit, nsid 0, a digest only where one may be asked, and for a command with a result
region its place? -/
def entryOk (e : Sqe) (digest : Bool) (region : Option Nat) : Bool :=
  !e.rsvd && decide (e.psdt ≤ 1) && e.fuse == 0 && e.nsid == 0 && e.cdw4 == 0 && decide (e.cdw11 < 4) &&
  (digest || !wantsDigest e) && (match region with | some n => regionOk (resultAddr e) n | none => true)

/-- The gate: a command of a block queue is of the wrong set (R50); in Basic mode and before compute readiness it completes at once (R75,
Table 3-6); while a Sanitize is under way it is not carried out (R158; DEDUCED, assumption 44); while deterministic mode changes it is held before admission
(R397); an entry that breaks Table 3-3 is an Invalid Field. The
rest is the command's own, and is given the started record. -/
def basketCmd (e : Sqe) (opc : Nat) (digest : Bool) (region : Option Nat) (body : Inflight → State → State) (s : State) : State :=
  match startable e opc s with
  | none => s
  | some x =>
    if !isCompute s e.fn e.sq then answer e stInvalidOpcode 0 0 (startCmd e s)
    else if basicMode s then endCmd e stBasicMode 0 (startCmd e s)
    else if !computeReady s || s.wyv.rejoining then endCmd e stComputeNotReady 0 (startCmd e s)
    else if s.blk.sanitize.isSome then endCmd e stSanitizeInProgress 0 (startCmd e s)
    else if s.jobs.detNew.isSome then s
    else if !entryOk e digest region || (wantsExpress e && obj s (fnIdx e.fn) 3 == 0) then endCmd e stInvalidField 0 (startCmd e s)
    else body (startedRec e x) (startCmd e s)

end Sys2Proof.Machine
end

