-- ==== Sys2Proof/Machine/Load.lean ====
section
/-! DEFINITION. The load check of a basket (R226, R230, R340, R341, Tables 14-5 to 14-10): its sections, its operations one by one, its
regions, its worst-case times, and LOAD_BASKET and BASKET_UNLOAD. -/

namespace Sys2Proof.Machine

open Sys2Proof

/-! ### The image (Tables 14-5 and 14-6) -/

/-- The sections of an image, as (offset, length): code, operations, Rennet configuration, slots, sync table. -/
def sections (b : Bytes) : List (Nat × Nat) :=
  [(field b 32 4, field b 36 4), (field b 40 4, 32 * field b 44 4), (field b 48 4, field b 52 4),
   (field b 56 4, 16 * field b 60 1), (field b 64 4, 8 * field b 62 2)]

/-- No two sections of a list overlap. -/
def disjointAll : List (Nat × Nat) → Bool
  | [] => true
  | x :: l => l.all (fun y => decide (x.1 + x.2 ≤ y.1) || decide (y.1 + y.2 ≤ x.1)) && disjointAll l

/-- Reason 01h: header fields in range, reserved bytes zero, sections aligned, inside the image and disjoint. A section of length 0 lies
nowhere. -/
def headerOk (b : Bytes) (len : Nat) : Bool :=
  let secs := (sections b).filter (·.2 != 0)
  decide (128 ≤ len) && field b 0 2 == 1 && decide (field b 2 1 ≤ 2) && field b 3 1 == 0 && decide (field b 4 2 ≤ 64) &&
  decide (field b 6 1 ≤ 16) && field b 7 1 == 0 && field b 16 8 % 65536 == 0 &&
  decide (field b 24 4 ≤ 2 ^ 28) && !(field b 2 1 == 2 && field b 24 4 != 0) && field b 28 4 == 0 &&
  decide (1 ≤ field b 44 4) && decide (field b 44 4 ≤ 2 ^ 20) &&
  decide (field b 52 4 ≤ 2 ^ 22) && decide (field b 60 1 ≤ 64) && field b 61 1 == 0 && decide (field b 62 2 ≤ 256) &&
  field b 68 28 == 0 &&
  secs.all (fun x => x.1 % 64 == 0 && decide (128 ≤ x.1) && decide (x.1 + x.2 ≤ len)) && disjointAll secs

/-- Cut a byte string into pieces of `n` bytes; `k` of them. -/
def cut (n : Nat) : Nat → Bytes → List Bytes
  | 0, _ => []
  | k + 1, b => b.take n :: cut n k (b.drop n)

/-- Bytes of data one copy of a Rennet entry holds: none where the entry is no configuration. -/
def rennetBytes (d : Bytes) : Option Nat :=
  match field d 0 1 with
  | 0x21 => some 0
  | 0x22 => some 40
  | 0x23 => some (if bitOf (field d 1 1) 1 then 128 else 256)
  | 0x24 => some 1024
  | _ => none

/-- Copies of an entry's data: one, or one per active cell. -/
def rennetCopies (cells : Nat) (e : Bytes) : Nat := if field e 36 1 == 1 then cells else 1

/-- Bytes of an entry with its data, padded to 64. -/
def rennetLen (cells : Nat) (e : Bytes) : Nat := ceilDiv (64 + rennetCopies cells e * field e 32 4) 64 * 64

/-- The entries of a Rennet configuration; the fuel is its length. An entry that runs past the end is cut short. -/
def rennetEntries (cells : Nat) : Nat → Bytes → List Bytes
  | 0, _ => []
  | _, [] => []
  | n + 1, b => b.take (rennetLen cells b) :: rennetEntries cells n (b.drop (rennetLen cells b))

/-- The record, scales or bank an entry gives to a cell. -/
def rennetData (e : Bytes) (cell : Nat) : Bytes :=
  let n := field e 32 4
  slice e (64 + (if field e 36 1 == 1 then cell * n else 0)) n

/-! ### Forms of descriptors (reason 04h) -/

/-- Are bytes reserved, so zero? -/
def rz (d : Bytes) (a n : Nat) : Bool := field d a n == 0

/-- Is an SRAM address field in range and aligned? -/
def sramAddr (d : Bytes) (a align : Nat) : Bool := decide (field d a 4 < 2 ^ 21) && field d a 4 % align == 0

/-- A number from lo to hi. -/
def within (lo hi v : Nat) : Bool := decide (lo ≤ v) && decide (v ≤ hi)

/-- Width class of a tile format: 0 8-bit, 1 4-bit, 2 BF16. -/
def widthClass (f : Nat) : Nat := if is4bit f then 1 else if isBf16 f then 2 else 0

/-- Chain rows of a shape with every cell row in service, for the K capacity of a descriptor. -/
def fullRows (shape : Nat) : Nat := match shape with | 1 => 64 | 2 => 8 | _ => 16

/-- The form of an MMA (Table 9-7, R226) in the shape in force. -/
def mmaForm (shape : Nat) (d : Bytes) : Bool :=
  let x := parseMma d
  decide (field d 1 1 < 16) && (shape == 2 || x.parts == 0) && decide (x.af ≤ 5) && decide (x.wf ≤ 5) &&
  fmtInt x.af == fmtInt x.wf && widthClass x.af == widthClass x.wf && !(x.whey && fmtInt x.wf) &&
  !bitOf (field d 3 1) 7 && bitsOf (field d 3 1) 4 3 != 3 && x.load != 3 &&
  within 1 (if shape == 0 then 1024 else 8192) x.m && within 1 (fullRows shape * kPerRow x.wf) x.k &&
  within 1 (64 * shapeW shape) x.n && decide (field d 10 1 < 64) && rz d 11 1 && rz d 28 4 &&
  sramAddr d 12 64 && sramAddr d 16 64 && sramAddr d 20 64 && (!x.whey || sramAddr d 24 64)

/-- Is a code one of Table 10-1? -/
def fmtCode (f : Nat) : Bool := decide (f ≤ 5) || within 0x10 0x12 f

/-- Is a code FP32, FP16 or BF16? -/
def wideFmt (f : Nat) : Bool := f == 0x10 || f == 0x11 || f == 5

/-- The form of a vector descriptor (Table 14-9, R242, R245, R247, R345). -/
def vecForm (d : Bytes) : Bool :=
  let v := parseVec d
  let op := field d 0 1
  let srcRow := rowBytes v.sf v.cols
  let fits := fun (n : Nat) => decide (n ≤ 64 * v.stride)
  let common := fmtCode v.sf && within 1 8192 v.rows && within 1 16384 v.cols && decide (v.cells ≤ 1) && fits srcRow &&
    sramAddr d 12 64
  let dstRow := fits (rowBytes v.df v.cols) && decide (field d 20 4 < 2 ^ 21)
  let src2 := decide (field d 16 4 < 2 ^ 21)
  let imm := v.imm == 0
  let st := v.step == 0
  common && match op with
  | 0x40 => decide (v.func < 32) && decide (v.func % 4 ≤ 2) && fmtCode v.df && v.aux == 0 && imm && st &&
      (v.func % 4 != 0 || decide (v.rows ≤ 64)) && (v.func % 4 != 1 || decide (v.cols ≤ 64))
  | 0x41 => decide (v.func < 32) && decide (v.func % 4 ≤ 2) &&
      (if bitOf v.func 4 then decide (v.df ≤ 5) && decide (field d 20 4 < 2 ^ 21) else fmtCode v.df && dstRow) &&
      (!bitOf v.func 3 || (v.sf == 0x10 && src2)) &&
      (v.func % 4 != 0 || decide (v.rows ≤ 64)) && (v.func % 4 != 1 || decide (v.cols ≤ 64))
  | 0x42 => (v.func == 0 || v.func == 8) && v.df == 0x10 && dstRow && decide (v.aux < 16) && decide (v.imm < 65536) && st &&
      (v.func == 0 || (v.sf == 0x10 && src2)) && decide (v.rows ≤ 64) && decide (v.cols ≤ 64)
  | 0x43 => decide (v.func % 128 ≤ 4) && wideFmt v.df && dstRow && v.aux == 0 && st && (if bitOf v.func 7 then true else src2 && imm)
  | 0x44 => decide (v.func ≤ 5) && wideFmt v.df && dstRow && v.aux == 0 && imm && st
  | _ => decide (v.func < 8) && decide (v.func % 4 ≤ 2) && wideFmt v.df && v.aux == 0 && imm && st &&
      (if bitOf v.func 2 then dstRow else decide (field d 20 4 < 2 ^ 21))

/-- The form of a SKIM, MERGE, GATHER or CHURN (Tables 12-2 to 12-4, 13-5). -/
def selectForm (d : Bytes) : Bool :=
  let c := field d 1 1
  match field d 0 1 with
  | 0x30 => decide (c < 64) && bitsOf c 3 2 != 3 && c % 2 == 0 && within 1 64 (field d 2 1) && rz d 3 1 &&
      within 1 8192 (field d 4 2) && within 1 16384 (field d 6 2) &&
      decide (field d 6 2 * scoreBytes (bitsOf c 3 2) ≤ 64 * field d 8 2) && rz d 10 2 && sramAddr d 12 64 && sramAddr d 16 64 &&
      sramAddr d 20 1 && (!bitOf c 4 || sramAddr d 24 64) && rz d 28 4
  | 0x31 => decide (c < 32) && bitsOf c 3 2 != 3 && c % 2 == 0 && within 1 64 (field d 2 1) && within 1 64 (field d 3 1) &&
      rz d 5 3 && sramAddr d 8 64 && sramAddr d 12 1 && rz d 16 16
  | 0x32 => decide (c ≤ 1) && within 1 64 (field d 2 1) && rz d 3 1 && within 1 8192 (field d 4 2) && rz d 10 2 &&
      sramAddr d 12 1 && sramAddr d 16 1 && sramAddr d 20 1 && rz d 24 4
  | _ => decide (c < 64) && rz d 2 2 && within 1 4096 (field d 4 2) && rz d 6 2 && sramAddr d 12 64 && sramAddr d 16 1 && rz d 20 12

/-- The form of a tile, output or synchronisation operation (Table 14-10). -/
def moveForm (output : Nat) (d : Bytes) : Bool :=
  let c := field d 1 1
  match field d 0 1 with
  | 0x52 => rz d 1 7 && rz d 10 2 && sramAddr d 12 1 && sramAddr d 16 1 && within 64 (2 ^ 21) (field d 20 4) && rz d 24 8
  | 0x58 => rz d 1 3 && field d 4 4 % 64 == 0 && rz d 9 3 && sramAddr d 12 1 && rz d 16 4 && within 64 (2 ^ 21) (field d 20 4) &&
      rz d 24 8 && decide (field d 4 4 + field d 20 4 ≤ output)
  | 0x60 => [0, 4, 6, 9].contains c && rz d 4 8 && (field d 12 4 == 0xFFFFFFFF || sramAddr d 12 1) && syncOperandOk c (field d 16 8) &&
      rz d 24 8
  | 0x61 => [1, 2, 3, 5, 7, 8, 10].contains c && rz d 4 8 && (field d 12 4 == 0xFFFFFFFF || sramAddr d 12 1) &&
      syncOperandOk c (field d 16 8) && (c == 10 || rz d 24 8)
  | _ => within 1 4096 (field d 2 2) && rz d 9 1 && decide (field d 10 1 ≤ 1) && rz d 11 1 && sramAddr d 12 1 && rz d 16 16

/-- The form of an operation (reason 04h): its opcode is one of Table 14-8 and every field is in range. -/
def opForm (shape output : Nat) (d : Bytes) : Bool :=
  match field d 0 1 with
  | 0x20 => mmaForm shape d
  | 0x21 => rz d 1 3 && decide (field d 4 1 ≤ 2) && rz d 5 27
  | 0x22 => rz d 1 3 && decide (field d 4 1 < 64) && rz d 5 7 && sramAddr d 12 1 && rz d 16 16
  | 0x23 => decide (field d 1 1 < 4) && rz d 2 10 && sramAddr d 12 64 && rz d 16 16
  | 0x24 => rz d 1 3 && decide (field d 4 1 < 16) && rz d 5 7 && sramAddr d 12 64 && rz d 16 16
  | 0x30 => selectForm d
  | 0x31 => selectForm d
  | 0x32 => selectForm d
  | 0x38 => selectForm d
  | 0x40 => vecForm d
  | 0x41 => vecForm d
  | 0x42 => vecForm d
  | 0x43 => vecForm d
  | 0x44 => vecForm d
  | 0x45 => vecForm d
  | 0x50 => moveForm output d
  | 0x51 => moveForm output d
  | 0x52 => moveForm output d
  | 0x58 => moveForm output d
  | 0x60 => moveForm output d
  | 0x61 => moveForm output d
  | _ => false

/-! ### Regions at their largest (R226, R341) -/

/-- What the checks know of a basket besides one descriptor: its slots, the row dimension of each table, and whether the regions are for the
capacity with 12 cell rows. -/
structure LoadCtx where
  slots : List Bytes
  ds : List (Nat × Nat)
  h : Nat
  hp : Nat
  deriving DecidableEq, Repr

/-- Row dimension a load check takes for a table: 2,048 when it does not exist. -/
def dOf (ds : List (Nat × Nat)) (t : Nat) : Nat := match ds.find? (·.1 == t) with | some x => x.2 | none => 2048

/-- Bytes of a tile frame of a slot: that of a create slot's format, else 8,448 (R341). -/
def slotFrame (slots : List Bytes) (k : Nat) : Nat :=
  let sl := slots.getD k []
  if slotAccess sl == 2 then frameLen (slotFormat sl) else 8448

/-- Passes of an MMA with `h` chain rows. -/
def passesWith (x : Mma) (h : Nat) : Nat := max 1 (ceilDiv x.k (max 1 (h * kPerRow x.wf)))

/-- Chain rows of a shape with 12 cell rows in service; 4 in a partition (R222, R226). -/
def rows12 (shape : Nat) : Nat := match shape with | 1 => 48 | 2 => 4 | _ => 12

/-- Regions of an MMA: weights of each pass, preload, sums and whey. -/
def mmaRegions (shape : Nat) (x : Mma) : List (Nat × Nat) :=
  let n := blockLen x.wf
  ((List.range (passesWith x (rows12 shape))).map fun t => (x.wAddr + t * n, n)) ++
  (if x.preload then [(x.pAddr, n)] else []) ++ [(x.sAddr, 256 * x.m)] ++ (if x.whey then [(x.yAddr, 256 * x.m)] else [])

/-- Regions of cell SRAM that an operation uses, at their largest size. -/
def opRegions (c : LoadCtx) (shape : Nat) (d : Bytes) : List (Nat × Nat) :=
  let a := fun (k : Nat) => field d k 4 % 2 ^ 21
  let v := parseVec d
  let span := v.rows * v.stride * 64
  match field d 0 1 with
  | 0x20 => mmaRegions shape (parseMma d)
  | 0x22 => [(a 12, 40)]
  | 0x23 => [(a 12, if bitOf (field d 1 1) 1 then 128 else 256)]
  | 0x24 => [(a 12, 1024)]
  | 0x30 => [(a 12, field d 4 2 * field d 8 2 * 64), (a 16, 256 * field d 4 2), (a 20, field d 4 2)] ++
      (if bitOf (field d 1 1) 4 then [(a 24, 2112 * field d 4 2)] else [])
  | 0x31 => [(a 8, 4 * field d 3 1), (a 12, 64 + 32 * field d 2 1)]
  | 0x32 => [(a 12, 256 * field d 4 2), (a 16, 64 * field d 8 2 * (field d 4 2 - 1) + 4 * field d 6 2), (a 20, 256 * field d 4 2)]
  | 0x38 => [(a 12, field d 4 2 * (16 + dOf c.ds (field d 1 1))), (a 16, 2)]
  | 0x40 => [(v.src, span)]
  | 0x41 => [(v.src, span)] ++ (if bitOf v.func 3 then [(v.src2, span)] else []) ++
      [(v.dst, if bitOf v.func 4 then ceilDiv v.rows 64 * ceilDiv v.cols 64 * frameLen v.df else span)]
  | 0x42 => [(v.src, span), (v.dst, span)] ++ (if bitOf v.func 3 then [(v.src2, span)] else [])
  | 0x43 => [(v.src, span), (v.dst, span)] ++ (if bitOf v.func 7 then [] else [(v.src2, span)])
  | 0x44 => [(v.src, span), (v.dst, span)]
  | 0x45 => [(v.src, span), (v.dst, span)]
  | 0x50 => [(a 12, field d 2 2 * slotFrame c.slots (field d 1 1))]
  | 0x51 => [(a 12, field d 2 2 * slotFrame c.slots (field d 1 1))]
  | 0x52 => [(a 12, field d 20 4), (a 16, field d 20 4)]
  | 0x58 => [(a 12, field d 20 4)]
  | 0x60 => if field d 12 4 == 0xFFFFFFFF then [] else [(a 12, 8)]
  | 0x61 => if field d 12 4 == 0xFFFFFFFF then [] else [(a 12, 8)]
  | _ => []

/-! ### Weaver patterns as the stream knows them (R219, R226) -/

/-- What a pattern slot holds as far as Load Basket knows: records of the Rennet configuration by cell, or a record that a PATTERN_LOAD of
the stream reads at run time. -/
inductive Known where
  | config (recs : List (Nat × Bytes))
  | stream
  deriving DecidableEq, Repr

/-- The walk over configuration and stream: the shape in force and the pattern slots loaded so far. -/
structure Walk where
  shape : Nat
  pats : List (Nat × Known)
  deriving DecidableEq, Repr

def Walk.start : Walk := { shape := 0, pats := [] }

/-- A configuration entry in the walk. -/
def Walk.entry (s : State) (w : Walk) (e : Bytes) : Walk :=
  match field e 0 1 with
  | 0x21 => { w with shape := field e 4 1 }
  | 0x22 => { w with pats :=
      (field e 4 1 % 64, Known.config ((leftCells s w.shape).map fun c => (c, rennetData e c))) :: w.pats.filter (·.1 != field e 4 1 % 64) }
  | _ => w

/-- An operation in the walk. -/
def Walk.op (w : Walk) (d : Bytes) : Walk :=
  match field d 0 1 with
  | 0x21 => { w with shape := field d 4 1 }
  | 0x22 => { w with pats := (field d 4 1 % 64, Known.stream) :: w.pats.filter (·.1 != field d 4 1 % 64) }
  | _ => w

/-- The stream with the walk before each operation. -/
def walkOps : Walk → List Bytes → List (Walk × Bytes)
  | _, [] => []
  | w, d :: l => (w, d) :: walkOps (w.op d) l

/-- What the walk knows of a slot. -/
def Walk.pat (w : Walk) (slot : Nat) : Option Known := (w.pats.find? (·.1 == slot)).map (·.2)

/-- The addresses of the slices an MMA reads through a configured pattern. -/
def sliceAddrs (x : Mma) (recs : List (Nat × Bytes)) : List Nat :=
  recs.flatMap fun r => (List.range x.m).filterMap fun m => (sliceAddr (parsePat r.2) m).map Int.toNat

/-- No bank twice among lists. -/
def banksApart : List (List Nat) → Bool
  | [] => true
  | x :: l => l.all (fun y => !x.any y.contains) && banksApart l

/-- Reason 07h: the banks of preload, sums, whey and configured slices of an MMA are pairwise disjoint (R226). -/
def mmaBanksOk (w : Walk) (d : Bytes) : Bool :=
  let x := parseMma d
  let n := blockLen x.wf
  let len := sliceLen x.af
  let slices := match w.pat x.pat with
    | some (.config recs) => (sliceAddrs x recs).flatMap fun a => banksOf (a, len)
    | _ => []
  banksApart [if x.preload then banksOf (x.pAddr, n) else [], banksOf (x.sAddr, 256 * x.m),
              if x.whey then banksOf (x.yAddr, 256 * x.m) else [], slices.eraseDups]

/-! ### Worst cases (R228 to R230, R327, R341), in 28ths of a nanosecond -/

/-- A CK_ARR cycle (4/7 ns) and a CK_CH cycle (5/4 ns). -/
def arr (n : Nat) : Nat := 16 * n
def chn (n : Nat) : Nat := 35 * n

/-- Chain rows of a shape with the cell rows in service. -/
def rowsOf (c : LoadCtx) (shape : Nat) : Nat := match shape with | 1 => 4 * c.h | 2 => c.hp | _ => c.h

/-- Largest count of chain rows for the fill of a shape. -/
def fillRows (c : LoadCtx) (shape : Nat) : Nat := shapeH shape c.h

/-- Issue cycles of every pass of an MMA: pass 1 takes its load field, each later pass a full load, only the last carries the preload. -/
def mmaIssues (c : LoadCtx) (shape : Nat) (x : Mma) : List Nat :=
  let n := passesWith x (rowsOf c shape)
  (List.range n).map fun t => mmaIssue (isBf16 x.wf) shape (if t == 0 then x.load else 1) (x.preload && t + 1 == n) x.m

/-- Fill and repair allowance of one pass of an MMA. -/
def mmaFA (c : LoadCtx) (shape : Nat) (x : Mma) : Nat := mmaFill shape (fillRows c shape) x.g

/-- Worst case of an operation other than an MMA (Tables 9-9, 12-5, R327). -/
def opCost (c : LoadCtx) (shape : Nat) (d : Bytes) : Nat :=
  let v := parseVec d
  let e := ceilDiv (v.rows * v.cols) 64
  let w := shapeW shape
  let k := field d 2 1
  let rows := field d 4 2
  let n := field d 6 2
  match field d 0 1 with
  | 0x21 => arr 1024
  | 0x22 => arr 48
  | 0x23 => arr 40
  | 0x24 => arr 80
  | 0x30 => arr ((if k ≤ 8 then rows * ceilDiv n 16 + 24 else rows * ceilDiv n 2 + 48) +
      (if bitOf (field d 1 1) 5 then rows * (ceilDiv (w * k) 2 + 64) + 2 * w + 8 else 0))
  | 0x31 => arr (ceilDiv (64 * field d 3 1) 2 + 64 + ceilDiv k 2)
  | 0x32 => arr ((if bitOf (field d 1 1) 0 then rows * (k + 2 * w) else rows * k) + 16)
  | 0x38 => chn (256 * rows * (ceilDiv (dOf c.ds (field d 1 1)) 64 + 1) + 1600)
  | 0x40 => arr (e + 32 + 2 * (fillRows c shape + w))
  | 0x41 => arr (e + 12)
  | 0x42 => arr (e + 12)
  | 0x43 => arr (e + 12)
  | 0x44 => arr (4 * e + 24)
  | 0x45 => arr (e + 32 + 2 * (fillRows c shape + w))
  | 0x50 => arr (ceilDiv (field d 2 2 * slotFrame c.slots (field d 1 1) * (if bitOf (field d 10 1) 0 then 16 * c.h else 1)) 807 + 600)
  | 0x51 => arr (ceilDiv (field d 2 2 * slotFrame c.slots (field d 1 1) * (if bitOf (field d 10 1) 0 then 16 * c.h else 1)) 807 + 600)
  | 0x52 =>
    let a := field d 8 1
    let b := field d 9 1
    arr (ceilDiv (field d 20 4) 64 +
      2 * ((a / 16 - b / 16) + (b / 16 - a / 16) + (a % 16 - b % 16) + (b % 16 - a % 16)) + 8)
  | 0x58 => arr (ceilDiv (field d 20 4) 807 + 600)
  | 0x61 => arr 400
  | _ => 0

/-- The longest an operation, or a pass of a split MMA, may take between operation boundaries (R229). -/
def opLongest (c : LoadCtx) (shape : Nat) (d : Bytes) : Nat :=
  if field d 0 1 == 0x20 then
    let x := parseMma d
    arr ((mmaIssues c shape x).foldl max 0 + mmaFA c shape x)
  else opCost c shape d

/-- Do two regions meet? -/
def meets (a b : Nat × Nat) : Bool := decide (a.1 < b.1 + b.2) && decide (b.1 < a.1 + a.2)

/-- What an MMA writes, and what it reads as far as descriptors and configured patterns tell (R230). -/
def mmaWrites (x : Mma) : List (Nat × Nat) := (x.sAddr, 256 * x.m) :: (if x.whey then [(x.yAddr, 256 * x.m)] else [])

def mmaReads (c : LoadCtx) (w : Walk) (x : Mma) : List (Nat × Nat) :=
  let n := blockLen x.wf
  let passes := passesWith x (rowsOf c w.shape)
  (((List.range passes).filter fun t => t != 0 || x.load == 1).map fun t => (x.wAddr + t * n, n)) ++
  (if x.preload then [(x.pAddr, n)] else []) ++ (if x.acc then mmaWrites x else []) ++
  (match w.pat x.pat with
   | some (.config recs) => (sliceAddrs x recs).map fun a => (a, sliceLen x.af)
   | _ => [(0, 2 ^ 21)])

/-- May the second MMA issue while the first one's fill drains (R230)? -/
def overlaps (c : LoadCtx) (a b : Walk × Bytes) : Bool :=
  let x := parseMma a.2
  let y := parseMma b.2
  field a.2 0 1 == 0x20 && field b.2 0 1 == 0x20 && a.1.shape == b.1.shape &&
  !(mmaReads c b.1 y).any (fun r => (mmaWrites x).any (meets r)) && !(mmaWrites y).any fun r => (mmaReads c a.1 x).any (meets r)

/-- The worst case of an operation in its stream: an MMA whose successor overlaps it does not count its last fill (R230). -/
def opTime (c : LoadCtx) (a : Walk × Bytes) (next : Option (Walk × Bytes)) : Nat :=
  if field a.2 0 1 == 0x20 then
    let x := parseMma a.2
    let is := mmaIssues c a.1.shape x
    let fa := mmaFA c a.1.shape x
    let hides := match next with | some b => overlaps c a b | none => false
    arr (total is + (is.length - 1) * fa + (if hides then 0 else fa))
  else opCost c a.1.shape a.2

/-- The sum over a stream. -/
def streamTime (c : LoadCtx) : List (Walk × Bytes) → Nat
  | [] => 0
  | a :: l => opTime c a l.head? + streamTime c l

/-- The context of a basket's checks with the cell rows now in service. -/
def loadCtx (s : State) (slots : List Bytes) (ds : List (Nat × Nat)) : LoadCtx :=
  { slots := slots, ds := ds, h := rowsInService s,
    hp := ([0, 1, 2, 3].map fun p => (partRows s p).length).foldl min 8 }

/-- The walk of a basket. -/
def basketWalk (s : State) (rennet ops : List Bytes) : List (Walk × Bytes) :=
  walkOps (rennet.foldl (Walk.entry s) Walk.start) ops

/-- The stream bound in nanoseconds, at the h in force, with 40 µs for the Rennet load (R229, R341). -/
def streamBound (s : State) (slots rennet ops : List Bytes) (ds : List (Nat × Nat)) : Nat :=
  40000 + ceilDiv (streamTime (loadCtx s slots ds) (basketWalk s rennet ops)) 28

/-- The worst-case time admission uses for a basket: with rows lost, the larger of its stream bound and its declared time (R225). -/
def admitTime (s : State) (b : Basket) : Nat :=
  if rowsInService s < 16 then max b.wcet (streamBound s b.slots b.rennet b.ops b.churnDs) else b.wcet

/-! ### The load check (Table 14-7) -/

/-- Reason 0Dh for one entry. -/
def rennetOk (cells : Nat) (e : Bytes) : Bool :=
  match rennetBytes e with
  | none => false
  | some n => opForm 0 0 (e.take 32) && rz e 12 4 && field e 32 4 == n && decide (field e 36 1 ≤ 1) && rz e 37 27 &&
      e.length == rennetLen cells e

/-- Reason 0Ch for one slot. -/
def slotOk (cls : Nat) (b : Bytes) : Bool :=
  let create := slotAccess b == 2
  decide (slotAccess b ≤ 2) && decide (slotKind b ≤ 3) && (!create || decide (slotKind b ≤ 1)) &&
  (if create && slotKind b == 0 then decide (slotFormat b ≤ 5) else slotFormat b == 0) && decide (field b 3 1 ≤ 1) &&
  (!slotResident b || decide (slotKind b ≤ 1)) && (if create then slotSize b != 0 else slotSize b == 0) && rz b 8 8 &&
  !(cls == 2 && slotAccess b != 0)

/-- Is the home of a sync entry this node? An entry homed elsewhere is checked by its home at each operation. -/
def entryHere (s : State) (e : Bytes) : Bool := syncHome s (field e 0 4) == ownNode s

/-- Reason 08h for one sync entry: a kind of Table 14-3, reserved bits zero, and the object's class and kind where it is here. -/
def syncClassOk (s : State) (cls : Nat) (e : Bytes) : Bool :=
  cls != 2 && decide (field e 0 4 < 2 ^ 31) && decide (field e 4 1 ≤ 3) && rz e 5 3 &&
  (if entryHere s e then match findSync s (field e 0 4 % 65536) with
     | some o => o.express == (cls == 1) && o.kind == field e 4 1
     | none => true
   else true)

/-- Reason 09h for one sync entry: the object exists and is granted to the function. -/
def syncGrantOk (s : State) (fn : Nat) (e : Bytes) : Bool :=
  if entryHere s e then match findSync s (field e 0 4 % 65536) with
    | some o => granted o.grants fn
    | none => false
  else nodeNamed s (syncHome s (field e 0 4))

/-- Reason 0Eh for one operation: the slot or sync entry it names is there, of the right kind and access. -/
def opRefOk (slots sync : List Bytes) (d : Bytes) : Bool :=
  let sl := slots.getD (field d 1 1) []
  let sy := sync.getD (field d 2 2) []
  match field d 0 1 with
  | 0x50 => decide (field d 1 1 < slots.length) && slotKind sl == 0
  | 0x51 => decide (field d 1 1 < slots.length) && slotKind sl == 0 && slotAccess sl != 0
  | 0x60 => decide (field d 2 2 < sync.length) && field sy 4 1 == syncKind (field d 1 1)
  | 0x61 => decide (field d 2 2 < sync.length) && field sy 4 1 == syncKind (field d 1 1)
  | _ => true

/-- Reason 0Ah: configured records keep R219, and an MMA's slot has been loaded. -/
def patternsOk (cells : Walk → List Nat) (rennet : List Bytes) (walk : List (Walk × Bytes)) (before : List Walk) : Bool :=
  (rennet.zip before).all (fun x => field x.1 0 1 != 0x22 ||
    (let recs := (cells x.2).map (rennetData x.1)
     recs.all patOk && recs.all fun r => r.take 28 == (recs.headD []).take 28)) &&
  walk.all fun a => field a.2 0 1 != 0x20 || (a.1.pat (parseMma a.2).pat).isSome

/-- The walks before each configuration entry. -/
def entryWalks (s : State) : Walk → List Bytes → List Walk
  | _, [] => []
  | w, e :: l => w :: entryWalks s (w.entry s e) l

/-- The row dimension of the table of each CHURN, where the table exists (R341). -/
def churnDims (s : State) (ops : List Bytes) : List (Nat × Nat) :=
  ((ops.filter fun d => field d 0 1 == 0x38).map fun d => field d 1 1).eraseDups.filterMap fun t =>
    (findTable s t).map fun x => (t, layoutD x.layout)

/-- The basket an image holds. -/
def parseBasket (s : State) (fn id len : Nat) (b : Bytes) : Basket :=
  let sec := fun (k : Nat) => let x := (sections b).getD k (0, 0); (b.drop x.1).take x.2
  let ops := cut 32 (field b 44 4) (sec 1)
  { id := id, fn := fn, cls := field b 2 1, cellThreads := field b 4 2, engineThreads := field b 6 1, wcet := field b 8 8,
    scratch := field b 16 8, output := field b 24 4, ops := ops, size := len, code := sec 0,
    rennet := rennetEntries (16 * rowsInService s) (field b 52 4) (sec 2),
    slots := cut 16 (field b 60 1) (sec 3), sync := cut 8 (field b 62 2) (sec 4), digest := (b.drop 96).take 32,
    churnDs := churnDims s ops }

/-- The lowest reason of Table 14-7 whose check a basket fails; none where it is accepted. The thread code's own encoding is Etmund's, so
of reason 03h the check of its length is left. -/
def loadReason (s : State) (b : Basket) (img : Bytes) : Option Nat :=
  let len := b.size
  let walk := basketWalk s b.rennet b.ops
  let c := loadCtx s b.slots b.churnDs
  let regions := fun (a : Walk × Bytes) => opRegions c a.1.shape a.2
  let long := fun (a : Walk × Bytes) => decide (28000000 < opLongest c a.1.shape a.2)
  let cells := 16 * rowsInService s
  if !headerOk img len then some 0x01
  else if sha256 ((img.drop 128).take (len - 128)) != b.digest then some 0x02
  else if 320 * 1024 < b.code.length then some 0x03
  else if !walk.all (fun a => opForm a.1.shape b.output a.2 && (regions a).all fun r => decide (r.1 + r.2 ≤ 2 ^ 21)) then some 0x04
  else if walk.any long then some 0x05
  else if b.wcet < streamBound s b.slots b.rennet b.ops b.churnDs then some 0x06
  else if !walk.all (fun a => field a.2 0 1 != 0x20 || mmaBanksOk a.1 a.2) then some 0x07
  else if !b.sync.all (syncClassOk s b.cls) then some 0x08
  else if !b.sync.all (syncGrantOk s b.fn) then some 0x09
  else if !patternsOk (fun w => leftCells s w.shape) b.rennet walk (entryWalks s Walk.start b.rennet) then some 0x0A
  else if !walk.all (fun a => (regions a).all fun r => inArea s b.cls r.1 r.2) ||
      decide ((if b.cls == 0 then 2 ^ 36 else 2 ^ 32) < b.scratch) then some 0x0B
  else if !b.slots.all (slotOk b.cls) then some 0x0C
  else if !b.rennet.all (rennetOk cells) then some 0x0D
  else if !b.ops.all (opRefOk b.slots b.sync) then some 0x0E
  else none

/-! ### LOAD_BASKET and BASKET_UNLOAD -/

/-- A basket of a function. -/
def findBasket (s : State) (fn id : Nat) : Option Basket := s.jobs.baskets.find? fun b => b.fn == fn && b.id == id

/-- Remove a basket of a function, and give up its pages (R157). -/
def dropBasket (fn id : Nat) (s : State) : State :=
  dropPages (fun p => p.owner == .basket fn id)
    (modJobs (fun r => { r with baskets := r.baskets.filter fun b => !(b.fn == fn && b.id == id) }) s)

/-- A basket's image goes to pages of the object store, through the Pail (R161, R342). -/
def storeImage (o : StoreOwner) (img : Bytes) (s : State) : State :=
  pump false ((List.range (pagesOf img.length)).foldl (fun s i =>
    let s := takePage o 0 16384 i s
    match storeLpn s o 16384 i with
    | some l => acceptWhole 0 (classOf s l) l (memOf (slice img (16384 * i) 16384)) s
    | none => s) s)

/-- Store a checked basket and complete with its declared worst-case time (R342, Table 3-5). -/
def storeBasket (e : Sqe) (b : Basket) (img : Bytes) (s : State) : State :=
  let s := storeImage (.basket e.fn e.handle) img (modJobs (fun r => { r with baskets := r.baskets ++ [b] }) (dropBasket e.fn e.handle s))
  endCmd e stSuccess 0 (dmaResult (resultAddr e) (resultRegion noHandle 0 0 0 b.wcet []) s)

/-- LOAD_BASKET: the whole image is checked before any part of it is stored (R341, R342). It is not started while the Pail has no room for the
image (R452). -/
def loadBasketF (e : Sqe) (img : Bytes) (s₀ : State) : State :=
  basketCmd e opLoadBasket false (some 64) (fun _ s =>
    let replace := bitOf e.cdw15 0
    if decide (2 ^ 28 < e.cdw10) || decide (1 < e.cdw15) || e.handle == noHandle || e.cdw10 == 0 then
      endCmd e stInvalidField 0 s
    else if img.length < e.cdw10 then endCmd e stDataTransferError 0 s
    else if (findBasket s e.fn e.handle).isSome && !replace then endCmd e stInvalidField 0 s
    else
      let b := parseBasket s e.fn e.handle e.cdw10 (img.take e.cdw10)
      match loadReason s b (img.take e.cdw10) with
      | some r => endCmd e stBasketRefused r s
      | none =>
        let others := (s.jobs.baskets.filter fun k => k.fn == e.fn && k.id != e.handle).length
        if decide (1024 ≤ others) || storeFull (dropBasket e.fn e.handle s) (pagesOf e.cdw10) then endCmd e stCapacityExhausted 0 s
        else if !pailHasRoom s (pagesOf e.cdw10) 0 then s₀
        else storeBasket e b (img.take e.cdw10) s) s₀

def execLoadBasket (e : Sqe) (img : Bytes) (s : State) : Res := finish s (loadBasketF e img s)

/-- BASKET_UNLOAD: Load Basket with replace set and no input; jobs already admitted keep their image (R342). -/
def basketUnloadF (e : Sqe) (s : State) : State :=
  basketCmd e opLoadBasket false (some 64) (fun _ s =>
    if e.cdw15 != 1 || e.cdw10 != 0 || e.handle == noHandle then endCmd e stInvalidField 0 s
    else match findBasket s e.fn e.handle with
      | none => endCmd e stUnknownHandle 0 s
      | some _ => endCmd e stSuccess 0 (dmaResult (resultAddr e) (resultRegion noHandle 0 0 0 0 []) (dropBasket e.fn e.handle s))) s

def execBasketUnload (e : Sqe) (s : State) : Res := finish s (basketUnloadF e s)

/-- DEFERRED_COMMAND_START: commands of a queue that waited behind a Load Basket may start once no earlier one is in flight (R53). -/
def deferredCommandStartF (fn sq : Nat) (s : State) : State :=
  modHost (fun h => { h with
    inflight := (h.inflight.zip (rehold [] h.inflight)).map fun x => if x.1.fn == fn && x.1.sq == sq then x.2 else x.1 }) s

def execDeferredCommandStart (fn sq : Nat) (s : State) : Res := finish s (deferredCommandStartF fn sq s)

end Sys2Proof.Machine
end

