-- ==== Sys2Proof/Machine/Jobs.lean ====
section
/-! DEFINITION. Running baskets (R64, R347 to R360): Run Job with its admission test, the states of a job, pre-emption, and Read
Result. -/

namespace Sys2Proof.Machine

open Sys2Proof

/-! ### Arguments (Table 14-11) -/

/-- The bindings of Run Job arguments: (object id, group, reserved bytes zero) of each slot. -/
def jobArgs (b : Bytes) : List (Nat × Nat × Bool) :=
  (List.range (field b 1 1)).map fun k => (field b (16 + 16 * k) 8, field b (24 + 16 * k) 1, rz b (25 + 16 * k) 7)

/-- Do arguments keep Table 14-11? -/
def argsOk (bk : Basket) (b : Bytes) (len : Nat) : Bool :=
  decide (16 ≤ len) && field b 0 1 == 1 && field b 1 1 == bk.slots.length && rz b 2 2 && rz b 8 8 &&
  len == 16 + 16 * field b 1 1 + field b 4 4 && decide (field b 4 4 ≤ bk.scratch) &&
  (bk.slots.zip (jobArgs b)).all fun x =>
    x.2.2.2 && (if slotAccess x.1 == 2 then decide (x.2.2.1 ≤ 15) else x.2.2.1 == 0) &&
    !(decide (slotKind x.1 ≤ 1) && (x.2.1 == 0 || x.2.1 == noHandle))

/-- Does a function reach an object of a kind that a read or write slot names (R45, R347)? -/
def reaches (s : State) (fn kind id : Nat) : Bool :=
  match kind with
  | 2 => (match findTable s id with | some t => t.st == 1 && granted t.grants fn | none => false)
  | 3 => (match findIndex s id with | some x => x.st == 1 && granted x.grants fn | none => false)
  | k => (match findObj s id with | some o => o.kind == k && o.ready && o.fn == fn | none => false)

/-- Is an id taken: by an object, or by a create slot of an admitted job? -/
def idTaken (s : State) (id : Nat) : Bool :=
  (findObj s id).isSome || s.jobs.jobs.any fun j => (jobSlots j).any fun x => slotAccess x.1 == 2 && x.2 == id

/-- Ids that create slots name. -/
def createIds (bk : Basket) (args : List (Nat × Nat × Bool)) : List Nat :=
  ((bk.slots.zip args).filter fun x => slotAccess x.1 == 2).map (·.2.1)

/-- The handles of a Run Job hold (R347). -/
def handlesOk (s : State) (fn : Nat) (bk : Basket) (args : List (Nat × Nat × Bool)) : Bool :=
  (bk.slots.zip args).all (fun x => slotAccess x.1 == 2 || reaches s fn (slotKind x.1) x.2.1) &&
  (createIds bk args).all (fun id => !idTaken s id) && (createIds bk args).eraseDups.length == (createIds bk args).length &&
  bk.sync.all (fun e => syncClassOk s bk.cls e && syncGrantOk s fn e) &&
  (churnDims s bk.ops).all fun x => decide (x.2 ≤ dOf bk.churnDs x.1)

/-! ### Admission (R225, R347, R356, R357, R359) -/

/-- A worst-case time under the issue-rate fraction in force (R30). At a fraction of 0 the quotient has no value: the time is taken undivided, so that
an Express request with deadline 0 is charged its full-rate time (DESIGN CHOICE, assumption 65). -/
def slowed (s : State) (t : Nat) : Nat := if s.thr.fa == 0 then t else ceilDiv (16 * t) s.thr.fa

/-- Express window and budget, ns. -/
def windowNs (s : State) : Nat := max 1 (1000 * obj s 0x3501 1)
def budgetNs (s : State) : Nat := 1000 * obj s 0x3501 2

/-- Tiles of the resident slots of bound objects. -/
def residentTiles (s : State) (slots : List (Bytes × Nat)) : List Tile :=
  (slots.filter fun x => slotResident x.1).flatMap fun x =>
    match findObj s x.2 with
    | some o => (List.range o.size).map fun i => tileOf s o.id i
    | none => []

/-- Is a tile within reach of the job without a fetch? -/
def resident (s : State) (t : Tile) : Bool := !tileAway s t && !needsFetch t

/-- Bytes that a job's resident slots newly take of the tile cache; created objects count whole. -/
def residentNew (s : State) (slots : List (Bytes × Nat)) : Nat :=
  total (((residentTiles s slots).filter fun t => !t.pinned).map tileBytes) +
  total ((slots.filter fun x => slotResident x.1 && slotAccess x.1 == 2).map fun x =>
    slotSize x.1 * (256 + bodyBytes (if slotKind x.1 == 0 then slotFormat x.1 else 0xFF)))

/-- The residency term ρ. -/
def rhoOf (s : State) (slots : List (Bytes × Nat)) : Nat :=
  if !slots.any fun x => slotResident x.1 then 0
  else 760000 + ceilDiv (total (((residentTiles s slots).filter fun t => !resident s t).map tileBytes)) 100

/-- The queued jobs of a class, in order. -/
def queuedJobs (s : State) (express : Bool) : List Job :=
  (if express then s.jobs.expQ else s.jobs.stdQ).filterMap (findJob s)

/-- The iteration of R356 from `t`; none when it passes `limit`. The step shrinks by half or more, since B is at most W / 2. -/
def fixedPoint (a w b limit : Nat) : Nat → Nat → Option Nat
  | 0, _ => none
  | n + 1, t =>
    let t' := a + (ceilDiv t w + 1) * b
    if t' == t then some t
    else if limit < t' then none
    else fixedPoint a w b limit n t'

/-- The Standard job that owns the array or is pre-empted. -/
def standardAhead (s : State) : Option Job :=
  match ownerJob s with
  | some j => if !j.express then some j else (match s.jobs.preempted with | some id => findJob s id | none => none)
  | none => match s.jobs.preempted with | some id => findJob s id | none => none

/-- Is a Standard request of worst case `c` behind `ahead` admitted with `left` ns to its deadline (none for no deadline) (R356)? -/
def admitBehind (s : State) (ahead : List Job) (c rho : Nat) (left : Option Nat) : Bool :=
  match left with
  | none => true
  | some l =>
    if s.thr.fa == 0 then false
    else
      let own := match standardAhead s with | some j => j.basket.wcet - runTimeOf s j | none => 0
      let a := slowed s (own + total (ahead.map fun j => admitTime s j.basket + j.rho) + c + rho)
      match fixedPoint a (windowNs s) (budgetNs s) l 200 a with
      | some t => decide (t ≤ l)
      | none => false

/-- Is a Standard job of worst case `c` admitted (R356)? -/
def admitStandard (s : State) (c rho : Nat) (left : Option Nat) : Bool := admitBehind s (queuedJobs s false) c rho left

/-- Budget used of a window. -/
def usedBudget (s : State) (w : Nat) : Nat := kvGet 0 s.jobs.budgetUsed w

/-- The earliest window from `w` on whose remaining budget covers `q`; the fuel covers every window with budget used. -/
def pickWindow (s : State) (q : Nat) : Nat → Nat → Nat
  | 0, w => w
  | n + 1, w => if usedBudget s w + q ≤ budgetNs s then w else pickWindow s q n (w + 1)

/-- The window of an Express job of worst case `c`, and whether it is admitted (R357). -/
def admitExpress (s : State) (c rho : Nat) (left : Option Nat) : Option Nat :=
  let q := slowed s (c + 100000)
  let first := max (s.time / windowNs s) (match (queuedJobs s true).getLast? with | some j => j.window | none => 0)
  let w := pickWindow s q (s.jobs.budgetUsed.length + 1) first
  let bound := (w * windowNs s - s.time) +
    slowed s (rho + total ((queuedJobs s true).map fun j => admitTime s j.basket + 100000) + 1051000 + c)
  if decide (budgetNs s < q) || obj s 0x3501 3 == 0 then none
  else match left with
    | none => some w
    | some l => if s.thr.fa == 0 then none else if bound ≤ l then some w else none

/-- Time left to a deadline: none without one. -/
def timeLeft (s : State) (deadline : Nat) : Option Nat := if deadline == 0 then none else some (deadline - s.time)

/-! ### Resident slots -/

/-- Start the fetch of tiles that are not in T1 here; those of other nodes are read over the fabric (R166). -/
def fetchTiles (fn : Nat) (express : Bool) (ts : List Tile) (s : State) : State :=
  ts.foldl (fun s t =>
    if tileAway s t then
      (if t3Open s t.node && !(s.wyv.requests.any fun r => r.tile == some (t.object, t.index)) then
        issueFrame t.node msgRead fn express (256 + bodyBytes t.format) [] false .stream (t.object, t.index) s
      else s)
    else if needsFetch t then startFetch t.object t.index s else s) s

/-- Are the resident slots of a job in T1? -/
def residentIn (s : State) (j : Job) : Bool := (residentTiles s (jobSlots j)).all (resident s)

/-- Pin the resident tiles of a job. -/
def pinAll (j : Job) (s : State) : State :=
  (residentTiles s (jobSlots j)).foldl (fun s t => putTile { framed s t with pinned := true } s) s

/-! ### RUN_JOB -/

/-- The job that an admitted Run Job makes. -/
def newJob (s : State) (e : Sqe) (bk : Basket) (args : Bytes) (objects : List (Nat × Nat)) (rho window : Nat)
    (versions : List (Nat × Nat × Bytes)) : Job :=
  { id := s.jobs.nextJob, fn := e.fn, sq := e.sq, cid := e.cid, basket := bk, express := wantsExpress e, digest := wantsDigest e,
    resultAddr := resultAddr e, objects := objects, groups := (jobArgs args).map (·.2.1),
    coefs := s.dict.vals.filter (fun v => decide (0x3410 ≤ v.1 / 256) && decide (v.1 / 256 ≤ 0x342F)),
    params := slice args (16 + 16 * bk.slots.length) (field args 4 4), st := 0,
    pos := 0, admitted := s.time, rho := rho, started := 0, resumed := 0, runTime := 0, saveStart := 0, window := window,
    throttled := throttling s, output := [], outPoison := [], context := none, cells := 16 * rowsInService s,
    modeWord := modeWord s, inputDigest := inputDigest opRunJob e.cdw14 e.cdw15 e.cdw10 args, versions := versions,
    stage := none, members := [] }

/-- Refuse a job with Not Admitted, DW0 its worst-case time in µs, and count it (JobState.2, FunctionAccounting.5). -/
def notAdmitted (e : Sqe) (ns : Nat) (s : State) : State :=
  endCmd e stNotAdmitted (ceilDiv ns 1000) (bump 0x3500 2 (bump (fnIdx e.fn + 1) 5 s))

/-- The objects an audited job reads: those bound to its slots of access 0 and 1, each once (R403). -/
def jobReads (bk : Basket) (objects : List (Nat × Nat)) : List (Nat × Nat) :=
  (((bk.slots.zip objects).filter fun x => slotAccess x.1 != 2).map (·.2)).eraseDups

/-- The committed epoch of an index. -/
def committedEpoch (s : State) (id : Nat) : Nat := match findIndex s id with | some x => x.committed | none => 0

/-- Commit what an audited command reads and fix its versions (R402). -/
def fixVersions (reads : List (Nat × Nat)) (s : State) : State × List (Nat × Nat × Bytes) :=
  let s := reads.foldl (fun s r => commitIfWritten r.1 r.2 s) s
  (s, sortVersions (reads.map fun r => versionRead s (committedEpoch s r.2) r.1 r.2))

/-- Is an Express job ready: it heads its queue, its window has begun and its resident slots are in T1 (R352)? -/
def expressReady (s : State) : Option Job :=
  match (queuedJobs s true).head? with
  | some j => if decide (j.window * windowNs s ≤ s.time) && residentIn s j then some j else none
  | none => none

/-- Threads whose waits pre-emption cancels: they wait on a load or a synchronisation operation. -/
def cancelledThreads (s : State) (job : Nat) : List SyncWho :=
  ((s.tier.waits.filter fun w => w.job == job && w.access.answered).map fun w => .thread w.thread) ++
  (s.sync.objs.flatMap fun o => (o.waiters.filter localWaiter).map (·.who)) ++
  ((s.wyv.requests.filter fun r => r.job == job && (r.msg.mtype == msgRead || r.msg.mtype == msgSync)).map (·.who))

/-- Request pre-emption of a Standard owner by a ready Express job: no further operation issues, and waits are cancelled (R352, R354,
R355). -/
def askPreempt (s : State) : State :=
  match ownerJob s with
  | some j =>
    if !j.express && !s.jobs.preemptAsked && (expressReady s).isSome then
      let gone := cancelledThreads s j.id
      let s := dropWaits j.id (cancelRemote j.id (dropWaiters s))
      modJobs (fun r => { r with
        preemptAsked := true
        threads := updWhere (fun t => gone.contains (.thread t.id)) (fun t => { t with wait := false }) r.threads }) s
    else s
  | none => s

/-- Admit a job: it joins its class queue; an Express job's charge leaves its window, and its resident slots begin to be fetched. -/
def admitJob (e : Sqe) (j : Job) (s : State) : State :=
  let q := slowed s (admitTime s j.basket + 100000)
  let s := modJobs (fun r => { r with
    jobs := r.jobs ++ [j]
    stdQ := if j.express then r.stdQ else r.stdQ ++ [j.id]
    expQ := if j.express then r.expQ ++ [j.id] else r.expQ
    budgetUsed := if j.express then kvPut 0 r.budgetUsed j.window (kvGet 0 r.budgetUsed j.window + q) else r.budgetUsed
    nextJob := r.nextJob + 1 }) s
  let s := modInflight e.fn e.sq e.cid (fun x => { x with job := j.id }) s
  if j.express then askPreempt (fetchTiles j.fn true (residentTiles s (jobSlots j)) s) else s

/-- RUN_JOB (R347): Invalid Field, then Unknown Handle, then Not Admitted, else admission. -/
def runJobF (e : Sqe) (args : Bytes) (s : State) : State :=
  basketCmd e opRunJob true (some 64) (fun x s =>
    match findBasket s e.fn e.handle with
    | none => endCmd e stUnknownHandle 0 s
    | some bk =>
      let a := jobArgs args
      let objects := (bk.slots.zip a).map fun y => (slotKind y.1, y.2.1)
      let reads := jobReads bk objects
      if args.length < e.cdw10 then endCmd e stDataTransferError 0 s
      else if decide (2 ^ 20 < e.cdw10) || e.cdw15 != 0 || (bk.cls == 0 && wantsExpress e) || (bk.cls == 1 && !wantsExpress e) ||
          !argsOk bk args e.cdw10 || (wantsDigest e && decide (16 < reads.length)) then endCmd e stInvalidField 0 s
      else if !handlesOk s e.fn bk a then endCmd e stUnknownHandle 0 s
      else
        let slots := bk.slots.zip (objects.map (·.2))
        let c := admitTime s bk
        let rho := rhoOf s slots
        let left := timeLeft s x.deadline
        let fits := decide (pinnedBytes s + residentNew s slots ≤ cacheMiB s * 2 ^ 20)
        let window := if wantsExpress e then admitExpress s c rho left
          else if admitStandard s c rho left then some 0 else none
        match window with
        | some w =>
          if fits then
            let (s, versions) := if wantsDigest e then fixVersions reads s else (s, [])
            admitJob e (newJob s e bk args objects rho w versions) s
          else notAdmitted e (c + rho) s
        | none => notAdmitted e (c + rho) s) s

def execRunJob (e : Sqe) (args : Bytes) (s : State) : Res := finish s (runJobF e args s)

/-! ### Start steps (R210, R348, Table 14-12) -/

/-- Step 1: scratch reads zero but for the params, and created objects are allocated as never written. -/
def startScratch (j : Job) (s : State) : State :=
  let s := zeroScratch (zeroArea j.basket.cls s)
  let s := modTier (fun t => { t with window := memWrite t.window scratchBase j.params }) s
  ((jobSlots j).zip j.groups).foldl (fun s x =>
    if slotAccess x.1.1 == 2 then
      modTier (fun t => { t with objects := t.objects ++
        [{ id := x.1.2, kind := slotKind x.1.1, format := if slotKind x.1.1 == 0 then slotFormat x.1.1 else 0xFF, group := x.2,
           fn := j.fn, size := slotSize x.1.1, ready := false, degraded := false, commits := 0, commitTime := 0, digest := [],
           written := false }] }) s
    else s) s

/-- Step 2, one entry: as if its data were at the descriptor's source address (R210, R219, R244, R246). -/
def rennetEntry (e : Bytes) (s : State) : OpRes :=
  match field e 0 1 with
  | 0x21 => .done (setShape (field e 4 1) s)
  | 0x22 => patternsBody (field e 4 1 % 64) ((leftCells s s.arr.shape).map fun c => (c, rennetData e c)) s
  | 0x23 => scalesBody (field e 1 1 % 2) (bitOf (field e 1 1) 1) ((activeCells s).map fun c => (c, rennetData e c)) s
  | _ => rescalesBody (field e 4 1 % 16) ((activeCells s).map fun c => (c, rennetData e c)) s

/-- Step 2: Rennet starts zeroed in the Full shape and takes its configuration. -/
def startRennet (j : Job) (s : State) : OpRes := opEach j.basket.rennet rennetEntry (setShape 0 (zeroRennet s))

/-- The threads of a job (R329). -/
def newThreads (s : State) (j : Job) : List Thread :=
  let mk := fun (engine : Bool) (unit no : Nat) => ({ id := { engine := engine, unit := unit, no := no }, wait := false, stores := 0, result := 0 } : Thread)
  ((activeCells s).flatMap fun c => (List.range j.basket.cellThreads).map fun k => mk false c k) ++
  (((List.range 64).filter fun c => !channelFailed s c).flatMap fun c => (List.range j.basket.engineThreads).map fun k => mk true c k)

/-- Steps 3 and 4: resident slots are fetched and pinned; once all are in T1 the threads start and the job runs. -/
def startResident (j : Job) (s : State) : State :=
  if residentIn s j then
    let s := pinAll j s
    modJobs (fun r => { r with threads := newThreads s j }) (modJob j.id (fun k => { k with st := 2 }) s)
  else fetchTiles j.fn j.express (residentTiles s (jobSlots j)) s

/-- The queue waiting that ends as a job starts: a Run Job's, and that of each query whose first pipeline job this is (R360). -/
def accountWait (j : Job) (s : State) : State :=
  match j.stage with
  | none => bumpBy (fnIdx j.fn + 1) 1 (s.time - j.admitted) s
  | some (_, n) =>
    ((liveMembers s j).filter fun q => n == (if q.tokens == 0 then 1 else 0)).foldl (fun s q => bumpBy (fnIdx q.fn + 1) 1 (s.time - q.admitted) s) s

/-- A queued job takes the array and passes its start steps. -/
def startJob (j : Job) (s : State) : State :=
  let s := accountWait j s
  let s := modJob j.id (fun k => { k with st := 1, started := s.time, resumed := s.time, cells := 16 * rowsInService s }) s
  let s := modJobs (fun r => { r with
    owner := some j.id
    sinceTest := r.sinceTest ++ [j.id]
    stdQ := r.stdQ.filter (· != j.id)
    expQ := r.expQ.filter (· != j.id) }) s
  match startRennet j (startScratch j s) with
  | .done s => startResident j s
  | .fail st d s => endJob j.id st (d.getD 0) s
  | .wait s => s

/-- The job that may take a free array next: a ready Express job, else with no job pre-empted the Standard job at the head of its
queue. -/
def nextJob (s : State) : Option Job :=
  match expressReady s with
  | some j => some j
  | none => if s.jobs.preempted == none then (queuedJobs s false).head? else none

/-- JOB_START: the next job takes a free array; a job whose resident slots were being fetched goes on to run (R348). At an issue rate of 0 no job
starts (R30, R449). -/
def jobStartF (s : State) : State :=
  match ownerJob s with
  | some j => if j.st == 1 && !s.jobs.preemptAsked then startResident j s else s
  | none =>
    if s.arr.testDue || s.arr.testAsked || s.thr.fa == 0 then s
    else match nextJob s with
      | some j => startJob j s
      | none => s

def execJobStart (s : State) : Res := finish s (jobStartF s)

/-- EXPRESS_WINDOW_START: fabric time reaches the window; budgets of windows gone by are forgotten, and a ready Express job asks for the
array (R352, R357). -/
def expressWindowStartF (window : Nat) (s : State) : State :=
  let s := { s with time := max s.time (window * windowNs s) }
  askPreempt (modJobs (fun r => { r with budgetUsed := r.budgetUsed.filter fun x => decide (window ≤ x.1) }) s)

def execExpressWindowStart (window : Nat) (s : State) : Res := finish s (expressWindowStartF window s)

/-! ### Pre-emption (R352 to R355, R360) -/

/-- The Express area of a class-2 job that runs as Standard. -/
def ownExpress (s : State) (j : Job) (m : Mem) : Mem :=
  if j.basket.cls == 0 then [] else m.filter fun c => decide (areaLo s 2 ≤ c.1 % 2 ^ 21)

/-- What is saved of the job that owns the array. -/
def saveContext (s : State) (j : Job) : Context :=
  { starting := j.st == 1, sram := ownExpress s j s.arr.sram, sramPoison := ownExpress s j s.arr.poison,
    shape := s.arr.shape, threads := s.jobs.threads,
    scratch := s.tier.window.filter (fun c => decide (scratchBase ≤ c.1)),
    scratchPoison := s.tier.windowPoison.filter (fun c => decide (scratchBase ≤ c.1)),
    stakeA := s.arr.stakeA, stakeS := s.arr.stakeS, stakeAPoison := s.arr.stakeAPoison, stakeSPoison := s.arr.stakeSPoison,
    colScale := s.arr.colScale, rowScale := s.arr.rowScale,
    rescale := s.arr.rescale, patterns := s.arr.patterns }

/-- CONTEXT_SAVED: with pre-emption requested (an Express job that became ready since asks now) and no CHURN under way, the Standard job's
context is saved and the Express job starts (R352, R353). -/
def contextSavedF (s₀ : State) : State :=
  let s := askPreempt s₀
  match ownerJob s with
  | some j =>
    if s.jobs.preemptAsked && !s.churn.updates.any (·.fromJob) then
      let c := saveContext s j
      let s := modJob j.id (fun k => { k with
        st := 3
        context := some c
        saveStart := s.time
        runTime := runTimeOf s j }) s
      let s := bump 0x3500 3 (account j 2 1 s)
      let s := zeroScratch (zeroRennet s)
      let s := modJobs (fun r => { r with owner := none, preempted := some j.id, threads := [], preemptAsked := false }) s
      match expressReady s with
      | some k => if s.thr.fa == 0 then s else startJob k s
      | none => s
    else s
  | none => s

def execContextSaved (s : State) : Res := finish s (contextSavedF s)

/-- JOB_RESUME: with the array free and no Express job ready, the pre-empted job's context is restored (R353, R355). -/
def jobResumeF (s : State) : State :=
  match s.jobs.preempted, s.jobs.owner with
  | some id, none =>
    match findJob s id, expressReady s with
    | some j, none =>
      match j.context with
      | some c =>
        let put := fun (a b : Mem) => b.foldl (fun m x => memPut m x.1 x.2) a
        let s := account j 3 (s.time - j.saveStart) s
        let s := modArr (fun a => { a with
          stakeA := c.stakeA
          stakeS := c.stakeS
          stakeAPoison := c.stakeAPoison
          stakeSPoison := c.stakeSPoison
          colScale := c.colScale
          rowScale := c.rowScale
          rescale := c.rescale
          patterns := c.patterns
          sram := put a.sram c.sram
          poison := put a.poison c.sramPoison }) s
        let s := modTier (fun t => { t with
          window := put t.window c.scratch
          windowPoison := put t.windowPoison c.scratchPoison }) (setShape c.shape s)
        let s := modJobs (fun r => { r with owner := some id, preempted := none, threads := c.threads }) s
        modJob id (fun k => { k with st := if c.starting then 1 else 2, context := none, resumed := s.time }) s
      | none => s
    | _, _ => s
  | _, _ => s

def execJobResume (s : State) : Res := finish s (jobResumeF s)

/-! ### The end of a job (R349, R350) -/

/-- The tier a running job waits on, with the node for T3. -/
def jobWaits (s : State) (j : Job) : Option (Nat × Nat) :=
  match s.wyv.requests.find? fun r => r.job == j.id && r.msg.mtype != msgSync with
  | some r => some (3, r.dst)
  | none =>
    if (s.tier.tiles.any fun t => t.fetching && j.objects.any fun o => o.2 == t.object) || (s.tier.waits.any fun w => w.job == j.id) ||
      s.churn.updates.any fun u => u.fromJob && u.records.any (·.waits) then some (2, 0) else none

/-- JOB_OVERRUN: the run time has reached declared_wcet divided by f_a (R350). -/
def jobOverrunF (s : State) : State :=
  match ownerJob s with
  | some j =>
    if decide (1 ≤ j.st) && decide (j.st ≤ 2) && decide (16 * j.basket.wcet ≤ runTimeOf s j * s.thr.fa) then
      let w := jobWaits s j
      let s := bump 0x3500 4 (account j 6 1 s)
      match w with
      | some (tier, node) => endJob j.id stTierLate (tier + (if tier == 3 then node * 65536 else 0)) s
      | none => endJob j.id stJobFault (jobOp j) s
    else s
  | none => s

def execJobOverrun (s : State) : Res := finish s (jobOverrunF s)

/-! ### READ_RESULT (R64, R193) -/

/-- READ_RESULT: part of a job's output goes to the host; nothing past its end; a read of some part with release set gives it up. -/
def readResultF (e : Sqe) (s : State) : State :=
  basketCmd e opReadResult false none (fun _ s =>
    if decide (2 ^ 21 < e.cdw10) || decide (1 < e.cdw15) then endCmd e stInvalidField 0 s
    else match s.jobs.outputs.find? fun o => o.job == e.handle && o.fn == e.fn with
      | none => endCmd e stUnknownHandle 0 s
      | some o =>
        let off := e.cdw12 + e.cdw13 * 2 ^ 32
        let n := min e.cdw10 (o.len - off)
        if memAny o.poison off n then endCmd e stPoisonedInput 1 (logPoison e.handle s)
        else
          let s := if n == 0 then s else dma e.fn e.dptr (memRead o.data off n) s
          let s := if e.cdw15 == 1 && n != 0 then
              modJobs (fun r => { r with outputs := r.outputs.filter fun k => !(k.job == o.job && k.fn == o.fn) }) s
            else s
          endCmd e stSuccess n s) s

def execReadResult (e : Sqe) (s : State) : Res := finish s (readResultF e s)

end Sys2Proof.Machine
end

