-- ==== Sys2Proof/Machine/Threads.lean ====
section
/-! DEFINITION. Accesses to the windows of a node (R161, R178 to R181) and the thread engines' accesses (R293, R299, R329 to R334). -/

namespace Sys2Proof.Machine

open Sys2Proof

/-! ### Windows (R161, R180) -/

/-- Space and byte offset of a Wyvas address. -/
def addrSpace (a : Nat) : Nat := a / 2 ^ 48 % 2
def addrOff (a : Nat) : Nat := a % 2 ^ 48

/-- May a function access a range of this node's HBM window: 0, or the status of Table 15-6? -/
def windowCheck (s : State) (fn off len : Nat) : Nat :=
  if off + len ≤ 2 ^ 34 then
    if fenced s then 6 else if (regionAt s off len).isSome then 0 else 1
  else if scratchBase ≤ off then
    match ownerJob s with
    | some j => if j.fn != fn then 2 else if off + len ≤ scratchBase + j.basket.scratch then 0 else 1
    | none => 2
  else 1

/-- Does a function reach what a page of the object store belongs to (R45)? Only a placed object or a table is written through the flash window: a
basket or a list segment is written by its own commands alone (DEDUCED, assumption 76). -/
def ownerReached (s : State) (fn : Nat) (write : Bool) (o : StoreOwner) : Bool :=
  match o with
  | .object id =>
    (match s.churn.tables.find? fun t => tableObj t.id == id || countObj t.id == id with
     | some t => granted t.grants fn
     | none => match findObj s id with | some x => x.fn == fn | none => false)
  | .basket f _ => !write && f == fn
  | .segment i _ _ => !write && (match findIndex s i with | some x => granted x.grants fn | none => false)

/-- Does a function reach a logical page by the flash window: a page of a namespace attached to it or of an object it reaches, and not pinned? -/
def pageReached (s : State) (fn : Nat) (write : Bool) (lpn : Nat) : Bool :=
  !entryPinned (mapGet s lpn) &&
  ((s.host.namespaces.any fun x => x.ctrls.contains fn && x.aus.contains (lpn / 65536)) ||
   match pageOwner s lpn with | some p => ownerReached s fn write p.owner | none => false)

/-- The logical pages of a range of the flash window. -/
def rangePages (off len : Nat) : List Nat := (List.range ((off + len + 16383) / 16384 - off / 16384)).map (off / 16384 + ·)

/-- May a function access a range of the flash window (R161)? -/
def flashCheck (s : State) (fn : Nat) (write : Bool) (off len : Nat) : Nat :=
  if (rangePages off len).all (pageReached s fn write) then 0 else 1

/-- Bytes of the HBM window with a bit per 64-byte beat that is poisoned. -/
def windowRead (s : State) (off n : Nat) : Bytes × Nat :=
  (memRead s.tier.window off n,
   total ((List.range (ceilDiv n 64)).map fun b => if memAny s.tier.windowPoison (off + 64 * b) (min 64 (n - 64 * b)) then 2 ^ b else 0))

/-- Write the HBM window; a beat whose mask bit is set is written poisoned. Poison stands for whole code words of 32 bytes: a write that
covers a code word replaces its poison, one that covers part of it keeps it (R191). -/
def windowWrite (off : Nat) (bs : Bytes) (mask : Nat) (s : State) : State :=
  modTier (fun t => { t with
    window := memWrite t.window off bs
    windowPoison := (List.range ((off + bs.length + 31) / 32 - off / 32)).foldl (fun m k =>
      let w := (off / 32 + k) * 32
      let new := (List.range bs.length).any fun i => bitOf mask (i / 64) && (off + i) / 32 * 32 == w
      let old := !(decide (off ≤ w) && decide (w + 32 ≤ off + bs.length)) && memAny m w 32
      memOver m w 32 (if new || old then (List.range 32).map fun i => (i, 1) else [])) t.windowPoison }) s

/-- The quarters of a page that bytes touch. -/
def touchMask (off len : Nat) : Nat := cwMask ((List.range 4).filter fun q => decide (off < q * 4096 + 4096) && decide (q * 4096 < off + len))

/-- A page of the object store with what the tile cache holds of it over its copy on flash (R161). -/
def overCache (s : State) (lpn : Nat) (flash : Mem × Nat) : Mem × Nat :=
  match pageOwner s lpn with
  | none => flash
  | some p =>
    (s.tier.tiles.filter fun t => p.owner == .object t.object && t.inT1 && tileHere s t).foldl (fun m t =>
      if p.named p.owner (bodyPlace t).1 (bodyPlace t).2.1 then
        let off := (bodyPlace t).2.2
        let n := bodyBytes t.format
        (memOver m.1 off n t.body, if t.poison then m.2 ||| touchMask off n else m.2 &&& (15 - quarterMask off n))
      else if t.format != 0xFF && p.named p.owner 0 (headerPlace t).1 then
        (memOver m.1 (headerPlace t).2 256 (memOf (storedHeader t)), m.2)
      else m) flash

/-- A logical page as a read of the flash window finds it: the Pail, then the tile cache, then the map (R161). -/
def pageSeen (s : State) (lpn : Nat) : Mem × Nat := overPail s lpn (overCache s lpn (flashCopy s lpn))

/-- Bytes of the flash window; a deallocated page reads zero. -/
def flashRead (s : State) (off n : Nat) : Bytes × Nat :=
  let pieces := pagePieces (n / 16384 + 2) off n
  ((pieces.flatMap fun p => memRead (pageSeen s p.1).1 p.2.1 p.2.2),
   if pieces.any fun p => pieceBad (pageSeen s p.1).2 p.2.1 p.2.2 then 2 ^ 64 - 1 else 0)

/-- Does a range of the flash window wait for a line of the map (R133)? -/
def flashHeld (s : State) (off len : Nat) : Bool := (rangePages off len).any (lineWaits s)

/-- The kind and id by which an audited command names an object (R402). -/
def auditName (s : State) (object : Nat) : Nat × Nat :=
  match findObj s object with
  | some o => if o.kind == 2 then (2, (object - 2 ^ 63) / 2 ^ 16) else (o.kind, object)
  | none => (0, object)

/-- A store to bytes of a tile of this node is one tile write; none where it waits: for a fetch, for a migration that holds writes, or for an audited
command that holds the object (R167, R176, R402). -/
def storeTile (fn job object index off : Nat) (data : Bytes) (s : State) : Option State :=
  let u := tileOf s object index
  if auditHeld s job (auditName s object).1 (auditName s object).2 || u.held || needsFetch u then none
  else some (tileWrite fn object index (data.length == bodyBytes u.format) (fun u => { u with body := memWrite u.body off data }) s)

/-- A write of a part of a body page of an object: a tile write for each tile it touches, each written back through the Pail (R161). -/
def storeBodies (fn job : Nat) (p : StorePage) (id off : Nat) (data : Bytes) (s : State) : Option State :=
  (List.range (16384 / p.size)).foldl (fun o k =>
    match o with
    | none => none
    | some s =>
      let lo := max off (k * p.size)
      let hi := min (off + data.length) ((k + 1) * p.size)
      if hi ≤ lo then some s
      else if !pailHasRoom s 2 2 then none
      else
        let i := p.no * (16384 / p.size) + k
        (storeTile fn job id i (lo - k * p.size) (slice data (lo - off) (hi - lo)) s).map (writeBack false id i)) (some s)

/-- Header pages that change leave T1 nothing to serve: a clean tile is fetched again. -/
def dropHeaders (id no : Nat) (s : State) : State :=
  modTier (fun t => { t with
    tiles := updWhere (fun u => u.object == id && u.inT1 && !u.dirty && (headerPlace u).1 == no) (fun u => { u with inT1 := false }) t.tiles }) s

/-- A write of a part of a page of the flash window; none where it waits for Pail space, a line of the map or a tile (R133, R161, R452). -/
def storePage (fn job lpn off : Nat) (data : Bytes) (s : State) : Option State :=
  if lineWaits s lpn then none
  else match pageOwner s lpn with
    | none => if pailHasRoom s 1 1 then some (acceptPage lpn off data s) else none
    | some p =>
      match p.owner with
      | .object id =>
        if p.size != 0 then storeBodies fn job p id off data s
        else if pailHasRoom s 1 1 then some (dropHeaders id p.no (acceptAs p.kind (classOf s lpn) lpn off data s)) else none
      | _ => none

/-- Write the flash window. -/
def flashWrite (fn job off : Nat) (data : Bytes) (s : State) : Option State :=
  ((pagePieces (data.length / 16384 + 2) off data.length).foldl (fun o p =>
    match o with
    | none => none
    | some x => (storePage fn job p.1 p.2.1 (slice x.1 0 p.2.2) x.2).map fun s => (x.1.drop p.2.2, s)) (some (data, s))).map
    fun x => pump false x.2

/-- Is a range in a coherent region whose home is the twin (R181)? -/
def homedAway (s : State) (off len : Nat) : Bool :=
  decide (off + len ≤ 2 ^ 34) && (match regionAt s off len with | some r => !r.homed | none => false)

/-- Must a write of a range be copied to the twin before it completes (R179)? -/
def mirrors (s : State) (off len : Nat) : Bool :=
  decide (off + len ≤ 2 ^ 34) && (portUp s 12 || portUp s 13) &&
  (match regionAt s off len with | some r => r.homed && r.mirrored | none => false)

/-- The word an atomic leaves: add, swap, compare-and-swap. -/
def atomicResult (op old a b : Nat) : Nat :=
  match op with
  | 0 => (old + a) % 2 ^ 64
  | 1 => a
  | _ => if old == a then b else old

/-! ### Threads (R329, R330) -/

/-- A thread that waits. -/
def threadWaits (t : ThreadId) (s : State) : State := modThread t (fun x => { x with wait := true }) s

/-- A thread of a job meets a status of Table 15-6 that is not Done (R330, R185). -/
def threadFails (j : Job) (status tier node : Nat) (s : State) : State :=
  if status == 1 || status == 2 then endJob j.id stJobFault (jobOp j) s
  else endJob j.id stTierError (tier + (if tier == 3 then node * 65536 else 0)) s

/-- A thread of a job consumed poison (R193). -/
def threadPoison (j : Job) (tier : Nat) (s : State) : State := endJob j.id stPoisonedInput tier s

/-- Has a thread a write or atomic to a remote 64-byte line without its Response (R370)? -/
def lineBusy (s : State) (t : ThreadId) (node addr : Nat) : Bool :=
  s.wyv.requests.any fun r => r.who == .thread t && r.dst == node && r.msg.mtype != msgRead && r.msg.mtype != msgSync &&
    r.msg.target / 64 == addr / 64

/-- Reach another node: no such node ends the job with Job Fault, an unreachable one with Tier Error (R186, R371). -/
def toNode (j : Job) (node : Nat) (go : State → State) (s : State) : State :=
  if !nodeNamed s node then endJob j.id stJobFault (jobOp j) s
  else if !t3Open s node then threadFails j 3 3 node s
  else go s

/-- The cell SRAM a thread's target names: its own, or for a cell thread another cell of the job; none where it may not be reached. -/
def sramTarget (s : State) (j : Job) (t : ThreadId) (tg : Target) (len : Nat) : Option (Nat × Nat) :=
  if t.engine || len == 0 || decide (64 < len) then none
  else match tg with
    | .sram off => if inArea s j.basket.cls off len then some (t.unit, off) else none
    | .cellSram c off => if cellIn s c && inArea s j.basket.cls off len then some (c, off) else none
    | _ => none

/-- The placed object and tile a thread's target names, with room for the access. -/
def objectTarget (s : State) (j : Job) (slot tile off len : Nat) : Option (Bytes × PObj) :=
  match jobSlot j slot with
  | some (sl, id) =>
    match findObj s id with
    | some o =>
      if decide (slotKind sl ≤ 1) && decide (tile < o.size) && decide (off + len ≤ bodyBytes (tileOf s id tile).format) then some (sl, o)
      else none
    | none => none
  | none => none

/-- A posted store that has no Response yet. -/
def posted (t : ThreadId) (s : State) : State := modThread t (fun x => { x with stores := x.stores + 1 }) s

/-! ### Accesses to tiers of this node -/

/-- Change a thread of a job, in its context while the job is pre-empted. -/
def modAnyThread (job : Nat) (t : ThreadId) (f : Thread → Thread) (s : State) : State :=
  if s.jobs.owner == some job then modThread t f s
  else modJob job (fun j => { j with
    context := j.context.map fun c => { c with threads := updWhere (·.id == t) f c.threads } }) s

/-- Has a thread anything outstanding that it waits on: a load, an atomic, or a synchronisation operation? -/
def threadBlocked (s : State) (job : Nat) (t : ThreadId) : Bool :=
  (s.wyv.requests.any fun r => r.job == job && r.who == .thread t && (r.msg.mtype != msgWrite || r.atomic)) ||
  (s.tier.waits.any fun w => w.job == job && w.thread == t && w.access.answered) ||
  (s.sync.objs.any fun o => o.waiters.any fun w => w.who == .thread t)

/-- A posted store of a thread has completed; a fence of the thread ends with the last of them (R332, R334). -/
def storeDone (job : Nat) (t : ThreadId) (s : State) : State :=
  let blocked := threadBlocked s job t
  modAnyThread job t (fun x => { x with
    stores := x.stores - 1
    wait := if x.stores ≤ 1 && !blocked then false else x.wait }) s

/-- An atomic on a word of this node's HBM window: the old value and the state after it. -/
def windowAtomic (off op a b : Nat) (s : State) : Nat × State :=
  let old := memNat s.tier.window off 8
  (old, windowWrite off (natLE 8 (atomicResult op old a b)) 0 s)

/-- A write of the HBM window of this node; the coherent area's goes to both Pail copies too, and waits for their room (R179, R452). The code words it
covers in part are served from the locked pair first, where HBM has lost them. -/
def hbmWrite (off : Nat) (data : Bytes) (mask : Nat) (s : State) : Option State :=
  if !inCoherent off data.length then some (windowWrite off data mask s)
  else if !coherentRoom s off data.length then none
  else some (storeCoherent off data.length (windowWrite off data mask (healCoherent off data.length s)))

/-- A load of a window of this node (space 0 HBM, 1 flash) by a thread of a function; none where it waits. -/
def loadHere (t : ThreadId) (j : Job) (space off len : Nat) (s : State) : Option State :=
  let st := if space == 0 then windowCheck s j.fn off len else flashCheck s j.fn false off len
  if st != 0 then some (threadFails j st 1 0 s)
  else if space == 0 && homedAway s off len then
    some (threadWaits t (issueTwin msgRead 0 (wyvasAddr (ownNode s) 0 off) j.fn j.express len [] 0 (.thread t) none s))
  else if space != 0 && flashHeld s off len then none
  else
    let s := if space == 0 && inCoherent off len then healCoherent off len s else s
    let r := if space == 0 then windowRead s off len else flashRead s off len
    some (if r.2 != 0 then threadPoison j (space + 1) s else threadDone t (leNat r.1) s)

/-- A load of a tile; none where it waits for a fetch (R166). A tile on another node is read there. -/
def loadTile (t : ThreadId) (j : Job) (object tile off len : Nat) (s : State) : Option State :=
  let u := tileOf s object tile
  if tileAway s u then
    some (toNode j u.node (fun s => threadWaits t (issueRequest u.node msgRead 0 (freshNat s) j.fn j.express len [] 0 (.thread t)
      (some (object, tile)) off (drew s))) s)
  else if needsFetch u then none
  else some (if u.poison then threadPoison j 1 s
    else threadDone t (leNat (memRead u.body off len)) (if u.inT1 then putTile { u with used := s.time } s else s))

/-- A thread's store to a placed object; on another node it is sent there, else it is one tile write. -/
def storeObject (t : ThreadId) (j : Job) (object tile off : Nat) (data : Bytes) (s : State) : Option State :=
  let u := tileOf s object tile
  if u.node != ownNode s then
    some (toNode j u.node (fun s => posted t (issueRequest u.node msgWrite 0 (freshNat s) j.fn j.express data.length data 0
      (.thread t) (some (object, tile)) off (drew s))) s)
  else storeTile j.fn j.id object tile off data s

/-- A store to a window of this node; none where it waits. -/
def storeHere (t : ThreadId) (j : Job) (space off : Nat) (data : Bytes) (s : State) : Option State :=
  let len := data.length
  let st := if space == 0 then windowCheck s j.fn off len else flashCheck s j.fn true off len
  if st != 0 then some (threadFails j st 1 0 s)
  else if space == 1 then flashWrite j.fn j.id off data s
  else if homedAway s off len then
    some (posted t (issueTwin msgWrite 0 (wyvasAddr (ownNode s) 0 off) j.fn j.express len data 0 (.thread t) none s))
  else (hbmWrite off data 0 s).map fun s =>
    if mirrors s off len then
      posted t (issueTwin msgWrite 0 (wyvasAddr (ownNode s) 0 off) j.fn j.express len data 0 (.thread t) none s)
    else s

/-- An atomic of a thread on this node's HBM window; none where it waits. -/
def atomicHere (t : ThreadId) (j : Job) (off op a b : Nat) (s : State) : Option State :=
  let st := windowCheck s j.fn off 8
  let addr := wyvasAddr (ownNode s) 0 off
  if st != 0 then some (threadFails j st 1 0 s)
  else if homedAway s off 8 then
    some (threadWaits t (issueTwin msgAtomic op addr j.fn j.express 64 (natLE 8 a ++ natLE 8 b ++ List.replicate 48 0) 0 (.thread t) none s))
  else if inCoherent off 8 && !coherentRoom s off 8 then none
  else
    let s := if inCoherent off 8 then healCoherent off 8 s else s
    if memAny s.tier.windowPoison off 8 then some (threadPoison j 1 s)
    else
      let (old, s) := windowAtomic off op a b s
      let s := if inCoherent off 8 then storeCoherent off 8 s else s
      some (if mirrors s off 8 then
          threadWaits t (issueTwin msgWrite 0 addr j.fn j.express 8 (memRead s.tier.window off 8) 0 (.thread t) (some old) s)
        else threadDone t old s)

/-- Carry out an access to a tier of this node; none where it waits. -/
def accessHere (t : ThreadId) (j : Job) (a : Access) (s : State) : Option State :=
  match a with
  | .load (.object slot tile off) len =>
    (match jobSlot j slot with | some x => loadTile t j x.2 tile off len s | none => some s)
  | .store (.object slot tile off) data =>
    (match jobSlot j slot with | some x => storeObject t j x.2 tile off data s | none => some s)
  | .load (.window _ off) len => loadHere t j 0 off len s
  | .load (.flash _ off) len => loadHere t j 1 off len s
  | .store (.window _ off) data => storeHere t j 0 off data s
  | .store (.flash _ off) data => storeHere t j 1 off data s
  | .atomic (.window _ off) op a b => atomicHere t j off op a b s
  | _ => some s

/-- A tile that an access waits for is fetched; a store that an audited command holds is counted (R166, R402). -/
def startTile (job id i : Nat) (store : Bool) (s : State) : State :=
  if store && auditHeld s job (auditName s id).1 (auditName s id).2 then holdWrite s
  else if needsFetch (tileOf s id i) then startFetch id i s else s

/-- The tiles that a write of a range of the flash window touches are fetched (R161, R167). -/
def fetchPages (job off len : Nat) (s : State) : State :=
  (rangePages off len).foldl (fun s l => match pageOwner s l with
    | some p => (match p.owner with
      | .object id => if p.size == 0 then s else (List.range (16384 / p.size)).foldl (fun s k =>
          if decide (off < l * 16384 + (k + 1) * p.size) && decide (l * 16384 + k * p.size < off + len) then
            startTile job id (p.no * (16384 / p.size) + k) true s
          else s) s
      | _ => s)
    | none => s) s

/-- What an access waits for is asked for. -/
def startAccess (j : Job) (a : Access) (s : State) : State :=
  match a with
  | .load (.object slot tile _) _ => (match jobSlot j slot with | some x => startTile j.id x.2 tile false s | none => s)
  | .store (.object slot tile _) _ => (match jobSlot j slot with | some x => startTile j.id x.2 tile true s | none => s)
  | .store (.flash _ off) data => fetchPages j.id off data.length s
  | _ => s

/-- An access waits: the thread for its answer, a store posted (R329). -/
def waitAccess (t : ThreadId) (j : Job) (a : Access) (s : State) : State :=
  let s := modTier (fun r => { r with waits := r.waits ++ [{ thread := t, job := j.id, fn := j.fn, access := a }] }) (startAccess j a s)
  if a.answered then threadWaits t s else posted t s

/-- Does an earlier store of the thread wait? A later access then waits behind it, so that accesses to one address take effect in program order
(R331). -/
def storeAhead (s : State) (t : ThreadId) (j : Job) : Bool := s.tier.waits.any fun w => w.thread == t && w.job == j.id && !w.access.answered

/-- A thread's access to a tier of this node, which waits where it must. -/
def access (t : ThreadId) (j : Job) (a : Access) (s : State) : State :=
  if storeAhead s t j then waitAccess t j a s
  else match accessHere t j a s with
    | some s => s
    | none => waitAccess t j a s

/-- An access that waits is carried out if it may be now, in its turn; a store completes though its job has been pre-empted. -/
def serveWait (s : State) (w : TierWait) : State :=
  let keep := modTier (fun r => { r with waits := r.waits ++ [w] }) s
  match findJob s w.job with
  | none =>
    (match w.access with
     | .store (.flash _ off) data => ((flashWrite w.fn w.job off data s)).getD keep
     | .store (.window _ off) data => ((hbmWrite off data 0 s)).getD keep
     | _ => s)
  | some j =>
    if s.tier.waits.any fun x => x.thread == w.thread && x.job == w.job && !x.access.answered then keep
    else match accessHere w.thread j w.access s with
      | none => keep
      | some s => if w.access.answered then s else storeDone w.job w.thread s

/-- Serve what waits for a tier, oldest first. -/
def serveWaits (s : State) : State := s.tier.waits.foldl serveWait (modTier (fun r => { r with waits := [] }) s)

/-- A load of a window of another node. -/
def loadAway (t : ThreadId) (j : Job) (node space off len : Nat) (s : State) : State :=
  let a := wyvasAddr node space off
  toNode j node (fun s =>
    if lineBusy s t node a then s
    else threadWaits t (issueRequest node msgRead 0 a j.fn j.express len [] 0 (.thread t) none 0 s)) s

/-- THREAD_LOAD: the thread receives the bytes; a load that needs a tile from T2 waits for it, and is served when it is there (R166, R330). `parity` says
that a datum of cell SRAM fails its parity as it is loaded (R189). -/
def threadLoadF (t : ThreadId) (tg : Target) (len : Nat) (parity : Bool) (s : State) : State :=
  match readyThread s t with
  | none => s
  | some (j, _) =>
    match tg with
    | .object slot tile off =>
      (match objectTarget s j slot tile off len with
       | none => endOwner stJobFault none s
       | some _ => access t j (.load tg len) s)
    | .window node off => if node == ownNode s then access t j (.load tg len) s else loadAway t j node 0 off len s
    | .flash node off => if node == ownNode s then access t j (.load tg len) s else loadAway t j node 1 off len s
    | _ =>
      match sramTarget s j t tg len with
      | none => endOwner stJobFault none s
      | some (c, off) =>
        let s := if parity then cellParity c off len s else s
        if sramBad s c off len then threadPoison j 0 s else threadDone t (leNat (sramRead s c off len)) s

def execThreadLoad (t : ThreadId) (tg : Target) (r : LoadRead) (s : State) : Res := finish s (threadLoadF t tg r.len r.parity s)

/-- A store to a window of another node. -/
def storeAway (t : ThreadId) (j : Job) (node space off : Nat) (data : Bytes) (s : State) : State :=
  let a := wyvasAddr node space off
  toNode j node (fun s =>
    if lineBusy s t node a then s
    else posted t (issueRequest node msgWrite 0 a j.fn j.express data.length data 0 (.thread t) none 0 s)) s

/-- THREAD_STORE: posted, at most 16 of a thread outstanding; a store to a placed object is one tile write (R167, R329), and
waits where an audited command holds the object (R402). -/
def threadStoreF (t : ThreadId) (tg : Target) (data : Bytes) (s : State) : State :=
  match readyThread s t with
  | none => s
  | some (j, x) =>
    if decide (16 ≤ x.stores) then s
    else match tg with
      | .object slot tile off =>
        (match objectTarget s j slot tile off data.length with
         | none => endOwner stJobFault none s
         | some (sl, _) => if slotAccess sl == 0 then endOwner stJobFault none s else access t j (.store tg data) s)
      | .window node off => if node == ownNode s then access t j (.store tg data) s else storeAway t j node 0 off data s
      | .flash node off => if node == ownNode s then access t j (.store tg data) s else storeAway t j node 1 off data s
      | _ =>
        match sramTarget s j t tg data.length with
        | none => endOwner stJobFault none s
        | some (c, off) => sramPut c off data s

def execThreadStore (t : ThreadId) (tg : Target) (data : Bytes) (s : State) : Res := finish s (threadStoreF t tg data s)

/-- THREAD_ATOMIC: a 64-bit add, swap or compare-and-swap on an aligned word of an HBM window, performed at its home (R180, R330). -/
def threadAtomicF (t : ThreadId) (tg : Target) (op a b : Nat) (s : State) : State :=
  match readyThread s t with
  | none => s
  | some (j, _) =>
    match tg with
    | .window node off =>
      if off % 8 != 0 || decide (2 < op) then endOwner stJobFault none s
      else if node == ownNode s then access t j (.atomic tg op a b) s
      else toNode j node (fun s =>
        let addr := wyvasAddr node 0 off
        if lineBusy s t node addr then s
        else threadWaits t (issueRequest node msgAtomic op addr j.fn j.express 64 (natLE 8 a ++ natLE 8 b ++ List.replicate 48 0) 0
          (.thread t) none 0 s)) s
    | _ => endOwner stJobFault none s

def execThreadAtomic (t : ThreadId) (tg : Target) (op a b : Nat) (s : State) : Res := finish s (threadAtomicF t tg op a b s)

/-- THREAD_FENCE: complete once every earlier access has completed; until then the thread waits (R334). -/
def threadFenceF (t : ThreadId) (s : State) : State :=
  match readyThread s t with
  | none => s
  | some (_, x) => if x.stores == 0 then s else threadWaits t s

def execThreadFence (t : ThreadId) (s : State) : Res := finish s (threadFenceF t s)

/-- THREAD_EXIT: the thread ends (R329). -/
def threadExitF (t : ThreadId) (s : State) : State :=
  match readyThread s t with
  | none => s
  | some _ => modJobs (fun r => { r with threads := r.threads.filter (·.id != t) }) s

def execThreadExit (t : ThreadId) (s : State) : Res := finish s (threadExitF t s)

/-- CANDIDATE_SUBMIT: a channel-engine thread's candidates enter a pool of its engine, each with the key of R293; FP32 scores, larger
first (DEDUCED, assumption 28). -/
def candidateSubmitF (t : ThreadId) (pool : Nat) (cands : List Cand) (s : State) : State :=
  match readyThread s t with
  | none => s
  | some (j, _) =>
    if !t.engine || decide (256 ≤ pool) then endOwner stJobFault none s
    else
      let mine := cands.map fun c => { c with node := keyNode s, source := t.unit }
      let here := fun (x : Nat × Nat × Nat × List Cand) => x.1 == j.id && x.2.1 == t.unit && x.2.2.1 == pool
      let old := match s.retr.pools.find? here with | some x => x.2.2.2 | none => []
      countNan 0 mine (modRetr (fun r => { r with
        pools := r.pools.filter (fun x => !here x) ++ [(j.id, t.unit, pool, skimBest false 0 64 (old ++ mine))] }) s)

def execCandidateSubmit (t : ThreadId) (pool : Nat) (cands : List Cand) (s : State) : Res := finish s (candidateSubmitF t pool cands s)

end Sys2Proof.Machine
end

