-- ==== Sys2Proof/Machine/Churn.lean ====
section
/-! DEFINITION. Churn tables and updates (chapter 13): the recurrence, the Update command, the CHURN operation and the records they
apply. -/

namespace Sys2Proof.Machine

open Sys2Proof

/-! ### The recurrence (R313 to R317) -/

/-- The eight coefficients of an entry: FP32 bits. -/
def coefList (v : Nat) : List Nat := (List.range 8).map fun k => v / 2 ^ (32 * k) % 2 ^ 32

/-- One element through the recurrence: the new w, m and v from the old ones and the gradient, all FP32 bits (R313). -/
def churnElem (c : List Nat) (g w0 m0 v0 : Nat) : Nat × Nat × Nat :=
  let k := fun (i : Nat) => c.getD (i - 1) 0
  let m := fadd (fmul (k 1) m0) (fmul (k 2) g)
  let v := fadd (fmul (k 3) v0) (fmul (k 4) (fmul g g))
  let u := fdiv (fmul (k 5) m) (fadd (fsqrt (fmaxB v 0)) (k 6))
  (fsub (fsub w0 u) (fmul (k 7) w0), m, v)

/-- The tile of a row's plane and block. -/
def rowTile (t : Table) (row p b : Nat) : Nat := (row / 64 * layoutPlanes t.layout + p) * layoutBlocks t.layout + b

/-- The scale of a row in a tile, FP32 bits: 1 in BF16 planes. -/
def tileRowScale (f : Nat) (u : Tile) (r : Nat) : Nat := if f == 5 then one32 else memNat u.scale (2 * r) 2 * 65536

/-- The old values of a row in a plane, FP32 bits. -/
def oldRow (s : State) (t : Table) (row p : Nat) : List Nat :=
  let f := planeFormat t.layout p
  (List.range (layoutD t.layout)).map fun i =>
    let u := tileOf s (tableObj t.id) (rowTile t row p (i / 64))
    fmul (widen f (bodyElem f u.body 0 (64 * (row % 64) + i % 64))) (tileRowScale f u (row % 64))

/-- The step count of a row (R311). -/
def stepCount (s : State) (t : Table) (row : Nat) : Nat := memNat (tileOf s (countObj t.id) (row / 4096)).body (4 * (row % 4096)) 4

/-- The scale and the conversions of a row's new values in plane `p` (R314). -/
def storeRow (t : Table) (row step p : Nat) (xs : List Nat) : Nat × List Conv :=
  let f := planeFormat t.layout p
  let a := (xs.map fun x => x % 2 ^ 31).foldl max 0
  let sc := if f == 5 then one32 else scaleOf f 1 a
  let r := frecip sc
  (sc, (List.range xs.length).map fun i =>
    let v := mulV (f32 (xs.getD i 0)) (f32 r)
    if bitOf t.layout 48 then convSr f (srHash row step i p) v else convRne f v)

/-- The plane of m and of v, where they are present. -/
def planeM (w : Nat) : Option Nat := if layoutHasM w then some 1 else none
def planeV (w : Nat) : Option Nat := if layoutHasV w then some (1 + boolNat (layoutHasM w)) else none

/-- Write one plane of a row: its line and its scale in each of its tiles (R317). -/
def putPlane (fn : Nat) (t : Table) (row step p : Nat) (xs : List Nat) (s : State) : State :=
  let f := planeFormat t.layout p
  let (sc, cs) := storeRow t row step p xs
  let r := row % 64
  let s := countConv cs s
  (List.range (layoutBlocks t.layout)).foldl (fun s b =>
    let part := (cs.drop (64 * b)).take 64
    let line := part.flatMap fun c => natLE (if f == 5 then 2 else 1) c.bits
    tileWrite fn (tableObj t.id) (rowTile t row p b) false (fun u => { u with
      body := memWrite u.body ((if f == 5 then 128 else 64) * r) line
      scale := if f == 5 then u.scale else memPutNat u.scale (2 * r) 2 (sc / 65536) }) s) s

/-- Fields of an update record (Table 13-4). -/
def recRow (b : Bytes) : Nat := field b 0 8
def recGroup (b : Bytes) : Nat := field b 8 2
def recGrad (b : Bytes) (i : Nat) : Nat := field b (16 + i) 1

/-- Does a record keep Table 13-4? -/
def recOk (t : Table) (b : Bytes) : Bool :=
  decide (recRow b < t.rows) && decide (recGroup b < 4096) && scaleOk (field b 10 2 * 65536) && rz b 12 4

/-- Is any gradient byte of a record infinite or NaN (R315)? -/
def gradBad (d : Nat) (b : Bytes) : Bool := (List.range d).any fun i => !isFin (decodeFmt 1 (recGrad b i))

/-- The new values of a row under a record: (w, m, v) element by element, and the step count. -/
def churnRow (s : State) (t : Table) (b : Bytes) (c : List Nat) : List (Nat × Nat × Nat) × Nat :=
  let row := recRow b
  let d := layoutD t.layout
  let zero := List.replicate d 0
  let w0 := oldRow s t row 0
  let m0 := match planeM t.layout with | some p => oldRow s t row p | none => zero
  let v0 := match planeV t.layout with | some p => oldRow s t row p | none => zero
  let gs := field b 10 2 * 65536
  ((List.range d).map fun i =>
    churnElem c (fmul (widen 1 (recGrad b i)) gs) (w0.getD i 0) (m0.getD i 0) (v0.getD i 0),
   fadd (stepCount s t row) (c.getD 7 0))

/-- Apply a record to its row: nothing is written where a value is not finite (R315). -/
def applyRecord (fn : Nat) (t : Table) (step : Nat) (b : Bytes) (c : List Nat) (s : State) : Bool × State :=
  let (xs, n) := churnRow s t b c
  let row := recRow b
  if gradBad (layoutD t.layout) b || !f32Finite n || !xs.all (fun x => f32Finite x.1 && f32Finite x.2.1 && f32Finite x.2.2) then
    (false, bump 0x3401 3 s)
  else
    let s := putPlane fn t row step 0 (xs.map (·.1)) s
    let s := match planeM t.layout with | some p => putPlane fn t row step p (xs.map (·.2.1)) s | none => s
    let s := match planeV t.layout with | some p => putPlane fn t row step p (xs.map (·.2.2)) s | none => s
    let s := tileWrite fn (countObj t.id) (row / 4096) false (fun u => { u with
      body := memPutNat u.body (4 * (row % 4096)) 4 n }) s
    (true, bump 0x3401 1 s)

/-! ### Commands that apply records (R320 to R327) -/

/-- Is an update the one of a command? -/
def Upd.named (u : Upd) (fn sq cid : Nat) : Bool := u.fn == fn && u.sq == sq && u.cid == cid

/-- Change an update. -/
def modUpd (fn sq cid : Nat) (f : Upd → Upd) (s : State) : State :=
  modChurn (fun c => { c with updates := updWhere (·.named fn sq cid) f c.updates }) s

/-- An update leaves; its records that were not applied are counted (ChurnState.5). -/
def dropUpd (fn sq cid : Nat) (s : State) : State :=
  let left := total ((s.churn.updates.filter (·.named fn sq cid)).map fun u => u.records.length)
  bumpBy 0x3401 5 left (modChurn (fun c => { c with updates := c.updates.filter fun u => !u.named fn sq cid }) s)

/-- End an update early: an Update command with its status, a CHURN with its job (R321). -/
def failUpd (u : Upd) (st : Status) (dw0 : Nat) (s : State) : State :=
  let s := if st == stPoisonedInput && !u.fromJob then logPoison u.table s else s
  if u.fromJob then endOwner st (some dw0) s else endBasket u.fn u.sq u.cid st dw0 0 noOp (dropUpd u.fn u.sq u.cid s)

/-- Every record has been applied or refused: the Update completes, or the CHURN operation ends (R320, R327). -/
def finishUpd (u : Upd) (s : State) : State :=
  let s := dropUpd u.fn u.sq u.cid s
  if u.fromJob then (match ownerJob s with | some j => opDone j s | none => s)
  else
    let flags := if u.throttled then 8 else 0
    endBasket u.fn u.sq u.cid stSuccess 0 0 noOp
      (dmaResult u.resultAddr (resultRegion noHandle 0 (flags + (if deterministic s then 16 else 0)) 0 (u.applied % 2 ^ 32 + u.fetched * 2 ^ 32) []) s)

/-- The tiles and count page of a row, as (object, index). -/
def rowPlaces (t : Table) (row : Nat) : List (Nat × Nat) :=
  ((List.range (layoutPlanes t.layout)).flatMap fun p =>
    (List.range (layoutBlocks t.layout)).map fun b => (tableObj t.id, rowTile t row p b)) ++ [(countObj t.id, row / 4096)]

/-- May an update apply records now: in deterministic mode none of the same table was admitted before it (R325)? -/
def updTurn (s : State) (u : Upd) : Bool :=
  !deterministic s || (match s.churn.updates.find? (·.table == u.table) with | some v => v.named u.fn u.sq u.cid | none => true)

/-- Is the table held for an audited command other than the update's own job (R402)? -/
def updHeld (s : State) (u : Upd) : Bool :=
  auditHeld s (if u.fromJob then s.jobs.owner.getD 0 else 0) 2 u.table

/-- The head record's row groups are allocated by its first update (R312). -/
def allocGroup (t : Table) (g : Nat) (s : State) : State :=
  if t.groups.contains g then s
  else bump 0x3401 4 (modChurn (fun c => { c with
    tables := updWhere (·.id == t.id) (fun t => { t with groups := t.groups ++ [g] }) c.tables }) s)

/-- The record of an update that may be applied next for its row: it is not applied yet, and none before it names its row (R323). -/
def Upd.due (u : Upd) (no : Nat) : Option URec :=
  match u.records.find? (·.no == no) with
  | some r => if (u.records.takeWhile (·.no != no)).any fun k => recRow k.bytes == recRow r.bytes then none else some r
  | none => none

/-- Apply a record whose tiles are all in T1, and end the update after its last. -/
def applyDue (u : Upd) (r : URec) (t : Table) (s : State) : State :=
  let (ok, s) := applyRecord u.fn t u.step r.bytes r.coefs s
  let s := if ok then allocGroup t (recRow r.bytes / 64) s else s
  let u := { u with records := u.records.filter (·.no != r.no), applied := u.applied + boolNat ok }
  let s := modUpd u.fn u.sq u.cid (fun _ => u) s
  if u.records == [] then finishUpd u s else s

/-- A record whose tiles are not all in T1 waits for their fetch; it is counted once. -/
def awaitTiles (u : Upd) (r : URec) (cold : List Tile) (s : State) : State :=
  let s := cold.foldl (fun s x => startFetch x.object x.index s) s
  if r.waits then s
  else bump 0x3401 2 (modUpd u.fn u.sq u.cid (fun u => { u with
    records := updWhere (·.no == r.no) (fun k => { k with waits := true }) u.records
    fetched := u.fetched + 1 }) s)

/-- CHURN_RECORD: record `no` of a command reaches its Churn: records of one row in their order, those of different rows in any (R313 to R317, R323 to
R326); at an issue rate of 0 it waits (R30). -/
def churnRecordF (fn sq cid no : Nat) (s : State) : State :=
  match s.churn.updates.find? (·.named fn sq cid) with
  | none => s
  | some u =>
    match u.due no, findTable s u.table with
    | none, _ => s
    | some _, none => failUpd u stUnknownHandle 0 s
    | some r, some t =>
      if !updTurn s u || s.thr.fa == 0 then s
      else if updHeld s u then holdWrite s
      else
        let ts := (rowPlaces t (recRow r.bytes)).map fun x => tileOf s x.1 x.2
        if ts.any Tile.held then s
        else if ts.any needsFetch then awaitTiles u r (ts.filter needsFetch) s
        else if ts.any (·.poison) then failUpd u stPoisonedInput 1 s
        else if !t.groups.contains (recRow r.bytes / 64) && storeFull s (pagesLacking s ts) then failUpd u stCapacityExhausted 0 s
        else applyDue u r t s

def execChurnRecord (fn sq : Nat) (r : RecordRef) (s : State) : Res := finish s (churnRecordF fn sq r.cid r.no s)

/-! ### UPDATE (R318, R319, R322) -/

/-- The coefficients of a group in the module's ChurnGroups, or in those a job was admitted with. -/
def groupCoefs (vals : KV) (g : Nat) : List Nat :=
  let idx := 0x3410 + g / 128
  let sub := g % 128 + 1
  coefList (kvGet (resetVal idx sub) vals (objKey idx sub))

/-- The coefficient entries of an Update: group and c1 to c8. -/
def updEntries (b : Bytes) : List (Nat × Bytes) :=
  (List.range (field b 1 1)).map fun k => (field b (32 + 48 * k) 2, (b.drop (32 + 48 * k)).take 48)

/-- The records of an Update. -/
def updRecords (b : Bytes) (d count : Nat) : List Bytes := cut (16 + d) count (b.drop (32 + 48 * field b 1 1))

/-- Does an Update's input keep Tables 13-3 and 13-4 and its length (R319)? -/
def updInputOk (t : Table) (b : Bytes) (len count : Nat) : Bool :=
  let d := layoutD t.layout
  let es := updEntries b
  decide (32 ≤ len) && field b 0 1 == 1 && decide (field b 1 1 ≤ 64) && field b 2 2 == d && rz b 8 24 &&
  len == 32 + 48 * field b 1 1 + count * (16 + d) &&
  es.all (fun e => decide (e.1 < 4096) && rz e.2 2 14 && (List.range 8).all fun k => f32Finite (field e.2 (16 + 4 * k) 4)) &&
  (es.map (·.1)).eraseDups.length == es.length && (updRecords b d count).all (recOk t)

/-- Records of a command in their order, with the coefficients each takes. -/
def updList (rs : List Bytes) (coefs : Bytes → List Nat) : List URec :=
  rs.mapIdx fun i b => { no := i, bytes := b, coefs := coefs b, waits := false }

/-- The coefficients a record takes: those of the command's entry for its group, else the module's (R318). -/
def recCoefs (vals : KV) (es : List (Nat × Bytes)) (b : Bytes) : List Nat :=
  match es.find? (·.1 == recGroup b) with
  | some e => (List.range 8).map fun k => field e.2 (16 + 4 * k) 4
  | none => groupCoefs vals (recGroup b)

/-- Payload rate of the current host link in bytes per nanosecond (Table 3-1); a free value at an operating point it does not give. -/
def linkRate (s : State) : Nat :=
  match obj s 0x1200 1, obj s 0x1200 2 with
  | 128, 8 => 118
  | 128, 4 => 59
  | 64, 8 => 59
  | 64, 4 => 29
  | 32, 8 => 29
  | 32, 4 => 14
  | _, _ => max 1 (freshNat s)

/-- The worst-case time of an Update, ns (R322). -/
def updTime (s : State) (d len count : Nat) : Nat :=
  100000 + ceilDiv len (linkRate s) + ceilDiv (count * (ceilDiv d 64 + 1) * 5) 4

/-- Does a worst-case time fit what is left to a deadline, under the issue-rate fraction (R30)? -/
def fitsDeadline (s : State) (ns : Nat) (left : Option Nat) : Bool :=
  match left with
  | none => true
  | some l => s.thr.fa != 0 && decide (slowed s ns ≤ l)

/-- The table a function may update. -/
def tableFor (s : State) (fn id : Nat) : Option Table :=
  match findTable s id with
  | some t => if t.st == 1 && granted t.grants fn then some t else none
  | none => none

/-- UPDATE: the whole input is checked, then the command is admitted and its records go to the Churns. -/
def updateF (e : Sqe) (buf : Bytes) (s : State) : State :=
  basketCmd e opUpdate false (some 64) (fun x s =>
    match tableFor s e.fn e.handle with
    | none => endCmd e stUnknownHandle 0 s
    | some t =>
      let d := layoutD t.layout
      if buf.length < e.cdw10 then endCmd e stDataTransferError 0 s
      else if decide (2 ^ 26 < e.cdw10) || !updInputOk t buf e.cdw10 e.cdw15 then endCmd e stInvalidField 0 s
      else if readOnly s then endCmd e stCapacityExhausted 0 s
      else if !fitsDeadline s (updTime s d e.cdw10 e.cdw15) (timeLeft s x.deadline) then notAdmitted e (updTime s d e.cdw10 e.cdw15) s
      else
        let es := updEntries buf
        let u : Upd := { fn := e.fn, sq := e.sq, cid := e.cid, table := t.id, step := field buf 4 4,
                         records := updList (updRecords buf d e.cdw15) (recCoefs s.dict.vals es),
                         applied := 0, fetched := 0, resultAddr := resultAddr e, admitted := s.time,
                         fromJob := false, throttled := throttling s }
        let s := modChurn (fun c => { c with updates := c.updates ++ [u] }) s
        if u.records == [] then finishUpd u s else s) s

def execUpdate (e : Sqe) (buf : Bytes) (s : State) : Res := finish s (updateF e buf s)

/-! ### CHURN (R327) -/

/-- What a cell submits: its records, or how it ends the job. -/
def cellRecords (t : Table) (d : Bytes) (c : Nat) (s : State) : Except Status (List Bytes) :=
  let cnt := field d 16 4 % 2 ^ 21
  let src := field d 12 4 % 2 ^ 21
  let len := 16 + layoutD t.layout
  if sramBad s c cnt 2 then .error stPoisonedInput
  else
    let n := sramNat s c cnt 2
    if field d 4 2 < n then .error stJobFault
    else if sramBad s c src (n * len) then .error stPoisonedInput
    else
      let rs := cut len n (sramRead s c src (n * len))
      if rs.all (recOk t) then .ok rs else .error stJobFault

/-- The records of cells in logical order, or the first status that ends the job. -/
def gatherRecords (t : Table) (d : Bytes) (s : State) : List Nat → Except Status (List Bytes)
  | [] => .ok []
  | c :: l =>
    match cellRecords t d c s, gatherRecords t d s l with
    | .error st, _ => .error st
    | .ok _, .error st => .error st
    | .ok a, .ok b => .ok (a ++ b)

/-- CHURN: every active cell submits its records; the operation ends when all are applied or refused. -/
def churnBody (j : Job) (d : Bytes) (s : State) : OpRes :=
  match tableFor s j.fn (field d 1 1 % 64) with
  | none => .fail stUnknownHandle (some 0) s
  | some t =>
    match gatherRecords t d s (activeCells s) with
    | .error st => .fail st (if st == stPoisonedInput then some 0 else none) s
    | .ok rs =>
      if rs == [] then .done s
      else
        let u : Upd := { fn := j.fn, sq := j.sq, cid := j.cid, table := t.id, step := field d 8 4,
                         records := updList rs (fun b => groupCoefs j.coefs (recGroup b)), applied := 0, fetched := 0, resultAddr := 0, admitted := s.time, fromJob := true, throttled := throttling s }
        .wait (modChurn (fun c => { c with updates := c.updates ++ [u] }) s)

def churnF (d : Bytes) (s : State) : State := runOp 0x38 d (fun j s => churnBody j d s) s

def execChurn (d : Bytes) (s : State) : Res := finish s (churnF d s)

/-! ### TableControl (R310) -/

/-- Does a layout word keep Table 13-1? -/
def layoutOk (w : Nat) : Bool :=
  bitsOf w 63 60 == 0 && bitsOf w 55 49 == 0 && bitsOf w 31 18 == 0 && bitsOf w 15 12 == 0 &&
  [0, 1, 5].contains (bitsOf w 47 40) && [0, 5].contains (bitsOf w 39 32) &&
  within 16 2048 (layoutD w) && layoutD w % 16 == 0

/-- The check of TABLE_CREATE. -/
def tableCreateCheck (id w rows : Nat) (s : State) : Nat × Nat :=
  if decide (63 < id) then (0x26, 1)
  else if (findTable s id).isSome || !layoutOk w || !within 64 (2 ^ 32) rows ||
      decide (2 ^ 32 < ceilDiv rows 64 * layoutPlanes w * layoutBlocks w) || !inExtent s (bitsOf w 59 56) (ownNode s) then (0x27, 5)
  else (0, 0)

/-- Create a table homed here: a record of its planes and one of its count pages (DESIGN CHOICE, assumption 22), both of no function. -/
def tableCreate (id w rows grants : Nat) (s : State) : State :=
  let base : PObj := { id := tableObj id, kind := 2, format := bitsOf w 47 40, group := bitsOf w 59 56, fn := 64,
                       size := ceilDiv rows 64 * layoutPlanes w * layoutBlocks w, ready := true, degraded := false, commits := 0,
                       commitTime := 0, digest := [], written := false }
  let s := modTier (fun t => { t with
    objects := t.objects ++ [base, { base with id := countObj id, kind := 1, format := 0xFF, size := ceilDiv rows 4096 }] }) s
  modChurn (fun c => { c with
    tables := c.tables ++ [{ id := id, layout := w, rows := rows, grants := grants, st := 1, groups := [] }] }) s

def execTableCreate (s : State) : Res :=
  let id := obj s 0x3402 1
  let w := obj s 0x3402 2
  let rows := obj s 0x3402 3
  finish s (runAction (tableCreateCheck id w rows s) (tableCreate id w rows (obj s 0x3402 4)) s)

/-- Does an admitted job name a table, by a slot or a CHURN? -/
def jobNamesTable (s : State) (id : Nat) : Bool :=
  s.jobs.jobs.any fun j => (j.objects.any fun o => o.1 == 2 && o.2 == id) ||
    j.basket.ops.any fun d => field d 0 1 == 0x38 && field d 1 1 == id

/-- The check of TABLE_DELETE: the table is there and not in use. -/
def tableDeleteCheck (id : Nat) (s : State) : Nat × Nat :=
  if decide (63 < id) then (0x26, 1)
  else if (findTable s id).isNone || s.churn.updates.any (·.table == id) || jobNamesTable s id then (0x27, 5)
  else (0, 0)

def tableDelete (id : Nat) (s : State) : State :=
  modChurn (fun c => { c with tables := c.tables.filter (·.id != id) }) (deleteObj (tableObj id) (deleteObj (countObj id) s))

def execTableDelete (s : State) : Res :=
  let id := obj s 0x3402 1
  finish s (runAction (tableDeleteCheck id s) (tableDelete id) s)

end Sys2Proof.Machine
end

