-- ==== Sys2Proof/Machine/Segments.lean ====
section
/-! DEFINITION. What an index keeps in the object store (R110, R143, R167, R256 to R259, R285, R286, R288): the segments of its lists, with their
pages of codes, attributes and ids, and its full vectors. -/

namespace Sys2Proof.Machine

open Sys2Proof

/-! ### Layout (Tables 11-1, R257) -/

def idxD (w : Nat) : Nat := w % 8192
def idxM (w : Nat) : Nat := bitsOf w 22 16
def idxLists (w : Nat) : Nat := bitsOf w 43 24 + 1
def idxFv (w : Nat) : Nat := bitsOf w 47 44
def idxFamily (w : Nat) : Nat := bitsOf w 51 48
def idxGroup (w : Nat) : Nat := bitsOf w 59 56

/-- Does a layout word keep Table 11-1? -/
def idxLayoutOk (w : Nat) : Bool :=
  let d := idxD w
  let m := idxM w
  bitsOf w 63 60 == 0 && bitsOf w 55 52 == 0 && !bitOf w 23 && bitsOf w 15 13 == 0 && decide (idxFamily w ≤ 3) &&
  decide (idxFv w ≤ 3) && within 64 1048576 (idxLists w) && within 8 64 m && m % 8 == 0 && within 64 4096 d && d % m == 0 &&
  (idxFamily w != 3 || d == 8 * m)

/-- Type of attribute column `c` (R257). -/
def colType (cols c : Nat) : Nat := bitsOf cols (4 * c + 3) (4 * c)

/-- The present columns, in order. -/
def presentCols (cols : Nat) : List Nat := (List.range 16).filter fun c => colType cols c != 0

/-- Width in bytes of a column type. -/
def colWidth (ty : Nat) : Nat := match ty with | 1 => 1 | 2 => 2 | 0 => 0 | _ => 4

/-- The element format of full vectors. -/
def fvFormat (w : Nat) : Nat := match idxFv w with | 1 => 0 | 2 => 1 | _ => 5

/-- Change an index. -/
def modIndex (id : Nat) (f : Index → Index) (s : State) : State :=
  modRetr (fun r => { r with indexes := updWhere (·.id == id) f r.indexes }) s

/-! ### Records of a code page (R110) -/

/-- Bits set in a byte. -/
def popcount (v : Nat) : Nat := ((List.range 8).filter fun b => bitOf v b).length

/-- The parity bytes of a code: bit i mod 8 of byte i div 8 is the XOR of the bits of code byte i. -/
def codeParity (code : Bytes) : Bytes :=
  (List.range (code.length / 8)).map fun k =>
    BitVec.ofNat 8 (total ((List.range 8).map fun b => popcount (code.getD (8 * k + b) 0).toNat % 2 * 2 ^ b))

/-- The parity groups of a record, code bytes then parity bytes, that fail: the numbers of their code bytes. -/
def parityFails (m : Nat) (r : Bytes) : List Nat :=
  let code := r.take m
  (List.range m).filter fun i => bitOf (popcount (code.getD i 0).toNat) 0 != bitOf (r.getD (m + i / 8) 0).toNat (i % 8)

/-- Bytes of a record, records of a codeword and of a page. -/
def codeRecord (m : Nat) : Nat := m + m / 8
def cwRecords (m : Nat) : Nat := 4096 / codeRecord m
def pageRecords (m : Nat) : Nat := 4 * cwRecords m

/-- Where record `r` of a segment lies in its code pages, in bytes. -/
def codeByte (m r : Nat) : Nat := r / cwRecords m * 4096 + r % cwRecords m * codeRecord m

/-! ### Segments (R257, R258; DESIGN CHOICE, assumption 77) -/

/-- The packed width of a record's attributes. -/
def attrBytes (x : Index) : Nat := total ((presentCols x.columns).map fun c => colWidth (colType x.columns c))

/-- Attributes at 4 bytes each packed at their widths, and back. -/
def packAttrs (x : Index) (a : Bytes) : Bytes :=
  (presentCols x.columns).zipIdx.flatMap fun c => (a.drop (4 * c.2)).take (colWidth (colType x.columns c.1))
def unpackAttrs (x : Index) (a : Bytes) : Bytes :=
  ((presentCols x.columns).foldl (fun (r : Bytes × Bytes) c =>
    let w := colWidth (colType x.columns c)
    (r.1 ++ natLE 4 (field r.2 0 w), r.2.drop w)) ([], a)).1

/-- The items of a segment, in record order. -/
def segItems (x : Index) (list seg : Nat) : List Item := x.items.filter fun it => it.list == list && it.seg == seg

/-- The run table of records in order: the first record of each run, and its epoch (R258). -/
def runTable (items : List Item) : List (Nat × Nat) :=
  items.foldl (fun l it => match l.getLast? with
    | some r => if r.2 == it.epoch then l else l ++ [(it.pos, it.epoch)]
    | none => [(it.pos, it.epoch)]) []

/-- Is a segment sealed: its code pages or its run table are full (R258)? -/
def segSealed (x : Index) (items : List Item) : Bool :=
  decide (64 * pageRecords (idxM x.layout) ≤ items.length) || decide (64 ≤ (runTable items).length)

/-- The open segment of a list, where the next item goes. -/
def openSeg (x : Index) (list : Nat) : Nat := kvGet 0 x.segs list

/-- The pages of a segment that record `r` touches: page kind, group (0 header, 1 codes, 2 attributes, 3 ids) and number. -/
def recordPages (x : Index) (r : Nat) : List (Nat × Nat × Nat) :=
  let w := attrBytes x
  let attrs := if w == 0 then [] else [(0, 2, r * w / 16384), (0, 2, (r * w + w - 1) / 16384)]
  (0, 0, 0) :: (3, 1, codeByte (idxM x.layout) r / 16384) :: (0, 3, r * 8 / 16384) :: attrs.eraseDups

/-- A page of a segment as a read finds it. -/
def segPage (s : State) (o : StoreOwner) (grp no : Nat) : Mem × Nat :=
  match storeLpn s o grp no with
  | some l => pageData s l
  | none => ([], 0)

/-- `n` bytes at byte `off` of a group of pages, with whether a codeword they touch is poisoned. -/
def segRead (s : State) (o : StoreOwner) (grp off n : Nat) : Bytes × Bool :=
  let i := off % 16384
  let k := min n (16384 - i)
  let a := segPage s o grp (off / 16384)
  let b := segPage s o grp (off / 16384 + 1)
  (memRead a.1 i k ++ memRead b.1 0 (n - k), (k != 0 && pieceBad a.2 i k) || (k != n && pieceBad b.2 0 (n - k)))

/-- Write bytes at byte `off` of a group of pages. -/
def segWrite (kind : Nat) (bad : Bool) (o : StoreOwner) (grp off : Nat) (data : Bytes) (s : State) : State :=
  let i := off % 16384
  let k := min data.length (16384 - i)
  let put := fun (no i : Nat) (d : Bytes) (s : State) =>
    match storeLpn s o grp no with
    | some l => if d == [] then s else acceptBytes kind bad l i d s
    | none => s
  put (off / 16384 + 1) 0 (data.drop k) (put (off / 16384) i (data.take k) s)

/-- What a record holds: its code and its attributes, 4 bytes each, with whether they are poisoned. -/
structure ItemData where
  code : Bytes
  attrs : Bytes
  bad : Bool
  badAttrs : Bool
  deriving DecidableEq, Repr

/-- The segment of an item. -/
def segOf (x : Index) (it : Item) : StoreOwner := .segment x.id it.list it.seg

/-- An item as its segment's pages give it. -/
def itemData (s : State) (x : Index) (it : Item) : ItemData :=
  let c := segRead s (segOf x it) 1 (codeByte (idxM x.layout) it.pos) (idxM x.layout)
  let a := segRead s (segOf x it) 2 (it.pos * attrBytes x) (attrBytes x)
  { code := c.1, attrs := unpackAttrs x a.1, bad := c.2, badAttrs := a.2 }

/-- Put an item's record into its segment's pages. -/
def writeRecord (x : Index) (it : Item) (d : ItemData) (s : State) : State :=
  let o := segOf x it
  let s := (recordPages x it.pos).foldl (fun s p => takePage o p.1 p.2.1 p.2.2 s) s
  let s := segWrite 3 d.bad o 1 (codeByte (idxM x.layout) it.pos) (d.code ++ codeParity d.code) s
  let s := segWrite 0 d.badAttrs o 2 (it.pos * attrBytes x) (packAttrs x d.attrs) s
  segWrite 0 false o 3 (it.pos * 8) (natLE 8 it.id) s

/-- Write the header page of a segment: its run table (R258). -/
def writeHeader (x : Index) (list seg : Nat) (s : State) : State :=
  segWrite 0 false (.segment x.id list seg) 0 0
    (((runTable (segItems x list seg)).flatMap fun r => natLE 8 r.1 ++ natLE 8 r.2) ++
      List.replicate (1024 - 16 * (runTable (segItems x list seg)).length) 0) s

/-- Does the object store lack the pages for an item, and does the Pail have room for what its append writes? -/
def recordLacks (s : State) (x : Index) (list seg r : Nat) : Nat :=
  ((recordPages x r).filter fun p => (storeLpn s (.segment x.id list seg) p.2.1 p.2.2).isNone).length

/-! ### Full vectors (R256, R288; DESIGN CHOICE, assumption 77) -/

/-- Column blocks of a full vector, and its tiles' numbers. -/
def fvBlocks (x : Index) : Nat := ceilDiv (idxD x.layout) 64
def fvTile (x : Index) (row b : Nat) : Nat := row / 64 * fvBlocks x + b

/-- Bytes of an element of a full vector. -/
def fvWidth (x : Index) : Nat := if fvFormat x.layout == 5 then 2 else 1

/-- Elements of column block `b`. -/
def fvCols (x : Index) (b : Nat) : Nat := min 64 (idxD x.layout - 64 * b)

/-- The row that the next full vector takes: above the rows in use. -/
def nextRow (x : Index) : Nat := x.items.foldl (fun n it => max n (it.row + 1)) 0

/-- Store a full vector, its elements and its row scale: each of its tiles is written, and written back at once (R167, R289). -/
def writeFv (fn : Nat) (x : Index) (row : Nat) (fv : Bytes) (scale : Nat) (s : State) : State :=
  let w := fvWidth x
  (List.range (fvBlocks x)).foldl (fun s b =>
    let i := fvTile x row b
    let inT1 := (tileOf s (fvObject x.id) i).inT1
    let s := tileWrite fn (fvObject x.id) i false (fun t => { t with
      rows := max (if t.version == 0 then 0 else t.rows) (row % 64 + 1)
      cols := fvCols x b
      flags := if w == 2 then 0 else 8
      body := memOver t.body (row % 64 * 64 * w) (fvCols x b * w) (memOf ((fv.drop (64 * b * w)).take (fvCols x b * w)))
      scale := if w == 2 then [] else memOver t.scale (2 * (row % 64)) 2 (memOf (natLE 2 (scale / 65536))) }) s
    let s := writeBack true (fvObject x.id) i s
    if inT1 then s else putTile { tileOf s (fvObject x.id) i with inT1 := false, body := [], scale := [], reserved := false } s) s

/-- The stored elements of a full vector, and its row scale as FP32 bits. -/
def fvStored (s : State) (x : Index) (row : Nat) : Bytes × Nat :=
  let w := fvWidth x
  let at_ := fun b => tileOf s (fvObject x.id) (fvTile x row b)
  ((List.range (fvBlocks x)).flatMap fun b => memRead (at_ b).body (row % 64 * 64 * w) (fvCols x b * w),
   if w == 2 then one32 else memNat (at_ 0).scale (2 * (row % 64)) 2 * 65536)

/-- The tier of a poisoned tile that holds part of a full vector (R193). -/
def fvPoison (s : State) (x : Index) (row : Nat) : Option Nat :=
  ((List.range (fvBlocks x)).map fun b => tileOf s (fvObject x.id) (fvTile x row b)).findSome? fun t =>
    if t.poison then some (if t.inT1 then 1 else 2) else none

/-- Pages of the Pail that an append of a record writes at most. -/
def appendPages (x : Index) : Nat := 5 + (if idxFv x.layout == 0 then 0 else 2 * fvBlocks x)

end Sys2Proof.Machine
end

