-- ==== Sys2Proof/Machine/Retrieval.lean ====
section
/-! DEFINITION. Indexes, item codes, scores and filters of the retrieval engine (chapter 11), and the commands that act on an index: create,
delete, epochs, Ingest and compaction. -/

namespace Sys2Proof.Machine

open Sys2Proof

/-- Tiles of an object of `r` rows and `c` columns, row blocks before column blocks (DEDUCED, assumption 33). -/
def shapeTiles (r c : Nat) : Nat := ceilDiv r 64 * ceilDiv c 64

/-- Is a placed tile object present with the shape of `r` rows and `c` columns? -/
def objShape (s : State) (id r c : Nat) : Bool :=
  match findObj s id with
  | some o => o.kind == 0 && o.ready && o.size == shapeTiles r c
  | none => false

/-- One element of a placed tile object as FP32 bits, times its row's or column's scale where the tile has channel scales (Table 7-3). -/
def objElem (s : State) (id cols r c : Nat) : Nat :=
  let u := tileOf s id (r / 64 * ceilDiv cols 64 + c / 64)
  let x := widen u.format (bodyElem u.format u.body 0 (64 * (r % 64) + c % 64))
  if bitOf u.flags 3 then fmul x (memNat u.scale (2 * ((if bitOf u.flags 2 then c else r) % 64)) 2 * 65536) else x

/-- The centroid of a list, FP32 bits. -/
def centroid (s : State) (x : Index) (l : Nat) : List Nat :=
  (List.range (idxD x.layout)).map fun i => objElem s x.centroids (idxD x.layout) l i

/-- The codeword of subspace `j` and code `c`. -/
def codeword (s : State) (x : Index) (j c : Nat) : List Nat :=
  let w := idxD x.layout / idxM x.layout
  (List.range w).map fun i => objElem s x.codebook w (256 * j + c) i

/-! ### Vector arithmetic (R254, R266, R269; DEDUCED, assumption 34) -/

/-- The sum of products by lanes: lane `l` takes elements l, l + 64, … in ascending order by fused multiply-add, and the 64 lane sums are
added by the tree. -/
def laneSum (ps : List (Nat × Nat)) : Nat :=
  treeSum 64 ((List.range 64).map fun l =>
    (List.range (ceilDiv ps.length 64)).foldl (fun acc k =>
      match ps[64 * k + l]? with
      | some p => ffma p.1 p.2 acc
      | none => acc) 0)

/-- Inner product and squared L2 distance of two vectors of FP32 bits. -/
def vecDot (a b : List Nat) : Nat := laneSum (a.zip b)
def vecL2 (a b : List Nat) : Nat := laneSum ((a.zip b).map fun p => let d := fsub p.1 p.2; (d, d))

/-- A vector divided by its norm. -/
def normalise (v : List Nat) : List Nat := let n := fsqrt (vecDot v v); v.map fun x => fdiv x n

/-- The packed sign bits of a vector: bit b of byte j is 1 when element 8 j + b is above 0 (R266). -/
def signBits (v : List Nat) : List Nat :=
  (List.range (v.length / 8)).map fun j =>
    total ((List.range 8).map fun b => if ltV (f32 0) (f32 (v.getD (8 * j + b) 0)) then 2 ^ b else 0)

/-- FP32 bits of a small count. -/
def f32Nat (n : Nat) : Nat := rne32 (ofInt n)

/-- Does a family rank smaller scores first (R267)? -/
def smallerFirst (family : Nat) : Bool := family % 2 == 1

/-- The query vector as its family takes it. -/
def famVec (x : Index) (v : List Nat) : List Nat := if idxFamily x.layout == 2 then normalise v else v

/-- The format that a vector is converted into for the coarse stage: the centroid object's, in which the array has it (R237, R265). -/
def coarseFormat (s : State) (x : Index) : Nat := match findObj s x.centroids with | some o => if decide (6 ≤ o.format) then 5 else o.format | none => 5

/-- A vector converted into a format by AMAX with scale rule 1 and CONVERT: its elements and the scale (R243, R245, R265). -/
def convVector (f : Nat) (v : List Nat) : List Nat × Nat :=
  let sc := scaleOf f 1 ((v.map (amaxMag 0x10)).foldl max 0)
  (v.map fun x => (convRne f (mulV (f32 x) (f32 (frecip sc)))).bits, sc)

/-- The coarse score of a list (R265): Hamming distance to the binarised centroid for family 3. -/
def coarse (s : State) (x : Index) (v : List Nat) (l : Nat) : Nat :=
  let c := centroid s x l
  if idxFamily x.layout == 3 then
    f32Nat (total (((signBits v).zip (signBits c)).map fun p => popcount (p.1 ^^^ p.2)))
  else
    let q := convVector (coarseFormat s x) v
    Config.coarseScore (idxFamily x.layout) q.1 q.2 c (16 * rowsInService s)

/-- Lists in coarse order: best score first, ties to the lower list id (R265). -/
def coarseOrder (s : State) (x : Index) (v : List Nat) : List Nat :=
  let small := smallerFirst (idxFamily x.layout)
  ((List.range (idxLists x.layout)).foldl (fun l i =>
    rankInsert small 0 { score := coarse s x v i, index := i, node := 0, source := 0, position := i } l) []).map (·.index)

/-- The code bytes of an item in list `l` (R288): the nearest codeword of each subspace to the residual, ties to the lower code; the packed
sign bits for family 3. -/
def encodeItem (s : State) (x : Index) (v : List Nat) (l : Nat) : Bytes :=
  let m := idxM x.layout
  let w := idxD x.layout / m
  if idxFamily x.layout == 3 then (signBits v).map (BitVec.ofNat 8)
  else
    let c := centroid s x l
    let r := (v.zip c).map fun p => fsub p.1 p.2
    (List.range m).map fun j =>
      let part := (r.drop (w * j)).take w
      let best := (List.range 256).foldl (fun b k =>
        rankInsert true 0 { score := vecL2 part (codeword s x j k), index := k, node := 0, source := 0, position := k } b) []
      BitVec.ofNat 8 (match best with | k :: _ => k.index | [] => 0)

/-- A full vector in its stored format: elements and row scale (R288; rule 1 of R243). -/
def encodeFv (w : Nat) (v : List Nat) : Bytes × Nat :=
  if idxFv w == 0 then ([], one32)
  else
    let f := fvFormat w
    let q := convVector f v
    (q.1.flatMap (natLE (if f == 5 then 2 else 1)), q.2)

/-- The elements of a full vector, stored with a row scale, as FP32 bits. -/
def fvElems (w : Nat) (fv : Bytes × Nat) : List Nat :=
  let f := fvFormat w
  let m := memOf fv.1
  (List.range (idxD w)).map fun i => fmul (widen f (bodyElem f m 0 i)) fv.2

/-! ### Visibility (R258, R259) -/

/-- Is an item visible at an epoch? -/
def visible (e : Nat) (it : Item) : Bool :=
  decide (it.epoch ≤ e) && (match it.tomb with | some t => decide (e < t) | none => true)

/-- The oldest epoch that a query of the index has pinned, the audit floor counting as pinned, and the committed epoch, which the next query
will pin (R286, R405). -/
def oldestPinned (s : State) (x : Index) : Nat :=
  let qs := (s.retr.queries.filter fun q => q.index == x.id).map (·.epoch)
  (qs ++ [obj s (0x4220 + x.id) 1]).foldl min x.committed

/-! ### INDEX_CREATE, INDEX_DELETE, INDEX_COMMIT (R256, R257, R283, R291) -/

/-- The version digest of an empty index (R401). -/
def indexDigest0 (id layout cols : Nat) : Bytes := sha256 (natLE 1 id ++ natLE 8 layout ++ natLE 8 cols)

/-- The check of INDEX_CREATE. -/
def indexCreateCheck (s : State) : Nat × Nat :=
  let id := obj s 0x3210 1
  let w := obj s 0x3210 2
  let cols := obj s 0x3210 3
  let cen := obj s 0x3210 4
  let cb := obj s 0x3210 5
  if decide (63 < id) then (0x26, 1)
  else if (List.range 16).any fun c => decide (5 < colType cols c) then (0x26, 3)
  else if (findIndex s id).isSome || !idxLayoutOk w || !inExtent s (idxGroup w) (ownNode s) ||
      !objShape s cen (idxLists w) (idxD w) ||
      (if idxFamily w == 3 then cb != 0 else !objShape s cb (256 * idxM w) (idxD w / idxM w)) then (0x27, 8)
  else (0, 0)

/-- The rim region that this node homes (R172). -/
def rimRegion (s : State) : Option Region :=
  s.tier.regions.find? fun r => r.homed && (r.no == 255 || (r.no == 254 && twinned s && ownNode s == 0))

/-- A write to the system's rim region: a coherent write where this node homes the region, mirrored as any is; from another node of a ready system a
write to node 0, in whose coherent area the region is the first (R172, R179, R397; the region's place and its request: DESIGN CHOICE,
assumption 81). -/
def putRim (off : Nat) (b : Bytes) (s : State) : State :=
  match rimRegion s with
  | some r =>
    let a := r.base * 65536 + off
    let s := storeCoherent a b.length (modTier (fun t => { t with window := memWrite t.window a b }) s)
    if mirrors s a b.length then issueTwin msgWrite 0 (wyvasAddr (ownNode s) 0 a) 0 false b.length b 0 .stream none s else s
  | none =>
    if s.wyv.systemReady && ownNode s != 0 then
      let tag := s.wyv.nextTag
      modWyv (fun w => { w with requests := updWhere (·.tag == tag) (fun r => { r with job := 0 }) w.requests })
        (issueRequest 0 msgWrite 0 (wyvasAddr 0 0 off) 0 false b.length b 0 .stream none 0 s)
    else s

/-- The bytes that hold PolicyGroup `g` in the rim region: its written values in order (assumption 81). -/
def policyBytes (s : State) (g : Nat) : Bytes :=
  (List.range 8).flatMap fun k => natLE (if k == 7 then 2 else 1) (obj s (0x2210 + g) (k + 1))

/-- A policy group goes to the rim region, 64 bytes apart (R172). -/
def putPolicy (g : Nat) (s : State) : State := putRim (64 * g) (policyBytes s g) s

/-- The bytes of an index's epoch record. -/
def epochRecord (s : State) (x : Index) : Bytes :=
  natLE 8 x.committed ++ natLE 8 x.opened ++ natLE 8 (oldestPinned s x) ++ natLE 8 x.commitTime ++ List.replicate 32 0

/-- Write an index's epoch record in the rim region (R172, R282; when it is written: DESIGN CHOICE, assumption 78). -/
def putEpochRecord (id : Nat) (s : State) : State :=
  match findIndex s id with
  | some x => putRim (8192 + 64 * id) (epochRecord s x) s
  | none => s

/-- The full-vector object of a new index: a tile object of no function (DESIGN CHOICE, assumption 77). -/
def fvPlaced (id w : Nat) : PObj :=
  { id := fvObject id, kind := 0, format := fvFormat w, group := idxGroup w, fn := 64, size := 2 ^ 32, ready := true, degraded := false, commits := 0,
    commitTime := 0, digest := [], written := false }

/-- A new index: committed epoch 0, open epoch 1, no items. -/
def indexCreate (s : State) : State :=
  let id := obj s 0x3210 1
  let w := obj s 0x3210 2
  let cols := obj s 0x3210 3
  let x : Index := { id := id, layout := w, columns := cols, centroids := obj s 0x3210 4, codebook := obj s 0x3210 5,
                     grants := obj s 0x3210 6, encoder := obj s 0x3210 7, st := 1, committed := 0, opened := 1, closing := none,
                     dirty := false, items := [], nextOrdinal := [], segs := [], commitTime := s.time,
                     digests := [(0, indexDigest0 id w cols)] }
  let s := if idxFv w == 0 then s else modTier (fun t => { t with objects := t.objects ++ [fvPlaced id w] }) s
  putEpochRecord id (setObj (0x4220 + id) 1 (2 ^ 64 - 1) (modRetr (fun r => { r with indexes := r.indexes ++ [x] }) s))

def execIndexCreate (s : State) : Res := finish s (runAction (indexCreateCheck s) indexCreate s)

/-- The check of INDEX_DELETE: the index is present and no Ingest of it runs. -/
def indexDeleteCheck (id : Nat) (s : State) : Nat × Nat :=
  if decide (63 < id) then (0x26, 1)
  else if (findIndex s id).isNone || s.retr.ingests.any (·.index == id) then (0x27, 8)
  else (0, 0)

/-- Delete an index: it goes at once, or once the queries already admitted have finished. -/
def indexDelete (id : Nat) (s : State) : State :=
  if s.retr.queries.any (·.index == id) then modIndex id (fun x => { x with st := 2 }) s
  else removeIndex id s

def execIndexDelete (s : State) : Res :=
  let id := obj s 0x3210 1
  finish s (runAction (indexDeleteCheck id s) (indexDelete id) s)

/-- Step 1 of a commit: the open epoch closes and the next one opens (R283). -/
def closeEpoch (id : Nat) (s : State) : State :=
  putEpochRecord id
    (modIndex id (fun x => if x.closing == none then { x with closing := some x.opened, opened := x.opened + 1, dirty := false } else x) s)

/-- The check of INDEX_COMMIT: the index is present and no earlier commit of it is under way. -/
def indexCommitCheck (id : Nat) (s : State) : Nat × Nat :=
  if decide (63 < id) then (0x26, 1)
  else match findIndex s id with
    | some x => if x.st == 1 && x.closing == none then (0, 0) else (0x27, 8)
    | none => (0x27, 8)

def execIndexCommit (s : State) : Res :=
  let id := obj s 0x3210 1
  finish s (runAction (indexCommitCheck id s) (closeEpoch id) s)

/-- EPOCH_COMMIT_TIMER: an index in which an item or tombstone entered the open epoch begins to commit it. -/
def epochCommitTimerF (index : Nat) (s : State) : State :=
  match findIndex s index with
  | some x => if x.dirty && x.st == 1 then closeEpoch index s else s
  | none => s

def execEpochCommitTimer (index : Nat) (s : State) : Res := finish s (epochCommitTimerF index s)

/-- An epoch entry: item id, kind and its bytes (R401). -/
def epochEntries (s : State) (x : Index) (e : Nat) : List (Nat × Nat × Bytes) :=
  x.items.flatMap fun it =>
    (if it.tomb == some e then [(it.id, 0, natLE 1 0 ++ natLE 8 it.id ++ natLE 4 it.list ++ natLE 4 it.ordinal)] else []) ++
    (if it.epoch == e && it.tomb != some 0 then
      (let d := itemData s x it
       [(it.id, 1, natLE 1 1 ++ natLE 8 it.id ++ natLE 4 it.list ++ d.code ++ d.attrs ++
        (if idxFv x.layout == 0 then [] else (fvStored s x it.row).1))]) else [])

/-- Put an epoch entry in the order of (item id, kind). -/
def insertEntry (v : Nat × Nat × Bytes) : List (Nat × Nat × Bytes) → List (Nat × Nat × Bytes)
  | [] => [v]
  | u :: l => if decide (v.1 < u.1) || (v.1 == u.1 && decide (v.2.1 < u.2.1)) then v :: u :: l else u :: insertEntry v l

/-- The index version digest D(E) (R401). -/
def epochDigest (s : State) (x : Index) (e : Nat) : Bytes :=
  let last := match x.digests.find? (·.1 == e - 1) with | some d => d.2 | none => []
  let delta := sha256 (((epochEntries s x e).foldl (fun l v => insertEntry v l) []).flatMap (·.2.2))
  sha256 (natLE 1 x.id ++ natLE 8 e ++ last ++ delta)

/-- Answer the Sets whose commit has ended, or whose index has gone (R92). -/
def endCommits (s : State) : State :=
  ((s.dict.acting.filter (·.kind == 0)).map (·.no)).foldl (fun s i =>
    match findIndex s i with
    | some x => if x.closing == none then endActing 0 i s else s
    | none => endActing 0 i s) s

/-- Has every page of an index's segments and full vectors reached flash, with its map change committed (R143)? -/
def indexDurable (s : State) (id : Nat) : Bool := s.tier.pages.all fun p => !indexPage id p || !uncommittedPage s.blk p.lpn

/-- EPOCH_COMMIT_RESUME: once no Ingest of the closing epoch runs, the map changes of its segments are appended and the journal is committed, for which
the commit waits; then the digest is computed and the epoch becomes the committed one; digests from the audit floor on are kept (R143, R283,
R401, R405). -/
def epochCommitResumeF (index : Nat) (s : State) : State :=
  match findIndex s index with
  | some x =>
    match x.closing with
    | some e =>
      if s.retr.ingests.any fun g => g.index == index && g.epoch == e then s
      else if !indexDurable s index then pump false s
      else
        endCommits (putEpochRecord index (modIndex index (fun x => { x with
          committed := e
          closing := none
          commitTime := s.time
          digests := (x.digests ++ [(e, epochDigest s x e)]).filter fun d => d.1 == e || decide (obj s (0x4220 + index) 1 ≤ d.1) }) s))
    | none => s
  | none => s

def execEpochCommitResume (index : Nat) (s : State) : Res := finish s (epochCommitResumeF index s)

/-- Is an item's record tombstoned at or before an epoch? -/
def goneBy (old : Nat) (it : Item) : Bool := match it.tomb with | some t => decide (t ≤ old) | none => false

/-- Rewrite a segment of a list with the records that are left: each keeps its ordinal and takes the next place; rows of full vectors in blocks that no item
uses are given up (R258, R286). -/
def rewriteSegment (x : Index) (list seg old : Nat) (s : State) : State :=
  let left := ((segItems x list seg).filter fun it => !goneBy old it).map fun it => (it, itemData s x it)
  let kept := left.zipIdx.map fun p => ({ p.1.1 with pos := p.2 }, p.1.2)
  let y := { x with items := x.items.filterMap fun it =>
    if it.list == list && it.seg == seg then (kept.find? (·.1.ordinal == it.ordinal)).map (·.1) else some it }
  let s := dropPages (fun p => p.owner == .segment x.id list seg) (modIndex x.id (fun _ => y) s)
  let s := kept.foldl (fun s p => writeRecord y p.1 p.2 s) s
  let s := if kept == [] then s else writeHeader y list seg s
  let used := fun (t : Tile) => t.object != fvObject x.id || y.items.any fun it => it.row / 64 == t.index / fvBlocks x
  pump false (trimPages (fvObject x.id) (modTier (fun t => { t with tiles := t.tiles.filter used }) s))

/-- COMPACTION: the first segment of a list with records tombstoned at or before the oldest pinned epoch is rewritten without them, once the Pail has
room for its pages; ordinals stay (R258, R286). -/
def compactionF (index list : Nat) (s : State) : State :=
  match findIndex s index with
  | some x =>
    let old := oldestPinned s x
    match x.items.find? fun it => it.list == list && goneBy old it with
    | none => s
    | some it =>
      if pailHasRoom s ((s.tier.pages.filter fun p => p.owner == segOf x it).length) 0 then rewriteSegment x list it.seg old s else s
  | none => s

def execCompaction (index list : Nat) (s : State) : Res := finish s (compactionF index list s)

/-! ### INGEST (R284 to R289) -/

/-- Bytes of an element of a vector format of Table 11-2; none for a format that is not of it. -/
def vecWidth (f : Nat) : Option Nat := match f with | 0 => some 1 | 5 => some 2 | 0x10 => some 4 | _ => none

/-- The records of an Ingest, each with its own length; the fuel is the item count. None where a record runs past the input or is too
short. -/
def cutItems : Nat → Bytes → Option (List Bytes)
  | 0, b => if b == [] then some [] else none
  | n + 1, b =>
    let len := field b 12 2
    if decide (len < 16) || len % 16 != 0 || decide (b.length < len) then none
    else match cutItems n (b.drop len) with
      | some l => some (b.take len :: l)
      | none => none

/-- Fields of an item record (Table 11-5). -/
def itemId (b : Bytes) : Nat := field b 0 8
def itemDelete (b : Bytes) : Bool := field b 8 1 == 1

/-- Bytes a record holds before its padding. -/
def itemBytes (x : Index) (b : Bytes) : Nat :=
  16 + 4 * (presentCols x.columns).length +
  (if field b 9 1 == 0 then 4 * field b 10 2 else field b 10 2 * (vecWidth (field b 14 1)).getD 0)

/-- Does a record keep Table 11-5? -/
def itemOk (x : Index) (b : Bytes) : Bool :=
  itemId b != 2 ^ 64 - 1 && decide (field b 8 1 ≤ 1) && field b 15 1 == 0 &&
  if itemDelete b then field b 9 1 == 0 && field b 10 2 == 0 && field b 12 2 == 16 && field b 14 1 == 0
  else
    let n := itemBytes x b
    decide (field b 9 1 ≤ 1) && field b 12 2 == 16 * ceilDiv n 16 && rz b n (field b 12 2 - n) &&
    (if field b 9 1 == 0 then field b 14 1 == 0 else (vecWidth (field b 14 1)).isSome && field b 10 2 == idxD x.layout)

/-- The index a function may use. -/
def indexFor (s : State) (fn id : Nat) : Option Index :=
  match findIndex s id with
  | some x => if x.st == 1 && granted x.grants fn then some x else none
  | none => none

/-- A pipeline's or index's basket: absent when the id is all-ones; `none` outside when it is named and not a loaded class-2 basket of the
function (R262, R343). -/
def namedBasket (s : State) (fn id : Nat) : Option (Option Basket) :=
  if id == noHandle then some none
  else match findBasket s fn id with
    | some b => if b.cls == 2 then some (some b) else none
    | none => none

/-- The vector that token or vector input stands for, FP32 bits. -/
def inputVec (enc : Option Basket) (tokens : Bool) (f d : Nat) (b : Bytes) : List Nat :=
  if tokens then
    (List.range d).map fun i => (match enc with | some k => Config.jobValue k.digest b i | none => 0) % 2 ^ 32
  else
    let w := (vecWidth f).getD 4
    (List.range d).map fun i => widen f (field b (w * i) w)

/-- Every record of an Ingest is in the Pail of its node: the command completes (R289). -/
def finishIngest (g : Ingest) (s : State) : State :=
  let s := modRetr (fun r => { r with ingests := r.ingests.filter (·.no != g.no) }) s
  let flags := (if g.throttled then 8 else 0) + (if deterministic s then 16 else 0)
  endBasket g.fn g.sq g.cid stSuccess 0 0 noOp
    (dmaResult g.resultAddr (resultRegion noHandle 0 flags g.epoch (g.applied % 2 ^ 32) []) s)

/-- Bytes that the items of an Ingest take in the pages of their segments and of the full vectors (R46). -/
def ingestBytes (x : Index) (rs : List Bytes) : Nat :=
  let fv := if idxFv x.layout == 0 then 0 else idxD x.layout * fvWidth x
  (rs.filter fun b => !itemDelete b).length * (codeRecord (idxM x.layout) + attrBytes x + 8 + fv)

/-- INGEST: the whole input is checked, then the command joins the open epoch. -/
def ingestF (e : Sqe) (buf : Bytes) (s : State) : State :=
  basketCmd e opIngest false (some 64) (fun _ s =>
    match indexFor s e.fn e.handle with
    | none => endCmd e stUnknownHandle 0 s
    | some x =>
      if buf.length < e.cdw10 then endCmd e stDataTransferError 0 s
      else if decide (2 ^ 26 < e.cdw10) then endCmd e stInvalidField 0 s
      else match cutItems e.cdw15 (buf.take e.cdw10) with
        | none => endCmd e stInvalidField 0 s
        | some rs =>
          let tokens := rs.any fun b => !itemDelete b && field b 9 1 == 0
          if !rs.all (itemOk x) then endCmd e stInvalidField 0 s
          else if tokens && x.encoder == noHandle then endCmd e stInvalidField 0 s
          else if tokens && namedBasket s e.fn x.encoder == none then endCmd e stUnknownHandle 0 s
          else if readOnly s || storeFull s (pagesOf (ingestBytes x rs)) then endCmd e stCapacityExhausted 0 s
          else
            let g : Ingest := { no := s.retr.nextIngest, fn := e.fn, sq := e.sq, cid := e.cid, index := x.id, epoch := x.opened,
                                records := rs, applied := 0, resultAddr := resultAddr e, throttled := throttling s }
            let s := modRetr (fun r => { r with ingests := r.ingests ++ [g], nextIngest := r.nextIngest + 1 }) s
            if rs == [] then finishIngest g s else s) s

def execIngest (e : Sqe) (buf : Bytes) (s : State) : Res := finish s (ingestF e buf s)

/-- Withdraw what an Ingest did: its records are never visible, and its tombstones go (R285). -/
def undoIngest (no : Nat) (x : Index) : Index :=
  { x with items := x.items.map fun it =>
      let it := if it.tombBy == no && it.tomb != some 0 then { it with tomb := none, tombBy := 0 } else it
      if it.writer == no then { it with tomb := some 0, tombBy := no } else it }

/-- An Ingest ends without success: it is treated as aborted. -/
def dropIngest (g : Ingest) (s : State) : State :=
  modIndex g.index (undoIngest g.no) (modRetr (fun r => { r with ingests := r.ingests.filter (·.no != g.no) }) s)

/-- Tombstone the live copy of an id at an epoch. -/
def tombstone (no id e : Nat) (x : Index) : Index :=
  { x with items := updWhere (fun it => it.id == id && it.tomb == none) (fun it => { it with tomb := some e, tombBy := no }) x.items }

/-- Items that an index holds: those that nothing has tombstoned (R256). -/
def Index.heldItems (x : Index) : Nat := (x.items.filter fun it => it.tomb == none).length

/-- Is there a live copy of an id? -/
def hasItem (x : Index) (id : Nat) : Bool := x.items.any fun it => it.id == id && it.tomb == none

/-- The parts of an insert record: attributes, and the vector. -/
def itemAttrs (x : Index) (b : Bytes) : Bytes := (b.drop 16).take (4 * (presentCols x.columns).length)
def itemVec (s : State) (fn : Nat) (x : Index) (b : Bytes) : List Nat :=
  let rest := b.drop (16 + 4 * (presentCols x.columns).length)
  let enc := match namedBasket s fn x.encoder with | some k => k | none => none
  inputVec enc (field b 9 1 == 0) (field b 14 1) (idxD x.layout)
    (if field b 9 1 == 0 then rest.take (4 * field b 10 2) else rest)

/-- The list an item is assigned to: the best by its coarse score (R288). -/
def listFor (s : State) (x : Index) (v : List Nat) : Nat := (coarseOrder s x v).headD 0

/-- The item that an insert appends to list `l`: at the next ordinal, in the next record of the open segment (R258, R284). -/
def newItem (g : Ingest) (b : Bytes) (x : Index) (l : Nat) : Item :=
  { list := l, ordinal := kvGet 0 x.nextOrdinal l, epoch := g.epoch, id := itemId b, seg := openSeg x l,
    pos := (segItems x l (openSeg x l)).length, row := nextRow x, tomb := none, writer := g.no, tombBy := 0 }

/-- An index with an item appended: an older copy of its id is tombstoned, and a segment that is now full is sealed (R258, R284). -/
def appendItem (g : Ingest) (it : Item) (x : Index) : Index :=
  let x := if hasItem x it.id then tombstone g.no it.id g.epoch x else x
  let y := { x with nextOrdinal := kvPut 0 x.nextOrdinal it.list (it.ordinal + 1), items := x.items ++ [it] }
  if segSealed y (segItems y it.list it.seg) then { y with segs := kvPut 0 y.segs it.list (it.seg + 1) } else y

/-- Put what an item holds into the pages of the object store: its record, its segment's run table and its full vector (R258, R288, R289). -/
def storeItem (fn : Nat) (x : Index) (it : Item) (v raw : List Nat) (attrs : Bytes) (s : State) : State :=
  let d : ItemData := { code := encodeItem s x v it.list, attrs := attrs, bad := false, badAttrs := false }
  let s := writeHeader x it.list it.seg (writeRecord x it d s)
  if idxFv x.layout == 0 then s
  else
    let e := encodeFv x.layout raw
    writeFv fn x it.row e.1 e.2 s

/-- The objects that an item's assignment and a query's probe selection and tables read. -/
def assignObjects (x : Index) : List Nat := x.centroids :: if idxFamily x.layout == 3 then [] else [x.codebook]

/-- A poisoned tile of the objects that an item's assignment reads: its object, its index and the tier of the poison (R193). -/
def poisonedOf (s : State) (ids : List Nat) : Option (Nat × Nat × Nat) :=
  s.tier.tiles.findSome? fun t =>
    if ids.contains t.object && (tileOf s t.object t.index).poison then some (t.object, t.index, if t.inT1 then 1 else 2) else none

/-- Mark that something entered an epoch. -/
def touchEpoch (e : Nat) (x : Index) : Index := if e == x.opened then { x with dirty := true } else x

/-- An Ingest has taken a record. -/
def ingestStep (g : Ingest) (n : Nat) (x : Index) (s : State) : State :=
  let h := { g with records := g.records.drop 1, applied := g.applied + n }
  let s := modIndex x.id (fun _ => if n == 0 then x else touchEpoch g.epoch x) s
  let s := modRetr (fun r => { r with ingests := updWhere (·.no == g.no) (fun _ => h) r.ingests }) s
  if h.records == [] then finishIngest h s else s

/-- Must an insert wait: for the array while a job owns it or the issue rate is 0 (R6, R449), for the Ingests of the epoch before, so that epochs never
decrease along a segment (R258; DEDUCED, assumption 83), or for room in the Pail? -/
def insertWaits (s : State) (g : Ingest) (x : Index) : Bool :=
  s.jobs.owner != none || s.thr.fa == 0 || (s.retr.ingests.any fun h => h.index == g.index && decide (h.epoch < g.epoch)) ||
  !pailHasRoom s (appendPages x) (appendPages x)

/-- Pages of the object store that an item still lacks. -/
def itemLacks (s : State) (x : Index) (it : Item) : Nat :=
  recordLacks s x it.list it.seg it.pos +
    if idxFv x.layout == 0 then 0
    else pagesLacking s ((List.range (fvBlocks x)).map fun b => tileOf s (fvObject x.id) (fvTile x it.row b))

/-- An insert is applied: encoded, assigned to its list and held in the Pail. It ends the Ingest where the list has no ordinal left, the index holds 2^40 items, or the object
store has no page (R46, R256, R261), and where the assignment meets poison (R193). -/
def insertRecord (g : Ingest) (b : Bytes) (x : Index) (s : State) : State :=
  match poisonedOf s (assignObjects x) with
  | some (o, i, tier) => endBasket g.fn g.sq g.cid stPoisonedInput tier 0 noOp (logPoison o (flagDegraded o i (dropIngest g s)))
  | none =>
    let raw := itemVec s g.fn x b
    let v := famVec x raw
    let it := newItem g b x (listFor s x v)
    if decide (2 ^ 32 ≤ it.ordinal) || decide (2 ^ 40 ≤ (tombstone g.no it.id g.epoch x).heldItems) || decide (storeLeft s < itemLacks s x it) then
      endBasket g.fn g.sq g.cid stCapacityExhausted 0 0 noOp (dropIngest g s)
    else
      let y := appendItem g it x
      ingestStep g 1 y (pump false (storeItem g.fn y it v raw (itemAttrs x b) s))

/-- INGEST_RECORD: the next record of an Ingest is applied at its directory shard (R284, R288). -/
def ingestRecordF (fn sq cid : Nat) (s : State) : State :=
  match s.retr.ingests.find? fun g => g.fn == fn && g.sq == sq && g.cid == cid with
  | none => s
  | some g =>
    match g.records, findIndex s g.index with
    | _, none => s
    | [], _ => finishIngest g s
    | b :: _, some x =>
      if itemDelete b then
        if hasItem x (itemId b) then ingestStep g 1 (tombstone g.no (itemId b) g.epoch x) s else ingestStep g 0 x s
      else if insertWaits s g x then s
      else insertRecord g b x s

def execIngestRecord (fn sq cid : Nat) (s : State) : Res := finish s (ingestRecordF fn sq cid s)

end Sys2Proof.Machine
end

