-- ==== Sys2Proof/Machine/Query.lean ====
section
/-! DEFINITION. Queries (chapter 11): the descriptor, admission, probes and distance tables, batching windows, list scans with raw-read
scoring, the merge, re-ranking, the result and Gather. -/

namespace Sys2Proof.Machine

open Sys2Proof

/-! ### Pipelines (Table 11-6) -/

/-- The values of a pipeline by subindex. -/
def pipeValues (s : State) (p : Nat) : KV := (List.range 17).foldl (fun m k => kvPut 0 m (k + 1) (obj s (0x3240 + p) (k + 1))) []

/-- A value of a query's pipeline. -/
def pv (m : KV) (sub : Nat) : Nat := kvGet 0 m sub

/-- The baskets a pipeline names: encoder, cross-encoder and table basket. -/
def pipeBaskets (s : State) (fn : Nat) (m : KV) : Option (List (Option Basket)) :=
  match namedBasket s fn (pv m 2), namedBasket s fn (pv m 3), namedBasket s fn (pv m 4) with
  | some a, some b, some c => some [a, b, c]
  | _, _, _ => none

/-- The basket of a pipeline's stage: 0 encoder, 1 cross-encoder, 2 table. -/
def stageBasket (s : State) (fn : Nat) (m : KV) (n : Nat) : Option Basket := ((pipeBaskets s fn m).getD []).getD n none

/-- The pipeline digest (R403). -/
def pipeDigest (s : State) (fn : Nat) (m : KV) : Bytes :=
  sha256 ((List.range 17).flatMap (fun k => natLE (objSize 0x3240 (k + 1)) (pv m (k + 1))) ++
    (List.range 3).flatMap fun n => match stageBasket s fn m n with | some b => slice b.digest 0 32 | none => List.replicate 32 0)

/-! ### The descriptor (R263, R280) -/

/-- Fields of a predicate (Table 11-3). -/
def predCol (p : Bytes) : Nat := field p 0 1
def predOp (p : Bytes) : Nat := field p 1 1
def predA (p : Bytes) : Nat := field p 8 4
def predB (p : Bytes) : Nat := field p 12 4

/-- Does a predicate keep Table 11-3 and R280? -/
def predOk (x : Index) (p : Bytes) : Bool :=
  let ty := colType x.columns (predCol p)
  let fits := fun v => decide (v < 2 ^ (8 * colWidth ty)) && !(ty == 5 && isNan (f32 v))
  decide (predCol p ≤ 15) && ty != 0 && decide (predOp p ≤ 8) && rz p 2 6 &&
  (decide (predOp p ≤ 6) || decide (ty ≤ 3)) && fits (predA p) && (if predOp p == 6 then fits (predB p) else predB p == 0)

/-- Does a term name predicates that exist, negating a subset of those it uses (R263)? -/
def termOk (n t : Nat) : Bool :=
  let use := t % 65536
  let neg := t / 65536
  use != 0 && decide (use < 2 ^ n) && (neg &&& use) == neg

/-- Predicates, terms and query input of a descriptor. -/
def descPreds (b : Bytes) : List Bytes := cut 16 (field b 1 1) (b.drop 32)
def descTermSpace (b : Bytes) : Nat := 32 + 16 * field b 1 1
def descTerms (b : Bytes) : List Nat := (List.range (field b 2 1)).map fun i => field b (descTermSpace b + 4 * i) 4
def descInputAt (b : Bytes) : Nat := descTermSpace b + 16 * ceilDiv (field b 2 1) 4

/-- Bytes of the query input before its padding. -/
def descInputLen (tokens : Bool) (b : Bytes) : Nat :=
  if tokens then 4 * field b 6 2 else field b 6 2 * (vecWidth (field b 8 1)).getD 0

/-- n_probe of a query. -/
def descProbes (m : KV) (b : Bytes) : Nat := if field b 4 2 == 0 then pv m 5 else field b 4 2

/-- Does a descriptor keep R263 for its pipeline and index? -/
def descOk (x : Index) (m : KV) (tokens : Bool) (b : Bytes) (len : Nat) : Bool :=
  let n := descInputLen tokens b
  let at_ := descInputAt b
  decide (32 ≤ len) && field b 0 1 == 1 && decide (field b 1 1 ≤ 16) && decide (field b 2 1 ≤ 16) &&
  (field b 1 1 == 0) == (field b 2 1 == 0) && decide (field b 3 1 ≤ 1) && rz b 9 23 &&
  len == at_ + 16 * ceilDiv n 16 && rz b (at_ + n) (len - at_ - n) &&
  rz b (descTermSpace b + 4 * field b 2 1) (at_ - descTermSpace b - 4 * field b 2 1) &&
  (descPreds b).all (predOk x) && (descTerms b).all (termOk (field b 1 1)) &&
  (if tokens then field b 8 1 == 0 && pv m 2 != noHandle && decide (field b 6 2 ≤ pv m 16)
   else (vecWidth (field b 8 1)).isSome && field b 6 2 == idxD x.layout) &&
  decide (descProbes m b ≤ pv m 6)

/-- The value of an attribute column in an item's attributes. -/
def attrOf (x : Index) (attrs : Bytes) (c : Nat) : Nat :=
  let k := ((presentCols x.columns).filter fun d => decide (d < c)).length
  field attrs (4 * k) 4 % 2 ^ (8 * colWidth (colType x.columns c))

/-- Comparison of two values of a column type: equal, and less. -/
def attrEq (ty a b : Nat) : Bool :=
  if ty == 5 then !isNan (f32 a) && !isNan (f32 b) && !ltScore (f32 a) (f32 b) && !ltScore (f32 b) (f32 a) else a == b
def attrLt (ty a b : Nat) : Bool :=
  if ty == 5 then ltScore (f32 a) (f32 b) else if ty == 4 then decide (sint 32 a < sint 32 b) else decide (a < b)

/-- Is a predicate true of an item's attributes (R280)? A NaN attribute makes every one false but ≠. -/
def predHolds (x : Index) (attrs p : Bytes) : Bool :=
  let ty := colType x.columns (predCol p)
  let v := attrOf x attrs (predCol p)
  let a := predA p
  let nan := ty == 5 && isNan (f32 v)
  let le := fun (u w : Nat) => attrLt ty u w || attrEq ty u w
  match predOp p with
  | 0 => !nan && attrEq ty v a
  | 1 => nan || !attrEq ty v a
  | 2 => !nan && attrLt ty v a
  | 3 => !nan && le v a
  | 4 => !nan && attrLt ty a v
  | 5 => !nan && le a v
  | 6 => !nan && le a v && le v (predB p)
  | 7 => (v &&& a) != 0
  | _ => (v &&& a) == a

/-- Does an item pass a query's filter (R280)? -/
def passes (x : Index) (q : Query) (attrs : Bytes) : Bool :=
  q.terms == [] || q.terms.any fun t =>
    (List.range q.preds.length).all fun i => !bitOf t i || (predHolds x attrs (q.preds.getD i []) != bitOf t (16 + i))

/-! ### Worst-case time (R272, Table 11-4), ns -/

/-- The Skimmer time of a query's merge tree in CK_ARR cycles: lists of `r` entries merged in groups of at most 64, level by level; the fuel
exceeds the number of levels (R307, Table 12-5). -/
def mergeCycles (r : Nat) : Nat → Nat → Nat
  | 0, _ => 0
  | n + 1, l =>
    let one := fun (g : Nat) => ceilDiv (g * r) 2 + 64 + ceilDiv r 2
    let full := l / 64
    let rest := l % 64
    let here := full * one 64 + (if rest == 0 then 0 else one rest)
    if l ≤ 64 then here else here + mergeCycles r n (full + boolNat (rest != 0))

/-- Nodes of the extent of an index. -/
def extentNodes (s : State) (x : Index) : Nat :=
  let i := 0x2210 + idxGroup x.layout
  (obj s i 2 + 1 - obj s i 1) * (obj s i 4 + 1 - obj s i 3) * (obj s i 6 + 1 - obj s i 5)

/-- R of a pipeline and k. -/
def poolOf (m : KV) (k : Nat) : Nat := min 64 (pv m 7 * k)

/-- The merge term: 100 µs and the tree's time at 1.75 GHz rounded up to 10 µs. -/
def mergeTerm (s : State) (x : Index) (nProbe r : Nat) : Nat :=
  let cycles := mergeCycles r 8 (min nProbe (extentNodes s x) * 64)
  100000 + 10000 * ceilDiv (cycles * 4) 70000

/-- Batching, scan, partial return and merge: the time of one widening round (R281). -/
def roundTime (s : State) (x : Index) (express : Bool) (nProbe r : Nat) : Nat :=
  (if express then 0 else 2000 * obj s 0x3200 1) + 1000 * obj s 0x3200 5 + (if extentNodes s x == 1 then 0 else 50000) +
  mergeTerm s x nProbe r

/-- The worst-case time of an array stage: 0 encoder, 1 probe selection and tables, 2 re-rank, 3 cross-encoder. -/
def stageNs (s : State) (fn : Nat) (x : Index) (m : KV) (nProbe r n : Nat) : Nat :=
  let t := fun (b : Option Basket) => match b with | some b => admitTime s b | none => 0
  match n with
  | 0 => t (stageBasket s fn m 0)
  | 1 => 1000 * Config.stageTime 0 (idxD x.layout) (idxLists x.layout) nProbe
  | 2 => 1000 * Config.stageTime 1 (idxD x.layout) r 0
  | _ => t (stageBasket s fn m 1)

/-- The array stages of a pipeline. -/
def stagesTime (s : State) (fn : Nat) (x : Index) (m : KV) (tokens : Bool) (nProbe r : Nat) : Nat :=
  (if tokens then stageNs s fn x m nProbe r 0 else 0) + stageNs s fn x m nProbe r 1 + stageNs s fn x m nProbe r 2 + stageNs s fn x m nProbe r 3

/-- The worst-case time of a query. -/
def queryTime (s : State) (fn : Nat) (x : Index) (m : KV) (tokens express : Bool) (nProbe r : Nat) : Nat :=
  stagesTime s fn x m tokens nProbe r + (if extentNodes s x == 1 then 0 else 50000) + roundTime s x express nProbe r + 760000 + 20000

/-- Pipeline work ahead of a query: one pipeline job per stage of each pipeline with Standard queries admitted (R358). -/
def pipelineAhead (s : State) : Nat :=
  let ps := (s.retr.queries.filter fun q => !q.express)
  total (((ps.map (·.pipeline)).eraseDups.filterMap fun p => ps.find? (·.pipeline == p)).map fun q =>
    match findIndex s q.index with
    | some x => stagesTime s q.fn x q.pipe true q.nProbe q.pool
    | none => 0)

/-! ### Tables and scores (R266, R267) -/

/-- The distance table of a query and a list, and its bias. -/
def buildTable (s : State) (x : Index) (q : Query) (l : Nat) : Mem × Nat :=
  let m := idxM x.layout
  let w := idxD x.layout / m
  let f := idxFamily x.layout
  let c := centroid s x l
  let put := fun (g : Nat → Nat → Nat) =>
    memOf ((List.range m).flatMap fun j => (List.range 256).flatMap fun k => natLE 2 (g j k))
  if pv q.pipe 9 == 4 then
    let d := match stageBasket s q.fn q.pipe 2 with | some b => b.digest | none => []
    let v := fun n => Config.jobValue d (q.vec.flatMap (natLE 4) ++ natLE 4 l) n
    (put fun j k => v (256 * j + k) % 65536, v (256 * m) % 2 ^ 32)
  else
    let part := fun (v : List Nat) (j : Nat) => (v.drop (w * j)).take w
    let h := fun (v : Nat) => (convRne 0x11 (f32 v)).bits
    if f == 3 then (put fun j k => h (f32Nat (popcount ((signBits q.vec).getD j 0 ^^^ k))), 0)
    else if f == 1 then
      let r := (q.vec.zip c).map fun p => fsub p.1 p.2
      (put fun j k => h (vecL2 (part r j) (codeword s x j k)), 0)
    else (put fun j k => h (vecDot (part q.vec j) (codeword s x j k)), vecDot q.vec c)

/-- The score of a code under a table (R267). -/
def scoreCode (q : Query) (p : Probe) (code : Bytes) : Nat :=
  let acc := (List.range code.length).foldl (fun acc j =>
    let t := memNat p.table (512 * j + 2 * (code.getD j 0).toNat) 2
    ffma (widen 0x11 (pv q.pipe 13 / 2 ^ (16 * j) % 65536)) (widen 0x11 t) acc) p.bias
  match pv q.pipe 10 % 4 with
  | 0 => acc
  | 1 => acc ^^^ 2 ^ 31
  | 2 => fadd (fmul (pv q.pipe 11) acc) (pv q.pipe 12)
  | _ => fsqrt (fmaxB acc 0)

/-- Does a query rank smaller scores first? -/
def qSmaller (x : Index) (q : Query) : Bool :=
  if pv q.pipe 9 == 4 then bitOf (pv q.pipe 10) 7 else smallerFirst (idxFamily x.layout)

/-! ### Records of queries -/

/-! ### The end of a query (R269 to R271, R308) -/

/-- The item behind a candidate of this node. -/
def candItem (x : Index) (c : Cand) : Option Item :=
  x.items.find? fun it => it.list % 64 == c.source && it.list / 64 * 2 ^ 32 + it.ordinal == c.position

/-- The re-rank kernel of a pipeline: 1 inner product, 2 squared L2, 3 cosine, none. Hamming has no exact distance of its own. -/
def rerankKernel (x : Index) (q : Query) : Option Nat :=
  let k := pv q.pipe 14
  if k == 0xFF || idxFv x.layout == 0 then none
  else if k == 0 then (if idxFamily x.layout == 3 then none else some (idxFamily x.layout + 1))
  else some k

/-- The exact distance of a candidate (R269). -/
def rerankScore (s : State) (x : Index) (q : Query) (kernel : Nat) (it : Item) : Nat :=
  let v := fvElems x.layout (fvStored s x it.row)
  match kernel with
  | 2 => vecL2 q.vec v
  | 3 => fdiv (vecDot q.vec v) (fsqrt (vecDot v v))
  | _ => vecDot q.vec v

/-- Candidates in the order of their exact distances; without a kernel in the order they have. -/
def rerank (s : State) (x : Index) (q : Query) : List Cand :=
  match rerankKernel x q with
  | none => q.cands
  | some k => q.cands.foldl (fun l c =>
      match candItem x c with
      | some it => rankInsert (k == 2) 0 { c with score := rerankScore s x q k it } l
      | none => l) []

/-- The tier of poison that a query's candidates meet: in the pages of their ids, and with `fvs` in their full vectors (R193). -/
def candPoison (s : State) (x : Index) (fvs : Bool) (cs : List Cand) : Option Nat :=
  cs.findSome? fun c => match candItem x c with
    | none => none
    | some it => if (segRead s (segOf x it) 3 (it.pos * 8) 8).2 then some 2
      else if fvs && idxFv x.layout != 0 then fvPoison s x it.row else none

/-- Candidates in the order of the cross-encoder's scores, ties in the order they have (R270). -/
def crossRank (s : State) (x : Index) (q : Query) (cs : List Cand) : List Cand :=
  match stageBasket s q.fn q.pipe 1 with
  | none => cs
  | some b =>
    let fvs := cs.flatMap fun c => match candItem x c with | some it => if idxFv x.layout == 0 then [] else (fvStored s x it.row).1 | none => []
    let scored := (List.range cs.length).map fun i =>
      ({ score := Config.jobValue b.digest (q.input ++ fvs) i % 2 ^ 32, index := i, node := 0, source := 0, position := i } : Cand)
    (scored.foldl (fun l c => rankInsert false 0 c l) []).map fun c => { cs.getD c.index c with score := c.score }

/-- Hold the result of a query; a function keeps at most 4,096 handles, the oldest going first (R63). The number of a handle names its
function and its place among those the function was given, so that a handle dropped earlier is known (DESIGN CHOICE, assumption 35). -/
def holdHandle (fn : Nat) (ids scores : List Nat) (s : State) : Nat × State :=
  if obj s (fnIdx fn) 4 == 0 then (noHandle, s)
  else
    let h := (kvGet 0 s.retr.given fn + 1) * 64 + fn
    let mine := s.retr.handles.filter (·.fn == fn)
    let old := if decide (4096 ≤ mine.length) then mine.head? else none
    let s := modRetr (fun r => { r with
      handles := (match old with | some o => r.handles.filter (·.handle != o.handle) | none => r.handles) ++
        [{ handle := h, fn := fn, ids := ids, scores := scores }]
      given := kvPut 0 r.given fn (kvGet 0 r.given fn + 1) }) s
    (h, s)

/-- A query whose candidates stand in their final order: its result is written and its completion posted (R271, R403, R404). -/
def finishQuery (q : Query) (s : State) : State :=
  let final := q.cands.take q.k
  let ids := final.map (·.index)
  let n := ids.length
  let (h, s) := holdHandle q.fn ids (final.map (·.score)) s
  let dg := if q.digest then resultDigest q.pipeDigest q.versions q.inputDigest q.epoch (16 * rowsInService s) q.modeWord else []
  let flags := boolNat q.digest + (if q.rounds == 0 then 0 else 2) + (if n < q.k then 4 else 0) + (if q.throttled then 8 else 0) +
    (if bitOf q.modeWord 8 then 16 else 0)
  let s := dmaResult q.resultAddr (resultRegion h n flags q.epoch 0 dg ++
    (ids ++ List.replicate (q.k - n) noHandle).flatMap (natLE 8)) s
  let s := if q.digest then
      logAudit q.fn { handle := h, sq := q.sq, cid := q.cid, opc := opQuery, time := s.time, digest := dg, basketDigest := q.pipeDigest,
                      inputDigest := q.inputDigest, epoch := q.epoch, cells := 16 * rowsInService s, modeWord := q.modeWord,
                      objects := q.versions } s
    else s
  endBasket q.fn q.sq q.cid stSuccess n 0 noOp (bump 0x3201 1 (dropQuery q.fn q.sq q.cid s))

/-! ### Probes (R264, R266, R273, R281, R290) -/

/-- Is a list scan under way? -/
def scanning (s : State) : Bool := s.retr.queries.any fun q => q.probes.any (·.scanning)

/-- Probe lists: their tables are built and reach the engines that hold them; an Express probe with no scan under way, and every probe
with a window of 0, is scanned at once (R273, R274). -/
def sendProbes (x : Index) (q : Query) (ls : List Nat) (s : State) : State :=
  let now := if q.express then !scanning s else obj s 0x3200 1 == 0
  modQuery q.fn q.sq q.cid (fun q => { q with
    probes := q.probes ++ ls.map fun l =>
      let (t, b) := buildTable s x q l
      { list := l, node := ownNode s, arrived := true, carried := 0, scanning := now, done := false, table := t, bias := b } }) s

/-- The lists of a query's next widening round, where one may start (R281, R398). -/
def nextRound (s : State) (x : Index) (q : Query) : List Nat :=
  let fits := match q.detRounds with
    | some r => decide (q.rounds < r)
    | none => q.deadline == 0 || decide (s.time + roundTime s x q.express q.nProbe q.pool ≤ q.deadline)
  if q.noWiden || !fits || decide (q.pool ≤ q.cands.length) then []
  else (q.order.drop q.probes.length).take (min q.nProbe (pv q.pipe 6 - q.probes.length))

/-! ### Pipeline jobs (R6, R264, R358) -/

/-- The queries whose array stage `n` waits to be gathered, of one pipeline and class. -/
def stageWaiters (s : State) (p n : Nat) (express : Bool) : List Query :=
  s.retr.queries.filter fun q => q.pipeline == p && q.express == express && q.stage == 2 * n

/-- The basket of a pipeline job: no operation of its own, the area of its class, and the longest time of its queries' stages (DESIGN CHOICE,
assumption 66). -/
def stageWork (s : State) (n : Nat) (express : Bool) (qs : List Query) : Basket :=
  let ns := qs.map fun q => match findIndex s q.index with | some x => stageNs s q.fn x q.pipe q.nProbe q.pool n | none => 0
  { id := noHandle, fn := 0, cls := boolNat express, cellThreads := 0, engineThreads := 0, wcet := ns.foldl max 0, scratch := 0, output := 0,
    ops := [], size := 0, code := [], rennet := [], slots := [], sync := [], digest := [], churnDs := [] }

/-- The pipeline job that gathers queries. -/
def stageJob (s : State) (p n : Nat) (express : Bool) (qs : List Query) : Job :=
  { id := s.jobs.nextJob, fn := 0, sq := 0, cid := 0, basket := stageWork s n express qs, express := express, digest := false,
    resultAddr := 0, objects := [], groups := [], coefs := [], params := [], st := 0, pos := 0, admitted := s.time, rho := 0, started := 0,
    resumed := 0, runTime := 0, saveStart := 0, window := (qs.map (·.window)).foldl max 0, throttled := throttling s, output := [],
    outPoison := [], context := none, cells := 16 * rowsInService s, modeWord := modeWord s, inputDigest := [], versions := [],
    stage := some (p, n), members := qs.map fun q => (q.fn, q.sq, q.cid) }

/-- Gather the stage work of the queries of one pipeline, class and stage into one pipeline job, which is queued like any job (R358). -/
def gatherStage (p n : Nat) (express : Bool) (s : State) : State :=
  match stageWaiters s p n express with
  | [] => s
  | qs =>
    let j := stageJob s p n express qs
    let s := modRetr (fun r => { r with
      queries := updWhere (fun q => q.pipeline == p && q.express == express && q.stage == 2 * n) (fun q => { q with stage := 2 * n + 1 }) r.queries }) s
    let s := modJobs (fun r => { r with
      jobs := r.jobs ++ [j]
      stdQ := if express then r.stdQ else r.stdQ ++ [j.id]
      expQ := if express then r.expQ ++ [j.id] else r.expQ
      nextJob := r.nextJob + 1 }) s
    if express then askPreempt s else s

/-- Gather every stage of Standard queries that waits: a batching window closes. -/
def gatherStages (s : State) : State :=
  (((s.retr.queries.filter fun q => !q.express && decide (q.stage < 8) && q.stage % 2 == 0).map fun q => (q.pipeline, q.stage / 2)).eraseDups).foldl
    (fun s k => gatherStage k.1 k.2 false s) s

/-- A query's array stage `n` is due: it waits for the close of a window, but an Express query's work, and any with a window of 0, is gathered at
once. -/
def stageDue (q : Query) (n : Nat) (s : State) : State :=
  let s := modQuery q.fn q.sq q.cid (fun q => { q with stage := 2 * n }) s
  if q.express || obj s 0x3200 1 == 0 then gatherStage q.pipeline n q.express s else s

/-- The first array stage after the merge that a query has, or none. -/
def rankStage (x : Index) (q : Query) : Option Nat :=
  if (rerankKernel x q).isSome then some 2 else if pv q.pipe 3 != noHandle then some 3 else none

/-- The best R of the lists that the engines return and of what an earlier round has merged (R269, R307). -/
def mergePools (x : Index) (q : Query) : List Cand := mergeBest (qSmaller x q) 0 q.pool true (q.cands ++ q.pools.flatMap (·.2))

/-- A query whose partial lists have left the engines and are merged (R299, R307). -/
def merged (x : Index) (q : Query) : Query := { q with cands := mergePools x q, pools := [], rawSet := [] }

/-- A query all of whose probes are scanned is merged, by one MERGE of the engines' lists, which are at most 64 (R307): a short pool is widened where
it may be, else its candidates are ranked on the array, or the query ends. -/
def mergeQuery (x : Index) (q₀ : Query) (s₀ : State) : State :=
  let q := merged x q₀
  let s := bump 0x3301 2 (modQuery q.fn q.sq q.cid (fun _ => q) s₀)
  match nextRound s x q with
  | [] =>
    match rankStage x q, candPoison s x false q.cands with
    | some n, _ => stageDue q n s
    | none, some tier => failQuery q stPoisonedInput tier s
    | none, none => finishQuery q s
  | ls =>
    let s := if q.rounds == 0 then bump 0x3201 8 s else s
    let s := modQuery q.fn q.sq q.cid (fun q => { q with rounds := q.rounds + 1 }) s
    sendProbes x q ls s

/-! ### QUERY (R262, R264, R282, R358, R402, R406) -/

/-- The audit floor of an index: all-ones keeps only the committed epoch (IndexAudit.1). -/
def auditFloor (s : State) (x : Index) : Nat :=
  if obj s (0x4220 + x.id) 1 == 2 ^ 64 - 1 then x.committed else obj s (0x4220 + x.id) 1

/-- The epoch a query pins: the committed one, or the function's replay epoch for the index where it is held. -/
def pinEpoch (s : State) (fn : Nat) (x : Index) : Option Nat :=
  if obj s (0x4260 + fn) 1 == x.id then
    let e := obj s (0x4260 + fn) 2
    if decide (x.committed < e) || decide (e < auditFloor s x) then none else some e
  else some x.committed

/-- The vector that a query's own input holds; token input gives one only once it is encoded. -/
def queryVec (x : Index) (tokens : Bool) (b : Bytes) : List Nat :=
  if tokens then []
  else famVec x (inputVec none false (field b 8 1) (idxD x.layout) ((b.drop (descInputAt b)).take (descInputLen false b)))

/-- Widening rounds fixed at admission in deterministic mode (R398). -/
def fixedRounds (s : State) (x : Index) (express : Bool) (nProbe r c : Nat) (left : Option Nat) : Option Nat :=
  if !deterministic s then none
  else match left with
    | none => some 1024
    | some l => some ((l - c) / max 1 (roundTime s x express nProbe r))

/-- Admit a query: its epoch is pinned, and its first array stage is due (R264, R282, R358). Nothing binds objects to the slots of its baskets, so none is
named by its digest (R403; DESIGN CHOICE, assumption 66). -/
def admitQuery (e : Sqe) (x : Index) (m : KV) (tokens : Bool) (b : Bytes) (deadline epoch c window : Nat) (s : State) : State :=
  let reads := [(0, x.centroids)] ++ (if x.codebook == 0 then [] else [(0, x.codebook)])
  let (s, vs) := if wantsDigest e then fixVersions reads s else (s, [])
  let vs := if wantsDigest e then sortVersions (versionRead s epoch 3 x.id :: vs) else []
  let k := e.cdw15 % 128
  let q : Query :=
    { fn := e.fn, sq := e.sq, cid := e.cid, pipeline := e.handle, pipe := m, index := x.id, k := k, pool := poolOf m k, epoch := epoch,
      express := wantsExpress e, digest := wantsDigest e, deadline := deadline, admitted := s.time, resultAddr := resultAddr e,
      preds := descPreds b, terms := descTerms b, noWiden := bitOf (field b 3 1) 0, nProbe := descProbes m b,
      input := b.drop (descInputAt b), tokens := if tokens then descInputLen true b else 0, stage := 8, window := window,
      vec := queryVec x tokens b, order := [], probes := [], pools := [], cands := [], rawSet := [], rounds := 0,
      detRounds := fixedRounds s x (wantsExpress e) (descProbes m b) (poolOf m k) c (timeLeft s deadline),
      throttled := throttling s, modeWord := modeWord s, inputDigest := inputDigest opQuery e.cdw14 e.cdw15 e.cdw10 b, versions := vs,
      pipeDigest := pipeDigest s e.fn m }
  let s := if q.express then modJobs (fun r => { r with
      budgetUsed := kvPut 0 r.budgetUsed window (kvGet 0 r.budgetUsed window + slowed s (c + 100000)) }) s else s
  stageDue q (if tokens then 0 else 1) (modRetr (fun r => { r with queries := r.queries ++ [q] }) s)

/-- Is a Standard query admitted: pipeline work ahead counts as one pipeline job per stage, whether it is queued yet or not (R358)? -/
def admitQueryStd (s : State) (c : Nat) (left : Option Nat) : Bool :=
  admitBehind s ((queuedJobs s false).filter (·.stage == none)) (c + pipelineAhead s) 0 left

/-- QUERY: the entry, the handle, the descriptor, then admission. -/
def queryF (e : Sqe) (buf : Bytes) (s : State) : State :=
  basketCmd e opQuery true (some (64 + 8 * (e.cdw15 % 128))) (fun r s =>
    let k := e.cdw15 % 128
    let kind := bitsOf e.cdw15 9 8
    let m := pipeValues s e.handle
    if k == 0 || decide (64 < k) || decide (1 < kind) || e.cdw15 != k + 256 * kind || decide (2 ^ 20 < e.cdw10) then
      endCmd e stInvalidField 0 s
    else if decide (63 < e.handle) then endCmd e stUnknownHandle 0 s
    else match indexFor s e.fn (pv m 1), pipeBaskets s e.fn m with
      | some x, some _ =>
        if !granted (pv m 17) e.fn then endCmd e stUnknownHandle 0 s
        else if buf.length < e.cdw10 then endCmd e stDataTransferError 0 s
        else
          let b := buf.take e.cdw10
          let tokens := kind == 0
          if !descOk x m tokens b e.cdw10 then endCmd e stInvalidField 0 s
          else match pinEpoch s e.fn x with
            | none => endCmd e stResultExpired 0 s
            | some epoch =>
              let c := queryTime s e.fn x m tokens (wantsExpress e) (descProbes m b) (poolOf m k)
              let left := timeLeft s r.deadline
              let w := if wantsExpress e then admitExpress s c 0 left
                else if admitQueryStd s c left then some 0 else none
              match w with
              | some w => admitQuery e x m tokens b r.deadline epoch c w s
              | none => notAdmitted e c s
      | _, _ => endCmd e stUnknownHandle 0 s) s

def execQuery (e : Sqe) (buf : Bytes) (s : State) : Res := finish s (queryF e buf s)

/-! ### Batching windows (R273, R275, R276, R299) -/

/-- Code pages of a list. -/
def codePages (s : State) (x : Index) (l : Nat) : List StorePage :=
  s.tier.pages.filter fun p => p.kind == 3 && (match p.owner with | .segment i k _ => i == x.id && k == l | _ => false)

/-- Code pages of a list on a channel, as the map places them. -/
def listPages (s : State) (x : Index) (l ch : Nat) : Nat :=
  ((codePages s x l).filter fun p => entryValid (mapGet s p.lpn) && physChannel (entryPhys (mapGet s p.lpn)) == ch).length

/-- The engine that scans a code page of a list: its channel's, where the map places it on flash, else that of the list's home channel (R110; DESIGN
CHOICE, assumption 31). -/
def pageEngine (s : State) (list lpn : Nat) : Nat :=
  if entryValid (mapGet s lpn) then physChannel (entryPhys (mapGet s lpn)) else list % 64

/-- The engines that scan a list. -/
def listEngines (s : State) (x : Index) (l : Nat) : List Nat := ((codePages s x l).map fun p => pageEngine s l p.lpn).eraseDups

/-- Scan work of a list on a channel's engine, ns (R275). -/
def scanWork (s : State) (x : Index) (l ch : Nat) : Nat := 300000 + 2880 * listPages s x l ch

/-- Queries of one scan at most (R273). -/
def scanB (m : Nat) : Nat := min 64 (2 ^ 20 / (512 * max 1 m))

/-- A probe that waits for a window: its query, and itself. -/
def waitingProbes (s : State) : List (Query × Probe) :=
  let all := s.retr.queries.flatMap fun q =>
    if q.express then [] else (q.probes.filter fun p => p.arrived && !p.scanning && !p.done).map fun p => (q, p)
  (all.filter fun a => a.2.carried != 0) ++ all.filter fun a => a.2.carried == 0

/-- Scans of a list that a number of probes makes. -/
def scansOf (m n : Nat) : Nat := ceilDiv n (scanB m)

/-- The probes a closing window takes: in order, each while the summed work of every engine keeps the budget. `used` holds (index, list)
and its probes so far. -/
def takeProbes (s : State) : List (Query × Probe) → List (Nat × Nat × Nat) → List (Nat × Nat × Nat × Nat)
  | [], _ => []
  | (q, p) :: rest, used =>
    match findIndex s q.index with
    | none => takeProbes s rest used
    | some _ =>
      let n := match used.find? fun u => u.1 == q.index && u.2.1 == p.list with | some u => u.2.2 | none => 0
      let next := (used.filter fun u => !(u.1 == q.index && u.2.1 == p.list)) ++ [(q.index, p.list, n + 1)]
      let work := fun ch => total (next.map fun u =>
        match findIndex s u.1 with
        | some y => scansOf (idxM y.layout) u.2.2 * scanWork s y u.2.1 ch
        | none => 0)
      if (List.range 64).all fun ch => decide (work ch ≤ 1000 * obj s 0x3200 5) then
        (q.fn, q.sq, q.cid, p.list) :: takeProbes s rest next
      else takeProbes s rest used

/-- The engines on which a query holds a pool: from its first scan there until its partial list leaves (R299). -/
def poolEngines (s : State) (q : Query) : List Nat :=
  (q.pools.map (·.1) ++ (q.probes.filter (·.scanning)).flatMap fun p =>
    match findIndex s q.index with | some x => listEngines s x p.list | none => []).eraseDups

/-- The pools that queries hold: engine and query. -/
def poolsHeld (s : State) : List (Nat × Nat × Nat × Nat) :=
  s.retr.queries.flatMap fun q => (poolEngines s q).map fun e => (e, q.fn, q.sq, q.cid)

/-- Pools in use on an engine, of its 256. -/
def poolsOn (held : List (Nat × Nat × Nat × Nat)) (e : Nat) : Nat := (held.filter (·.1 == e)).length

/-- The engines that a taken probe's scan needs. -/
def probeEngines (s : State) (a : Nat × Nat × Nat × Nat) : List Nat :=
  match s.retr.queries.find? (·.named a.1 a.2.1 a.2.2.1) with
  | some q => (match findIndex s q.index with | some x => listEngines s x a.2.2.2 | none => [])
  | none => []

/-- The taken probes whose query has or gets a pool on every engine that its list needs; the others are carried and counted. `held` names the pools
taken so far. -/
def poolSplit (s : State) : List (Nat × Nat × Nat × Nat) → List (Nat × Nat × Nat × Nat) → List (Nat × Nat × Nat × Nat)
  | [], _ => []
  | a :: l, held =>
    let new := ((probeEngines s a).map fun e => (e, a.1, a.2.1, a.2.2.1)).filter fun u => !held.contains u
    if new.all fun u => decide (poolsOn held u.1 < 256) then a :: poolSplit s l (held ++ new) else poolSplit s l held

/-- The scans of a closing window are formed within the budget and the pools; the other probes are carried (R273, R275). -/
def formScans (s : State) : State :=
  let waiting := waitingProbes s
  let fit := takeProbes s waiting []
  let go := poolSplit s fit (poolsHeld s)
  let s := bumpBy 0x3201 9 (waiting.length - go.length) (bumpBy 0x3301 6 (fit.length - go.length) s)
  modRetr (fun r => { r with queries := r.queries.map fun q =>
    if q.express then q
    else
      let next := fun (p : Probe) =>
        if !p.arrived || p.scanning || p.done then p
        else if go.contains (q.fn, q.sq, q.cid, p.list) then { p with scanning := true }
        else { p with carried := p.carried + 1 }
      { q with probes := q.probes.map next } }) s

/-- BATCHING_WINDOW_CLOSE: the scans of the window are formed, and the stage work that waits is gathered into pipeline jobs (R273, R358). -/
def batchingWindowCloseF (s : State) : State := gatherStages (formScans s)

def execBatchingWindowClose (s : State) : Res := finish s (batchingWindowCloseF s)

/-! ### List scans (R267, R268, R277, R278, R300) -/

/-- What a scan of one list for one query has come to: the pool of each engine, raw entries, items re-read for parity and for the margin, the codewords
decoded, poison met, and the scores that were NaN. -/
structure ScanAcc where
  pools : List (Nat × List Cand)
  raw : List (Nat × Nat)
  parity : Nat
  margin : Nat
  decoded : List (Nat × Nat)
  poisoned : Bool
  nans : Nat
  deriving DecidableEq, Repr

/-- Is a score better than the threshold by more than δ, or worse by more than δ (R278)? -/
def betterBy (small : Bool) (score theta delta : FV) : Bool :=
  if small then ltScore (addV score delta) theta else ltScore (addV theta delta) score
def worseBy (small : Bool) (score theta delta : FV) : Bool :=
  if small then ltScore (addV theta delta) score else ltScore (addV score delta) theta

/-- δ of a query at a threshold. -/
def marginOf (q : Query) (theta : Nat) : FV := f32 (fmul (pv q.pipe 8) (theta % 2 ^ 31))

/-- Put a candidate into a pool of `r` entries; a NaN score enters none (R295). -/
def poolPut (small : Bool) (r : Nat) (c : Cand) (pool : List Cand) : List Cand :=
  if isNan (f32 c.score) then pool else (rankInsert small 0 c pool).take r

/-- The candidate of an item with a score (R260). -/
def candOf (s : State) (it : Item) (score : Nat) : Cand :=
  { score := score, index := it.id, node := ownNode s, source := it.list % 64, position := it.list / 64 * 2 ^ 32 + it.ordinal }

/-- The codeword of an item's record: its segment, and its number among the segment's codewords. -/
def cwOf (x : Index) (it : Item) : Nat × Nat := (it.seg, codeByte (idxM x.layout) it.pos / 4096)

/-- The engine that scans an item's record (R268). -/
def itemEngine (s : State) (x : Index) (it : Item) : Nat :=
  match storeLpn s (segOf x it) 1 ((cwOf x it).2 / 4) with
  | some l => pageEngine s it.list l
  | none => it.list % 64

/-- The pool of an engine, and pools with one of them put. -/
def poolAt (ps : List (Nat × List Cand)) (e : Nat) : List Cand := match ps.find? (·.1 == e) with | some p => p.2 | none => []
def poolSet (ps : List (Nat × List Cand)) (e : Nat) (l : List Cand) : List (Nat × List Cand) :=
  if ps.any (·.1 == e) then updWhere (·.1 == e) (fun p => (p.1, l)) ps else ps ++ [(e, l)]

/-- Is the tracked rate of a block at or below the raw-read ceiling, which √(32/m) scales for m above 32 (R277)? -/
def rateOk (s : State) (m key : Nat) : Bool :=
  let n := kvGet 0 s.nand.decodes key
  let c := 1000 * kvGet 0 s.nand.corrected key
  decide (16 ≤ n) &&
    (if m ≤ 32 then decide (c ≤ obj s 0x3200 3 * n) else decide (c * c * m ≤ obj s 0x3200 3 * n * (obj s 0x3200 3 * n) * 32))

/-- Is the codeword of an item scored raw (R277)? -/
def scoredRaw (s : State) (x : Index) (it : Item) : Bool :=
  obj s 0x3200 2 == 1 && !deterministic s &&
  (match storeLpn s (segOf x it) 1 ((cwOf x it).2 / 4) with
   | some l => (match needsDie s l with | some a => rateOk s (idxM x.layout) (blockKey a) | none => false)
   | none => false)

/-- An item whose score would enter the pool of an engine is filtered first where the pipeline filters after scoring (R280). -/
def enterPool (x : Index) (q : Query) (d : ItemData) (c : Cand) (raw : Bool) (key : Nat × Nat) (e : Nat) (a : ScanAcc) : ScanAcc :=
  let pool := poolPut (qSmaller x q) q.pool c (poolAt a.pools e)
  let a := { a with nans := a.nans + boolNat (isNan (f32 c.score)) }
  let filters := pv q.pipe 15 == 1 && q.terms != [] && pool != poolAt a.pools e
  if filters && d.badAttrs then { a with poisoned := true }
  else if filters && !passes x q d.attrs then a
  else { a with pools := poolSet a.pools e pool, raw := if raw then a.raw ++ [key] else a.raw }

/-- Score one visible item from its decoded codeword: one decode serves every record of it (R278). -/
def scoreDecoded (s : State) (x : Index) (q : Query) (p : Probe) (failed : Bool) (d : ItemData) (it : Item) (a : ScanAcc) : ScanAcc :=
  let a := { a with decoded := if a.decoded.contains (cwOf x it) then a.decoded else a.decoded ++ [cwOf x it] }
  if failed || d.bad then { a with poisoned := true }
  else enterPool x q d (candOf s it (scoreCode q p d.code)) false (it.list, it.ordinal) (itemEngine s x it) a

/-- Score one visible item (R267, R277, R278, R280). A record that the scan does not list was read without error. -/
def scanItem (s : State) (x : Index) (q : Query) (p : Probe) (recs : List Scored) (a : ScanAcc) (it : Item) : ScanAcc :=
  let d := itemData s x it
  let filters := pv q.pipe 15 == 0 && q.terms != []
  let r := recs.find? (·.ordinal == it.ordinal)
  let failed := match r with | some r => r.failed | none => false
  if filters && d.badAttrs then { a with poisoned := true }
  else if filters && !passes x q d.attrs then a
  else if !scoredRaw s x it then scoreDecoded s x q p failed d it a
  else
    let m := idxM x.layout
    let raw := match r with | some r => if r.raw == [] then d.code ++ codeParity d.code else r.raw | none => d.code ++ codeParity d.code
    if parityFails m raw != [] then scoreDecoded s x q p failed d it { a with parity := a.parity + 1 }
    else
      let small := qSmaller x q
      let v := scoreCode q p (raw.take m)
      let pool := poolAt a.pools (itemEngine s x it)
      let enter := enterPool x q d (candOf s it v) true (it.list, it.ordinal) (itemEngine s x it) a
      if decide (pool.length < q.pool) then enter
      else
        let th := (pool.getLastD (candOf s it v)).score
        let e := marginOf q th
        if betterBy small (f32 v) (f32 th) e then enter
        else if worseBy small (f32 v) (f32 th) e then a
        else scoreDecoded s x q p failed d it { a with margin := a.margin + 1 }

/-- Settling of an engine's pool: entries with raw scores within δ of the final threshold are rescored from their decoded codes (R278, R300). -/
def settlePool (s : State) (x : Index) (q : Query) (list : Nat) (recs : List Scored) (en : Nat) (a : ScanAcc) : ScanAcc :=
  let pool := poolAt a.pools en
  if decide (pool.length < q.pool) then a
  else match pool.getLast? with
    | none => a
    | some t =>
      let small := qSmaller x q
      let e := marginOf q t.score
      (pool.filter fun c => (match candItem x c with | some it => a.raw.contains (it.list, it.ordinal) | none => false) &&
          !betterBy small (f32 c.score) (f32 t.score) e && !worseBy small (f32 c.score) (f32 t.score) e).foldl (fun a c =>
        match candItem x c with
        | none => a
        | some it =>
          match q.probes.find? (·.list == it.list) with
          | none => a
          | some p =>
            let d := itemData s x it
            let lost := it.list == list && recs.any fun r => r.ordinal == it.ordinal && r.failed
            if d.bad || lost then { a with poisoned := true }
            else { a with
              nans := a.nans + boolNat (isNan (f32 (scoreCode q p d.code)))
              pools := poolSet a.pools en (poolPut small q.pool (candOf s it (scoreCode q p d.code)) ((poolAt a.pools en).filter (· != c)))
              raw := a.raw.filter (· != (it.list, it.ordinal))
              decoded := if a.decoded.contains (cwOf x it) then a.decoded else a.decoded ++ [cwOf x it]
              margin := a.margin + 1 }) a

/-- The scan of a list for one query, in the order of the records: it takes a pool on every engine of the list (R267, R268, R299). -/
def scanList (s : State) (x : Index) (q : Query) (p : Probe) (recs : List Scored) : ScanAcc :=
  let items := x.items.filter fun it => it.list == p.list && visible q.epoch it
  let start := (listEngines s x p.list).foldl (fun ps e => poolSet ps e (poolAt ps e)) q.pools
  let a := items.foldl (fun a it => scanItem s x q p recs a it)
    { pools := start, raw := q.rawSet, parity := 0, margin := 0, decoded := [], poisoned := false, nans := 0 }
  (a.pools.map (·.1)).foldl (fun a e => settlePool s x q p.list recs e a) a

/-- What a scan of a list came to for its queries: each with its accumulation. -/
def scanAll (s : State) (x : Index) (list : Nat) (recs : List Scored) (qs : List Query) : List (Query × ScanAcc) :=
  qs.filterMap fun q => (q.probes.find? fun p => p.list == list && p.scanning).map fun p => (q, scanList s x q p recs)

/-- The scan of a list ends for one query: its pool is settled, and after its last scan the query is merged (R268). -/
def scanEnds (x : Index) (list : Nat) (q : Query) (a : ScanAcc) (s : State) : State :=
  let s := bumpBy 0x3301 4 a.nans (bumpBy 0x3201 6 a.parity (bumpBy 0x3201 7 a.margin (bump 0x3201 3 s)))
  if a.poisoned then failQuery q stPoisonedInput 2 s
  else
    let q := { q with
      pools := a.pools
      rawSet := a.raw
      probes := updWhere (fun p => p.list == list) (fun p => { p with scanning := false, done := true }) q.probes }
    let s := modQuery q.fn q.sq q.cid (fun _ => q) s
    if q.probes.all (·.done) then mergeQuery x q s else s

/-- The queries of a scan in the order of their admission: by time, queue and command (R276). -/
def byAdmission (qs : List Query) : List Query :=
  let before := fun (a b : Query) =>
    decide (a.admitted < b.admitted) || (a.admitted == b.admitted && (decide (a.sq < b.sq) || (a.sq == b.sq && decide (a.cid < b.cid))))
  qs.foldl (fun l q => (l.filter fun u => !before q u) ++ [q] ++ l.filter fun u => before q u) []

/-- Does deterministic mode hold a scan back: one of a lower list of the window is under way (R276)? -/
def scanHeld (s : State) (list : Nat) : Bool :=
  deterministic s && s.retr.queries.any fun q => !q.express && q.probes.any fun p => p.scanning && decide (p.list < list)

/-- The codewords of a list that hold records, those of them scored raw, and those decoded for a scan. -/
def scanCodewords (s : State) (x : Index) (list : Nat) (accs : List (Query × ScanAcc)) : Nat × Nat :=
  let its := x.items.filter fun it => it.list == list
  let raw := ((its.filter (scoredRaw s x)).map (cwOf x)).eraseDups
  let dec := ((its.filter fun it => !scoredRaw s x it).map (cwOf x) ++ accs.flatMap fun a => a.2.decoded).eraseDups
  (raw.length, dec.length)

/-- The reads of a scan count against the blocks of the list's code pages on flash (R150). -/
def countScan (x : Index) (list : Nat) (s : State) : State :=
  ((codePages s x list).filterMap fun p => needsDie s p.lpn).foldl (fun s a => countRead a s) s

/-- The queries of a scan whose distance table or candidate list has failed its parity end; the others go on (R189). -/
def scanParity (list : Nat) (parity : List (Nat × Nat × Nat)) (group : List Query) (s : State) : State :=
  (group.filter fun q => parity.contains (q.fn, q.sq, q.cid)).foldl (fun s q =>
    failQuery q stPoisonedInput 0 (parityError { source := 2, cls := 4, action := 3, unit := list % 64 } s)) s

/-- LIST_SCAN_DONE: Express probes in scans of their own first, at most B queries a scan; then waiting Express probes start (R268, R274). `parity` names
the queries whose table or candidates fail their parity in the scan. -/
def listScanDoneF (index list : Nat) (recs : List Scored) (parity : List (Nat × Nat × Nat)) (s : State) : State :=
  match findIndex s index with
  | none => s
  | some x =>
    let on := s.retr.queries.filter fun q => q.index == index && q.probes.any fun p => p.list == list && p.scanning
    let ex := on.filter (·.express)
    let group := (byAdmission (if ex == [] then on else ex)).take (scanB (idxM x.layout))
    if group == [] || (ex == [] && scanHeld s list) then s
    else
      let s := scanParity list parity group s
      let accs := scanAll s x list recs (group.filter fun q => !parity.contains (q.fn, q.sq, q.cid))
      let n := scanCodewords s x list accs
      let s := bumpBy 0x3201 5 n.2 (bumpBy 0x3201 4 n.1 (bump 0x3201 2 (countScan x list s)))
      let s := accs.foldl (fun s a => scanEnds x list a.1 a.2 s) s
      modRetr (fun r => { r with queries := r.queries.map fun q =>
        if q.express then { q with probes := q.probes.map fun p =>
          if p.arrived && !p.done then { p with scanning := true } else p }
        else q }) s

def execListScanDone (index list : Nat) (r : ScanResult) (s : State) : Res := finish s (listScanDoneF index list r.recs r.parity s)

/-! ### The end of a job (R348, R349, R358) -/

/-- What a pipeline job's stage gives one of its queries, and the query's next step. -/
def stageEnds (n : Nat) (q : Query) (s : State) : State :=
  match findIndex s q.index with
  | none => s
  | some x =>
    let put := fun (f : Query → Query) => modQuery q.fn q.sq q.cid f s
    match n with
    | 0 =>
      let v := famVec x (inputVec (stageBasket s q.fn q.pipe 0) true 0 (idxD x.layout) (q.input.take q.tokens))
      stageDue q 1 (put fun q => { q with vec := v })
    | 1 =>
      (match poisonedOf s (assignObjects x) with
       | some t => failQuery q stPoisonedInput t.2.2 s
       | none =>
         let order := coarseOrder s x q.vec
         sendProbes x { q with order := order } (order.take q.nProbe) (put fun q => { q with order := order, stage := 8 }))
    | _ =>
      match candPoison s x true q.cands with
      | some tier => failQuery q stPoisonedInput tier s
      | none =>
        if n == 2 then
          let q := { q with cands := rerank s x q }
          let s := modQuery q.fn q.sq q.cid (fun _ => q) s
          if pv q.pipe 3 != noHandle then stageDue q 3 s else finishQuery q s
        else finishQuery { q with cands := crossRank s x q q.cands } s

/-- JOB_END: the last operation has completed and every thread has exited; the job succeeds, and a pipeline job, which does its work in this step and
so waits while the issue rate is 0, lets its queries go on to what follows their stage. -/
def jobEndF (s : State) : State :=
  match ownerJob s with
  | some j =>
    if j.st == 2 && (s.thr.fa != 0 || j.stage == none) && decide (j.basket.ops.length ≤ j.pos) && s.jobs.threads.isEmpty && !streamBusy s then
      match j.stage with
      | none => endJob j.id stSuccess 0 (modJob j.id (fun k => { k with st := 4 }) s)
      | some (_, n) =>
        let qs := liveMembers s j
        qs.foldl (fun s q => stageEnds n q s) (clearJob j (account j 4 1 s))
    else s
  | none => s

def execJobEnd (s : State) : Res := finish s (jobEndF s)

/-! ### Handles (R63, R308) -/

/-- RESULT_RETENTION_EXPIRY: a handle is dropped. -/
def resultRetentionExpiryF (handle : Nat) (s : State) : State :=
  modRetr (fun r => { r with handles := r.handles.filter (·.handle != handle) }) s

def execResultRetentionExpiry (handle : Nat) (s : State) : Res := finish s (resultRetentionExpiryF handle s)

/-- Was a handle given to a function? -/
def wasHandle (s : State) (fn h : Nat) : Bool := h % 64 == fn && decide (64 ≤ h) && decide (h / 64 ≤ kvGet 0 s.retr.given fn)

/-- GATHER_COMMAND: the final scores of a held query, in rank order; the entries of the region beyond them are free (R62, R63; DESIGN CHOICE,
assumption 5). -/
def gatherCommandF (e : Sqe) (s : State) : State :=
  let e := { e with psdt := 0 }
  let n := e.cdw15 % 128
  basketCmd e opGather false (some (64 + 4 * n)) (fun _ s =>
    if n == 0 || decide (64 < n) || e.cdw15 != n then endCmd e stInvalidField 0 s
    else if e.handle == noHandle then endCmd e stResultExpired 0 s
    else match s.retr.handles.find? (·.handle == e.handle) with
      | some h =>
        if h.fn != e.fn then endCmd e stUnknownHandle 0 s
        else
          let out := h.scores.take n
          let flags := (if throttling s then 8 else 0) + (if deterministic s then 16 else 0)
          endCmd e stSuccess out.length (dmaResult (resultAddr e) (resultRegion noHandle out.length flags 0 0 [] ++ out.flatMap (natLE 4) ++
            freshBytes (4 * (n - out.length)) s) (drew s))
      | none => endCmd e (if wasHandle s e.fn e.handle then stResultExpired else stUnknownHandle) 0 s) s

def execGatherCommand (e : Sqe) (s : State) : Res := finish s (gatherCommandF e s)

end Sys2Proof.Machine
end

