-- ==== Sys2Proof/Machine/Requests.lean ====
section
/-! DEFINITION. How commands end before they complete by themselves: deadlines, Abort, Function Abort and the stop of a controller's work
(R70 to R73, R184, R355). -/

namespace Sys2Proof.Machine

open Sys2Proof

/-- Is an object still wanted by an admitted job or an update? -/
def objectWanted (s : State) (object : Nat) : Bool :=
  (s.jobs.jobs.any fun j => j.objects.any fun o => o.2 == object) ||
  (s.churn.updates.any fun u => tableObj u.table == object || countObj u.table == object)

/-- A fetch from T2 that nothing waits for any more is cancelled (R184). -/
def cancelFetches (s : State) : State :=
  modTier (fun t => { t with
    tiles := updWhere (fun u => u.fetching && !objectWanted s u.object) (fun u => { u with fetching := false }) t.tiles }) s

/-- End a command of an I/O queue with a status: its job, query, update or ingest ends with it. -/
def endRequest (fn sq cid : Nat) (st : Status) (dw0 : Nat) (s : State) : State :=
  match s.jobs.jobs.find? fun j => j.stage == none && j.fn == fn && j.sq == sq && j.cid == cid with
  | some j => cancelFetches (finishJob j st dw0 s)
  | none =>
    match s.retr.queries.find? (·.named fn sq cid) with
    | some q => failQuery q st dw0 s
    | none =>
      match s.retr.ingests.find? fun g => g.fn == fn && g.sq == sq && g.cid == cid with
      | some g => endBasket fn sq cid st dw0 0 noOp (dropIngest g s)
      | none =>
        match s.churn.updates.find? fun u => u.named fn sq cid && !u.fromJob with
        | some _ => cancelFetches (endBasket fn sq cid st dw0 0 noOp (dropUpd fn sq cid s))
        | none => if isCompute s fn sq then endBasket fn sq cid st dw0 0 noOp s else post fn sq cid st dw0 0 s

/-- Did a command's work run throttled (R30)? -/
def ranThrottled (s : State) (fn sq cid : Nat) : Bool :=
  (s.jobs.jobs.any fun j => j.stage == none && j.fn == fn && j.sq == sq && j.cid == cid && j.throttled) ||
  (s.retr.queries.any fun q => q.named fn sq cid && q.throttled) ||
  (s.retr.ingests.any fun g => g.fn == fn && g.sq == sq && g.cid == cid && g.throttled) ||
  (s.churn.updates.any fun u => !u.fromJob && u.named fn sq cid && u.throttled)

/-- REQUEST_DEADLINE: fabric time reaches a request's deadline; waiting on a tier it ends with Tier Late, else with Deadline Missed (R30,
R184, R197). -/
def requestDeadlineF (fn sq cid tier node : Nat) (s : State) : State :=
  match inflight? s fn sq cid with
  | some x =>
    if x.deadline == 0 then s
    else
      let s := { s with time := max s.time x.deadline }
      if tier == 0 then endRequest fn sq cid stDeadlineMissed (boolNat (ranThrottled s fn sq cid)) s
      else endRequest fn sq cid stTierLate (tier % 4 + (if tier == 3 then node % 2 ^ 15 * 65536 else 0)) s
  | none => s

def execRequestDeadline (fn sq cid : Nat) (tier node : Nat) (s : State) : Res := finish s (requestDeadlineF fn sq cid tier node s)

/-- DW0 of an admin command refused for a reserved value: a Get or Set Object gives the first subindex it names (R100). -/
def refusedDw0 (opc : Nat) (e : Sqe) : Nat := if opc == 0xC1 || opc == 0xC2 then e.cdw10 / 65536 % 256 else 0

/-- The gate of an admin command: a fetched entry of an admin queue that has not started. An entry with a reserved bit set or a reserved PSDT
completes with Invalid Field (R4). -/
def adminCmd (e : Sqe) (opc : Nat) (body : State → State) (s : State) : State :=
  match startable e opc s with
  | none => s
  | some _ =>
    if e.sq != 0 then s
    else
      let s := startCmd e s
      if e.rsvd || e.fuse != 0 || decide (3 ≤ e.psdt) then answer e stInvalidField (refusedDw0 opc e) 0 s else body s

/-- ABORT: a fetched basket command is aborted and completes first; any other target is left to its own end (R70, R71). -/
def abortF (e : Sqe) (s : State) : State :=
  adminCmd e 0x08 (fun s =>
    let sq := e.cdw10 % 65536
    let cid := e.cdw10 / 65536 % 65536
    if isCompute s e.fn sq && (inflight? s e.fn sq cid).isSome then
      answer e stSuccess 0 0 (endRequest e.fn sq cid stAbortRequested 0 s)
    else answer e stSuccess 1 0 s) s

def execAbort (e : Sqe) (s : State) : Res := finish s (abortF e s)

/-- The commands of a function's I/O queues in flight. -/
def ioInflight (s : State) (fn : Nat) : List Inflight := s.host.inflight.filter fun x => x.fn == fn && x.sq != 0

/-- Drop a function's query handles and job outputs. -/
def dropHeld (fn : Nat) (s : State) : State :=
  modJobs (fun r => { r with outputs := r.outputs.filter (·.fn != fn) })
    (modRetr (fun r => { r with handles := r.handles.filter (·.fn != fn) }) s)

/-- Function Abort: compute queues freeze, every outstanding block and basket command ends with Function Aborted, handles and outputs are
dropped (R72). -/
def abortFunction (fn : Nat) (s : State) : State :=
  let xs := ioInflight s fn
  let base := obj s (fnIdx fn) 2
  let s := modHost (fun h => { h with
    sqs := updWhere (fun q => q.fn == fn && q.id != 0 && decide (base ≤ q.id)) (fun q => { q with frozen := true }) h.sqs }) s
  dropHeld fn (xs.foldl (fun s x => endRequest fn x.sq x.cid stFunctionAborted 0 s) s)

/-- Is a completion one of those that found their completion queue full? -/
def discarded (fn : Nat) (full : List (Nat × Nat)) (c : Cqe) : Bool := c.fn == fn && full.contains (c.sq, c.cid)

/-- Discard the completions beyond the first `n` that found their completion queue full; their number is the answer (R72 step 4). -/
def discardFull (fn n : Nat) (full : List (Nat × Nat)) (s : State) : Nat × State :=
  let new := s.host.cqes.drop n
  let kept := new.filter fun c => !discarded fn full c
  (new.length - kept.length, modHost (fun h => { h with cqes := h.cqes.take n ++ kept }) s)

/-- FUNCTION_ABORT: function 0 may name any function, another only itself (R72). `full` lists the queue and identifier of the commands whose
completion finds its completion queue full. -/
def functionAbortF (e : Sqe) (full : List (Nat × Nat)) (s : State) : State :=
  adminCmd e 0xC8 (fun s =>
    if decide (63 < e.cdw10) || (e.fn != 0 && e.cdw10 != e.fn) then answer e stInvalidField 0 0 s
    else
      let r := discardFull e.cdw10 s.host.cqes.length full (abortFunction e.cdw10 s)
      answer e stSuccess r.1 0 r.2) s

def execFunctionAbort (c : AbortEntry) (s : State) : Res := finish s (functionAbortF c.entry c.full s)

/-- FUNCTION_QUEUES_ABORT: the same abort by a write of FunctionQueues.7. -/
def functionQueuesAbortF (fn : Nat) (s : State) : State :=
  runAction (if decide (63 < fn) then (0x26, 7) else (0, 0)) (abortFunction fn) s

def execFunctionQueuesAbort (fn : Nat) (s : State) : Res := finish s (functionQueuesAbortF fn s)

/-- Stop a function's work without posting completions, and delete its I/O queues (R73). -/
def stopFunction (fn : Nat) (s : State) : State :=
  let xs := ioInflight s fn
  let s := modHost (fun h => { h with
    inflight := h.inflight.filter (·.fn != fn)
    sqs := h.sqs.filter (·.fn != fn)
    cqs := h.cqs.filter (·.fn != fn) }) s
  dropHeld fn (xs.foldl (fun s x => endRequest fn x.sq x.cid stAbortRequested 0 s) s)

end Sys2Proof.Machine
end

