-- ==== Sys2Proof/Machine/Wyvas.lean ====
section
/-! DEFINITION. Messages between nodes (R177 to R186, R369 to R379): requests that arrive here, Responses to this node's own, Notices, and
the loss of nodes. -/

namespace Sys2Proof.Machine

open Sys2Proof

/-! ### Messages in and out -/

/-- The message is taken from those received. -/
def takeMsg (m : Msg) (s : State) : State := modWyv (fun w => { w with rx := w.rx.erase m }) s

/-- Does a message come by the twin ports? -/
def fromTwin (m : Msg) : Bool := decide (12 ≤ m.port)

/-- Is a request under way here, for another node that waits for its Response? A repeat of it is not executed again (R370, R378). -/
def underWayFor (s : State) (m : Msg) : Bool :=
  s.wyv.requests.any fun r => match r.who with | .remote node tag _ => node == m.src && tag == m.tag | _ => false

/-- A request is acted on once: a repeat of a kept tag has its kept Response sent again, and one of a request under way is dropped (R378); an unavailable
node answers Unavailable (Table 15-6). -/
def onceServed (m : Msg) (serve : State → State) (s : State) : State :=
  let s := takeMsg m s
  match s.wyv.keptResp.find? fun k => k.1 == m.src && k.2.1 == m.tag with
  | some k => let s := bump 0x4002 6 s; if fromTwin m then sendTwin k.2.2 s else sendMsg k.2.2 s
  | none => if selfDown s then respond m 3 [] 0 s else if underWayFor s m then s else serve s

/-- A Response to a request of another node, or of the twin, that had to go through the twin. -/
def respondFor (r : Request) (status : Nat) (data : Bytes) (poison : Nat) (s : State) : State :=
  match r.who with
  | .remote node tag fn =>
    respond { port := if node == ownNode s then 12 else 0, mtype := r.msg.mtype, express := r.msg.express, dst := ownNode s, src := node, function := fn, tag := tag } status data
      poison s
  | _ => s

/-! ### The twin's copies of coherent regions (R18, R181 to R183) -/

/-- The record of a region as the twin is told it: as CoherentRegions gives it (R187), with [60] set by a node that took the home role over. It goes as
a write of 8 bytes at 8 · number of the flash window, which no other twin traffic names (DESIGN CHOICE, assumption 79). -/
def regionRecord (r : Region) : Nat := 2 ^ 63 + boolNat r.homed * 2 ^ 62 + boolNat r.taken * 2 ^ 60 + r.len * 2 ^ 32 + r.base

/-- Send the twin the record of a region, or 0 for one that is gone. -/
def sendRegion (no record : Nat) (s : State) : State :=
  if twinned s && (portUp s 12 || portUp s 13) then
    issueTwin msgWrite 0 (wyvasAddr (ownNode s) 1 (8 * no)) 0 false 8 (natLE 8 record) 0 .stream none s
  else s

/-- The twin's record of a region: a new twin copy is zeroed, one that the twin homes is no longer homed here unless this node took its role over, and
one that is gone goes here too. -/
def takeRegion (no w : Nat) (s : State) : State :=
  match s.tier.regions.find? (·.no == no) with
  | some r =>
    if !bitOf w 63 then (if r.homed then s else coherentDelete no s)
    else if bitOf w 62 && (bitOf w 60 || !r.taken) then
      modTier (fun t => { t with
        regions := updWhere (·.no == no) (fun r => { r with homed := false, mirrored := true, unprotected := false, taken := false }) t.regions }) s
    else s
  | none =>
    let base := bitsOf w 17 0
    let len := bitsOf w 50 32
    if !bitOf w 63 || !regionFree s.tier.regions base len then s
    else reserveCoherent base len (modTier (fun t => { t with
      regions := t.regions ++ [{ no := no, base := base, len := len, homed := !bitOf w 62, mirrored := true, unprotected := false, single := false }]
      window := memClear t.window (base * 65536) ((base + len) * 65536)
      windowPoison := memClear t.windowPoison (base * 65536) ((base + len) * 65536) }) s)

/-- The pages of the coherent area that hold something in a region. -/
def filledPages (s : State) (r : Region) : List Nat :=
  ((memSlice s.tier.window (r.base * 65536) ((r.base + r.len) * 65536)).map fun c => r.base * 4 + c.1 / 16384).eraseDups

/-- Send a page of the coherent area to the twin, in messages of 4,096 bytes. -/
def mirrorPage (p : Nat) (s : State) : State :=
  (List.range 4).foldl (fun s k =>
    let off := p * 16384 + k * 4096
    issueTwin msgWrite 0 (wyvasAddr (ownNode s) 0 off) 0 false 4096 (memRead s.tier.window off 4096) 0 .stream none s) s

/-- A region homed here is brought up to date at the twin: its record, and the pages that the twin has missed (R18). -/
def mirrorRegion (s : State) (r : Region) : State :=
  let inR := fun (p : Nat) => decide (r.base * 4 ≤ p) && decide (p < (r.base + r.len) * 4)
  let ps := if r.mirrored || r.unprotected then s.tier.stale.filter inR else filledPages s r
  let s := modTier (fun t => { t with
    regions := updWhere (·.no == r.no) (fun r => { r with mirrored := true }) t.regions
    stale := t.stale.filter fun p => !inR p }) s
  ps.foldl (fun s p => mirrorPage p s) (sendRegion r.no (regionRecord r) s)

/-- With a twin port up, the regions homed here that the twin does not mirror, or that are flagged, are resynchronised, and the synchronisation objects
(R18, R337). -/
def remirror (s : State) : State :=
  if !(twinned s && (portUp s 12 || portUp s 13)) then s
  else sendSyncs ((s.tier.regions.filter fun r => r.homed && (r.unprotected || !r.mirrored)).foldl mirrorRegion s)

/-- The resynchronisation has ended: with both twin ports up the flag goes (R18). -/
def endMirror (s : State) : State :=
  if portUp s 12 && portUp s 13 && !s.wyv.requests.any Request.mirrors then
    let back := s.tier.regions.filter fun r => r.homed && r.unprotected && r.mirrored
    let s := modTier (fun t => { t with
      regions := updWhere (fun r => r.homed && r.mirrored) (fun r => { r with unprotected := false, taken := false }) t.regions }) s
    back.foldl (fun s r => logEv { source := 12, cls := 9, context := r.no } s) s
  else s

/-- A part of the resynchronisation has failed: its pages are still to be sent, and the regions they lie in go on unmirrored. -/
def mirrorFailed (r : Request) (s : State) : State :=
  if addrSpace r.msg.target == 1 then
    if addrOff r.msg.target < syncBase then s
    else modSyncObj ((addrOff r.msg.target - syncBase) / 64) (fun o => { o with mirrored := false }) s
  else
    let ps := coherentPages (addrOff r.msg.target) r.msg.dataLength
    modTier (fun t => { t with
      stale := (t.stale ++ ps).eraseDups
      regions := updWhere (fun g => g.homed && ps.any fun p => decide (g.base * 4 ≤ p) && decide (p < (g.base + g.len) * 4))
        (fun g => { g with mirrored := false, unprotected := true }) t.regions }) s

/-! ### Requests of other nodes (R370, R371, R378) -/

/-- The status of an access to a window of this node by a message; a twin's access to the coherent area needs only the region (R179). -/
def msgCheck (s : State) (m : Msg) (write : Bool) (len : Nat) : Nat :=
  let off := addrOff m.target
  if addrSpace m.target == 1 then
    (if fromTwin m then (if write && ((len == 8 && off % 8 == 0 && decide (off < 2048)) ||
        (len == 64 && off % 64 == 0 && within syncBase (syncBase + 65535 * 64) off)) then 0 else 1)
     else flashCheck s m.function write off len)
  else if fromTwin m && !decide (off + len ≤ 2 ^ 34) then 1
  else windowCheck s m.function off len

/-- WYVAS_READ: checked against isolation and answered with one Response. A read of pages whose map entries are being rebuilt waits (R133). -/
def wyvasReadF (m : Msg) (s : State) : State :=
  if addrSpace m.target == 1 && flashHeld s (addrOff m.target) m.dataLength then s
  else onceServed m (fun s =>
    let off := addrOff m.target
    let st := msgCheck s m false m.dataLength
    if st != 0 || decide (4096 < m.dataLength) then respond m (if st == 0 then 1 else st) [] 0 s
    else if addrSpace m.target == 0 && homedAway s off m.dataLength && !fromTwin m then
      issueTwin msgRead 0 m.target m.function m.express m.dataLength [] 0 (.remote m.src m.tag m.function) none s
    else
      let s := if addrSpace m.target == 0 && inCoherent off m.dataLength then healCoherent off m.dataLength s else s
      let r := if addrSpace m.target == 1 then flashRead s off m.dataLength else windowRead s off m.dataLength
      respond m 0 r.1 r.2 s) s

def execWyvasRead (m : Msg) (s : State) : Res := finish s (wyvasReadF m s)

/-- WYVAS_WRITE: applied once and answered; a coherent write at its home is answered once its twin copy is in place, one that reaches the twin is
forwarded to the home, and a write that comes from the home over a twin port is that copy, or the record of a region or of a
synchronisation object (R179, R181, R337). A flash or coherent write waits for Pail space, and a write of a tile for the tile (R167,
R452). -/
def wyvasWriteF (m : Msg) (s₀ : State) : State :=
  let len := m.data.length
  let off := addrOff m.target
  onceServed m (fun s =>
    let st := msgCheck s m true len
    if st != 0 || decide (4096 < len) then respond m (if st == 0 then 1 else st) [] 0 s
    else if addrSpace m.target == 1 && fromTwin m then
      respond m 0 [] 0 (if off < syncBase then takeRegion (off / 8) (field m.data 0 8) s else takeSync ((off - syncBase) / 64) m.data s)
    else if addrSpace m.target == 1 then
      match flashWrite m.function 0 off m.data s with
      | some s => respond m 0 [] 0 s
      | none => fetchPages 0 off len s₀
    else if homedAway s off len && !fromTwin m then
      issueTwin msgWrite 0 m.target m.function m.express len m.data m.poisonMask (.remote m.src m.tag m.function) none s
    else match hbmWrite off m.data m.poisonMask s with
      | none => s₀
      | some s =>
        if mirrors s off len then
          issueTwin msgWrite 0 m.target m.function m.express len m.data m.poisonMask (.remote m.src m.tag m.function) none s
        else respond m 0 [] 0 s) s₀

def execWyvasWrite (m : Msg) (s : State) : Res := finish s (wyvasWriteF m s)

/-- WYVAS_ATOMIC: performed at the home and answered with the old value (R180). -/
def wyvasAtomicF (m : Msg) (s₀ : State) : State :=
  onceServed m (fun s =>
    let off := addrOff m.target
    let st := msgCheck s m true 8
    if st != 0 || addrSpace m.target == 1 || off % 8 != 0 || decide (2 < m.op) then respond m (if st == 0 then 1 else st) [] 0 s
    else if homedAway s off 8 && !fromTwin m then
      issueTwin msgAtomic m.op m.target m.function m.express 64 m.data 0 (.remote m.src m.tag m.function) none s
    else if inCoherent off 8 && !coherentRoom s off 8 then s₀
    else
      let s := if inCoherent off 8 then healCoherent off 8 s else s
      if memAny s.tier.windowPoison off 8 then respond m 0 (List.replicate 64 0) 1 s
      else
      let (old, s) := windowAtomic off m.op (field m.data 0 8) (field m.data 8 8) s
      let s := if inCoherent off 8 then storeCoherent off 8 s else s
      if mirrors s off 8 then
        issueTwin msgWrite 0 m.target m.function m.express 8 (memRead s.tier.window off 8) 0 (.remote m.src m.tag m.function)
          (some old) s
      else respond m 0 (natLE 8 old ++ List.replicate 56 0) 0 s) s₀

def execWyvasAtomic (m : Msg) (s : State) : Res := finish s (wyvasAtomicF m s)

/-- DELIVERY: candidate lists or distance tables go into the cell SRAM that the handle names; the handle's form is this device's own: logical
cell and byte offset (DESIGN CHOICE, assumption 36). -/
def deliveryF (m : Msg) (s : State) : State :=
  onceServed m (fun s =>
    let c := m.target / 2 ^ 21
    let off := m.target % 2 ^ 21
    if !cellIn s c || decide (2 ^ 21 < off + m.data.length) then respond m 1 [] 0 s
    else
      let s := sramPut c off m.data s
      let s := (List.range (ceilDiv m.data.length 64)).foldl (fun s b =>
        if bitOf m.poisonMask b then sramPoison c (off + 64 * b) (min 64 (m.data.length - 64 * b)) s else s) s
      respond m 0 [] 0 s) s

def execDelivery (m : Msg) (s : State) : Res := finish s (deliveryF m s)

/-! ### Responses (R354, R370, Table 15-6) -/

/-- The job that a request belongs to ends with what Table 15-6 gives for a status; a request of another node is answered with it. -/
def requestFails (r : Request) (status : Nat) (s : State) : State :=
  match r.who with
  | .remote _ _ _ => respondFor r status [] 0 s
  | _ =>
    if r.mirrors then mirrorFailed r s
    else if status == 5 then s
    else if decide (status ≤ 2) then endJob r.job stJobFault (match findJob s r.job with | some j => jobOp j | none => 0) s
    else endJob r.job stTierError (if r.plane == 2 then 1 else 3 + r.dst * 65536) s

/-- Bytes of a tile's frame arrive: header, scale block and body (Table 7-3). The version and the body's crc come with the header. -/
def installPiece (object tile off : Nat) (data : Bytes) (bad : Bool) (s : State) : State :=
  let t := tileOf s object tile
  let put := fun (lo n : Nat) (m : Mem) =>
    (List.range data.length).foldl (fun m i =>
      if decide (lo ≤ off + i) && decide (off + i < lo + n) then memPut m (off + i - lo) (data.getD i 0) else m) m
  let t := { t with
    scale := put 128 128 t.scale
    body := put 256 16384 t.body
    poison := (off != 0 && t.poison) || bad }
  putTile (if off == 0 then { t with
      rows := field data 13 1
      cols := field data 14 1
      flags := field data 15 1 &&& 0x0C
      version := field data 16 8
      crc := field data 32 4 }
    else t) s

/-- The last piece of a frame is here: the tile is in T1 for the next access if its body keeps its crc, and so is one version's (R16, R163). Otherwise, or
where the other node's copy was being written, the next access reads it again. A poisoned frame is taken as it is. -/
def frameHere (object tile : Nat) (s : State) : State :=
  let t := tileOf s object tile
  if t.poison || crc32 (memRead t.body 0 (bodyBytes t.format)) == t.crc then putTile { t with inT1 := true } s else s

/-- The pieces of a frame for the stream; a store whose last Response is here ends its operation. -/
def streamPiece (r : Request) (m : Msg) (s : State) : State :=
  match r.tile with
  | none => s
  | some (object, tile) =>
    let s := if r.msg.mtype == msgRead then installPiece object tile r.off m.data (m.poisonMask != 0) s else s
    let s := if r.msg.mtype == msgRead && !(s.wyv.requests.any fun q => q.tile == some (object, tile)) then
        frameHere object tile s else s
    match ownerJob s with
    | some j =>
      if j.id == r.job && j.st == 2 && field (j.basket.ops.getD j.pos []) 0 1 == 0x51 && !streamBusy s then opDone j s else s
    | none => s

/-- A Response of status Done, by who waits. -/
def requestDone (r : Request) (m : Msg) (s : State) : State :=
  match r.who with
  | .remote _ _ _ => respondFor r 0 (if r.atomic then natLE 8 r.off ++ List.replicate 56 0 else m.data) m.poisonMask s
  | .stream =>
    if r.mirrors then endMirror s
    else if r.msg.mtype == msgSync then streamDone (field m.data 0 8) s else streamPiece r m s
  | .thread t =>
    if r.atomic then modAnyThread r.job t (fun x => { x with wait := false, result := r.off }) s
    else if r.msg.mtype == msgWrite then storeDone r.job t s
    else if m.poisonMask != 0 then endJob r.job stPoisonedInput (if r.plane == 2 then 1 else 3) s
    else
      let n := if r.msg.mtype == msgRead then r.msg.dataLength else 8
      modAnyThread r.job t (fun x => { x with wait := false, result := field m.data 0 n }) s

/-- RESPONSE: the request with its tag completes; a Response whose tag was retired is discarded (R354, R370). -/
def responseF (m : Msg) (s : State) : State :=
  let s := takeMsg m s
  match s.wyv.requests.find? fun r => r.tag == m.tag && r.dst == m.src with
  | none => s
  | some r =>
    let s := modWyv (fun w => { w with requests := w.requests.filter (·.tag != r.tag) }) s
    if m.op == 0 then requestDone r m s else requestFails r m.op s

def execResponse (m : Msg) (s : State) : Res := finish s (responseF m s)

/-- T3_RESPONSE_TIMEOUT: a T3 access without a Response for PlacementPolicy.5 ms ends with Tier Error (R185). -/
def t3ResponseTimeoutF (tag : Nat) (s : State) : State :=
  match s.wyv.requests.find? (·.tag == tag) with
  | none => s
  | some r =>
    let s := { s with time := max s.time (r.issued + 1000000 * obj s 0x2201 5) }
    requestFails r 3 (modWyv (fun w => { w with requests := w.requests.filter (·.tag != tag) }) s)

def execT3ResponseTimeout (tag : Nat) (s : State) : Res := finish s (t3ResponseTimeoutF tag s)

/-- Reissue a request: once, with the same tag, on the other plane if that is up (R377). -/
def reissue (r : Request) (s : State) : State :=
  if r.reissued then s
  else
    let m := { r.msg with reissued := true }
    let plane := if s.wyv.planesLost.contains (1 - r.plane) then r.plane else 1 - r.plane
    let s := modWyv (fun w => { w with requests := updWhere (·.tag == r.tag) (fun r => { r with reissued := true }) w.requests }) s
    let s := bump 0x4002 5 s
    if r.plane == 2 then sendTwin m s else injectOn plane m s

/-- REISSUE_TIMEOUT (R377). -/
def reissueTimeoutF (tag : Nat) (s : State) : State :=
  match s.wyv.requests.find? (·.tag == tag) with
  | some r => reissue r { s with time := max s.time (r.issued + 800000) }
  | none => s

def execReissueTimeout (tag : Nat) (s : State) : Res := finish s (reissueTimeoutF tag s)

/-- TAG_RETENTION_EXPIRY: a kept tag and its Response are dropped (R378). -/
def tagRetentionExpiryF (src tag : Nat) (s : State) : State :=
  modWyv (fun w => { w with keptResp := w.keptResp.filter fun k => !(k.1 == src && k.2.1 == tag) }) s

def execTagRetentionExpiry (src tag : Nat) (s : State) : Res := finish s (tagRetentionExpiryF src tag s)

/-! ### Notices (R182, R186, R375, R376) -/

/-- The node and plane a Notice names. -/
def noticeNode (m : Msg) : Nat := field m.data 0 2
def noticePlane (m : Msg) : Nat := field m.data 2 1

/-- Does a Notice concern the twin system: it crossed a twin port on its way (DEDUCED, assumption 37)? -/
def ofTwin (m : Msg) : Bool := fromTwin m || m.crossed

/-- Was a Notice forwarded before? -/
def noticeKey (m : Msg) : Nat × Nat := (m.op + 8 * noticePlane m + 64 * boolNat (ofTwin m), noticeNode m)

/-- Notices that a Notice makes obsolete, so that they are forwarded again: available ends unavailable, lost and fence; plane-restored ends
plane-lost, and the other way round. -/
def noticeEnds (m : Msg) (k : Nat × Nat) : Bool :=
  k.2 == noticeNode m &&
  (match m.op with
   | 2 => [1, 3, 6].contains (k.1 % 8)
   | 1 => k.1 % 8 == 2
   | 3 => k.1 % 8 == 2
   | 6 => k.1 % 8 == 2
   | 4 => k.1 % 8 == 5
   | 5 => k.1 % 8 == 4
   | _ => false)

/-- Send a Notice on by every up port but the one it came by, and over the twin ports unless it came from there (R376). -/
def spreadNotice (m : Msg) (s : State) : State :=
  let copy := { m with vc := vcOf msgNotice true false, mtype := msgNotice, express := true, src := ownNode s, crossed := ofTwin m }
  let s := ((List.range 12).filter fun p => portUp s p && (fromTwin m || p != m.port)).foldl (fun s p =>
    emit p { copy with dst := obj s (0x4010 + p) 2 } s) s
  if ofTwin m then s else sendTwin { copy with dst := ownNode s } s

/-- Forward a Notice once, dropping repeats, and act on it the first time. -/
def noticed (m : Msg) (act : State → State) (s : State) : State :=
  let s := takeMsg m s
  if s.wyv.notices.contains (noticeKey m) then s
  else
    let s := modWyv (fun w => { w with notices := (w.notices.filter fun k => !noticeEnds m k) ++ [noticeKey m] }) s
    act (spreadNotice m s)

/-- Requests to a node end with Unavailable (R186, R377). -/
def failRequestsTo (node : Nat) (s : State) : State :=
  let rs := s.wyv.requests.filter fun r => r.dst == node && r.plane != 2
  let s := modWyv (fun w => { w with requests := w.requests.filter fun r => !(r.dst == node && r.plane != 2) }) s
  rs.foldl (fun s r => requestFails r 3 s) s

/-- The access of a thread that a request over the twin ports carries. -/
def twinAccess (s : State) (r : Request) : Access :=
  let tg : Target := .window (ownNode s) (addrOff r.msg.target)
  if r.msg.mtype == msgRead then .load tg r.msg.dataLength
  else if r.msg.mtype == msgWrite then .store tg r.msg.data
  else .atomic tg r.msg.op (field r.msg.data 0 8) (field r.msg.data 8 8)

/-- Accesses that were on their way to a home that has gone wait, and are served here: a thread's own as it waits for a tier, a synchronisation operation
as one at its home; an access of another node comes again by its reissue (R182, R337, R377). -/
def takeAccesses (s : State) : State :=
  let mine := s.wyv.requests.filter fun r => r.plane == 2 && !r.mirrors
  let s := modWyv (fun w => { w with requests := w.requests.filter fun r => r.plane != 2 }) s
  let ws := mine.filterMap fun r => match r.who with
    | .thread t => if r.msg.mtype == msgSync then none
        else some { thread := t, job := r.job, fn := r.msg.function, access := twinAccess s r : TierWait }
    | _ => none
  let s := (mine.filter (·.msg.mtype == msgSync)).foldl (fun s r =>
    syncAtHome r.who r.msg.op r.msg.target (field r.msg.data 0 8) (field r.msg.data 8 8) s) s
  serveWaits (modTier (fun t => { t with waits := t.waits ++ ws }) s)

/-- Coherent writes that waited for their twin copy complete without it, and their pages are noted: no twin port is up, or the twin is lost (R18, R182). -/
def completeUnmirrored (s : State) : State :=
  let mine := s.wyv.requests.filter fun r => r.plane == 2 && r.msg.mtype == msgWrite && addrSpace r.msg.target == 0 &&
    (match regionAt s (addrOff r.msg.target) r.msg.dataLength with | some g => g.homed | none => false)
  let s := modWyv (fun w => { w with requests := w.requests.filter fun r => !mine.contains r }) s
  mine.foldl (fun s r =>
    let s := mirrorFailed r s
    if r.mirrors then s else requestDone r { dst := ownNode s, src := ownNode s } s) s

/-- The twin takes the home role of this node number's coherent regions and synchronisation objects; they go on unmirrored, the regions flagged (R18,
R182, R337). -/
def takeOver (s : State) : State :=
  let s := completeUnmirrored s
  let gone := s.tier.regions.filter fun r => !r.homed
  let s := modTier (fun t => { t with
    regions := t.regions.map fun r => if r.homed then r else { r with homed := true, mirrored := false, unprotected := true, taken := true } }) s
  let s := modSync (fun y => { y with objs := y.objs.map fun o => if o.homed then { o with mirrored := false } else { o with homed := true, mirrored := false } }) s
  takeAccesses (gone.foldl (fun s r => logEv { source := 12, cls := 9, context := r.no } s) s)

/-- A twin port has failed: the regions homed here that the twin mirrors are flagged unmirrored, and with no twin port up they go on without it (R18). -/
def flagUnmirrored (s : State) : State :=
  let rs := s.tier.regions.filter fun r => r.homed && r.mirrored && !r.unprotected
  let up := portUp s 12 || portUp s 13
  let s := modTier (fun t => { t with
    regions := updWhere (fun r => r.homed && r.mirrored) (fun r => { r with mirrored := up, unprotected := true }) t.regions }) s
  let s := rs.foldl (fun s r => logEv { source := 12, cls := 9, context := r.no } s) s
  if up then s else completeUnmirrored s

/-- A node of this system is unavailable (op 1 or 6) or lost (op 3). -/
def nodeGone (lost : Bool) (node : Nat) (s : State) : State :=
  let s := modWyv (fun w => if lost then { w with lost := if w.lost.contains node then w.lost else w.lost ++ [node] }
    else { w with unavailable := if w.unavailable.contains node then w.unavailable else w.unavailable ++ [node] }) s
  failRequestsTo node s

/-- NODE_UNAVAILABLE_NOTICE: accesses to data held only there end with Tier Error; of the twin system's same node it counts as notice of
loss (R186, R205). -/
def nodeUnavailableNoticeF (m : Msg) (s : State) : State :=
  noticed { m with op := 1 } (fun s =>
    if ofTwin m then (if noticeNode m == ownNode s then takeOver s else s) else nodeGone false (noticeNode m) s) s

def execNodeUnavailableNotice (m : Msg) (s : State) : Res := finish s (nodeUnavailableNoticeF m s)

/-- NODE_AVAILABLE_NOTICE: the node is used again. -/
def nodeAvailableNoticeF (m : Msg) (s : State) : State :=
  noticed { m with op := 2 } (fun s =>
    if ofTwin m then s
    else modWyv (fun w => { w with
      unavailable := w.unavailable.filter (· != noticeNode m)
      lost := w.lost.filter (· != noticeNode m) }) s) s

def execNodeAvailableNotice (m : Msg) (s : State) : Res := finish s (nodeAvailableNoticeF m s)

/-- Distance along one dimension (R371), and between two nodes. -/
def axisDist (e a b : Nat) : Nat := min ((b + e - a) % max 1 e) ((a + e - b) % max 1 e)
def nodeDist (s : State) (a b : Nat) : Nat :=
  let e := s.wyv.extents
  axisDist e.1 (nodeX a) (nodeX b) + axisDist e.2.1 (nodeY a) (nodeY b) + axisDist e.2.2 (nodeZ a) (nodeZ b)

/-- The time root: node 0, or when it is lost the available node of lowest id (chapter 15, Fabric time). -/
def timeRoot (s : State) : Nat :=
  let e := s.wyv.extents
  ((List.range (e.1 * e.2.1 * e.2.2)).map fun i => nodeOf (i % e.1) (i / e.1 % e.2.1) (i / (e.1 * e.2.1))).find?
    (fun n => !s.wyv.lost.contains n) |>.getD (ownNode s)

/-- The up port of a plane whose neighbour is least deep, the lowest of equals (R381); the depth of a node is its distance from the root
(DEDUCED, assumption 38). -/
def leastDeep (s : State) (root plane : Nat) : Option Nat :=
  ((List.range 6).map (plane * 6 + ·)).foldl (fun best p =>
    if !portUp s p || nodeDown s (obj s (0x4010 + p) 2) || !nodeNamed s (obj s (0x4010 + p) 2) then best
    else match best with
      | none => some p
      | some q => if nodeDist s root (obj s (0x4010 + p) 2) < nodeDist s root (obj s (0x4010 + q) 2) then some p else some q) none

/-- A serial number in its own order: the first character counts most (DEDUCED, assumption 39). -/
def serialKey (v : Nat) : Nat := leNat (natLE 20 v).reverse

def ownSerial (s : State) : Nat := obj s 0x1000 5

/-- The parent port: the least deep warp neighbour, else the standby parent of the weft plane (R381, R383). -/
def parentPort (s : State) (root : Nat) : Option Nat :=
  match leastDeep s root 0 with
  | some p => some p
  | none => leastDeep s root 1

/-- Is this system the secondary of its pair, by the identity its twin port received (R384)? -/
def secondary (s : State) : Bool :=
  match (s.wyv.ports.find? fun x => decide (12 ≤ x.no) && x.peer.isSome).bind (·.peer) with
  | some i =>
    let mine := obj s 0x4000 5 == 1
    if mine != i.primary then !mine else decide (serialKey i.serial < serialKey (ownSerial s))
  | none => false

/-- The twin port by which the seed of the secondary system has node 0 of the primary as its parent (R384). -/
def twinParent (s : State) : Option Nat :=
  if ownNode s == 0 && twinned s && secondary s then [12, 13].find? (portUp s) else none

/-- Root, parent and depth of this node as they follow from what is up (R381, R383, R384). -/
def retime (s : State) : State :=
  if s.wyv.coord == none then s
  else
    let root := timeRoot s
    if root == ownNode s then
      match twinParent s with
      | some p => setObj 0x4100 10 0 (setObj 0x4100 6 p (setObj 0x4100 5 1 (setObj 0x4100 4 root s)))
      | none => setObj 0x4100 10 0 (setObj 0x4100 6 0xFF (setObj 0x4100 5 0 (setObj 0x4100 4 root (setObj 0x4100 3 1 s))))
    else match parentPort s root with
      | some p => setObj 0x4100 10 0 (setObj 0x4100 6 p (setObj 0x4100 5 (nodeDist s root (obj s (0x4010 + p) 2) + 1)
          (setObj 0x4100 4 root s)))
      | none => setObj 0x4100 10 1 (setObj 0x4100 4 root s)

/-- A node of this system is declared lost: requests to it end, the others are reissued, and the time root passes on (R182, R376, R377,
R383). -/
def declareLost (node : Nat) (s : State) : State :=
  let rs := s.wyv.requests.filter (·.dst != node)
  retime (rs.foldl (fun s r => reissue r s) (nodeGone true node s))

/-- NODE_LOST_NOTICE: forwarded once, counted, acted on; notice from the twin system of this node's own number makes it the home (R182,
R376). -/
def nodeLostNoticeF (m : Msg) (s : State) : State :=
  noticed { m with op := 3 } (fun s =>
    let s := bump 0x4002 7 s
    if ofTwin m then (if noticeNode m == ownNode s then takeOver s else s) else declareLost (noticeNode m) s) s

def execNodeLostNotice (m : Msg) (s : State) : Res := finish s (nodeLostNoticeF m s)

/-- FENCE_NOTICE: a fenced node is unavailable (R182, R186). -/
def fenceNoticeF (m : Msg) (s : State) : State :=
  noticed { m with op := 6 } (fun s =>
    if ofTwin m then (if noticeNode m == ownNode s then takeOver s else s) else nodeGone false (noticeNode m) s) s

def execFenceNotice (m : Msg) (s : State) : Res := finish s (fenceNoticeF m s)

/-- PLANE_LOST_NOTICE and PLANE_RESTORED_NOTICE: forwarded; a node already treats the links of a neighbour's lost plane as down (R375). -/
def planeLostNoticeF (m : Msg) (s : State) : State := noticed { m with op := 4 } id s
def execPlaneLostNotice (m : Msg) (s : State) : Res := finish s (planeLostNoticeF m s)
def planeRestoredNoticeF (m : Msg) (s : State) : State := noticed { m with op := 5 } id s
def execPlaneRestoredNotice (m : Msg) (s : State) : Res := finish s (planeRestoredNoticeF m s)

/-- A Notice of this node's own. -/
def ownNotice (op node plane : Nat) (s : State) : Msg :=
  { vc := vcOf msgNotice true false, mtype := msgNotice, express := true, dataLength := 64, dst := ownNode s, src := ownNode s, op := op,
    data := natLE 2 node ++ natLE 1 plane ++ List.replicate 61 0 }

/-- NODE_LOST_DECLARE: this node declares a neighbour lost and floods the Notice (R182, R376). -/
def nodeLostDeclareF (node : Nat) (s : State) : State :=
  let m := ownNotice 3 node 0 s
  let s := modWyv (fun w => { w with notices := w.notices ++ [(3, node)] }) s
  let s := floodNotice 3 node 0 none s
  declareLost node (sendTwin m s)

def execNodeLostDeclare (node : Nat) (s : State) : Res := finish s (nodeLostDeclareF node s)

/-! ### Fencing and isolation (R182, R374) -/

/-- Isolate a port: status 4 and its cause, an isolation control flit, and its waiting messages go by other ports. The transmitter of an uncabled port is
off (R34). -/
def isolatePort (p cause : Nat) (s : State) : State :=
  let mine := s.wyv.held.filter (·.1 == p)
  let s := setObj (0x4010 + p) 10 cause (setObj (0x4010 + p) 1 4 s)
  let s := modWyv (fun w => { w with held := w.held.filter (·.1 != p), ctl := if portCabled s p then w.ctl ++ [(p, .isolation)] else w.ctl }) s
  let s := if decide (12 ≤ p) then flagUnmirrored s else mine.foldl (fun s x => forward (p / 6) x.2 s) s
  retime s

/-- NODE_FENCE: coherent accesses in flight end with Tier Error naming T1, none is served any more, and every port is isolated (R182,
R374). -/
def nodeFenceF (s : State) : State :=
  let s := setObj 0x2202 5 1 s
  let rs := s.wyv.requests.filter fun r => r.plane == 2
  let s := modWyv (fun w => { w with requests := w.requests.filter fun r => r.plane != 2 }) s
  let s := rs.foldl (fun s r => requestFails r 6 s) s
  ((List.range 14).filter (portCabled s)).foldl (fun s p => isolatePort p 4 s) s

def execNodeFence (s : State) : Res := finish s (nodeFenceF s)

/-- PORT_ISOLATE (R374). -/
def portIsolateF (port : Nat) (s : State) : State :=
  runAction (if decide (13 < port) then (0x26, 9) else (0, 0)) (isolatePort port 1) s

def execPortIsolate (port : Nat) (s : State) : Res := finish s (portIsolateF port s)

/-- PORT_RELEASE: the isolation of a port is lifted, and the port trains, where it is cabled (R34, R374). -/
def portReleaseF (port : Nat) (s : State) : State :=
  runAction (if decide (13 < port) then (0x26, 9) else (0, 0)) (fun s =>
    if obj s (0x4010 + port) 1 == 4 then setObj (0x4010 + port) 10 0 (setObj (0x4010 + port) 1 (boolNat (portCabled s port)) s) else s) s

def execPortRelease (port : Nat) (s : State) : Res := finish s (portReleaseF port s)

/-! ### CoherentControl (R178, R183) -/

/-- The record of a region as it stands, to the twin. -/
def tellRegion (no : Nat) (s : State) : State :=
  match s.tier.regions.find? (·.no == no) with
  | some r => sendRegion no (regionRecord r) s
  | none => sendRegion no 0 s

/-- Create a region, here and as a twin copy (R178, R181). -/
def createRegion (no len : Nat) (s : State) : State := tellRegion no (coherentCreate no len s)

def execCoherentCreate (s : State) : Res :=
  let no := obj s 0x2230 1
  let len := obj s 0x2230 2
  finish s (runAction (coherentCreateCheck no len s) (createRegion no len) s)

/-- Does an access to the HBM window meet a region? -/
def inRegion (r : Region) (off : Nat) : Bool := decide (r.base * 65536 ≤ off) && decide (off < (r.base + r.len) * 65536)

/-- Is a thread's access one to a region? -/
def accessIn (r : Region) (a : Access) : Bool :=
  match a with
  | .load (.window _ off) _ => inRegion r off
  | .store (.window _ off) _ => inRegion r off
  | .atomic (.window _ off) _ _ _ => inRegion r off
  | _ => false

/-- Accesses in flight to a region that is deleted end with Tier Error: of this node naming T1, of another as its Response's status says (R178). -/
def endAccesses (r : Region) (s : State) : State :=
  let rs := s.wyv.requests.filter fun q => q.plane == 2 && q.msg.mtype != msgSync && addrSpace q.msg.target == 0 && inRegion r (addrOff q.msg.target)
  let s := modWyv (fun w => { w with requests := w.requests.filter fun q => !rs.contains q }) s
  let s := rs.foldl (fun s q => if q.mirrors then s else requestFails q 6 s) s
  let ws := s.tier.waits.filter fun w => accessIn r w.access
  let s := modTier (fun t => { t with waits := t.waits.filter fun w => !accessIn r w.access }) s
  ws.foldl (fun s w => endJob w.job stTierError 1 s) s

/-- Delete a region, here and its twin copy (R178). -/
def deleteRegion (no : Nat) (s : State) : State :=
  match s.tier.regions.find? (·.no == no) with
  | some r => tellRegion no (coherentDelete no (endAccesses r s))
  | none => s

def execCoherentDelete (s : State) : Res :=
  let no := obj s 0x2230 1
  finish s (runAction (coherentDeleteCheck no s) (deleteRegion no) s)

def execCoherentTakeHome (s : State) : Res :=
  let no := obj s 0x2230 1
  finish s (runAction (coherentTakeHomeCheck no s) (fun s => tellRegion no (coherentTakeHome no s)) s)

/-- NODE_DRAIN: placement moves the node's placed data away; a node that holds none is drained at once (R391). -/
def nodeDrainF (s : State) : State := runAction (0, 0) (fun s => endIfDrained (setObj 0x4003 2 1 s)) s
def execNodeDrain (s : State) : Res := finish s (nodeDrainF s)

/-- NODE_END_DRAIN (R391). -/
def nodeEndDrainF (s : State) : State := runAction (0, 0) (fun s => endActing 2 0 (setObj 0x4003 2 0 s)) s
def execNodeEndDrain (s : State) : Res := finish s (nodeEndDrainF s)

end Sys2Proof.Machine
end

