-- ==== Sys2Proof/Machine/Fabric.lean ====
section
/-! DEFINITION. Links, discovery, fabric time and system-ready (R33, R34, R172, R363 to R367, R374, R375, R379 to R390, R453). -/

namespace Sys2Proof.Machine

open Sys2Proof

/-- Status of a port (WyvasPort.1). -/
def portStatus (s : State) (p : Nat) : Nat := obj s (0x4010 + p) 1

/-- Send a control flit on a port (R365). -/
def sendCtl (p : Nat) (c : CtlFlit) (s : State) : State := modWyv (fun w => { w with ctl := w.ctl ++ [(p, c)] }) s

/-- What this node's identity flits carry: its serial number, the port, its seed and primary flags, the seed and its extents once they are known, and the
node id once it is assigned (R386, R172). -/
def ownIdentity (s : State) (p : Nat) : Identity :=
  let seedSerial := if s.wyv.seed then some (ownSerial s) else s.wyv.seedSerial
  { serial := ownSerial s
    port := p
    seed := s.wyv.seed
    primary := obj s 0x4000 5 == 1
    seedSerial := seedSerial
    extents := if seedSerial.isSome then some s.wyv.extents else none
    nodeId := if ownNode s == 0xFFFF then none else some (ownNode s) }

/-- Send the identity of this node on a port. -/
def sendIdentity (p : Nat) (s : State) : State := sendCtl p (.identity (ownIdentity s p)) s

/-- Send a claim of this node's coordinate on a plane port, once it has one (R387, R388). -/
def sendClaim (p : Nat) (s : State) : State :=
  match s.wyv.coord with
  | some c => if p < 12 then sendCtl p (.claim c.1 c.2.1 c.2.2 p) s else s
  | none => s

/-! ### The link layer (R364, R366, R367) -/

/-- The flits acknowledged leave the replay buffer; a nak sends the rest again and counts a retry; credits come back and what waited for
them goes. -/
def linkHeader (p : Nat) (h : FlitHdr) (s : State) : State :=
  let s := modPort p (fun x => { x with
    replay := x.replay.filter fun r => decide (32768 ≤ (h.ackSeq + 65536 - r.1) % 65536)
    credits := kvPut 0 x.credits h.creditVc (kvGet 0 x.credits h.creditVc + h.creditCount) }) s
  let s := if h.nak then
      match port? s p with
      | some x => bump (0x4010 + p) 7 (modWyv (fun w => { w with tx := w.tx ++ x.replay.flatMap fun r => r.2.map fun m => (p, m) }) s)
      | none => s
    else s
  pumpHeld p s

/-- A bad or missing flit: this and every later data flit is discarded until the replay, and the next outgoing flit carries nak (R366). -/
def askReplay (p : Nat) (s : State) : State := sendCtl p .header (modPort p (fun x => { x with replaying := true }) s)

/-- A message that has come whole: for this node it joins those received, else it is forwarded on its plane; an unavailable node forwards
only management (R372). A twin port never forwards (R379). -/
def arrive (p : Nat) (m : Msg) (s : State) : State :=
  let m := { m with port := p }
  if decide (12 ≤ p) || m.dst == ownNode s then bump 0x4002 2 (modWyv (fun w => { w with rx := w.rx ++ [m] }) s)
  else if selfDown s && !isManagement m then s
  else forward (p / 6 % 2) m s

/-- DATA_FLIT: its CRC and sequence decide whether its messages are taken (R364, R366); beats that meet a parity error on their way inside carry
poison onward (R189). -/
def dataFlitF (p : Nat) (h : FlitHdr) (msgs : List Msg) (s : State) : State :=
  if !portUp s p then s
  else if !h.crcOk then askReplay p s
  else
    let s := linkHeader p h s
    match port? s p with
    | none => s
    | some x =>
      if h.seq != x.rxSeq then (if x.replaying then s else askReplay p s)
      else
        let s := modPort p (fun x => { x with
          rxSeq := (x.rxSeq + 1) % 65536
          replaying := false
          owed := kvPut 0 x.owed h.vc (kvGet 0 x.owed h.vc + 1) }) s
        let s := if h.parity == 0 then s else parityError { source := 5, cls := 4, action := 3, unit := p, address := obj s (0x4010 + p) 2 } s
        msgs.foldl (fun s m => arrive p { m with poisonMask := m.poisonMask ||| h.parity % 2 ^ 64 } s) s

def execDataFlit (port : Nat) (h : FlitHdr) (msgs : List Msg) (s : State) : Res := finish s (dataFlitF port h msgs s)

/-- IDLE_FLIT: acknowledgements and credits; its seq is that of the next data flit, so a lost one shows. -/
def idleFlitF (p : Nat) (h : FlitHdr) (s : State) : State :=
  if !portUp s p || !h.crcOk then s
  else
    let s := linkHeader p h s
    match port? s p with
    | some x => if h.seq != x.rxSeq && !x.replaying then askReplay p s else s
    | none => s

def execIdleFlit (port : Nat) (h : FlitHdr) (s : State) : Res := finish s (idleFlitF port h s)

/-! ### Ports (R34, R363, R366, R374, R375) -/

/-- OPTICAL_SIGNAL_DETECTED: a port that is off or down begins its training (Table 15-1). -/
def opticalSignalDetectedF (p : Nat) (s : State) : State :=
  if decide (p ≤ 13) && (portStatus s p == 0 || portStatus s p == 6) then
    setObj (0x4010 + p) 1 1 (modPort p (fun x => { x with cabled := true }) s)
  else s

def execOpticalSignalDetected (port : Nat) (s : State) : Res := finish s (opticalSignalDetectedF port s)

/-- Are both halves of the good lanes whole, or one of them (R363)? -/
def laneStatus (lanes : Nat) : Nat :=
  if lanes % 256 == 0xFF then 2 else if lanes % 16 == 0xF || lanes / 16 % 16 == 0xF then 3 else 6

/-- The receive buffer as the policy divides it (R367). -/
def policyCredits (s : State) : KV := (List.range 8).foldl (fun m vc => kvPut 0 m vc (obj s 0x4001 (vc + 1))) []

/-- PORT_TRAINING_DONE: the port is up at ×8 or ×4 with the policy's credits; what it had not had acknowledged goes again; a lost plane is
restored; identity and, once known, coordinate claims are sent; the difference between the two fibre paths is kept for the time exchange (R363, R367,
R375, R382, R390). -/
def portTrainingDoneF (p lanes delay asym : Nat) (s : State) : State :=
  if decide (13 < p) || !(portStatus s p == 1 || portUp s p) then s
  else
    let st := laneStatus lanes
    let again : List Msg := match port? s p with | some x => x.replay.flatMap (·.2) | none => []
    let s := setObj (0x4010 + p) 5 delay (setObj (0x4010 + p) 6 lanes (setObj (0x4010 + p) 1 st s))
    let s := modPort p (fun x => { x with
      txSeq := 0
      rxSeq := 0
      replaying := false
      replay := []
      credits := policyCredits s
      owed := []
      share := policyCredits s
      asym := asym
      cabled := true }) s
    if st == 6 then s
    else
      let s := modWyv (fun w => { w with held := w.held ++ again.map fun m => (p, m) }) s
      let s := sendClaim p (pumpHeld p (sendIdentity p s))
      let s := if decide (12 ≤ p) then endMirror (remirror s)
        else if s.wyv.planesLost.contains (p / 6) then
          floodNotice 5 (ownNode s) (p / 6) none (modWyv (fun w => { w with planesLost := w.planesLost.filter (· != p / 6) }) s)
        else s
      retime s

def execPortTrainingDone (port lanes : Nat) (d : LinkDelay) (s : State) : Res := finish s (portTrainingDoneF port lanes d.delay d.asym s)

/-- RETRAIN_REQUEST: the port retrains, also one whose partner ends its isolation so (R363, R365, R374). -/
def retrainRequestF (p : Nat) (s : State) : State := if portUp s p || portStatus s p == 5 then setObj (0x4010 + p) 1 1 s else s
def execRetrainRequest (port : Nat) (s : State) : Res := finish s (retrainRequestF port s)

/-- ISOLATION_FLIT: the port is reported isolated by the partner (R374). -/
def isolationFlitF (p : Nat) (s : State) : State :=
  if decide (13 < p) || portStatus s p == 4 || portStatus s p == 0 then s else retime (setObj (0x4010 + p) 1 5 s)
def execIsolationFlit (port : Nat) (s : State) : Res := finish s (isolationFlitF port s)

/-- WYVAS_LINK_DOWN: the port is down and counted; after WyvasPolicy.9 downs within 10 s it is isolated with cause 3; messages that waited
for it go another way (R366, R372, R374, R383). -/
def wyvasLinkDownF (p : Nat) (s : State) : State :=
  if decide (13 < p) || !(portUp s p || portStatus s p == 5 || portStatus s p == 1) then s
  else
    let neighbour := obj s (0x4010 + p) 2
    let s := bump (0x4010 + p) 8 (setObj (0x4010 + p) 1 6 s)
    let s := logEv { source := 5, cls := 6, unit := p, detail := obj s (0x4010 + p) 6, address := neighbour } s
    let now := s.time
    let s := modPort p (fun x => { x with downs := now :: x.downs.filter fun t => decide (now < t + 10000000000) }) s
    let n := match port? s p with | some x => x.downs.length | none => 0
    let mine := s.wyv.held.filter (·.1 == p)
    let s := if decide (obj s 0x4001 9 ≤ n) then isolatePort p 3 s
      else if decide (12 ≤ p) then s
      else mine.foldl (fun s x => forward (p / 6) x.2 s) (modWyv (fun w => { w with held := w.held.filter (·.1 != p) }) s)
    retime (if decide (12 ≤ p) then flagUnmirrored s else s)

def execWyvasLinkDown (port : Nat) (s : State) : Res := finish s (wyvasLinkDownF port s)

/-- PLANE_LOST: every cabled port of the plane has been down; the other plane carries all, with a Notice (R375). -/
def planeLostF (plane : Nat) (s : State) : State :=
  if decide (1 < plane) || s.wyv.planesLost.contains plane || ((List.range 6).any fun k => portUp s (plane * 6 + k)) ||
      !((List.range 6).any fun k => portCabled s (plane * 6 + k)) then s
  else
    let s := modWyv (fun w => { w with planesLost := w.planesLost ++ [plane] }) s
    floodNotice 4 (ownNode s) plane none (logEv { source := 5, cls := 6, unit := plane * 6, address := ownNode s } s)

def execPlaneLost (plane : Nat) (s : State) : Res := finish s (planeLostF plane s)

/-- CONTROL_FLIT_INTERVAL: a port sends a kind of control flit again, where it has that to say (R365, R374). -/
def controlFlitIntervalF (p kind : Nat) (s : State) : State :=
  let live := portUp s p || portStatus s p == 1
  if 13 < p then s
  else match kind with
    | 1 => if live then sendIdentity p s else s
    | 2 => if live then sendClaim p s else s
    | 3 => if portUp s p then sendCtl p .time s else s
    | 4 => if portStatus s p == 4 && portCabled s p then sendCtl p .isolation s else s
    | 5 => if portStatus s p == 1 then sendCtl p .retrain s else s
    | _ => s

def execControlFlitInterval (port kind : Nat) (s : State) : Res := finish s (controlFlitIntervalF port kind s)

/-! ### Identity (R33, R172, R379, R384, R386) -/

/-- Do the port numbers at the two ends of a link keep R33? -/
def cablingOk (p q : Nat) : Bool :=
  if decide (12 ≤ p) || decide (12 ≤ q) then p == q
  else p / 6 == q / 6 && p / 2 == q / 2 && p != q

/-- A phase of discovery is complete. -/
def phaseDone (n : Nat) (s : State) : State := setObj 0x4000 7 (max n (obj s 0x4000 7)) s

/-- What a seed learns of another seed in its system: the lower serial number stands (R386). -/
def seedConflict (other : Nat) (s : State) : State :=
  if s.wyv.seed && other != ownSerial s && decide (serialKey other < serialKey (ownSerial s)) then
    logEv { source := 5, cls := 5, unit := 0, address := ownNode s } (modWyv (fun w => { w with seed := false }) s)
  else s

/-- The pair forms when a twin port meets the same node id; a wrong partner isolates the port with cause 5; region 254 in use on node 0 keeps
the pair from forming (R172, R379). -/
def twinIdentity (p : Nat) (i : Identity) (s : State) : State :=
  match i.nodeId with
  | none => s
  | some n =>
    if n != ownNode s then (if ownNode s == 0xFFFF then s else isolatePort p 5 s)
    else if n == 0 && s.tier.regions.any (·.no == 254) && !twinned s then
      let s := if secondary s then logEv { source := 12, cls := 9, context := 254 } s else s
      isolatePort 13 5 (isolatePort 12 5 s)
    else
      let s := if i.seed && s.wyv.seed && i.primary == (obj s 0x4000 5 == 1) then logEv { source := 5, cls := 5, unit := p, address := n } s
        else s
      endMirror (remirror (setObj 0x4000 9 1 s))

/-- IDENTITY_FLIT: the neighbour is recorded; a link that breaks R33 is isolated with cause 2; what it tells of the seed is taken (R386). -/
def identityFlitF (p : Nat) (i : Identity) (s : State) : State :=
  if decide (13 < p) || portStatus s p == 0 then s
  else
    let o := 0x4010 + p
    let s := setObj o 4 i.serial (setObj o 3 i.port (setObj o 2 (i.nodeId.getD 0xFFFF) s))
    let s := modPort p (fun x => { x with peer := some i, cabled := true }) s
    let s := phaseDone 3 s
    if !cablingOk p i.port then isolatePort p 2 s
    else if decide (12 ≤ p) then twinIdentity p i s
    else
      let s := match (if i.seed then some i.serial else i.seedSerial) with | some k => seedConflict k s | none => s
      let s := if s.wyv.seed then s else modWyv (fun w => { w with
        seedSerial := if i.seed then some i.serial else if i.seedSerial.isSome then i.seedSerial else w.seedSerial
        extents := i.extents.getD w.extents }) s
      retime s

def execIdentityFlit (port : Nat) (i : Identity) (s : State) : Res := finish s (identityFlitF port i s)

/-! ### Coordinates (R387, R388, R390) -/

/-- One step from a coordinate in the direction of a port, modulo the extents. -/
def stepCoord (e : Nat × Nat × Nat) (c : Nat × Nat × Nat) (port : Nat) : Nat × Nat × Nat :=
  let up := fun (n v : Nat) => (v + 1) % max 1 n
  let dn := fun (n v : Nat) => (v + max 1 n - 1) % max 1 n
  match port % 6 with
  | 0 => (up e.1 c.1, c.2)
  | 1 => (dn e.1 c.1, c.2)
  | 2 => (c.1, up e.2.1 c.2.1, c.2.2)
  | 3 => (c.1, dn e.2.1 c.2.1, c.2.2)
  | 4 => (c.1, c.2.1, up e.2.2 c.2.2)
  | _ => (c.1, c.2.1, dn e.2.2 c.2.2)

/-- The coordinate a claim implies. -/
def Claim.coord (c : Claim) : Nat × Nat × Nat := (c.x, c.y, c.z)

/-- The coordinate implied on the most ports, ties to the lowest port number. -/
def majority (cs : List Claim) : Option (Nat × Nat × Nat) :=
  let votes := fun (c : Claim) => (cs.filter fun d => d.coord == c.coord).length
  let low := fun (c : Claim) => ((cs.filter fun d => d.coord == c.coord).map (·.port)).foldl min 14
  (cs.foldl (fun best c => match best with
    | none => some c
    | some b => if votes b < votes c || (votes b == votes c && decide (low c < low b)) then some c else some b) none).map (·.coord)

/-- A link whose implied coordinate differs from the node's is isolated with cause 2. -/
def checkClaims (at_ : Nat × Nat × Nat) (cs : List Claim) (s : State) : State :=
  (cs.filter fun c => c.coord != at_).foldl (fun s c => isolatePort c.port 2 s) s

/-- Weft claims against the warp coordinate: a node whose two coordinates differ isolates every weft port and logs it; a single link that
differs is isolated (R388). -/
def checkWeft (at_ : Nat × Nat × Nat) (s : State) : State :=
  let weft := s.wyv.claims.filter fun c => decide (6 ≤ c.port)
  match majority weft with
  | none => s
  | some w =>
    let s := modWyv (fun y => { y with weftCoord := some w }) s
    if w == at_ then checkClaims at_ weft s
    else (((List.range 6).map (6 + ·)).filter (portCabled s)).foldl (fun s p => isolatePort p 2 s) (logEv { source := 5, cls := 5, unit := 6, address := ownNode s } s)

/-- COORDINATE_CLAIM: the coordinate it implies is kept; against a coordinate already held, a conflicting link is isolated. -/
def coordinateClaimF (port x y z sentPort : Nat) (s : State) : State :=
  if decide (11 < port) || !(portUp s port || portStatus s port == 1) then s
  else
    let c := stepCoord s.wyv.extents (x, y, z) sentPort
    let k : Claim := { port := port, x := c.1, y := c.2.1, z := c.2.2 }
    let s := modWyv (fun w => { w with claims := w.claims.filter (·.port != port) ++ [k] }) s
    match s.wyv.coord with
    | some a => if port < 6 then checkClaims a [k] s else checkWeft a s
    | none => s

def execCoordinateClaim (port x y z sentPort : Nat) (s : State) : Res := finish s (coordinateClaimF port x y z sentPort s)

/-- Take a coordinate, and with it the node id, and send claims on the up plane ports. -/
def takeCoord (c : Nat × Nat × Nat) (s : State) : State :=
  let s := setObj 0x4000 6 (nodeOf c.1 c.2.1 c.2.2) (modWyv (fun w => { w with coord := some c }) s)
  retime ((List.range 12).foldl (fun s p => if portUp s p then sendClaim p s else s) (phaseDone 4 s))

/-- CLAIM_ADOPTION: 20 ms after its first claim a node adopts its warp coordinate, or its weft one where it has none (R387, R388). -/
def claimAdoptionF (s : State) : State :=
  if s.wyv.coord != none || s.wyv.claims == [] then s
  else
    let warp := s.wyv.claims.filter fun c => decide (c.port < 6)
    match majority warp with
    | some c => phaseDone 5 (checkWeft c (takeCoord c (checkClaims c warp s)))
    | none =>
      match majority s.wyv.claims with
      | some c => phaseDone 5 (checkWeft c (takeCoord c s))
      | none => s

def execClaimAdoption (s : State) : Res := finish s (claimAdoptionF s)

/-! ### Fabric time (R380 to R384) -/

/-- A signed number of picoseconds as the 32 bits of an I32. -/
def i32 (v : Int) : Nat := wrapInt 32 v

/-- Half of a difference of two differences of stamps. -/
def halfDiff (a b c d : Nat) : Int := (((a : Int) - b) - ((c : Int) - d)) / 2

/-- Is an offset within ±0.5 ns (R382)? -/
def withinLock (ps : Int) : Bool := decide (-500 ≤ ps) && decide (ps ≤ 500)

/-- A node that has locked reports ready to the seed on the management channel; the form of the report is this device's own and its bytes are free
(R389; DESIGN CHOICE, assumption 82). -/
def reportReady (s : State) : State :=
  if s.wyv.seed then s
  else
    let m : Msg := { vc := vcOf msgManagement false false, mtype := msgManagement, dataLength := 64, dst := 0, src := ownNode s,
                     data := natLE 64 (freshNat s) }
    sendMsg m (drew s)

/-- A node that joins late has joined once it has locked and reported ready: it receives no barrier, a fence is over (DEDUCED, assumption 49), and it
announces itself available (R182, R186, R390, R416). -/
def joinLate (s : State) : State :=
  if !s.wyv.late then s
  else
    let s := setObj 0x2202 5 0 (phaseDone 7 (modWyv (fun w => { w with late := false, rejoining := false, systemReady := true }) s))
    if selfDown s then s else announceNode 2 s

/-- The offset through the parent is known: steering within ±10 ppm, lock, and at the first lock one step of fabric time to the parent's
(R381, R382). The steering value itself is the device's own: free within its range. -/
def parentOffset (ps : Int) (s : State) : State :=
  let was := obj s 0x4100 3 == 1
  let steer : Int := (freshNat s % 20001 : Nat) - 10000
  let s := setObj 0x4100 8 (i32 steer) (setObj 0x4100 7 (i32 ps) (drew s))
  if !s.wyv.everLocked then
    let t : Int := s.time + ps / 1000
    let s := phaseDone 6 (setObj 0x4100 3 1 (modWyv (fun w => { w with everLocked := true }) { s with time := t.toNat }))
    joinLate (reportReady s)
  else if withinLock ps then setObj 0x4100 3 1 s
  else if was then setObj 0x4100 3 0 (bump 0x4100 11 s)
  else s

/-- The asymmetry of a port's two fibre paths as its training measured it, in picoseconds (R382). -/
def laneAsym (s : State) (p : Nat) : Int := match port? s p with | some x => sint 32 x.asym | none => 0

/-- TIME_EXCHANGE: link delay, less the calibrated asymmetry, and offset from the four stamps, in picoseconds (R380). -/
def timeExchangeF (p t1 t2 t3 t4 : Nat) (s : State) : State :=
  if !portUp s p then s
  else
    let delay := halfDiff t4 t1 t3 t2 - laneAsym s p
    let off := halfDiff t2 t1 t4 t3
    let s := setObj (0x4010 + p) 5 delay.toNat s
    if ownNode s == 0xFFFF || timeRoot s == ownNode s && !(secondary s && decide (12 ≤ p)) then s
    else if obj s 0x4100 6 == p || (secondary s && ownNode s == 0 && decide (12 ≤ p)) then parentOffset off s
    else if leastDeep s (timeRoot s) 1 == some p then setObj 0x4100 9 (i32 (sint 32 (obj s 0x4100 7) - off)) s
    else s

def execTimeExchange (port t1 t2 t3 t4 : Nat) (s : State) : Res := finish s (timeExchangeF port t1 t2 t3 t4 s)

/-- TIME_EXCHANGE_TIMER: every up port sends its flit. -/
def timeExchangeTimerF (s : State) : State := (List.range 14).foldl (fun s p => if portUp s p then sendCtl p .time s else s) s
def execTimeExchangeTimer (s : State) : Res := finish s (timeExchangeTimerF s)

/-- TIME_MISMATCH (R382). -/
def timeMismatchF (s : State) : State :=
  logEv { source := 5, cls := 5, unit := obj s 0x4100 6, address := obj s (0x4010 + obj s 0x4100 6) 2 } s
def execTimeMismatch (s : State) : Res := finish s (timeMismatchF s)

/-! ### System-ready (R172, R389, R453) -/

/-- READY_REPORT: a node has reported ready to the seed. -/
def readyReportF (node : Nat) (s : State) : State :=
  if s.wyv.seed && nodeNamed s node && !s.wyv.readyNodes.contains node then
    modWyv (fun w => { w with readyNodes := w.readyNodes ++ [node] }) s
  else s

def execReadyReport (node : Nat) (s : State) : Res := finish s (readyReportF node s)

/-- Nodes of the system. -/
def systemNodes (s : State) : Nat := let e := s.wyv.extents; e.1 * e.2.1 * e.2.2

/-- The number of this system's rim region. -/
def rimNo (s : State) : Nat := if twinned s && secondary s then 254 else 255

/-- The rim region of 64 KiB on the seed, in the lowest free place, with the seed's policy groups (R172, R389). -/
def createRim (s : State) : State :=
  if s.tier.regions.any (·.no == rimNo s) then s
  else (List.range 16).foldl (fun s g => putPolicy g s) (createRegion (rimNo s) 1 s)

/-- SYSTEM_READY: the barrier releases 1 s after the last report: at the seed once every node has reported, elsewhere on the release.
Placement and T3 accesses begin, and the release time is stored (R389). A seed that comes back to a system of several nodes waits for no reports,
which the others do not repeat (DEDUCED, assumption 38). -/
def systemReadyF (s : State) : State :=
  if s.wyv.systemReady || s.wyv.coord == none ||
      (s.wyv.seed && s.wyv.readyNodes.length != systemNodes s && !(s.wyv.late && systemNodes s != 1)) then s
  else
    let s := if s.wyv.seed then createRim { s with time := s.time + 1000000000 } else s
    let s := joinLate (modWyv (fun w => { w with systemReady := true, rejoining := false }) s)
    setObj 0x4000 8 s.time (phaseDone 7 s)

def execSystemReady (s : State) : Res := finish s (systemReadyF s)

end Sys2Proof.Machine
end

