-- ==== Sys2Proof/Machine/Basic.lean ====
section
/-! DEFINITION. Basic mode (R75, R204, R205, R420, R421), the faults of Table 8-5, the recovery of tiles (R195, R196), scrubbing (R198),
the array test (R224) and the retirement of HBM (R203). -/

namespace Sys2Proof.Machine

open Sys2Proof

/-! ### Resets and sensors -/

/-- Record a reset: its detailed cause, its time, and the code of DeviceStatus.5 (Table 17-2, Table 17-9). -/
def noteReset (cause code : Nat) (s : State) : State :=
  setObj 0x1300 1 cause (setObj 0x1300 2 s.time (setObj 0x1010 5 code (bump 0x1010 4 s)))

/-- A temperature sensor, in tenths of a degree (ThermalSensors, I32). -/
def sensor (s : State) (n : Nat) : Int :=
  let v := obj s 0x1310 n
  if v < 2 ^ 31 then v else (v : Int) - 2 ^ 32

/-- Throttle point of a sensor, in tenths of a degree (Table 2-5); a sensor that is only reported has none. The holdup bank's 75 °C stands in
the table's column of throttle points, so that it throttles as well as marking the bank (DEDUCED, assumption 58). -/
def throttlePoint (n : Nat) : Option Int :=
  if n == 0 then none
  else if n ≤ 24 then some 1000
  else if n ≤ 32 then some 900
  else if n ≤ 112 then some 700
  else if n ≤ 114 then some 750
  else none

/-- Trip point of a sensor (Table 2-5). -/
def tripPoint (n : Nat) : Option Int :=
  if n == 0 then none
  else if n ≤ 24 then some 1150
  else if n ≤ 32 then some 1050
  else if n ≤ 112 then some 850
  else none

/-- The sensors that have a throttle point. -/
def hotSensors : List Nat := (List.range 114).map (· + 1)

/-- Is a sensor at or above its throttle point (R29)? -/
def hot (s : State) : Bool :=
  hotSensors.any fun n => match throttlePoint n with | some p => decide (p ≤ sensor s n) | none => false

/-- Is every sensor at least 3 °C below its throttle point (R29)? -/
def cool (s : State) : Bool :=
  hotSensors.all fun n => match throttlePoint n with | some p => decide (sensor s n ≤ p - 30) | none => true

/-- Is a sensor at its trip point (R29)? -/
def tripping (s : State) : Bool :=
  hotSensors.any fun n => match tripPoint n with | some p => decide (p ≤ sensor s n) | none => false

/-- Has throttling reached its floor (R449)? -/
def atFloor (s : State) : Bool := s.thr.fa == 0 && s.thr.prog == 4 && s.thr.fab == 4

/-! ### Basic mode -/

/-- Every submission queue that is a compute queue. -/
def computeQueues (s : State) : List Sq := s.host.sqs.filter fun q => isCompute s q.fn q.id

/-- End every job and basket command with a status, and freeze the compute queues (R67, R75). -/
def endCompute (st : Status) (s : State) : State :=
  let s := (computeQueues s).foldl (fun s q => freezeQueue q.fn q.id s) s
  (s.host.inflight.filter fun x => isCompute s x.fn x.sq).foldl (fun s x => endRequest x.fn x.sq x.cid st 0 s) s

/-- Placement stops: copies not yet switched are dropped (R205). -/
def stopPlacement (s : State) : State :=
  modTier (fun t => { t with
    tiles := t.tiles.map fun u => match u.migration with
      | some m => if m.step < 3 then { u with migration := none } else u
      | none => u }) s

/-- What the module does when it enters Basic mode: every job and basket command ends with Basic Mode Active, the node is announced
unavailable, every dirty tile is written back, and the entry is recorded and raised as an event (R38, R204, R205). -/
def basicEntry (cause : Nat) (s : State) : State :=
  let s := stopPlacement (endCompute stBasicMode s)
  let s := writeBackAll (fun _ => true) (announceNode 1 s)
  let s := noteReset 6 6 (setObj 0x1210 2 0 s)
  raiseAlert 2 (logEv { source := 6, cls := 9, action := 6, detail := 0, context := cause } s)

/-- Enter Basic mode by a cause of DeviceStatus.2, or add the cause to those that hold (R204, R205). -/
def enterBasic (cause : Nat) (s : State) : State :=
  if bitOf (obj s 0x1010 2) cause then s
  else
    let t := if basicMode s then s else basicEntry cause s
    setObj 0x1010 2 (obj s 0x1010 2 ||| 2 ^ cause) t

/-- Leave Basic mode when no cause is left: the array test is run, the node is announced available, and compute is ready (R421). -/
def leaveBasic (s : State) : State :=
  if basicMode s then s
  else
    let s := modArr (fun a => { a with testAsked := true }) s
    let s := if decide (s.pwr.ps < 3) && !fenced s then announceNode 2 s else s
    if s.pwr.booted then setObj 0x1210 2 1 s else s

/-- A cause of Basic mode clears (R420). -/
def clearBasic (cause : Nat) (s : State) : State :=
  if bitOf (obj s 0x1010 2) cause then leaveBasic (setObj 0x1010 2 (obj s 0x1010 2 - 2 ^ cause) s) else s

/-- Are active cells or working channels below their floor (R204 cause [1])? -/
def belowFloor (s : State) : Bool :=
  decide (obj s 0x2302 5 < obj s 0x2300 3) || decide (workingChannels s < obj s 0x2300 4)

/-- Hold capacity against the floors, after a change of either (R204, R206, R420). -/
def checkFloors (s : State) : State := if belowFloor s then enterBasic 1 s else clearBasic 1 s

/-- BASIC_MODE_COMMAND: BasicModeControl.1 is written 1; it reads 1 while the cause holds (R204). -/
def basicModeCommandF (s : State) : State := runAction (0, 0) (fun s => enterBasic 3 (setObj 0x2320 1 1 s)) s

def execBasicModeCommand (s : State) : Res := finish s (basicModeCommandF s)

/-- BASIC_MODE_CLEAR: BasicModeControl.1 is written 0 (R420). -/
def basicModeClearF (s : State) : State := runAction (0, 0) (fun s => clearBasic 3 (setObj 0x2320 1 0 s)) s

def execBasicModeClear (s : State) : Res := finish s (basicModeClearF s)

/-- THERMAL_BASIC_TIMEOUT: with throttling at its floor and a sensor still hot, the device enters Basic mode and PS2 (R29). -/
def thermalBasicTimeoutF (s : State) : State :=
  if hot s && atFloor s && s.pwr.mainRails then
    let s := modPwr (fun p => { p with psBeforeThermal := if p.ps == 2 then p.psBeforeThermal else some p.ps, ps := 2, lastOp := 2 }) s
    enterBasic 4 (enterBasic 2 s)
  else s

def execThermalBasicTimeout (s : State) : Res := finish s (thermalBasicTimeoutF s)

/-- OVERTEMP_CLEAR: every sensor has been cool for 60 s; with PS2 entered for heat, the power state before it returns (Table 17-4). -/
def overtempClearF (s : State) : State :=
  if cool s && bitOf (obj s 0x1010 2) 2 then
    let s := match s.pwr.psBeforeThermal with
      | some p =>
        let s := modPwr (fun w => { w with ps := p, lastOp := if p < 3 then p else w.lastOp, psBeforeThermal := none }) s
        setObj 0x1010 2 (obj s 0x1010 2 - (if bitOf (obj s 0x1010 2) 4 then 16 else 0)) s
      | none => s
    clearBasic 2 s
  else s

def execOvertempClear (s : State) : Res := finish s (overtempClearF s)

/-! ### Recovery of tiles (R166, R195, R196) -/

/-- The tiles that the operation at the head of the running job's stream reads. -/
def opTiles (s : State) : List (Nat × Nat) :=
  match ownerJob s with
  | none => []
  | some j =>
    let d := j.basket.ops.getD j.pos []
    if field d 0 1 == 0x50 || field d 0 1 == 0x51 then
      match tileTarget s j d with
      | some o => (tileMoves s d).flatMap fun m => (List.range (field d 2 2)).map fun i => (o.id, m.2 + i)
      | none => []
    else []

/-- May a tile be evicted: it takes its frame from the tile cache, is neither pinned nor moving, and no operation in flight reads it (R170)? -/
def mayEvict (s : State) (t : Tile) : Bool :=
  inCache s t && !t.pinned && t.migration == none && !t.fetching && !(opTiles s).contains (t.object, t.index)

/-- The tile to evict: the least recently used, and of equal age a clean one before a dirty one (R170). -/
def evictFirst : List Tile → Option Tile
  | [] => none
  | t :: l =>
    match evictFirst l with
    | none => some t
    | some u => if decide (u.used < t.used) || (u.used == t.used && t.dirty && !u.dirty) then some u else some t

/-- TILE_EVICTION: a dirty victim goes only once its write-back has reached the Pail; none where the Pail has no room (R168, R170). -/
def evict (t : Tile) (s : State) : Option State :=
  let s := writeBack false t.object t.index s
  match findTile s t.object t.index with
  | some u => if u.dirty then none else some (putTile { u with inT1 := false, body := [], scale := [], reserved := false } s)
  | none => some s

/-- Evict until `need` more bytes fit the tile cache; none where no tile may go. -/
def makeRoom (need : Nat) : Nat → State → Option State
  | 0, _ => none
  | n + 1, s =>
    if cacheUsed s + need ≤ cacheMiB s * 2 ^ 20 then some s
    else match evictFirst (s.tier.tiles.filter (mayEvict s)) with
      | none => none
      | some t => (evict t s).bind (makeRoom need n)

/-- A fetched tile takes its frame, after what it displaces has left the tile cache (R166, R170). -/
def installTile (object tile : Nat) (bad : Bool) (s : State) : Option State :=
  match findTile s object tile with
  | none => some s
  | some t =>
    let u := framed s (tileOf s object tile)
    (makeRoom (if t.inT1 || u.reserved then 0 else tileBytes u) (s.tier.tiles.length + 1) s).map
      (putTile { u with fetching := t.fetching && bad, poison := u.poison || bad })

/-- The flash copy of a tile that cannot be recovered is marked poisoned (R149, R196). -/
def poisonCopy (object tile : Nat) (s : State) : State :=
  match bodyLpn s (tileOf s object tile) with
  | some l => let e := mapGet s l; if entryValid e && !entryPoison e then mapSet l (e + 2 ^ 38) s else s
  | none => s

/-- A tile has come to T1: what waits for it goes on, and an Express job whose resident slots are now in T1 asks for the array (R166, R352). -/
def tileArrived (s : State) : State := askPreempt (serveWaits s)

/-- TILE_FETCH_DONE: once the page reads of the fetch have ended, the tile is installed clean, or when recovery has failed poisoned, with its object
flagged degraded (R166, R196). What waits for it goes on. While the tile cache can make no room the tile waits (R170). A tile that was
delivered poisoned meanwhile is installed clean if nothing has written it since (R196). -/
def tileFetchDoneF (object tile : Nat) (clean : Bool) (s : State) : State :=
  match findTile s object tile with
  | none => s
  | some t =>
    if !t.fetching || !fetchRead s t then s
    else if t.inT1 then
      let u := if clean && t.poison && !t.dirty then framed s { fromPages s { t with poison := false } with inT1 := true } else t
      let s := putTile { u with fetching := false } s
      if clean then s else flagDegraded object tile (poisonCopy object tile s)
    else match installTile object tile false s with
      | none => s
      | some s =>
        if clean then tileArrived s
        else
          let s := putTile { tileOf s object tile with poison := true } s
          let s := poisonCopy object tile (logEv { source := 13, cls := 2, action := 3, object := object, context := tile } s)
          tileArrived (flagDegraded object tile s)

def execTileFetchDone (object tile : Nat) (clean : Bool) (s : State) : Res := finish s (tileFetchDoneF object tile clean s)

/-- TILE_RECOVERY_TIMEOUT: those that wait receive the tile poisoned, and the recovery goes on (R196): a later clean outcome installs the
tile clean. -/
def tileRecoveryTimeoutF (object tile : Nat) (s : State) : State :=
  match findTile s object tile with
  | some t => if t.fetching && !t.inT1 then (match installTile object tile true s with | some s => tileArrived s | none => s) else s
  | none => s

def execTileRecoveryTimeout (object tile : Nat) (s : State) : Res := finish s (tileRecoveryTimeoutF object tile s)

/-! ### What waited goes on -/

def execMapLineRebuildDone (line : Nat) (s : State) : Res :=
  finish s (if rebuilding s line then serveWaits (pumpReads (mapLineRebuildDoneF line s)) else s)

def execPailSpaceAvailable (s : State) : Res := finish s (serveWaits (pailSpaceAvailableF s))

def execMigrationInstallDone (object tile : Nat) (crcOk : Bool) (s : State) : Res :=
  finish s (serveWaits (migrationInstallDoneF object tile crcOk s))

/-- Fetches that need a page whose read is refused end, and what waits for them ends with Tier Error naming T2: threads' loads, the operation that
reads the tile, and updates of its table (R113, R185). -/
def failFetches (a : Nat) (s : State) : State :=
  let ts := (s.tier.tiles.filter fun t => t.fetching && (fetchReads s t).contains a).map fun t => (t.object, t.index)
  let s := modTier (fun r => { r with tiles := updWhere (fun t => ts.contains (t.object, t.index)) (fun t => { t with fetching := false }) r.tiles }) s
  let jobs := (s.tier.waits.filterMap fun w => match w.access with
    | .load (.object slot tile _) _ => (match findJob s w.job with
      | some j => (match jobSlot j slot with | some x => if ts.contains (x.2, tile) then some j.id else none | none => none)
      | none => none)
    | _ => none) ++ (if (opTiles s).any ts.contains then s.jobs.owner.toList else [])
  let s := jobs.eraseDups.foldl (fun s id => endJob id stTierError 2 s) s
  (s.churn.updates.filter fun u => u.records.any fun r => r.waits && (match findTable s u.table with
    | some t => (rowPlaces t (recRow r.bytes)).any ts.contains
    | none => false)).foldl
    (fun s u => failUpd u stTierError 2 s) s

/-- The reads queued at a die that is about to be suspended for them and that R113 does not allow. -/
def refusedReads (s : State) (c d : Nat) : List Nat :=
  match dieOp s c d with
  | some o => if o.susp == 1 then (readsAt s c d).filter fun a => !readAllowed s o a else []
  | none => []

def execSuspendReady (channel die : Nat) (s : State) : Res :=
  finish s ((refusedReads s channel die).foldl (fun s a => failFetches a s) (suspendReadyF channel die s))

/-! ### Scrubbing (R190, R198) -/

/-- The line of an HBM address that the scrubber reads last in a pass. -/
def lastLine : Nat := 2 ^ 39 - 64

/-- Does a line of HBM lie in the frame of a tile (R164)? -/
def Tile.atLine (t : Tile) (addr : Nat) : Bool := t.inT1 && decide (t.frame ≤ addr) && decide (addr < t.frame + tileBytes t)

/-- Does a line of HBM lie in the stack that holds a line of the map (R131)? Each stack holds the entries of 2^31 pages. -/
def mapLineAt (l addr : Nat) : Bool := addr / 2 ^ 36 % 8 == l / (5 * 2 ^ 25)

/-- What an uncorrectable line leaves, by what it holds (R133, R139, R190, R198). -/
def lineLost (addr : Nat) (holds : HbmUse) (s : State) : State :=
  match holds with
  | .other => s
  | .tile o i =>
    match findTile s o i with
    | some t =>
      if !t.atLine addr then s
      else if t.dirty then putTile { t with poison := true } s
      else if t.version != 0 then putTile { t with inT1 := false } s
      else s
    | none => s
  | .mapLine l => if !mapLineAt l addr then s else modBlk (fun b => { b with badLines := if b.badLines.contains l then b.badLines else b.badLines ++ [l] }) s
  | .pail l =>
    if s.blk.oneCopy.contains l then
      modBlk (fun b => { b with pail := updWhere (·.lpn == l) (fun p => { p with poison := 15 }) b.pail }) s
    else modBlk (fun b => { b with oneCopy := b.oneCopy ++ [l] }) s
  | .window off => modTier (fun t => { t with windowPoison := memOver t.windowPoison (off / 32 * 32) 32 ((List.range 32).map fun i => (i, 1)) }) s

/-- SCRUB_LINE: outcome 0 clean; 1 one symbol corrected and written back; 2 uncorrectable, left as it is and logged (R190, R198). -/
def scrubLineF (addr outcome symbol : Nat) (holds : HbmUse) (s : State) : State :=
  let e : Ev := { source := 3, cls := 0, unit := addr / 2 ^ 36 % 8, address := addr % 2 ^ 39, detail := symbol % 64 }
  let s := if outcome == 1 then logEv { e with cls := 0, action := 1 } (bump 0x2302 1 s)
    else if outcome == 2 then lineLost (addr % 2 ^ 39) holds (logEv { e with cls := 2, detail := 0 } (bump 0x2302 2 s))
    else s
  if addr % 2 ^ 39 == lastLine then setObj 0x2302 9 s.time s else s

def execScrubLine (addr outcome symbol : Nat) (holds : HbmUse) (s : State) : Res := finish s (scrubLineF addr outcome symbol holds s)

/-! ### Single faults (Table 8-5) -/

/-- What a failed stack takes with it: the tiles whose frames lie in it, dirty ones poisoned; the Pail copy of stack 0 or 4 (R192, R203, R205). -/
def stackLost (stack : Nat) (s : State) : State :=
  let hit := fun (t : Tile) => t.inT1 && (t.frame / 2 ^ 36 % 8 == stack || (t.frame + tileBytes t - 1) / 2 ^ 36 % 8 == stack)
  let after := fun (t : Tile) =>
    if !hit t then t
    else if t.dirty then { t with poison := true }
    else if t.version != 0 then { t with inT1 := false, pinned := false }
    else t
  let s := modTier (fun r => { r with tiles := r.tiles.map after }) s
  if stack == 0 || stack == 4 then modBlk (fun b => { b with oneCopy := (b.oneCopy ++ b.pail.map (·.lpn)).eraseDups }) s else s

/-- HBM_CONTROLLER_FAIL: Basic mode by cause [0], the Pail drained from the surviving copy and the journal committed; write caching stays
off until repair (R203). -/
def hbmControllerFailF (stack : Nat) (s : State) : State :=
  if decide (8 ≤ stack) || s.integ.failedStacks.contains stack then s
  else
    let s := modInteg (fun i => { i with failedStacks := i.failedStacks ++ [stack] }) s
    let s := logEv { source := 3, cls := 6, action := 6, unit := stack } s
    let s := modPwr (fun p => { p with cachingBarred := true }) (enterBasic 0 (stackLost stack s))
    let s := modBlk (fun b => { b with badStacks := b.badStacks ++ [(stack, (stackLines stack).1)] }) s
    pump true s

def execHbmControllerFail (stack : Nat) (s : State) : Res := finish s (hbmControllerFailF stack s)

/-- CHANNEL_ENGINE_FAIL: the engine's dies are masked by rebuild, its superblocks are queued for relocation, and below the floor Basic mode
follows (R121, R154, R200). -/
def channelEngineFailF (c : Nat) (s : State) : State :=
  if decide (64 ≤ c) || channelFailed s c then s
  else
    let s := setObj 0x2010 (c + 1) 2 s
    let s := logEv { source := 2, cls := 6, action := 7, unit := c, address := physAddr c 0 0 0 0 } s
    let s := (List.range 20).foldl (fun s d => dropDie c d (relocateDie c d s)) s
    checkFloors (pumpAll (reserveDump 4 s))

def execChannelEngineFail (channel : Nat) (s : State) : Res := finish s (channelEngineFailF channel s)

/-- CELL_FAIL: the job that owns the array ends with Job Fault, and Rennet repairs the cell before the next job starts (R200, R224). -/
def cellFailF (cell : Nat) (s : State) : State :=
  if decide (272 ≤ cell) || s.integ.failedCells.contains cell then s
  else
    let s := logEv { source := 1, cls := 6, action := 4, unit := cell } s
    let s := modInteg (fun i => { i with failedCells := i.failedCells ++ [cell] }) s
    let s := endOwner stJobFault none (modArr (fun a => { a with limitPending := true }) s)
    checkFloors (applyPending s)

def execCellFail (cell : Nat) (s : State) : Res := finish s (cellFailF cell s)

/-- The Hoop pair `p` fails: the other takes over from its last checkpoint; with none left the fault is uncontained (R188, R200). -/
def hoopPairFails (p : Nat) (e : Ev) (s : State) : State :=
  let s := logEv { e with action := if s.integ.hoopFailed == [] then 4 else 0 } s
  let s := modInteg (fun i => { i with hoopFailed := if i.hoopFailed.contains p then i.hoopFailed else i.hoopFailed ++ [p] }) s
  if decide (2 ≤ s.integ.hoopFailed.length) then enterBasic 0 s
  else if s.integ.hoopActive == p then modInteg (fun i => { i with hoopActive := 1 - p }) s
  else s

/-- HOOP_LOCKSTEP_MISMATCH: the pair whose cores differ is out; the standby takes over (R200). -/
def hoopLockstepMismatchF (pair : Nat) (s : State) : State :=
  if decide (2 ≤ pair) then s else hoopPairFails pair { source := 6, cls := 5, unit := pair } s

def execHoopLockstepMismatch (pair : Nat) (s : State) : Res := finish s (hoopLockstepMismatchF pair s)

/-- HOOP_OSCILLATOR_LOSS: the standby pair takes over on its own oscillator (R200). -/
def hoopOscillatorLossF (s : State) : State :=
  hoopPairFails s.integ.hoopActive { source := 7, cls := 6, unit := 6 } s

def execHoopOscillatorLoss (s : State) : Res := finish s (hoopOscillatorLossF s)

/-- MODULE_REFERENCE_LOSS: the locked clocks move to CK_HOOP ÷ 2, fabric time unlocks, and the node leaves the system and enters Basic mode
(R200). -/
def moduleReferenceLossF (s : State) : State :=
  if s.integ.refLost then s
  else
    let s := logEv { source := 7, cls := 6, action := 4, unit := 7 } s
    let s := modInteg (fun i => { i with refLost := true }) s
    let s := if obj s 0x4100 3 == 1 then bump 0x4100 11 (setObj 0x4100 3 0 s) else s
    enterBasic 0 s

def execModuleReferenceLoss (s : State) : Res := finish s (moduleReferenceLossF s)

/-- The watchdog expiries of a core within the last hour: keys are time · 16 + core. -/
def expiriesOf (s : State) (core : Nat) : Nat :=
  (s.integ.coreExpiries.filter fun x => x.1 % 16 == core && decide (s.time < x.1 / 16 + 3600 * 10 ^ 9)).length

/-- SERVICE_CORE_WATCHDOG: the core restarts; its block commands are executed again by another core before their completions, so nothing of
theirs changes; its basket commands `cmds` end with Job Fault; at the third expiry within an hour the core is removed (R200, R201). -/
def serviceCoreWatchdogF (core : Nat) (cmds : List (Nat × Nat × Nat)) (s : State) : State :=
  if decide (16 ≤ core) || s.integ.coresOut.contains core then s
  else
    let s := modInteg (fun i => { i with coreExpiries := kvPut 0 i.coreExpiries (s.time * 16 + core) 1 }) s
    let out := decide (3 ≤ expiriesOf s core)
    let s := logEv { source := 8, cls := 6, action := if out then 7 else 0, unit := core } s
    let s := cmds.foldl (fun s c => if isCompute s c.1 c.2.1 then endRequest c.1 c.2.1 c.2.2 stJobFault 0 s else s) s
    if out then setObj 0x2302 7 (obj s 0x2302 7 - 1) (modInteg (fun i => { i with coresOut := i.coresOut ++ [core] }) s) else s

def execServiceCoreWatchdog (core : Nat) (cmds : List (Nat × Nat × Nat)) (s : State) : Res :=
  finish s (serviceCoreWatchdogF core cmds s)

/-! ### The array test (R224) -/

/-- ARRAY_TEST: a test that falls due while a job owns the array waits for its end; a test that runs adds its findings to the repair map,
logs the jobs since the last test when it finds any, and applies the repair. -/
def arrayTestF (rows : List (Nat × Nat)) (cells : List Nat) (s : State) : State :=
  if s.jobs.owner != none then modArr (fun a => { a with testDue := true }) s
  else
    let rows := rows.filter fun r => decide (r.1 < 272) && decide (r.2 < 65) && !s.integ.failedRows.contains r
    let cells := cells.filter fun c => decide (c < 272) && !s.integ.failedCells.contains c
    let s := endActing 1 0 (setObj 0x3020 1 s.time (modArr (fun a => { a with testDue := false, testAsked := false }) s))
    let since := s.jobs.sinceTest
    let s := modJobs (fun r => { r with sinceTest := [] }) s
    let s := if rows == [] && cells == [] then s else bump 0x3020 2 s
    if rows == [] && cells == [] then s
    else
      let s := rows.foldl (fun s r => logEv { source := 1, cls := 7, action := 4, unit := r.1, context := r.2 } s) s
      let s := cells.foldl (fun s c => logEv { source := 1, cls := 7, action := 4, unit := c } s) s
      let s := since.foldl (fun s j => logEv { source := 1, cls := 7, context := j } s) s
      let s := modInteg (fun i => { i with failedRows := i.failedRows ++ rows, failedCells := i.failedCells ++ cells }) s
      checkFloors (applyRepair s)

def execArrayTest (rows : List (Nat × Nat)) (cells : List Nat) (s : State) : Res := finish s (arrayTestF rows cells s)

/-- ARRAY_TEST_REQUEST: ArrayTest.3 asks for a test before the next job. -/
def arrayTestRequestF (s : State) : State := runAction (0, 0) (modArr (fun a => { a with testAsked := true })) s

def execArrayTestRequest (s : State) : Res := finish s (arrayTestRequestF s)

/-! ### Retirement of HBM pages and banks (R203) -/

/-- Pages of a stack that are retired. -/
def retiredOf (s : State) (stack : Nat) : List Nat := (s.integ.retired.filter (·.1 == stack)).map (·.2)

/-- Retire pages of a stack: each address is redirected to a replacement page, so contents, poison included, stay as they are. -/
def retirePages (stack : Nat) (ps : List Nat) (s : State) : State :=
  let k := (retiredOf s stack).length
  let s := modInteg (fun i => { i with
    retired := i.retired ++ ps.map fun p => (stack, p)
    remap := i.remap ++ ps.zipIdx.map fun x => (stack * 2 ^ 20 + x.1, k + x.2) }) s
  let s := ps.foldl (fun s p => storePut (retiredItem (stack, p)) true s) s
  setObj 0x2311 (stack + 1) (k + ps.length) s

/-- Retire the pages of an HBM address that `pick` names, unless the stack's remap table would hold more than 4,096 (R203). -/
def retire (pick : Nat → List Nat) (s : State) : State :=
  let addr := obj s 0x2310 1
  let stack := addr / 2 ^ 36
  let ps := (pick (addr % 2 ^ 36 / 65536)).filter fun p => !(retiredOf s stack).contains p
  let chk : Nat × Nat :=
    if decide (8 ≤ stack) then (0x26, 1)
    else if decide (4096 < (retiredOf s stack).length + ps.length) then (0x27, 2)
    else (0, 0)
  runAction chk (retirePages stack ps) s

/-- HBM_RETIRE_PAGE: the 64 KiB page that holds HbmRetire.1. -/
def hbmRetirePageF (s : State) : State := retire (fun p => [p]) s

def execHbmRetirePage (s : State) : Res := finish s (hbmRetirePageF s)

/-- HBM_RETIRE_BANK: every page of the bank that holds HbmRetire.1: page p lies in bank p mod 1,024. -/
def hbmRetireBankF (s : State) : State := retire (fun p => (List.range 1024).map fun k => k * 1024 + p % 1024) s

def execHbmRetireBank (s : State) : Res := finish s (hbmRetireBankF s)

end Sys2Proof.Machine
end

