-- ==== Sys2Proof/Machine/Power.lean ====
section
/-! DEFINITION. Power input, the holdup bank, the power-loss sequence, the stages of start-up and the throttling evaluation (chapters 2 and
17, R435 to R439). -/

namespace Sys2Proof.Machine

open Sys2Proof

/-! ### The power-loss sequence (R114, R139, R410, R422, R423) -/

/-- A program in progress finishes, resumed if it was suspended: its pages stand on flash, and no map entry points at them (R114, R132); parity that
is programmed closes its stripe. -/
def landUnit (s : State) (u : ProgUnit) : State :=
  match findSb s u.sb with
  | some b =>
    if u.parity then closedStripe b u.wl (landParity b u.wl s)
    else modBlk (fun k => { k with
      stripes := updWhere (fun t => t.sb == u.sb && t.wl == u.wl) (fun t => { t with done := t.done ++ [u.ch] }) k.stripes })
      (landPages b u.ch u.wl true u.locked u.pages s)
  | none => s

/-- Flash work stops: programs in progress finish and those that have not started are cancelled, but for a journal segment; erases in progress are
reset and leave their superblocks erase-uncertain, and a garbage-collection copy is given up (R114, R139 step 1, Table 6-5). -/
def stopFlash (s : State) : State :=
  let s := (s.blk.units.filter fun u => !u.waiting && u.seg == none).foldl landUnit s
  let s := modNand (fun n => { n with dieOps := [], reads := [], rebuilds := [], scans := [] }) s
  modBlk (fun b => { b with
    units := b.units.filter fun u => u.seg.isSome
    victim := none
    gcReads := []
    gcBuf := []
    pail := updWhere (·.phase == 1) (fun p => { p with phase := 0 }) b.pail }) s

/-- Every outstanding merge read completes (R139 step 2). -/
def finishMerges (s : State) : State :=
  s.blk.merges.foldl (fun s l =>
    let (m, bad) := pageData s l
    modBlk (fun b => { b with
      merges := b.merges.filter (· != l)
      pail := updWhere (·.lpn == l) (fun p => { p with data := m, quarters := 15, poison := bad, parts := [] }) b.pail }) s) s

/-- The page address of place `n` in the dump set. -/
def dumpPlace : List Superblock → Nat → Option Nat
  | [], _ => none
  | b :: bs, n =>
    if n < unitPages * unitsIn b then
      let p := nextPlace { b with next := n / unitPages }
      some (p.1.place p.2 (n % unitPages))
    else dumpPlace bs (n - unitPages * unitsIn b)

/-- Program a list of pages into the dump set, from place `n`; they count as programmed (R155). -/
def dumpPages (bs : List Superblock) : Nat → List Page → State → State
  | _, [], s => s
  | n, p :: ps, s =>
    match dumpPlace bs n with
    | some a => dumpPages bs (n + 1) ps (modBlk (fun b => { b with dumped := b.dumped ++ [a], programmed := b.programmed + 1 }) (putPage a p s))
    | none => s

/-- The parity of the dump set's stripes over the members programmed, with `journaled` the entries of those that are not full; `n` pages went to the
superblocks from the first on (R139 steps 3 and 4). -/
def dumpParity (journaled : Bool) : List Superblock → Nat → State → State
  | [], _, s => s
  | b :: bs, n, s =>
    let units := min (ceilDiv n unitPages) (unitsIn b)
    let w := max 1 (dataMembers b).length
    let s := (List.range (ceilDiv units w)).foldl (fun s wl => landParity b wl s) s
    let s := modSb b.id (fun b => { b with next := units }) s
    let s := if journaled && units % w != 0 then journal (stripeEntry b (units / w) (((dataMembers b).take (units % w)).map (·.ch))) s else s
    dumpParity journaled bs (n - unitPages * unitsIn b) s

/-- The page that dumps a Pail page. -/
def pailDump (p : PailPage) : Page := mkPage p.kind p.lpn p.seq p.poison p.data

/-- The page of kind 2 that dumps a deallocation: its first page in the tag, its count in the sequence field (R410, R423; DESIGN CHOICE, assumption 28). -/
def deallocDump (e : JEntry) : Page := mkPage 2 e.key e.count 0 []

/-- The members of the dump set in order. -/
def dumpSbs (s : State) : List Superblock := s.blk.dumpSet.filterMap (findSb s)

/-- The map takes a dumped page (R139 step 5, R410). A page of a coherent region keeps its pinned bit, and goes to a locked superblock before any other
copy (R122). -/
def takeDumped (a : Nat) (s : State) : State :=
  match pageAt s a with
  | some p =>
    if p.kind == 2 then deallocRange p.no p.seq s
    else
      let s := if p.kind == 7 then modBlk (fun b => { b with urgent := b.urgent ++ [p.no] }) s else s
      mapSet p.no (mapEntry (p.poison == 15) (p.kind == 7) (classOf s p.no) a) s
  | none => s

/-- Every open stripe is closed, its parity over the members programmed (R139 step 4). -/
def closeStripes (s : State) : State :=
  let s := closeEarly (fun _ => true) s
  s.blk.stripes.foldl (fun s t =>
    match findSb s t.sb with
    | some b => if t.done == [] then dropStripe t.sb t.wl s else closedStripe b t.wl (landParity b t.wl s)
    | none => dropStripe t.sb t.wl s) s

/-- Is a Pail page on flash with its map change committed? It is not dumped. -/
def pailCommitted (s : State) (p : PailPage) : Bool := p.phase == 2 && !(uncommittedEntries s.blk).any (touches · p.lpn)

/-- What the end of the journal without a commit leaves of superblocks: one whose opening is not committed may be programmed, and is erase-uncertain, as is
one whose Erase done is not; one whose Erase begin is not has not been erased (R140, R145). -/
def rollBack (s : State) : State :=
  let es := uncommittedEntries s.blk
  let told := fun (kind id : Nat) => es.any fun e => e.kind == kind && e.key == id
  let back := fun (x : Superblock) =>
    if (x.st ≤ 2 && told 4 x.id) || (x.st == 6 && told 7 x.id) then { x with st := 4 }
    else if x.st == 3 && told 6 x.id then { x with st := 2 } else x
  modBlk (fun b => { b with sbs := b.sbs.map back }) s

/-- Steps 1 to 5 of R139: the uncommitted pages of the Pail go to the dump set; with `journaled` the map changes are appended and committed, without it
(the drain sequencer) deallocations are dumped as pages and the journal and the open stripes are left as they are (R423). -/
def dumpPail (journaled : Bool) (s : State) : State :=
  let s := finishMerges (stopFlash s)
  let es := (uncommittedEntries s.blk).filter fun e => e.kind == 2
  let bs := dumpSbs s
  let ps := (if journaled then [] else es.map deallocDump) ++ (s.blk.pail.filter fun p => !pailCommitted s p).map pailDump
  let s := dumpPages bs 0 ps (modBlk (fun b => { b with dumped := [] }) s)
  let s := dumpParity journaled bs s.blk.dumped.length s
  let s := if journaled then commitAll (closeStripes (s.blk.dumped.foldl (fun s a => takeDumped a s) s)) else rollBack s
  modBlk (fun b => { b with pail := [], jbuf := [], segs := [], units := [], oneCopy := [] }) s

/-- Dumped superblocks join the garbage-collection stream as closed superblocks, and fresh ones are reserved (R138). -/
def joinDump (s : State) : State :=
  let s := if s.blk.dumped == [] then s
    else modBlk (fun b => { b with
      sbs := updWhere (fun x => b.dumpSet.contains x.id) (fun x => { x with st := 2 }) b.sbs
      dumpSet := []
      dumped := [] }) s
  reserveDump 4 s

/-- The sequence of Table 17-5 with what the Hoop records at its end: the cause (InputPower.4; none for a module restart or PS4, and that
of an over-voltage disconnect only when the Hoop rail next has power, Table 2-6), the path that ran, and its measured duration and energy,
which are free values. -/
def lossSequence (journal : Bool) (cause : Nat) (s : State) : State :=
  let n := (s.blk.pail.filter fun p => !pailCommitted s p).length
  let s := dumpPail journal (announceNode 1 s)
  let s := storeSet 0x1350 1 (freshNat s) s
  let s := storeSet 0x1350 2 (freshNat (drew s)) (drew (drew s))
  let s := storeSet 0x1350 3 n (storeSet 0x1350 4 (if journal then 1 else 2) s)
  let s := if cause == 0 || cause == 3 then s else storeSet 0x1330 4 cause s
  logEv { source := 10, cls := 10, detail := 0, context := cause } s

/-! ### What a stop of the whole module loses (R417, Table 17-3) -/

/-- Every function's work stops without completions, and its queues are deleted. -/
def stopHost (s : State) : State :=
  s.host.ctrls.foldl (fun s c => if s.host.sqs.any (·.fn == c.fn) || s.host.inflight.any (·.fn == c.fn) then stopFunction c.fn s else s) s

/-- The fabric side starts afresh: every tag, kept response, credit and time-lock state is cleared, every port is down (R416), and fabric time
returns to its Reset value with the other values of its group (R5, Table 17-3). -/
def clearFabric (s : State) : State :=
  resetGroups (fun g => g == .fabric) (fun _ => true)
    (modWyv (fun w => { State.reset.wyv with tx := w.tx, ctl := w.ctl }) { s with time := 0 })

/-- The controllers as they come out of a reset of the whole module. -/
def clearHost (s : State) : State :=
  modHost (fun h => { h with linkUp := false, ctrls := (List.range 64).map ctrlReset, sqs := [], cqs := [], inflight := [] }) s

/-- Synchronisation objects come back from their metadata; the manual does not say with what value, so it is free (DESIGN CHOICE, assumption 40). -/
def restoreSync (s : State) : State :=
  s.sync.objs.foldl (fun s o =>
    let v := freshNat s
    let v := if o.kind == 0 then v % 2 ^ 32 else if o.kind == 1 then v % 2 else if o.kind == 2 then v % max 1 o.parts else v % 2 ^ 64
    drew (modSync (fun y => { y with
      objs := updWhere (·.no == o.no) (fun x => { x with value := v, gen := 0, waiters := [], mirrored := false }) y.objs }) s)) s

/-- Everything of the compute and storage sides that is held in memory only is lost: jobs, queries, updates, the array, tiles not in the
Pail, staged firmware. Ingests under way are aborted (R169, R285, R424, R427). -/
def clearVolatile (s : State) : State :=
  let s := s.retr.ingests.foldl (fun s g => dropIngest g s) s
  let s := modRetr (fun r => { r with queries := [], handles := [], pools := [] }) s
  let s := modChurn (fun c => { c with updates := [] }) s
  let s := modJobs (fun j => { State.reset.jobs with baskets := j.baskets, nextJob := j.nextJob }) s
  let s := modArr (fun _ => State.reset.arr) s
  let s := modFw (fun f => { f with staged := [], stagedBytes := 0 }) s
  let s := modBlk (fun b => { b with units := [], merges := [], badLines := [], badStacks := [], victim := none, gcReads := [], gcBuf := [], ckptNew := none, oneCopy := [] }) s
  let s := modNand (fun n => { n with started := false, dieOps := [], reads := [], rebuilds := [], scans := [] }) s
  let s := modInteg (fun i => { i with failedStacks := [], coresOut := [], coreExpiries := [], refLost := false }) s
  restoreSync (loseTiles s)

/-- The management side of the Hoop starts afresh: kept responses, relays, connections, what waits for an answer and its copy of the main-rail values are gone. -/
def clearMgmt (s : State) : State :=
  modMgmt (fun m => { m with kept := [], dups := [], relays := [], conns := [] })
    (modDict (fun d => { d with queue := [], pendingWrite := none, acting := [], held := [], refreshed := [] }) s)

/-- The ring as a start of the Hoop rail loads it: the persistent records, flagged (R202). The counts of the store start again. -/
def reloadLog (s : State) : State :=
  modInteg (fun i => { i with
    log := i.stored.map fun r => { r with flags := r.flags ||| 1 }
    store := { i.store with commits := 0, snapshots := 0, failures := 0 } }) s

/-- A start of the Hoop rail, or what counts as one (R412, R417, Table 17-3 row 1): every value but P, CONST and those restored from
their source returns to its Reset value, and the values of the store are read from its two copies (R85). -/
def coldReset (cause : Nat) (s : State) : State :=
  let s := loadStore (resetGroups (fun g => !(g == .p || g == .fixed || g == .source)) (fun _ => true) s)
  let s := reloadLog (clearMgmt (clearHost (clearFabric (clearVolatile s))))
  let s := modMgmt (fun m => { m with announceSeq := 0 }) s
  let s := modPwr (fun p => { p with ps := 0, lastOp := 0, psBeforeThermal := none, booted := false, railRestart := false, starting := true, hoopTime := 0,
                                     pwrEnLowAt := p.pwrEnLowAt.map fun _ => 0,
                                     pwrLossCause := 0, hint := 0, cachingBarred := false }) s
  setObj 0x1300 1 cause (setObj 0x1300 2 s.time { s with thr := ladderTop })

/-- After a power loss each read counter goes on from its checkpointed value plus a tenth of Patrol.2 (R150). -/
def reloadReads (s : State) : State :=
  let k := obj s 0x2120 2 / 10
  modNand (fun n => { n with readFloor := n.savedFloor + k, readCount := n.savedCount.map fun e => (e.1, e.2 + k) }) s

/-- The main rails go off (R426, R454): nothing on them is in service, and the next start is a main-rail restart. -/
def railsOff (s : State) : State :=
  let s := reloadReads (clearHost (clearFabric (clearVolatile s)))
  let s := setObj 0x1210 1 0 (setObj 0x1210 2 0 s)
  modPwr (fun p => { p with mainRails := false, booted := false, starting := false, railRestart := true, pwrLossCause := 0 }) s

/-- A loss of the main rails with its sequence: the work of every function and a Firmware Commit stop first. -/
def powerDown (journal : Bool) (cause : Nat) (s : State) : State :=
  railsOff (lossSequence journal cause (dropCommit (stopHost s)))

/-! ### Steps 1 and 2 of local start-up (R430, R434 to R436, R439) -/

/-- Fields of an image header (Table 17-8). -/
def imgVersion (b : Bank) : Nat := field b.header 8 16
def imgSecurity (b : Bank) : Nat := field b.header 24 4

/-- Check 3 of R434: magic, header length, image length and hardware revision. -/
def imageHeaderOk (s : State) (h : Bytes) : Bool :=
  field h 0 4 == 0x53584647 && field h 4 4 == 8192 && decide (8192 ≤ field h 32 4) && decide (field h 32 4 ≤ 50266112) &&
  decide (field h 28 2 ≤ obj s 0x1000 6)

/-- The security version counter: the highest value of the records of both banks (R435). -/
def securityCounter (s : State) : Nat := (s.fw.secA ++ s.fw.secB).foldl max 0

/-- Does a bank hold a committed image? One whose security version is below the counter counts as none (R436). -/
def committed (s : State) (b : Nat) : Bool :=
  (bank s b).commit.isSome && decide (securityCounter s ≤ imgSecurity (bank s b))

/-- Does a bank boot: a complete commit record, and an image that verifies (R430, R434)? -/
def bootable (s : State) (b : Nat) : Bool :=
  s.fw.trusted && committed s b && imageHeaderOk s (bank s b).header && (bank s b).sig.isSome

/-- Append a security version record: to the inactive bank first; the other bank takes it at step 1 of the next start (R435). -/
def appendSecurity (v : Nat) (s : State) : State :=
  modFw (fun f => if f.active == 0 then { f with secB := f.secB ++ [v] } else { f with secA := f.secA ++ [v] }) s

/-- Record positions left in the security version area and the key epoch area: the fuller bank counts (R435). -/
def securityFree (s : State) : Nat := 4096 - max s.fw.secA.length s.fw.secB.length
def epochFree (s : State) : Nat := 4096 - max s.fw.epochA.length s.fw.epochB.length

/-- Records of the other bank that a bank lacks (R435). -/
def missing (xs ys : List Nat) : List Nat := ys.drop xs.length

/-- SecurityInfo.4 reports the PUF, and SelfTest a Hoop pair that is held out; a restart that does not power the Hoop rail up reports what
the last power-up found (R199, R439). -/
def reportStart (s : State) : State :=
  let s := setObj 0x1400 4 (if s.pwr.pufOk then 1 else 2) s
  if s.integ.hoopFailed == [] then s else setObj 0x2303 1 16 s

/-- The ROM brings the firmware-flash copies into agreement (R118, R435). -/
def agreeCopies (s : State) : State :=
  let s := modNand (fun n =>
    let sc := n.bbtA.scanned || n.bbtB.scanned
    { n with bbtA := { scanned := sc, marks := bbtUnion n.bbtA.marks n.bbtB.marks }
             bbtB := { scanned := sc, marks := bbtUnion n.bbtB.marks n.bbtA.marks } }) s
  modFw (fun f => { f with secA := f.secA ++ missing f.secA f.secB, secB := f.secB ++ missing f.secB f.secA,
                           epochA := f.epochA ++ missing f.epochA f.epochB, epochB := f.epochB ++ missing f.epochB f.epochA }) s

/-- The ROM selects and verifies a bank, and raises the counter to the lower security version when both banks hold a committed image (R430,
R434, R436). -/
def selectBank (s : State) : State :=
  let want := obj s 0x1001 4 % 2
  let pick := if bootable s want then some want else if bootable s (1 - want) then some (1 - want) else none
  match pick with
  | none =>
    setObj 0x1300 4 1 (logEv { source := 9, cls := 7 } (modPwr (fun p => { p with imageOk := false }) s))
  | some b =>
    let s := modPwr (fun p => { p with imageOk := true }) (modFw (fun f => { f with active := b }) s)
    let s := if b == want then s else logEv { source := 9, cls := 7, action := 4, address := want * 2 ^ 26 } (storeSet 0x1001 4 b s)
    let s := setObj 0x1400 1 ((bank s b).sig.getD 0) s
    let low := min (imgSecurity s.fw.bankA) (imgSecurity s.fw.bankB)
    let s := if committed s 0 && committed s 1 && (bank s (1 - b)).sig.isSome && decide (securityCounter s < low) &&
        decide (0 < securityFree s) then appendSecurity low s else s
    setObj 0x1300 4 2 s

/-- Steps 1 and 2 of local start-up. -/
def hoopRom (s : State) : State := selectBank (agreeCopies (reportStart s))

/-- The start of the main rails, where nothing holds them off; after a power-loss sequence it is a main-rail restart, which is a start of the
Hoop rail but for the seed (R24, R412): the straps are sampled again, and no command says what they are then, so they are free (DESIGN
CHOICE, assumption 57). -/
def startMain (s : State) : State :=
  if s.pwr.inputPresent && s.pwr.pwrEn && s.pwr.hoopRail && !s.pwr.tripped && !s.pwr.mainRails && s.pwr.railRestart then
    let s := coldReset 9 s
    let s := setObj 0x1410 2 (freshNat s % 2 ^ 64) (drew s)
    hoopRom (drew (modMgmt (fun m => { m with straps := freshNat s % 8 }) s))
  else s

/-! ### The rows of the power input -/

/-- An over-voltage disconnect is recorded when the Hoop rail next has power (R25). -/
def recordOverVoltage (s : State) : State :=
  if s.pwr.overVoltageSeen then
    storeSet 0x1330 4 3 (logEv { source := 10, cls := 10, context := 3 } (modPwr (fun p => { p with overVoltageSeen := false }) s))
  else s

/-- INPUT_RISE: the input has stood above the restart threshold for 100 ms: the holdup bank charges, and where the Hoop rail still runs the
main rails start (R24, R454). -/
def inputRiseF (mv : Nat) (s : State) : State :=
  if s.pwr.inputPresent || decide (mv ≤ 40000) then s
  else
    let s := modPwr (fun p => { p with inputPresent := true, charging := true }) s
    let s := if s.pwr.hoopRail then startMain (recordOverVoltage s) else s
    setObj 0x1330 1 mv s

def execInputRise (mv : Nat) (s : State) : Res := finishRestart s (inputRiseF mv s)

/-- Have all service cores stopped? -/
def coresGone (s : State) : Bool := decide (16 ≤ s.integ.coresOut.length)

/-- A loss of the input: the sequence runs from the holdup bank. With every service core out, the drain sequencer takes over (R423); a sequence
that is declared already goes on with its own cause (R26). -/
def lossOfInput (cause : Nat) (s : State) : State :=
  let s := modPwr (fun p => { p with inputPresent := false, charging := false }) s
  if !s.pwr.mainRails || s.pwr.pwrLossCause != 0 then s
  else if coresGone s then modPwr (fun p => { p with pwrLossCause := cause }) s
  else powerDown true cause s

/-- INPUT_LOSS (R23). -/
def inputLossF (s : State) : State := if s.pwr.inputPresent then lossOfInput 1 s else s

def execInputLoss (s : State) : Res := finish s (inputLossF s)

/-- OVER_VOLTAGE_DISCONNECT: a power loss, recorded later (R25). -/
def overVoltageDisconnectF (s : State) : State :=
  if s.pwr.inputPresent then
    let s := lossOfInput 3 (modPwr (fun p => { p with overVoltageSeen := true }) s)
    s
  else s

def execOverVoltageDisconnect (s : State) : Res := finish s (overVoltageDisconnectF s)

/-- DRAIN_SEQUENCER_TAKEOVER: power loss is declared and the service cores do not report; the hardware dumps the Pail (R423). With none
declared before, it is a loss of the input. A PWR_EN that has returned high by then starts the main rails again (R26). -/
def drainSequencerTakeoverF (s : State) : State :=
  if !s.pwr.mainRails then s
  else
    let cause := if s.pwr.pwrLossCause == 0 then 1 else s.pwr.pwrLossCause
    if cause == 2 then startMain (powerDown false 2 s)
    else powerDown false cause (modPwr (fun p => { p with inputPresent := false, charging := false }) s)

def execDrainSequencerTakeover (s : State) : Res := finishRestart s (drainSequencerTakeoverF s)

/-- PWR_EN_LOW: the sequence runs from input power, then the main rails turn off (R26); with every service core out the drain sequencer
takes over (R423). -/
def pwrEnLowF (s : State) : State :=
  if !s.pwr.pwrEn then s
  else
    let s := modPwr (fun p => { p with pwrEn := false, pwrEnLowAt := some p.hoopTime }) s
    if !(s.pwr.mainRails && s.pwr.inputPresent) then s
    else if coresGone s then modPwr (fun p => { p with pwrLossCause := 2 }) s
    else powerDown true 2 s

def execPwrEnLow (s : State) : Res := finish s (pwrEnLowF s)

/-- The end of a thermal trip: PWR_EN has been low for 1 s since it, and no sensor is hot (R29). -/
def releaseTrip (s : State) : State :=
  if s.pwr.tripped && s.pwr.tripCycled && !hot s then
    modPwr (fun p => { p with tripped := false, tripCycled := false, ps := 0 }) s
  else s

/-- PWR_EN_HIGH: a thermal trip may end, and the main rails start (R24, R29). -/
def pwrEnHighF (s : State) : State :=
  if s.pwr.pwrEn then s
  else
    let long := match s.pwr.pwrEnLowAt with | some t => decide (t + 10 ^ 9 ≤ s.pwr.hoopTime) | none => false
    startMain (releaseTrip (modPwr (fun p => { p with
      pwrEn := true
      pwrEnLowAt := none
      tripCycled := p.tripCycled || (p.tripped && long) }) s))

def execPwrEnHigh (s : State) : Res := finishRestart s (pwrEnHighF s)

/-- A record that is being programmed stays without its commit flag, so that the old value holds (R84, R424). -/
def cutRecord (s : State) : State :=
  match s.dict.pendingWrite with
  | some w => storePut w.item false s
  | none => s

/-- HOOP_RAIL_STOP: the holdup bank is down to 28 V with no input; the key RAM and everything the Hoop held is gone (R438, R454). -/
def hoopRailStopF (s : State) : State :=
  if s.pwr.hoopPower && !s.pwr.inputPresent && !s.pwr.mainRails then
    let s := cutRecord s
    let s := modPwr (fun p => { p with hoopPower := false, hoopRail := false, railRestart := false, tripped := false, tripCycled := false,
                                       bankBad := false }) (modInteg (fun i => { i with alert := 0 }) (clearMgmt s))
    modFw (fun f => { f with seedKnown := false }) s
  else s

def execHoopRailStop (s : State) : Res := finish s (hoopRailStopF s)

/-- HOOP_RAIL_START: a cold power-on: the Hoop pairs test themselves (with both failed nothing answers on any path), the seed is derived, a bank is selected and verified, straps are
sampled, a session value is drawn, and the store and the log are loaded (R409, R430, R434, R439, R445). -/
def hoopRailStartF (f : HoopStart) (s : State) : State :=
  if s.pwr.hoopPower || !s.pwr.inputPresent then s
  else
    let s := coldReset 0 (modPwr (fun p => { p with hoopPower := true, hoopRail := true, charging := true }) s)
    let s := recordOverVoltage s
    let s := modInteg (fun i => { i with
      hoopFailed := (if f.pair0Ok then [] else [0]) ++ (if f.pair1Ok then [] else [1])
      hoopActive := if f.pair0Ok then 0 else 1 }) s
    let s := modMgmt (fun m => { m with straps := f.straps % 8, beacon := true }) s
    let s := setObj 0x1410 2 (f.session % 2 ^ 64) s
    if !f.pair0Ok && !f.pair1Ok then modPwr (fun p => { p with hoopRail := false, imageOk := false }) s
    else
      let s := s.integ.hoopFailed.foldl (fun s p => logEv { source := 6, cls := 7, action := 7, unit := p } s) s
      let s := modFw (fun w => { w with trusted := f.configOk && f.identityOk, seedKnown := f.pufOk }) s
      let s := modPwr (fun p => { p with pufOk := f.pufOk }) s
      let s := if f.pufOk then s else logEv { source := 6, cls := 7, context := 0 } s
      hoopRom s

def execHoopRailStart (f : HoopStart) (s : State) : Res := finishRestart s (hoopRailStartF f s)

/-! ### Steps 3 to 8 (R199, R409 to R411) -/

/-- Committed pages in a stripe without parity (R145 step 4). -/
def unprotectedPages (s : State) : List Nat := (s.blk.map.filter fun x => entryValid x.2 && stripeOpenAt s (entryPhys x.2)).map (·.1)

/-- The map after replay, with open superblocks closed, pages in a stripe without parity queued for relocation, the dump set scanned,
everything committed, and the superblocks whose erase is uncertain erased again (R114, R145, R410). -/
def recoverMap (s : State) : State :=
  let s := modBlk (fun b => { b with
    map := replayMap b
    sbs := b.sbs.map fun x => if x.st == 1 then { x with st := 2 } else if x.st == 3 then { x with st := 4 } else x }) s
  let s := modBlk (fun b => { b with urgent := (b.urgent ++ unprotectedPages s).eraseDups, stripes := [] }) s
  let s := joinDump (commitAll (s.blk.dumped.foldl (fun s a => takeDumped a s) s))
  let s := ((s.blk.sbs.filter (·.st == 4)).map (·.id)).foldl (fun s id => beginErase false id s) s
  match s.blk.sanitize with
  | some _ => sanitizeErase none s
  | none => s

/-- The tables that a start reads: those of banks A and B and of the reserved superblock that are readable, as (scanned, marks). -/
def readTables (unreadable : List Nat) (s : State) : List (Bool × KV) :=
  ([(0, s.nand.bbtA.scanned, s.nand.bbtA.marks), (1, s.nand.bbtB.scanned, s.nand.bbtB.marks), (2, s.nand.bbtR.scanned, s.nand.bbtR.marks)].filter
    fun x => !unreadable.contains x.1).map (·.2)

/-- The bad-block table at step 6a: the factory markers are read where no table says that they have been, the union of the readable copies comes into
force, and the copies of the reserved superblock and of the inactive bank are brought up to date (R115, R118). -/
def loadBbt (unreadable factoryBad : List Nat) (s : State) : State :=
  let ts := readTables unreadable s
  let found := if ts.any (·.1) then [] else factoryBad.foldl (fun m e => bbtAdd m e 3) []
  let u := ts.foldl (fun m t => bbtUnion m t.2) found
  let s := appendBad u (modNand (fun n => { n with bbt := u, bbtR := { n.bbtR with scanned := true } }) s)
  modInactive (fun t => { scanned := true, marks := bbtUnion t.marks u }) s

/-- The seed node takes coordinate (0, 0, 0) and its extents when it starts (R387). -/
def startFabric (s : State) : State :=
  if obj s 0x4000 4 == 1 then
    takeCoord (0, 0, 0) (modWyv (fun w => { w with seed := true, extents := (obj s 0x4000 1, obj s 0x4000 2, obj s 0x4000 3) }) s)
  else s

/-- Step 8: compute metadata is restored, epochs whose Ingests had completed commit, and the array test is run (R285, R409). -/
def restoreCompute (s : State) : State :=
  let s := (s.retr.indexes.filter (·.dirty)).foldl (fun s x => closeEpoch x.id s) s
  setObj 0x3020 1 s.time s

/-- A start-up that meets an uncontained fault stays in DeviceStatus 0 (R118, R199, R433). -/
def stuck (source step : Nat) (s : State) : State := setObj 0x1300 4 step (logEv { source := source, cls := 7 } s)

/-- POWER_GOOD: the main rails are on, and fabric time counts from zero (R11); local start-up runs its steps 3 to 8 as far as nothing stops it
(R409 to R411). Step 2 has ended by then, and SecurityInfo.4 reports the PUF. -/
def powerGoodF (f : RailStart) (s : State) : State :=
  if !s.pwr.starting || !s.pwr.inputPresent || !s.pwr.hoopRail || !s.pwr.pwrEn || s.pwr.tripped then s
  else
    let s := modPwr (fun p => { p with mainRails := true, starting := false }) { s with time := if s.pwr.mainRails then s.time else 0 }
    let s := setObj 0x1400 4 (if s.pwr.pufOk then 1 else 2) s
    if !s.pwr.imageOk || !s.pwr.pufOk then s
    else if !f.clocksOk then stuck 7 2 s
    else
      let s := modInteg (fun i => { i with failedStacks := (f.failedStacks.filter fun k => decide (k < 8)).eraseDups }) s
      let s := modPwr (fun p => { p with cachingBarred := s.integ.failedStacks != [] }) s
      let s := setObj 0x2303 1 (obj s 0x2303 1 ||| f.failedCheckers % 256) s
      let s := if f.failedCheckers % 256 == 0 then s else logEv { source := 6, cls := 7, detail := f.failedCheckers % 256 } s
      if bitOf f.failedCheckers 1 || bitOf f.failedCheckers 5 then stuck 3 4 s
      else if (readTables f.unreadableTables s) == [] then stuck 9 5 s
      else
        let s := modNand (fun n => { n with started := true }) (loadBbt f.unreadableTables f.factoryBad s)
        let s := f.failedChannels.foldl (fun s c => if c < 64 then
            (List.range 20).foldl (fun s d => relocateDie c d s)
              (logEv { source := 2, cls := 7, action := 7, unit := c } (setObj 0x2010 (c + 1) 2 s)) else s) s
        let s := modInteg (fun i => { i with
          failedRows := (i.failedRows ++ f.failedRows.filter fun r => decide (r.1 < 272) && decide (r.2 < 65)).eraseDups
          failedCells := (i.failedCells ++ f.failedCells.filter fun c => decide (c < 272)).eraseDups }) s
        let s := applyRepair s
        if !f.mapOk then stuck 3 6 s
        else
          let s := setObj 0x1210 1 1 (recoverMap s)
          let s := modHost (fun h => { h with ctrls := updWhere (·.enabled) (fun c => { c with ready := true }) h.ctrls }) s
          let s := checkFloors (if s.integ.failedStacks == [] then s
            else s.integ.failedStacks.foldl (fun s k => logEv { source := 3, cls := 7, action := 6, unit := k } s) (enterBasic 0 s))
          let s := startFabric (restoreCompute s)
          let s := setObj 0x1300 5 (freshNat s % 2 ^ 32) (setObj 0x1300 4 8 (drew (modPwr (fun p => { p with booted := true }) s)))
          setObj 0x1210 2 (boolNat (!basicMode s)) s

def execPowerGood (f : RailStart) (s : State) : Res := finish s (powerGoodF f s)

/-! ### The holdup bank (R27) -/

/-- Mark the bank; a change of its health is logged, and is an event that SMB_ALERT_N reports. A bank that nothing has marked since the Hoop
started is neither healthy nor unhealthy (assumption 15). -/
def markBank (healthy : Bool) (s : State) : State :=
  if obj s 0x1320 2 == boolNat healthy && s.pwr.bankBad == !healthy then s
  else
    let s := modPwr (fun p => { p with bankBad := !healthy }) (setObj 0x1320 2 (boolNat healthy) s)
    raiseAlert 4 (logEv { source := 10, cls := 9, context := boolNat healthy } s)

/-- Has either holdup sensor reached 75 °C? -/
def bankHot (s : State) : Bool := decide (750 ≤ sensor s 0x71) || decide (750 ≤ sensor s 0x72)

/-- HOLDUP_CHARGED: the bank is full; write caching may resume. -/
def holdupChargedF (s : State) : State := if s.pwr.inputPresent then modPwr (fun p => { p with charging := false }) s else s

def execHoldupCharged (s : State) : Res := finish s (holdupChargedF s)

/-- HOLDUP_MEASUREMENT: the usable energy in millijoules, or a measurement that fails. -/
def holdupMeasurementF (mj : Option Nat) (s : State) : State :=
  match mj with
  | some e => markBank (decide (45000 ≤ e) && !bankHot s) (setObj 0x1320 1 e (setObj 0x1320 3 s.time s))
  | none => markBank false s

def execHoldupMeasurement (mj : Option Nat) (s : State) : Res := finish s (holdupMeasurementF mj s)

/-! ### The evaluation of every millisecond (R29, R449) -/

/-- Power limit of the current power state in milliwatts (Table 3-8). -/
def psLimit (ps : Nat) : Nat := match ps with | 0 => 1500000 | 1 => 800000 | 2 => 250000 | 3 => 60000 | _ => 15000

/-- One step deeper, in the order of R9. -/
def deepen (t : Throttle) : Throttle :=
  if 0 < t.fa then { t with fa := t.fa - 1 }
  else if t.prog < 4 then { t with prog := t.prog + 1 }
  else if t.fab < 4 then { t with fab := t.fab + 1 }
  else t

/-- One step back, in the reverse order. -/
def relax (t : Throttle) : Throttle :=
  if 0 < t.fab then { t with fab := t.fab - 1 }
  else if 0 < t.prog then { t with prog := t.prog - 1 }
  else if t.fa < 16 then { t with fa := t.fa + 1 }
  else t

/-- The deepest stage whose level stands below its first value (InputPower.3). -/
def throttleStage (t : Throttle) : Nat := if t.fab != 0 then 3 else if t.prog != 0 then 2 else if t.fa != 16 then 1 else 0

/-- Must throttling deepen (R449)? -/
def mustDeepen (s : State) (e : Evaluation) : Bool :=
  decide (psLimit s.pwr.ps * 97 < e.power1s * 100) ||
  (s.pwr.ps == 0 && decide (1650000 * 97 < e.power10ms * 100)) || hot s

/-- May throttling relax (R449)? -/
def mayRelax (s : State) (e : Evaluation) : Bool := decide (e.power1s * 100 < psLimit s.pwr.ps * 90) && cool s

/-- The ladder after an evaluation. -/
def nextThrottle (s : State) (e : Evaluation) : Throttle :=
  if mustDeepen s e then deepen s.thr else if mayRelax s e then relax s.thr else s.thr

/-- The work under way while throttling is active carries the flag in its completion (R30). -/
def markThrottled (s : State) : State :=
  if throttling s then
    modJobs (fun r => { r with jobs := updWhere (fun j => decide (1 ≤ j.st)) (fun j => { j with throttled := true }) r.jobs })
      (modRetr (fun r => { r with
        queries := r.queries.map fun q => { q with throttled := true }
        ingests := r.ingests.map fun g => { g with throttled := true } })
        (modChurn (fun c => { c with updates := c.updates.map fun u => { u with throttled := true } }) s))
  else s

/-- The trip of R29: array operations stop, the sequence runs from input power, the device enters PS3 and holds FAULT_N low. -/
def trip (s : State) : State :=
  let s := logEv { source := 10, cls := 10, context := 4 } s
  let s := if s.pwr.mainRails then powerDown (!coresGone s) 4 s else s
  modPwr (fun p => { p with tripped := true, tripCycled := false, ps := 3 }) s

/-- Record the sensors and measured values of an evaluation. -/
def takeSensors (e : Evaluation) (s : State) : State :=
  let s := e.sensors.foldl (fun s x => if decide (1 ≤ x.1) && decide (x.1 ≤ 0x74) then setObj 0x1310 x.1 (wrapInt 32 x.2) s else s) s
  setObj 0x1310 0x75 e.flow (setObj 0x1330 1 e.inputMv (setObj 0x1330 2 e.power1s s))

/-- One millisecond passes: the Hoop counts it, and fabric time counts it while the main rails, which feed CK_TB, are on (R10, R11). -/
def passMs (s : State) : State :=
  modPwr (fun p => { p with hoopTime := p.hoopTime + 1000000 }) { s with time := if s.pwr.mainRails then s.time + 1000000 else s.time }

/-- The state an evaluation judges: 1 ms on, with its sensors and measured values taken; a hot bank is marked unhealthy
(R27), and a sensor that reaches its throttle point is an event (R38). -/
def sensed (e : Evaluation) (s : State) : State :=
  let u := takeSensors e (passMs s)
  let u := onlyIf (hot u && !hot s) (raiseAlert 1) u
  if bankHot u then markBank false u else u

/-- Put a level of the ladder in force, and publish it; messages that the fabric level held back go (R449). -/
def setLadder (t : Throttle) (s : State) : State :=
  releaseInject <| markThrottled (setObj 0x1330 3 (throttleStage t) (setObj 0x1330 5 t.fa { s with thr := t }))

/-- EVALUATION_TICK: 1 ms passes; the sensors are taken, a trip acts at once and ends once its conditions hold, and the ladder moves by at most
one step. Nobody evaluates while the Hoop does not run. -/
def evaluationTickF (e : Evaluation) (s : State) : State :=
  if !s.pwr.hoopRail then passMs s
  else
    let u := sensed e s
    if tripping u && !u.pwr.tripped then keepBoth u (trip u)
    else if u.pwr.tripped && u.pwr.tripCycled && !hot u then keepOrTop u (startMain (releaseTrip u))
    else setLadder (nextThrottle u e) u

def execEvaluationTick (e : Evaluation) (s : State) : Res := .next (keepQueue s (evaluationTickF e s))

/-- LOCATE_N_CHANGE: the level of the pin; the lamp follows it together with Locate.1 (R450). -/
def locateNChangeF (low : Bool) (s : State) : State := modPwr (fun p => { p with locateN := !low }) s

def execLocateNChange (low : Bool) (s : State) : Res := finish s (locateNChangeF low s)

end Sys2Proof.Machine
end

