-- ==== Sys2Proof/Machine/Resets.lean ====
section
/-! DEFINITION. The resets of Table 17-2, the host link and the controllers, shutdown, and the power states of Table 3-8 (R40, R41, R73 to
R76, R411 to R419, R425). -/

namespace Sys2Proof.Machine

open Sys2Proof

/-! ### Module restart (R412 to R414) -/

/-- The sequencer finishes the record it programs before the Hoop is reset, and the record's values are in force after the restart; its requester
gets no answer (R128, R413). -/
def finishStore (s : State) : State :=
  match s.dict.pendingWrite with
  | some w =>
    let s := storePut w.item true (modDict (fun d => { d with pendingWrite := none }) s)
    w.values.zipIdx.foldl (fun s v => match objRow w.index (w.sub + v.2) with
      | some r => if r.grp == .p then setObj w.index (w.sub + v.2) v.1 s else s
      | none => s) s
  | none => s

/-- A module restart: a module in PS4 leaves it, so that K values are lost as on PS4 exit (DEDUCED, assumption 59). The module is announced unavailable, the power-loss sequence runs from input power, the Hoop is reset keeping P, K,
Hoop-lifetime values and the log ring, a new session value is drawn, and local start-up runs from step 1 in PS0. The main rails stay as
they are, and a sector erase of the firmware flash is finished first (R128). -/
def moduleRestart (cause : Nat) (s : State) : State :=
  let s := if s.pwr.ps == 4 then wake s else s
  let s := if s.pwr.mainRails then lossSequence (!coresGone s) 0 (stopHost s) else s
  let s := finishStore (dropCommit (fwFlashSequencerDoneF s))
  let s := modWyv (fun w => { w with late := true }) (clearMgmt (clearHost (clearFabric (clearVolatile s))))
  let s := resetGroups (fun g => g == .hoop || g == .host || g == .storage || g == .compute || g == .fabric) (fun _ => true) s
  let s := modPwr (fun p => { p with ps := 0, lastOp := 0, psBeforeThermal := none, booted := false, starting := true, pwrLossCause := 0,
                                     hint := 0, cachingBarred := false }) s
  let s := setObj 0x1410 2 (freshNat s % 2 ^ 64) (drew s)
  let s := noteReset cause 4 (bump 0x1300 3 { s with thr := ladderTop })
  hoopRom s

/-- NVM_SUBSYSTEM_RESET: NSSR (R412). -/
def nvmSubsystemResetF (s : State) : State := moduleRestart 7 s

def execNvmSubsystemReset (s : State) : Res := finishRestart s (nvmSubsystemResetF s)

/-- MODULE_RESTART_COMMAND: ResetControl.1 = 1; the write completes when the reset begins (R431). -/
def moduleRestartCommandF (s : State) : State := runAction (0, 0) (moduleRestart 8) s

def execModuleRestartCommand (s : State) : Res := finishRestart s (moduleRestartCommandF s)

/-- HOOP_WATCHDOG_EXPIRY: counted, and a module restart follows (R425). -/
def hoopWatchdogExpiryF (s : State) : State :=
  moduleRestart 4 (bump 0x1302 2 (logEv { source := 6, cls := 6 } s))

def execHoopWatchdogExpiry (s : State) : Res := finishRestart s (hoopWatchdogExpiryF s)

/-- FABRIC_NODE_RESET: basket commands end with Compute Not Ready, the fabric side starts afresh, the cabled ports train again, and the node
rejoins late (R416). -/
def fabricNodeResetF (s : State) : State :=
  runAction (0, 0) (fun s =>
    let s := announceNode 1 s
    let s := (s.host.inflight.filter fun x => isCompute s x.fn x.sq).foldl
      (fun s x => endRequest x.fn x.sq x.cid stComputeNotReady 0 s) s
    let ups := (s.wyv.ports.filter fun p => p.cabled).map (·.no)
    let s := modWyv (fun w => { w with rejoining := true, late := true }) (clearFabric s)
    let s := ups.foldl (fun s p => setObj (0x4010 + p) 1 1 (modPort p (fun x => { x with cabled := true }) s)) s
    noteReset 5 5 (startFabric s)) s

def execFabricNodeReset (s : State) : Res := finish s (fabricNodeResetF s)

/-! ### The link and PERST_N (R40, R41, R411, R415) -/

/-- Values of HostLink while the link is down. -/
def linkDown (s : State) : State :=
  let s := modHost (fun h => { h with linkUp := false }) s
  setObj 0x1200 1 0 (setObj 0x1200 2 0 (setObj 0x1200 3 0 (setObj 0x1200 4 0 s)))

/-- What the device declares of its link (R43). -/
structure LinkCaps where
  maxPayload : Nat
  maxReadRequest : Nat
  tagBits : Nat
  aspmL1 : Bool
  ats : Bool
  pri : Bool
  pasid : Bool
  atomicOps : Bool
  tph : Bool
  l1Substates : Bool
  deriving DecidableEq, Repr

/-- The link features of R43. The requests and payloads into which a transfer is cut do not show in `dma`, which holds each transfer whole. -/
def linkCaps : LinkCaps :=
  { maxPayload := 512, maxReadRequest := 4096, tagBits := 14, aspmL1 := true, ats := false, pri := false, pasid := false, atomicOps := false,
    tph := false, l1Substates := false }

/-- CAP as every controller reports it (Table 3-2): MQES 4,095, CQR, AMS with weighted round robin, TO 60, DSTRD 0, NSSRS, the NVM command set,
MPSMIN 4 KiB and MPSMAX 64 KiB, and no memory buffer or persistent memory region. -/
def capRegister : Nat := 4095 + 2 ^ 16 + 1 * 2 ^ 17 + 60 * 2 ^ 24 + 0 * 2 ^ 32 + 2 ^ 36 + 2 ^ 37 + 0 * 2 ^ 48 + 4 * 2 ^ 52

/-- HOST_LINK_UP: the rate and width as they settled, FLIT mode, and the flag of an unsupported operating point. -/
def hostLinkUpF (rate width : Nat) (partnerFlit : Bool) (s : State) : State :=
  if s.host.perst || !s.pwr.mainRails || !([2, 5, 8, 16, 32, 64, 128].contains rate) || !([1, 2, 4, 8].contains width) then s
  else
    let flit := decide (64 ≤ rate) || partnerFlit
    let s := modHost (fun h => { h with linkUp := true }) s
    setObj 0x1200 1 rate (setObj 0x1200 2 width (setObj 0x1200 3 (boolNat flit)
      (setObj 0x1200 4 (boolNat (decide (rate < 32) || decide (width < 4))) s)))

def execHostLinkUp (rate width : Nat) (partnerFlit : Bool) (s : State) : Res := finish s (hostLinkUpF rate width partnerFlit s)

/-- HOST_LINK_DOWN: counted in HostLink.5. -/
def hostLinkDownF (s : State) : State := if s.host.linkUp then bump 0x1200 5 (linkDown s) else s

def execHostLinkDown (s : State) : Res := finish s (hostLinkDownF s)

/-- A function's controller comes out of reset, and the volatile values of its block return to their Reset values, the queues assigned to it among
them (Table 17-3, R77). Its assigned vectors and its audit log stay. A reset of function 0 ends a Firmware Commit under way. -/
def resetController (fn : Nat) (s : State) : State :=
  let s := stopFunction fn s
  let s := if fn == 0 then dropCommit s else s
  let s := modCtrl fn (fun c => { ctrlReset fn with auditLog := c.auditLog, flexVectors := c.flexVectors }) s
  resetGroups (fun g => g == .host) (fun i => decide (fnIdx fn ≤ i) && decide (i < fnIdx fn + 0x40)) s

/-- PERST_N_ASSERT: every function's work stops, queues are deleted, and handles and outputs are dropped (R415). The link that goes down with it
is no link-down event of HostLink.5, nor is one that a restart or the main rails take down (DESIGN CHOICE, assumption 60). -/
def perstNAssertF (s : State) : State :=
  if s.host.perst then s
  else
    let s := (List.range 64).foldl (fun s fn => resetController fn s) s
    noteReset 1 1 (modHost (fun h => { h with perst := true }) (linkDown s))

def execPerstNAssert (s : State) : Res := finish s (perstNAssertF s)

/-- PERST_N_DEASSERT: the link may train again (R411); HOST_LINK_UP follows. -/
def perstNDeassertF (s : State) : State := modHost (fun h => { h with perst := false }) s

def execPerstNDeassert (s : State) : Res := finish s (perstNDeassertF s)

/-! ### Controllers (R73, R411) -/

/-- FUNCTION_LEVEL_RESET: of function 0 every controller (Table 17-2). -/
def functionLevelResetF (fn : Nat) (s : State) : State :=
  if decide (64 ≤ fn) then s
  else noteReset 2 2 ((if fn == 0 then List.range 64 else [fn]).foldl (fun s k => resetController k s) s)

def execFunctionLevelReset (fn : Nat) (s : State) : Res := finish s (functionLevelResetF fn s)

/-- CONTROLLER_RESET: CC.EN 1→0. -/
def controllerResetF (fn : Nat) (s : State) : State :=
  match ctrl s fn with
  | some c => if c.enabled then noteReset 3 3 (resetController fn s) else s
  | none => s

def execControllerReset (fn : Nat) (s : State) : Res := finish s (controllerResetF fn s)

/-- CONTROLLER_ENABLE: CC.EN 0→1 with the admin queue sizes of AQA and the arbitration of CC.AMS, 1 for weighted round robin (R52); CSTS.RDY once
Basic storage is ready (R411). -/
def controllerEnableF (fn asqs acqs ams : Nat) (s : State) : State :=
  match ctrl s fn with
  | some c =>
    if c.enabled || s.host.perst || !s.pwr.mainRails then s
    else
      let s := modCtrl fn (fun c => { c with enabled := true, ready := storageReady s, ams := ams }) s
      modHost (fun h => { h with
        sqs := h.sqs ++ [{ fn := fn, id := 0, cq := 0, size := max 2 (min 4096 asqs), prio := 0, head := 0, tail := 0, waiting := [],
                           frozen := false }]
        cqs := h.cqs ++ [{ fn := fn, id := 0, size := max 2 (min 4096 acqs), vector := 0 }] }) s
  | none => s

def execControllerEnable (fn : Nat) (q : AdminQueues) (ams : Nat) (s : State) : Res := finish s (controllerEnableF fn q.asqs q.acqs ams s)

/-- SHUTDOWN_NOTIFICATION: the whole Pail drains and the journal commits before CSTS.SHST reads 10b (R73). -/
def shutdownNotificationF (fn : Nat) (s : State) : State :=
  match ctrl s fn with
  | some c =>
    if c.enabled && c.shst == 0 then pumpAll (modCtrl fn (fun c => { c with shst := 1 }) s) else s
  | none => s

def execShutdownNotification (fn : Nat) (s : State) : Res := finish s (shutdownNotificationF fn s)

/-! ### Power states (R74 to R76, R419) -/

/-- Is the node, by its power state and mode, unavailable to the others (R186)? -/
def downByPower (s : State) : Bool := decide (3 ≤ s.pwr.ps) || basicMode s

/-- After a return to an operational state: the node is announced available, and after PS4 the seed takes its place again (R186, R390). -/
def rejoin (before : State) (s : State) : State :=
  if decide (3 ≤ before.pwr.ps) && decide (s.pwr.ps < 3) then
    let s := if s.wyv.coord == none then startFabric s else s
    if basicMode s then s else announceNode 2 s
  else s

/-- Entering PS4 (R419 steps 1 to 6): dirty tiles are written back, the Pail is drained and the journal committed, the node is announced
unavailable and its links go down. -/
def enterLinkOff (s : State) : State :=
  let s := joinDump (lossSequence true 0 (writeBackAll (fun _ => true) s))
  let s := (List.range 14).foldl (fun s p => if portUp s p then setObj (0x4010 + p) 1 0 s else s) s
  modWyv (fun w => { State.reset.wyv with tx := w.tx, ctl := w.ctl, late := true }) s

/-- Move to power state `n` (R74 to R76). -/
def setPs (n : Nat) (s : State) : State :=
  let before := s
  if decide (n < 3) then
    let s := wake s
    let s := modPwr (fun p => { p with ps := n, lastOp := n, psBeforeThermal := if n == 2 then p.psBeforeThermal else none }) s
    let s := if n == 2 then enterBasic 4 s else clearBasic 4 s
    rejoin before s
  else if s.pwr.ps == n then s
  else if n == 3 then
    let s := if s.pwr.ps == 4 then wake s else s
    modPwr (fun p => { p with ps := 3 }) (if downByPower before then s else announceNode 1 s)
  else modPwr (fun p => { p with ps := 4 }) (enterLinkOff s)

/-- The gate of Set Features Power Management to state `n` (R74, R76): function 0 only, a hint that NVM Express defines, and for PS3 and PS4
no I/O command outstanding. -/
def enterPs (n : Nat) (e : Sqe) (s : State) : State :=
  adminCmd e 0x09 (fun s =>
    if e.cdw10 % 256 != 2 || e.cdw11 % 32 != n then answer e stInvalidField 0 0 s
    else if e.fn != 0 then answer e stNotChangeable 0 0 s
    else if bitOf e.cdw10 31 then answer e stNotSaveable 0 0 s
    else if decide (2 < e.cdw11 / 32 % 8) then answer e stInvalidField 0 0 s
    else if decide (3 ≤ n) && s.host.inflight.any (·.sq != 0) then answer e stCommandSequenceError 0 0 s
    else answer e stSuccess 0 0 (setPs n (modPwr (fun p => { p with hint := e.cdw11 / 32 % 8 }) s))) s

/-- ENTER_PS0. -/
def enterPs0F (e : Sqe) (s : State) : State := enterPs 0 e s

def execEnterPs0 (e : Sqe) (s : State) : Res := finish s (enterPs0F e s)

/-- ENTER_PS1. -/
def enterPs1F (e : Sqe) (s : State) : State := enterPs 1 e s

def execEnterPs1 (e : Sqe) (s : State) : Res := finish s (enterPs1F e s)

/-- ENTER_PS2: Basic mode (R75). -/
def enterPs2F (e : Sqe) (s : State) : State := enterPs 2 e s

def execEnterPs2 (e : Sqe) (s : State) : Res := finish s (enterPs2F e s)

/-- ENTER_PS3 (R76). -/
def enterPs3F (e : Sqe) (s : State) : State := enterPs 3 e s

def execEnterPs3 (e : Sqe) (s : State) : Res := finish s (enterPs3F e s)

/-- ENTER_PS4 (R419). -/
def enterPs4F (e : Sqe) (s : State) : State := enterPs 4 e s

def execEnterPs4 (e : Sqe) (s : State) : Res := finish s (enterPs4F e s)

end Sys2Proof.Machine
end

