-- ==== Sys2Proof/Machine/Views.lean ====
section
/-! DEFINITION. The values of the object dictionary that the module derives from its state rather than stores, the outputs of its lamps and
signal pins, and the Hoop's copy of what the main rails produce (R28, R90, R97, R450 and the object tables of every chapter). -/

namespace Sys2Proof.Machine

open Sys2Proof

/-! ### Pins and lamps (R22, R204, R450) -/

/-- FAULT_N is held low in Basic mode, after a thermal trip, while the holdup bank is marked unhealthy (Table 2-2, R27), and with both Hoop pairs
failed (Table 17-1); an output without power holds nothing low. -/
def faultN (s : State) : Bool :=
  !(s.pwr.hoopPower && (basicMode s || s.pwr.tripped || s.pwr.bankBad || decide (2 ≤ s.integ.hoopFailed.length)))

/-- The POWER lamp is lit while the main rails are on. -/
def powerLamp (s : State) : Bool := s.pwr.hoopPower && s.pwr.mainRails

/-- The FAULT lamp is lit exactly while FAULT_N is held low. -/
def faultLamp (s : State) : Bool := s.pwr.hoopPower && !faultN s

/-- The LOCATE lamp is lit by LOCATE_N low or Locate.1. -/
def locateLamp (s : State) : Bool := s.pwr.hoopPower && (!s.pwr.locateN || obj s 0x1340 1 == 1)

/-! ### DeviceStatus (Table 4-8) -/

/-- DeviceStatus.1: the highest state that holds. -/
def deviceState (s : State) : Nat :=
  if !s.pwr.mainRails then 7
  else if s.pwr.tripped then 6
  else if s.pwr.ps == 4 then 5
  else if s.pwr.ps == 3 then 4
  else if basicMode s then 3
  else if computeReady s then 2
  else if storageReady s then 1
  else 0

/-- Objects the dictionary holds (DictionaryInfo.2). -/
def objectsPresent : Nat :=
  ((allRows.map fun r => (r.lo, r.hi, r.step)).eraseDups.map fun r => (r.2.1 - r.1) / r.2.2 + 1).foldl (· + ·) 0

/-- Version string of a bank's committed image, all 00h when it holds none. -/
def bankVersion (s : State) (b : Nat) : Nat := if committed s b then imgVersion (bank s b) else 0

/-! ### Flash and translation layer -/

/-- Fewest good blocks in any plane. -/
def fewestGood (s : State) : Nat :=
  2730 - (s.nand.bbt.foldl (fun m e => kvPut 0 m (e.1 / 2730) (kvGet 0 m (e.1 / 2730) + 1)) ([] : KV)).foldl (fun n e => max n e.2) 0

/-- Journal entries since the oldest slice's recorded sequence (MapState.2). -/
def replayLength (s : State) : Nat :=
  total ((s.blk.committed.filter fun g => decide (oldestSeq s.blk ≤ g.seq)).map fun g => g.entries.length)

/-- Average erase count of the module's 13,977,600 blocks, rounded down (Endurance.1; DESIGN CHOICE, assumption 75). -/
def averageErases (s : State) : Nat := total (s.nand.wear.map (·.2)) / 13977600

/-- Available spare: what remains of the over-provisioning, in percent, rounded down (R156; DESIGN CHOICE, assumption 75). -/
def availableSpare (s : State) : Nat := overProvisioning s * 100 / 54337208

/-- Critical warnings: spare below 25%, over-temperature, Basic mode, read-only, holdup bank unhealthy (R156, R29, R204, R27). -/
def criticalWarning (s : State) : Nat :=
  boolNat (decide (availableSpare s < 25)) + 2 * boolNat (hot s) + 4 * boolNat (basicMode s) + 8 * boolNat (readOnly s) +
  16 * boolNat s.pwr.bankBad

/-- Percentage used: the average erase count over 5,000, rounded down (R156; DESIGN CHOICE, assumption 75). -/
def percentageUsed (s : State) : Nat := min 255 (averageErases s * 100 / 5000)

/-- SMB_ALERT_N: low from an event until the host reads it: one raised since the last read, or a warning that differs from what the host then
read (R38). -/
def smbAlertN (s : State) : Bool := !s.pwr.hoopPower || (s.integ.alert == 0 && criticalWarning s == s.mgmt.healthSeen)

/-! ### Tiers -/

/-- Placeable HBM in use, MiB: the frames held in T1 and the scratch in use. -/
def placeableUsed (s : State) : Nat :=
  ceilDiv (total ((s.tier.tiles.filter fun t => t.inT1 && (t.node == ownNode s || t.replicas.contains (ownNode s))).map tileBytes)) (2 ^ 20) +
  scratchMiB s

/-- The entry of a coherent region (R187). -/
def regionWord (s : State) (no : Nat) : Nat :=
  match s.tier.regions.find? (·.no == no) with
  | some r => 2 ^ 63 + boolNat r.homed * 2 ^ 62 + boolNat r.mirrored * 2 ^ 61 + r.len * 2 ^ 32 + r.base
  | none => 0

/-! ### The integrity log (R202) -/

/-- The oldest sequence the ring holds. -/
def oldestRec (s : State) : Nat := match s.integ.log.getLast? with | some r => r.seq | none => 0

/-- The record of a sequence, all 00h where the ring does not hold it. -/
def recordOf (s : State) (seq : Nat) : Nat :=
  match s.integ.log.find? (·.seq == seq) with | some r => leNat (logBytes r) | none => 0

/-! ### Retrieval, tables, synchronisation objects, audit -/

/-- The functions that a mask names. -/
def maskFns (m : Nat) : List Nat := (List.range 64).filter fun n => bitOf m n

/-- Pipeline.18: is a named basket missing for some granted function? -/
def pipelineMissing (s : State) (p : Nat) : Bool :=
  (maskFns (obj s (0x3240 + p) 17)).any fun fn => (pipeBaskets s fn (pipeValues s p)).isNone

/-- Pipeline.19: the worst-case time for the largest input, µs; the pool is that of k = 64 (R272). -/
def pipelineTime (s : State) (p : Nat) : Nat :=
  let m := pipeValues s p
  match findIndex s (pv m 1) with
  | some x =>
    let fn := (maskFns (pv m 17)).head?.getD 0
    queryTime s fn x m (pv m 2 != 2 ^ 64 - 1) false (pv m 6) (poolOf m 64) / 1000
  | none => 0

/-- IndexRecord. -/
def indexRecord (s : State) (id sub : Nat) : Nat :=
  match findIndex s id with
  | none => 0
  | some x =>
    match sub with
    | 1 => x.st
    | 2 => x.layout
    | 3 => x.columns
    | 4 => x.centroids
    | 5 => x.codebook
    | 6 => x.grants
    | 7 => x.encoder
    | 8 => x.committed
    | 9 => x.opened
    | 10 => (x.items.filter (visible x.committed)).length
    | 11 => (x.items.filter fun it => match it.tomb with | some t => decide (t ≤ x.committed) | none => false).length
    | 12 => ownNode s
    | _ => 2 ^ 32 - x.nextOrdinal.foldl (fun n e => max n e.2) 0

/-- TableRecord. -/
def tableRecord (s : State) (id sub : Nat) : Nat :=
  match findTable s id with
  | none => 0
  | some t =>
    match sub with
    | 1 => if (match findObj s (tableObj id) with | some o => o.degraded | none => false) then 3 else t.st
    | 2 => t.layout
    | 3 => t.rows
    | 4 => t.grants
    | 5 => t.groups.length
    | _ => ownNode s

/-- SyncState.2 to .6 of the object that SyncState.1 selects. -/
def syncState (s : State) (sub : Nat) : Nat :=
  match findSync s (obj s 0x3602 1) with
  | none => if sub == 2 then 255 else 0
  | some o =>
    match sub with
    | 2 => o.kind
    | 3 => boolNat o.express
    | 4 => o.value
    | 5 => o.gen
    | _ => o.waiters.length

/-- AuditObject.4 to .7 of the object that .1 to .3 select; the commits of an index are its epochs. -/
def auditObject (s : State) (sub : Nat) : Nat :=
  let kind := obj s 0x4202 1
  let id := obj s 0x4202 2
  if kind == 3 then
    match findIndex s id with
    | none => 0
    | some x =>
      match sub with
      | 4 => leNat ((indexDigest s id (obj s 0x4202 3)).getD [])
      | 5 => x.committed
      | 6 => x.commitTime
      | _ => boolNat x.dirty
  else
    match auditRec s kind id with
    | none => 0
    | some o =>
      match sub with
      | 4 => leNat o.digest
      | 5 => o.commits
      | 6 => o.commitTime
      | _ => boolNat o.written

/-- Pools in use: a channel engine's Skimmer holds one for each query whose lists it scans and one for each its threads fill. -/
def poolsInUse (s : State) : Nat :=
  ((List.range 64).map fun c => poolsOn (poolsHeld s) c + (s.retr.pools.filter fun p => p.2.1 == c).length).foldl max 0

/-! ### One value -/

/-- The value of a subindex below 2000h as the module would report it now. -/
def liveLow (s : State) (idx sub : Nat) : Nat :=
  match idx, sub with
  | 0x1000, 9 => leNat (sha256 Config.deviceCert)
  | 0x1001, 1 => s.fw.active
  | 0x1001, 2 => imgVersion (bank s s.fw.active)
  | 0x1001, 3 => bankVersion s (1 - s.fw.active)
  | 0x1001, 5 => imgSecurity (bank s s.fw.active)
  | 0x1002, 2 => objectsPresent
  | 0x1010, 1 => deviceState s
  | 0x1010, 3 => s.pwr.hoopTime / 1000000000
  | 0x1020, 1 => s.integ.store.commits
  | 0x1020, 2 => (storeCopy s).free
  | 0x1020, 3 => s.integ.store.snapshots
  | 0x1020, 4 => s.integ.store.failures
  | 0x1110, 1 => s.mgmt.straps % 8 + 1
  | 0x1110, 4 => boolNat (!s.mgmt.beacon)
  | 0x1210, 3 => s.pwr.ps
  | 0x1320, 4 => boolNat s.pwr.charging
  | 0x1360, 1 => match s.fw.job with | some j => j.phase | none => 0
  | 0x1360, 2 => s.fw.stagedBytes
  | 0x1400, 2 => leNat (sha256 (Config.romKey 0 ++ Config.romKey 1 ++ Config.romKey 2))
  | 0x1400, 3 => if obj s 0x1400 4 == 1 then leNat (slice (Config.deviceKey 4) 0 32) else 0
  | 0x1401, 1 => securityCounter s
  | 0x1401, 2 => securityFree s
  | 0x1402, 2 => keyEpoch s
  | 0x1402, 3 => epochFree s
  | 0x1402, 4 => (s.fw.keys.filter fun k => k.owner != 0).length
  | _, _ => obj s idx sub

/-- The value of a subindex of 2000h to 2FFFh as its block would report it now. FirmwareFlash.2 and .3 read the counts of the sector headers, so an
image sector, which has none, does not count in them (DEDUCED, assumption 61). -/
def liveFlash (s : State) (idx sub : Nat) : Nat :=
  match idx, sub with
  | 0x2010, c => if obj s 0x2010 c == 2 then 2 else if s.nand.started then 0 else 1
  | 0x2020, 1 => (s.nand.bbt.filter fun e => e.2 == 3).length
  | 0x2020, 2 => (s.nand.bbt.filter fun e => e.2 == 1).length
  | 0x2020, 3 => fewestGood s
  | 0x2030, 1 => (s.blk.sbs.filter fun b => b.stream == 6 && (b.st == 1 || b.st == 2)).length
  | 0x2050, 2 => s.integ.store.a.erases.foldl (fun n e => max n e.2) 0
  | 0x2050, 3 => s.integ.store.b.erases.foldl (fun n e => max n e.2) 0
  | 0x2050, 4 => boolNat (sequencerBusy s)
  | 0x2100, 1 => (s.blk.map.filter fun e => entryValid e.2).length
  | 0x2100, 2 => replayLength s
  | 0x2103, k => (s.blk.sbs.filter fun b => b.stream + 1 == k && b.st == 1).length
  | 0x2104, 3 => freeCount s
  | 0x2110, 1 => s.blk.pail.length / 64
  | 0x2110, 2 => boolNat (s.blk.dumpSet.length == 4)
  | 0x2110, 3 => s.blk.merges.length
  | 0x2110, 4 => boolNat (cachingAllowed s)
  | 0x2130, 1 => averageErases s
  | 0x2130, 2 => (s.nand.wear.map (·.2)).foldl max 0
  | 0x2130, 4 => s.blk.hostQuarters / 4
  | 0x2130, 5 => s.blk.programmed * 4000 / max 1 s.blk.hostQuarters
  | 0x2140, 2 => boolNat (readOnly s)
  | 0x2200, 1 => placeableUsed s
  | 0x2200, 2 => reservedMiB s
  | 0x2200, 3 => hotMiB s
  | 0x2200, 4 => cacheMiB s
  | 0x2200, 5 => shortfallMiB s
  | 0x2200, 6 => (s.tier.tiles.filter (·.dirty)).length
  | 0x2202, 3 => (s.tier.tiles.filter fun t => t.replicas.contains (ownNode s)).length
  | 0x2240, k => regionWord s (k - 1)
  | 0x2241, k => regionWord s (128 + k - 1)
  | 0x2302, 6 => workingChannels s
  | _, _ =>
    if decide (0x2210 ≤ idx) && decide (idx < 0x2220) && sub == 9 then
      (s.tier.objects.filter fun o => o.group == idx - 0x2210).length
    else obj s idx sub

/-- The value of a subindex of 3000h to 3FFFh as its block would report it now. -/
def liveCompute (s : State) (idx sub : Nat) : Nat :=
  match idx, sub with
  | 0x3301, 7 => poolsInUse s
  | 0x3500, 5 => s.jobs.stdQ.length
  | 0x3500, 6 => s.jobs.expQ.length
  | 0x3500, 7 => (budgetNs s - usedBudget s (s.time / windowNs s)) / 1000
  | 0x3500, 8 => s.jobs.owner.getD 0
  | 0x3600, 2 => s.sync.objs.length
  | _, _ =>
    if idx == 0x3602 && decide (2 ≤ sub) then syncState s sub
    else if decide (0x3240 ≤ idx) && decide (idx < 0x3280) && sub == 18 then boolNat (pipelineMissing s (idx - 0x3240))
    else if decide (0x3240 ≤ idx) && decide (idx < 0x3280) && sub == 19 then pipelineTime s (idx - 0x3240)
    else if decide (0x3280 ≤ idx) && decide (idx < 0x32C0) then indexRecord s (idx - 0x3280) sub
    else if decide (0x3440 ≤ idx) && decide (idx < 0x3480) then tableRecord s (idx - 0x3440) sub
    else obj s idx sub

/-- The value of a subindex from 4000h on as the module would report it now. The fraction of fabric time below a nanosecond is a free value
(DESIGN CHOICE, assumption 3). -/
def liveHigh (s : State) (idx sub : Nat) : Nat :=
  let peer := fun (f : Identity → Nat) =>
    match s.wyv.ports.find? fun p => p.no == idx - 0x4010 with
    | some p => (match p.peer with | some i => f i | none => obj s idx sub)
    | none => obj s idx sub
  match idx, sub with
  | 0x4100, 1 => s.time
  | 0x4100, 2 => freshNat s % 65536
  | 0x4200, 4 => modeWord s
  | 0x6000, 1 => s.integ.nextSeq - 1
  | 0x6000, 2 => oldestRec s
  | 0x6001, k => recordOf s (obj s 0x6000 3 + k - 1)
  | _, _ =>
    if decide (0x4010 ≤ idx) && decide (idx ≤ 0x401D) && sub == 2 then peer fun i => i.nodeId.getD 0xFFFF
    else if decide (0x4010 ≤ idx) && decide (idx ≤ 0x401D) && sub == 3 then peer fun i => i.port
    else if decide (0x4010 ≤ idx) && decide (idx ≤ 0x401D) && sub == 4 then peer fun i => i.serial
    else if idx == 0x4202 && decide (4 ≤ sub) then auditObject s sub
    else if decide (0x4220 ≤ idx) && decide (idx < 0x4260) && sub == 2 then
      (match findIndex s (idx - 0x4220) with
       | some x => (x.digests.map (·.1)).foldl min x.committed
       | none => 0)
    else if decide (0x5000 ≤ idx) && decide (idx < 0x6000) && idx % 0x40 == 0 then
      let fn := (idx - 0x5000) / 0x40
      match sub with
      | 1 => match ctrl s fn with | some c => c.flexQueues | none => 0
      | 5 => (s.retr.handles.filter fun h => h.fn == fn).length
      | 6 => (s.host.sqs.filter fun q => q.fn == fn && q.frozen).length
      | _ => obj s idx sub
    else obj s idx sub

/-- The value of a subindex as the block that produces it reports it now; subindex 0 is the count (R78). -/
def live (s : State) (idx sub : Nat) : Nat :=
  let v := if sub == 0 then objCount idx
    else if decide (idx < 0x2000) then liveLow s idx sub
    else if decide (idx < 0x3000) then liveFlash s idx sub
    else if decide (idx < 0x4000) then liveCompute s idx sub
    else liveHigh s idx sub
  v % 2 ^ (8 * objSize idx sub)

/-! ### The Hoop's copy (R90) -/

/-- Is a subindex produced on the main rails, so that the Hoop reads it from its copy? -/
def copied (idx sub : Nat) : Bool :=
  mainRailIdx idx &&
  (match objRow idx sub with | some r => r.acc == .ro | none => false)

/-- Is the Hoop's copy of a block's values older than 100 ms, or are the main rails off? `refreshed` holds the Hoop's time of a
block's last refresh and one. -/
def blockStale (s : State) (block : Nat) : Bool :=
  !s.pwr.mainRails || kvGet 0 s.dict.refreshed block == 0 || decide (kvGet 0 s.dict.refreshed block + 100000000 ≤ s.pwr.hoopTime)

/-- The value a read returns, and whether it is stale (R90). Fabric time is read as it stands while the main rails are on. -/
def readValue (s : State) (idx sub : Nat) : Nat × Bool :=
  if copied idx sub && !(idx == 0x4100 && s.pwr.mainRails) then (kvGet (resetVal idx sub) s.dict.held (objKey idx sub), blockStale s (idx / 256))
  else (live s idx sub, false)

/-- The RO subindices of a block. -/
def blockValues (block : Nat) : List (Nat × Nat) :=
  ((objRows (block * 256)).filter fun r => r.acc == .ro).flatMap fun r =>
    (List.range ((r.hi - r.lo) / r.step + 1)).flatMap fun k =>
      (List.range (r.shi + 1 - r.slo)).filterMap fun j =>
        if copied (r.lo + k * r.step) (r.slo + j) then some (r.lo + k * r.step, r.slo + j) else none

/-- VALUE_REFRESH: a running block copies its RO values into the Hoop's copy (R90). `block` is an index divided by 256. -/
def valueRefreshF (block : Nat) (s : State) : State :=
  if s.pwr.mainRails then
    modDict (fun d => { d with
      held := (blockValues block).foldl (fun m e => kvPut (resetVal e.1 e.2) m (objKey e.1 e.2) (live s e.1 e.2)) d.held
      refreshed := kvPut 0 d.refreshed block (s.pwr.hoopTime + 1) }) s
  else s

def execValueRefresh (block : Nat) (s : State) : Res := finish s (valueRefreshF block s)

/-! ### Announces (R97) -/

/-- DeviceStatus.1 to .5 as an Announce carries them. -/
def statusBytes (s : State) : Bytes := (List.range 5).flatMap fun k => natLE (objSize 0x1010 (k + 1)) (live s 0x1010 (k + 1))

/-- ANNOUNCE: broadcast on the management segment with the device's own sequence number. -/
def announceF (s : State) : State :=
  if s.pwr.hoopRail then
    modMgmt (fun m => { m with
      tx := m.tx ++ [{ path := .bus 0xFFFFFFFFFFFF, op := 0x20, seq := m.announceSeq, index := 0x1010, sub := 1, count := 5,
                       status := 0, node := ownNode s, stale := false, replayed := false, value := statusBytes s, trailer := none }]
      announceSeq := (m.announceSeq + 1) % 65536 }) s
  else s

def execAnnounce (s : State) : Res := finish s (announceF s)

end Sys2Proof.Machine
end

