-- ==== Sys2Proof/Machine/Protocol.lean ====
section
/-! DEFINITION. How the Hoop serves object requests (chapter 4): reach and authority, the whole check of a write, the persistent store,
action subindices, the object protocol with replay, authentication and relay, and the rows of the object dictionary. -/

namespace Sys2Proof.Machine

open Sys2Proof

/-! ### Statuses (Table 4-7) -/

def osNoObject : Nat := 0x20
def osNoSub : Nat := 0x21
def osReadOnly : Nat := 0x22
def osWriteOnly : Nat := 0x23
def osAuthority : Nat := 0x24
def osLength : Nat := 0x25
def osInvalid : Nat := 0x26
def osConflict : Nat := 0x27
def osStoreFailure : Nat := 0x28
def osTooLong : Nat := 0x29
def osUnavailable : Nat := 0x2A
def osBusy : Nat := 0x2B
def osVersion : Nat := 0x2C
def osOperation : Nat := 0x2D
def osUnreachable : Nat := 0x2E

/-! ### Reach and authority (R81, R82, R446) -/

/-- The function whose admin queue a request came by; none for a path with the whole dictionary. -/
def pathFn (r : HoopReq) : Option Nat :=
  match r.origin with
  | .nvme fn _ _ => some fn
  | .pdu _ => none
  | .none => if r.fn < 64 then some r.fn else none

/-- Did a request come by the management bus? -/
def viaBus (r : HoopReq) : Bool :=
  match r.origin with
  | .pdu p => (match p.path with | .bus _ => true | .wyvas _ => false)
  | _ => false

/-- What a path reaches of an index: 0 nothing, 1 for reading, 2 for writing (Table 4-2). -/
def reach (fn : Option Nat) (idx : Nat) : Nat :=
  if !objExists idx then 0
  else match fn with
    | none => 2
    | some 0 => 2
    | some n =>
      if decide (fnIdx n ≤ idx) && decide (idx < fnIdx (n + 1)) then 2
      else if idx / 256 == 0x10 || idx / 256 == 0x12 || (decide (0x3000 ≤ idx) && decide (idx < 0x3700)) then 1
      else 0

/-- Does a path hold supervisor authority? -/
def supervisor (fn : Option Nat) : Bool := match fn with | none => true | some n => n == 0

/-! ### Action subindices (R92) -/

/-- Is a subindex one whose write starts an operation? BasicModeControl.1 is one, and its 0 has an effect of its own. -/
def isAction (idx sub : Nat) : Bool :=
  [(0x1301, 1), (0x1401, 3), (0x2230, 3), (0x2310, 2), (0x2320, 1), (0x3020, 3), (0x3210, 8), (0x3402, 5), (0x3601, 6),
   (0x4003, 1), (0x4201, 3)].contains (idx, sub) ||
  (decide (0x4010 ≤ idx) && decide (idx ≤ 0x401D) && sub == 9) ||
  (decide (0x5000 ≤ idx) && decide (idx < 0x6000) && idx % 0x40 == 0 && sub == 7)

/-- The state a result holds. -/
def stateOf (s : State) (r : Res) : State := match r with | .next t => t | _ => s

/-- SECURITY_VERSION_RAISE: the counter rises to the active image's security version where it is below it (R436). -/
def raiseSecurity (s : State) : State :=
  let v := imgSecurity (bank s s.fw.active)
  runAction (if decide (securityCounter s < v) && securityFree s == 0 then (osConflict, 3) else (0, 0))
    (fun s => if securityCounter s < v then appendSecurity v s else s) s

/-- Start the operation of an action subindex with a value; its outcome stands in `dict.lastStatus` and `dict.lastSub`. -/
def runAct (idx sub v : Nat) (s : State) : State :=
  match idx, v with
  | 0x2320, 0 => basicModeClearF s
  | 0x2320, _ => basicModeCommandF s
  | _, 0 => setLast 0 0 s
  | 0x1301, 1 => moduleRestartCommandF s
  | 0x1301, _ => fabricNodeResetF s
  | 0x1401, _ => raiseSecurity s
  | 0x2230, 1 => stateOf s (execCoherentCreate s)
  | 0x2230, 2 => stateOf s (execCoherentDelete s)
  | 0x2230, _ => stateOf s (execCoherentTakeHome s)
  | 0x2310, 1 => hbmRetirePageF s
  | 0x2310, _ => hbmRetireBankF s
  | 0x3020, _ => arrayTestRequestF s
  | 0x3210, 1 => stateOf s (execIndexCreate s)
  | 0x3210, 2 => stateOf s (execIndexDelete s)
  | 0x3210, _ => stateOf s (execIndexCommit s)
  | 0x3402, 1 => stateOf s (execTableCreate s)
  | 0x3402, _ => stateOf s (execTableDelete s)
  | 0x3601, 1 => stateOf s (execSyncCreate s)
  | 0x3601, 2 => stateOf s (execSyncDelete s)
  | 0x3601, _ => stateOf s (execSyncSignal s)
  | 0x4003, 1 => nodeDrainF s
  | 0x4003, _ => nodeEndDrainF s
  | 0x4201, _ => stateOf s (execAuditCommit s)
  | _, _ =>
    if sub == 9 then (if v == 1 then portIsolateF (idx - 0x4010) s else portReleaseF (idx - 0x4010) s)
    else functionQueuesAbortF ((idx - 0x5000) / 0x40) s

/-! ### The check of a write (R80, R91 to R93) -/

/-- Ranges that an object's meaning states beside the limits of its row. -/
def rangeOk (idx sub v : Nat) : Bool :=
  match idx, sub with
  | 0x2230, 2 => v != 0 && decide (v ≤ coherentUnits)
  | 0x3210, 1 => decide (v < 64)
  | 0x3210, 2 => bitsOf v 63 60 == 0 && bitsOf v 55 52 == 0 && !bitOf v 23 && bitsOf v 15 13 == 0 && decide (idxFamily v ≤ 3) && decide (idxFv v ≤ 3)
  | 0x3210, 3 => (List.range 16).all fun c => decide (colType v c ≤ 5)
  | 0x3402, 1 => decide (v < 64)
  | 0x3402, 2 => bitsOf v 63 60 == 0 && bitsOf v 55 49 == 0 && bitsOf v 31 18 == 0 && bitsOf v 15 12 == 0 &&
      [0, 1, 5].contains (bitsOf v 47 40) && [0, 5].contains (bitsOf v 39 32)
  | 0x3601, 2 => decide (v < 4)
  | 0x3601, 3 => decide (v < 2)
  | 0x4201, 1 => decide (v < 4)
  | 0x4202, 1 => decide (v < 4)
  | _, _ =>
    if decide (0x3240 ≤ idx) && decide (idx < 0x3280) then
      match sub with
      | 1 => decide (v < 64) || v == 255
      | 8 => decide (v ≤ 0x3F000000) || v == 0x80000000
      | 10 => bitsOf v 6 2 == 0
      | 14 => decide (v < 4) || v == 255
      | _ => true
    else if decide (0x3410 ≤ idx) && decide (idx < 0x3430) then (List.range 8).all fun k => f32Finite (v / 2 ^ (32 * k))
    else if decide (0x4260 ≤ idx) && decide (idx < 0x42A0) && sub == 1 then decide (v < 64) || v == 255
    else true

/-- The largest reservation of the policy groups on any node of the system, GiB: the extents that hold a node all hold the corner their
lower limits meet in. -/
def maxReserved (t : State) : Nat :=
  let g := fun (i k : Nat) => obj t (0x2210 + i) k
  let gs := (List.range 16).filter fun i => g i 8 != 0
  let corners := gs.flatMap fun i => gs.flatMap fun j => gs.map fun k => (g i 1, g j 3, g k 5)
  let e := t.wyv.extents
  ((corners.filter fun c => decide (c.1 < e.1) && decide (c.2.1 < e.2.1) && decide (c.2.2 < e.2.2)).map fun c =>
    total ((gs.filter fun i =>
      decide (g i 1 ≤ c.1) && decide (c.1 ≤ g i 2) && decide (g i 3 ≤ c.2.1) && decide (c.2.1 ≤ g i 4) &&
      decide (g i 5 ≤ c.2.2) && decide (c.2.2 ≤ g i 6)).map fun i => g i 8)).foldl max 0

/-- Does every region of a loaded basket lie in its class's area? -/
def basketFits (t : State) (b : Basket) : Bool :=
  let c : LoadCtx := { slots := b.slots, ds := b.churnDs, h := obj t 0x3000 2, hp := 4 }
  (walkOps (b.rennet.foldl (fun w e => w.entry t e) Walk.start) b.ops).all fun x =>
    (opRegions c x.1.shape x.2).all fun r => r.2 == 0 || inArea t b.cls r.1 r.2

/-- The status of the conditions that name a subindex, on the values `t` that the whole write would leave; `s` is the state before it.
A broken range that names another subindex is Invalid Value, a broken condition State Conflict. -/
def condition (s t : State) (idx sub : Nat) : Nat :=
  let inv := fun (ok : Bool) => if ok then 0 else osInvalid
  let con := fun (ok : Bool) => if ok then 0 else osConflict
  let v := fun (k : Nat) => obj t idx k
  match idx, sub with
  | 0x1001, 4 => con (committed s (v 4))
  | 0x1410, 1 => con (v 1 == 0 || v 3 != 0 || v 4 != 0)
  | 0x1410, 3 => inv (v 1 == 0 || v 3 != 0 || v 4 != 0)
  | 0x1410, 4 => inv (v 1 == 0 || v 3 != 0 || v 4 != 0)
  | 0x2003, 1 => inv (decide (v 1 < obj t 0x2120 3))
  | 0x2102, 1 => inv (decide (v 1 < v 2))
  | 0x2102, 2 => inv (decide (v 1 < v 2) && decide (v 2 < v 3))
  | 0x2102, 3 => inv (decide (v 2 < v 3))
  | 0x2104, 1 => inv (decide (v 2 < v 1))
  | 0x2104, 2 => inv (decide (v 2 < v 1))
  | 0x2120, 3 => inv (decide (obj t 0x2003 1 < v 3))
  | 0x3501, 1 => inv (decide (2 * v 2 ≤ v 1))
  | 0x3501, 2 => inv (decide (2 * v 2 ≤ v 1))
  | 0x3501, 3 => con (s.jobs.owner == none && s.jobs.baskets.all (basketFits t))
  | 0x4200, 2 => con (decide (obj s 0x2300 3 ≤ 16 * min (v 2) (repairedRows s).length))
  | _, _ =>
    if idx == 0x4001 && decide (sub ≤ 8) then con (total ((List.range 8).map fun k => v (k + 1)) == 8192)
    else if decide (0x2210 ≤ idx) && decide (idx < 0x2220) then
      if sub == 1 || sub == 2 then (if v 1 ≤ v 2 then con (decide (maxReserved t ≤ 207)) else osInvalid)
      else if sub == 3 || sub == 4 then (if v 3 ≤ v 4 then con (decide (maxReserved t ≤ 207)) else osInvalid)
      else if sub == 5 || sub == 6 then (if v 5 ≤ v 6 then con (decide (maxReserved t ≤ 207)) else osInvalid)
      else if sub == 8 then con (decide (maxReserved t ≤ 207))
      else 0
    else if decide (0x3240 ≤ idx) && decide (idx < 0x3280) then
      let kernelOk := v 9 == 4 || v 1 == 255 ||
        (match findIndex t (v 1) with | some x => idxFamily x.layout == v 9 | none => true)
      if sub == 5 || sub == 6 then inv (decide (v 5 ≤ v 6))
      else if sub == 1 then inv kernelOk
      else if sub == 9 then inv (kernelOk && (v 9 == 4 || !bitOf (v 10) 7))
      else if sub == 10 then inv (v 9 == 4 || !bitOf (v 10) 7)
      else 0
    else if decide (0x4220 ≤ idx) && decide (idx < 0x4260) then
      (match findIndex s (idx - 0x4220) with
       | some x => con (v 1 == 2 ^ 64 - 1 || (decide (v 1 ≤ x.committed) && decide (live s idx 2 ≤ v 1)))
       | none => osConflict)
    else if decide (0x5000 ≤ idx) && idx % 0x40 == 0 && sub == 2 then
      con (!s.host.sqs.any fun q => q.fn == (idx - 0x5000) / 0x40 && q.id != 0)
    else 0

/-- The subindices a request names. -/
def subsOf (r : HoopReq) : List Nat := (List.range r.count).map (r.sub + ·)

/-- The first check that fails, with its subindex. -/
def firstFailure (f : Nat → Nat) (subs : List Nat) : Option (Nat × Nat) :=
  subs.findSome? fun k => if f k == 0 then none else some (f k, k)

/-- Set the values of a write; an action subindex reads 0 afterwards. -/
def setValues (idx : Nat) (vs : List (Nat × Nat)) (s : State) : State :=
  vs.foldl (fun s v => if isAction idx v.1 then s else setObj idx v.1 v.2 s) s

/-- The value a write gives the action subindex it names. -/
def actionOf (idx : Nat) (vs : List (Nat × Nat)) : Option (Nat × Nat) := vs.find? fun v => isAction idx v.1

/-- Access, type and range of one subindex of a write. -/
def checkOne (r : HoopReq) (vs : List (Nat × Nat)) (k : Nat) : Nat :=
  match objRow r.index k with
  | none => osReadOnly
  | some w =>
    let v := match vs.find? (·.1 == k) with | some x => x.2 | none => 0
    if w.acc == .ro || w.acc == .const then osReadOnly
    else if w.acc == .rws && !supervisor (pathFn r) then osAuthority
    else if r.index == 0x1410 && (k == 3 || k == 4) && viaBus r then osAuthority
    else if !typeOk w v || !rangeOk r.index k v then osInvalid
    else 0

/-- The whole check of a Set: its status, 0 where it passes, and the subindex that failed (R91). Where several refusals apply the manual does not say
which one wins: the order of the tests is the model's (DESIGN CHOICE, assumption 62). -/
def checkSet (r : HoopReq) (s : State) : Nat × Nat :=
  let fn := pathFn r
  let subs := subsOf r
  let vs := cutValues r.index subs r.value
  if reach fn r.index == 0 then (osNoObject, r.sub)
  else if r.count == 0 || decide (objCount r.index < r.sub + r.count - 1) then (osNoSub, r.sub)
  else if reach fn r.index == 1 then (osAuthority, r.sub)
  else if r.value.length != total (subs.map (objSize r.index)) then (osLength, r.sub)
  else match firstFailure (checkOne r vs) subs with
    | some f => f
    | none =>
      if mainRailIdx r.index && !s.pwr.mainRails then (osUnavailable, r.sub)
      else
        let t := setValues r.index vs s
        match firstFailure (condition s t r.index) subs with
        | some f => f
        | none =>
          match actionOf r.index vs with
          | some a => let u := runAct r.index a.1 a.2 t; (u.dict.lastStatus, u.dict.lastSub)
          | none => (0, 0)

/-! ### Executing a request -/

/-- What follows a write: capacity is held against changed floors, a changed CellRowLimit is applied when no job owns the array, and a policy group goes
to the rim region (R172, R206, R395). -/
def afterWrite (idx : Nat) (vs : List (Nat × Nat)) (s : State) : State :=
  if idx == 0x2300 && (vs.any fun v => v.1 == 3 || v.1 == 4) then checkFloors s
  else if idx == 0x4200 && vs.any (fun v => v.1 == 2) then applyPending (modArr (fun a => { a with limitPending := true }) s)
  else if decide (0x2210 ≤ idx) && decide (idx < 0x2220) then putPolicy (idx - 0x2210) s
  else s

/-- Steps 1 and 2 of R397: the value goes to the rim region, and newly fetched basket commands are held from now on; the Set completes with
DETERMINISTIC_MODE_APPLY. -/
def holdForMode (r : HoopReq) (on : Bool) (s : State) : State :=
  putRim 12288 [boolNat on] (modJobs (fun j => { j with detNew := some on, detOrigin := r.origin }) s)

/-- Does the operation of an action that has started go on, so that its response waits for the end (R92)? By what its end will be known: a commit of
an index until its epoch is committed, an array test until it has run, a drain until it ends. -/
def goesOn (idx v : Nat) (s : State) : Option (Nat × Nat) :=
  match idx, v with
  | 0x3210, 3 =>
    (match findIndex s (obj s 0x3210 1) with | some x => if x.closing.isSome then some (0, x.id) else none | none => none)
  | 0x3020, 1 => if s.arr.testAsked then some (1, 0) else none
  | 0x4003, 1 => if obj s 0x4003 2 == 1 then some (2, 0) else none
  | _, _ => none

/-- Set the values of a checked write and start its operation, then answer it, once an operation that goes on has ended. A module restart answers as
it begins (R431). -/
def applySet (r : HoopReq) (s : State) : State :=
  let vs := cutValues r.index (subsOf r) r.value
  let s := afterWrite r.index vs (setValues r.index vs s)
  match actionOf r.index vs with
  | some a =>
    if r.index == 0x1301 && a.2 == 1 then runAct r.index a.1 a.2 (respondReq r 0 0 [] false s)
    else
      let s := runAct r.index a.1 a.2 s
      match (if s.dict.lastStatus == 0 then goesOn r.index a.2 s else none) with
      | some x => modDict (fun d => { d with acting := d.acting ++ [{ req := r, kind := x.1, no := x.2 }] }) s
      | none => respondReq r s.dict.lastStatus s.dict.lastSub [] false s
  | none =>
    match vs.find? fun v => r.index == 0x4200 && v.1 == 1 with
    | some v => holdForMode r (v.2 == 1) s
    | none => respondReq r 0 0 [] false s

/-- Does a write change a P value (R87)? -/
def changesP (r : HoopReq) (s : State) : Bool :=
  (cutValues r.index (subsOf r) r.value).any fun v =>
    !isAction r.index v.1 && obj s r.index v.1 != v.2 && (match objRow r.index v.1 with | some w => w.grp == .p | none => false)

/-- The Hoop begins to program the record of a write (R84). -/
def startStore (r : HoopReq) (s : State) : State :=
  modDict (fun d => { d with
    pendingWrite := some { origin := r.origin, fn := r.fn, index := r.index, sub := r.sub,
                           values := (cutValues r.index (subsOf r) r.value).map (·.2), tries := 0 } }) s

/-- A Set: checked whole, then its P record, then its values (R91). -/
def doSet (r : HoopReq) (s : State) : State :=
  let c := checkSet r s
  if c.1 != 0 then respondReq r c.1 c.2 [] false s
  else if changesP r s then startStore r s
  else applySet r s

/-- Bytes a response may carry: 1,484 in a PDU, 1,436 where it bears a trailer, the buffer's length over NVMe. -/
def replyLimit (r : HoopReq) (s : State) : Nat :=
  match r.origin with
  | .nvme fn sq cid =>
    (match inflight? s fn sq cid with
     | some x => (match x.entry with | some e => e.cdw11 % 65536 | none => 0)
     | none => 0)
  | .pdu _ => if viaBus r && obj s 0x1410 1 == 1 then 1436 else 1484
  | .none => 1484

/-- A Get (R90, R91, R95): the values of one instant, and the stale flag if any of them is stale. -/
def doGet (r : HoopReq) (s : State) : State :=
  let subs := subsOf r
  if reach (pathFn r) r.index == 0 then respondReq r osNoObject r.sub [] false s
  else if r.count == 0 || decide (objCount r.index < r.sub + r.count - 1) then respondReq r osNoSub r.sub [] false s
  else
    match firstFailure (fun k => match objRow r.index k with | some w => if w.acc == .wo then osWriteOnly else 0 | none => 0) subs with
    | some f => respondReq r f.1 f.2 [] false s
    | none =>
      let vs := subs.map fun k => (readValue s r.index k, objSize r.index k)
      let value := vs.flatMap fun v => natLE v.2 v.1.1
      if replyLimit r s < value.length then respondReq r osTooLong r.sub [] false s
      else respondReq r 0 0 value (vs.any fun v => v.1.2) (drew s)

/-- Codes of Describe (Table 4-5). -/
def accCode (a : Acc) : Nat := match a with | .ro => 0 | .rw => 1 | .wo => 2 | .rws => 3 | .const => 4
def clsCode (g : Grp) : Nat := match g with | .p => 0 | .k => 1 | .fixed => 255 | _ => 2

/-- A Describe (R95). An object is reported as an array where its table gives it as one, or gives one row for several subindices of one type; else as a
record (DESIGN CHOICE, assumption 63). -/
def doDescribe (r : HoopReq) (s : State) : State :=
  let isArr := (objRows r.index).any fun w => w.hasIdx r.index && w.arr
  if reach (pathFn r) r.index == 0 then respondReq r osNoObject r.sub [] false s
  else if r.count != 1 || decide (objCount r.index < r.sub) then respondReq r osNoSub r.sub [] false s
  else
    let (code, acc, cls) := match objRow r.index r.sub with
      | some w => (w.code, accCode w.acc, clsCode w.grp)
      | none => (0, 4, 255)
    let value := natLE 1 code ++ natLE 1 acc ++ natLE 1 cls ++ natLE 1 (boolNat isArr) ++ natLE 2 (objSize r.index r.sub) ++ natLE 2 0
    if replyLimit r s < value.length then respondReq r osTooLong r.sub [] false s else respondReq r 0 0 value false s

/-- Every index of the dictionary, with repeats. -/
def allIndices : List Nat := allRows.flatMap fun w => (List.range ((w.hi - w.lo) / w.step + 1)).map fun k => w.lo + k * w.step

/-- The next existing index above an index that a path reaches; 0 when there is none. -/
def nextIndex (fn : Option Nat) (idx : Nat) : Nat :=
  (allIndices.filter fun i => decide (idx < i) && reach fn i != 0).foldl (fun best i => if best == 0 then i else min best i) 0

/-- An Enumerate (R95). -/
def doEnumerate (r : HoopReq) (s : State) : State :=
  if r.sub != 0 || r.count != 1 then respondReq r osNoSub r.sub [] false s
  else if replyLimit r s < 2 then respondReq r osTooLong r.sub [] false s
  else respondReq r 0 0 (natLE 2 (nextIndex (pathFn r) r.index)) false s

/-- Execute a request (R91); those of the object protocol are counted. -/
def runReq (r : HoopReq) (s : State) : State :=
  let s := match r.origin with | .pdu _ => bump 0x1100 1 s | _ => s
  match r.op with
  | 1 => doGet r s
  | 2 => doSet r s
  | 3 => doDescribe r s
  | _ => doEnumerate r s

/-- Must a request wait for an earlier one: a store program runs, or a change of deterministic mode is under way? -/
def mustWait (r : HoopReq) (s : State) : Bool :=
  s.dict.pendingWrite.isSome || (r.op == 2 && r.index == 0x4200 && r.sub == 1 && s.jobs.detNew.isSome)

/-- Object-protocol requests that wait for the Hoop. -/
def waitingPdus (s : State) : Nat := (s.dict.queue.filter fun q => match q.origin with | .pdu _ => true | _ => false).length

/-- Take a request: executed at once, or queued behind earlier ones; a 17th object-protocol request is answered with Busy and not kept
(R91, R96). -/
def takeReq (r : HoopReq) (s : State) : State :=
  if mustWait r s || s.dict.queue != [] then
    match r.origin with
    | .pdu p =>
      if decide (16 ≤ waitingPdus s) then
        bump 0x1100 3 (modMgmt (fun m => { m with tx := m.tx ++ [mkOut s p r.op osBusy (ownNode s) [] false false true] }) s)
      else modDict (fun d => { d with queue := d.queue ++ [r] }) s
    | _ => modDict (fun d => { d with queue := d.queue ++ [r] }) s
  else runReq r s

/-- Execute queued requests in order until one must wait. -/
def drainReqs : Nat → State → State
  | 0, s => s
  | n + 1, s =>
    match s.dict.queue with
    | [] => s
    | r :: rest => if mustWait r s then s else drainReqs n (runReq r (modDict (fun d => { d with queue := rest }) s))

/-! ### The persistent store (R84 to R88) -/

/-- The request whose record is being programmed. -/
def StoreWrite.req (w : StoreWrite) : HoopReq :=
  { origin := w.origin, op := 2, fn := w.fn, index := w.index, sub := w.sub, count := w.values.length, value := w.item.data }

/-- STORE_RECORD_COMMIT: the program of a record ends: with its commit flag the write takes effect; a failed program has used its record position
and is retried at the next one up to three times, and then the write completes with Store Failure and nothing changes (R88). -/
def storeRecordCommitF (ok : Bool) (s : State) : State :=
  match s.dict.pendingWrite with
  | none => s
  | some w =>
    let r := w.req
    if ok then
      let s := storePut w.item true (modDict (fun d => { d with pendingWrite := none }) s)
      drainReqs s.dict.queue.length (applySet r s)
    else
      let place := storeAddress r.value.length s
      let s := storePut w.item false s
      if w.tries < 3 then modDict (fun d => { d with pendingWrite := some { w with tries := w.tries + 1 } }) s
      else
        let s := modInteg (fun i => { i with store := { i.store with failures := i.store.failures + 1 } })
          (modDict (fun d => { d with pendingWrite := none }) s)
        let s := logEv { source := 9, cls := 2, address := place } s
        drainReqs s.dict.queue.length (respondReq r osStoreFailure w.sub [] false s)

def execStoreRecordCommit (ok : Bool) (s : State) : Res := finishRestart s (storeRecordCommitF ok s)

/-! ### Writes with rows of their own -/

/-- A write that nobody outside waits for: its outcome stands in `dict.lastStatus`. `fn` below 64 is the path of that function's admin queue,
any other a management path. -/
def objectWriteF (fn idx sub count : Nat) (value : Bytes) (s : State) : State :=
  if s.pwr.hoopRail then
    takeReq { origin := .none, op := 2, fn := fn, index := idx, sub := sub, count := count, value := value } s
  else s

/-- OBJECT_WRITE (R91). -/
def execObjectWrite (fn index sub count : Nat) (value : Bytes) (s : State) : Res := finishRestart s (objectWriteF fn index sub count value s)

/-- BOOT_BANK_SELECT: FirmwareState.4 (R430). -/
def bootBankSelectF (b : Nat) (s : State) : State := objectWriteF 0 0x1001 4 1 (natLE 1 b) s

def execBootBankSelect (b : Nat) (s : State) : Res := finishRestart s (bootBankSelectF b s)

/-- POLICY_GROUP_SET: subindices 1 on of PolicyGroup `g` (R172). -/
def policyGroupSetF (g : Nat) (values : List Nat) (s : State) : State :=
  objectWriteF 0 (0x2210 + g) 1 values.length (values.zipIdx.flatMap fun x => natLE (objSize (0x2210 + g) (x.2 + 1)) x.1) s

def execPolicyGroupSet (g : Nat) (values : List Nat) (s : State) : Res := finishRestart s (policyGroupSetF g values s)

/-- CELL_ROW_LIMIT_SET: DeterministicMode.2 (R395). -/
def cellRowLimitSetF (rows : Nat) (s : State) : State := objectWriteF 0 0x4200 2 1 (natLE 1 rows) s

def execCellRowLimitSet (rows : Nat) (s : State) : Res := finishRestart s (cellRowLimitSetF rows s)

/-- SECURITY_VERSION_RAISE: SecurityVersion.3 = 1 (R436). -/
def securityVersionRaiseF (s : State) : State := objectWriteF 0 0x1401 3 1 [1] s

def execSecurityVersionRaise (s : State) : Res := finishRestart s (securityVersionRaiseF s)

/-- DETERMINISTIC_MODE_SET: DeterministicMode.1 (R397). -/
def deterministicModeSetF (on : Bool) (s : State) : State := objectWriteF 0 0x4200 1 1 (natLE 1 (boolNat on)) s

def execDeterministicModeSet (on : Bool) (s : State) : Res := finishRestart s (deterministicModeSetF on s)

/-- Is a basket command admitted under the old mode still in flight? -/
def admittedInFlight (s : State) : Bool := s.host.inflight.any fun x => x.started && isCompute s x.fn x.sq

/-- DETERMINISTIC_MODE_APPLY: once no command admitted under the old value is in flight, the new value is applied, admission resumes, and the
Set completes (R397). -/
def deterministicModeApplyF (s : State) : State :=
  match s.jobs.detNew with
  | none => s
  | some on =>
    if admittedInFlight s then s
    else
      let o := s.jobs.detOrigin
      let s := modJobs (fun j => { j with detNew := none, detOrigin := .none }) (setObj 0x4200 3 (boolNat on) s)
      let s := respondReq { origin := o, op := 2, fn := 0, index := 0x4200, sub := 1, count := 1, value := [] } 0 0 [] false s
      drainReqs s.dict.queue.length s

def execDeterministicModeApply (s : State) : Res := finishRestart s (deterministicModeApplyF s)

/-! ### The object protocol (R94 to R98, R444 to R446) -/

/-- Is a request of a source and sequence still under way? -/
def underWay (s : State) (p : Pdu) : Bool :=
  let same := fun (o : Origin) => match o with | .pdu q => q.path == p.path && q.seq == p.seq | _ => false
  (match s.dict.pendingWrite with | some w => same w.origin | none => false) || (s.dict.queue.any fun q => same q.origin) ||
  same s.jobs.detOrigin || (s.dict.acting.any fun a => same a.req.origin) || s.mgmt.relays.any fun x => x.pdu.path == p.path && x.pdu.seq == p.seq

/-- Does a request on the bus pass the checks of R444? -/
def trailerOk (op : Nat) (p : Pdu) (s : State) : Bool :=
  match p.trailer with
  | none => false
  | some t =>
    let h := pduHeader op p.seq p.index p.sub p.count 0 p.vlen p.target 0
    decide (t.slot ≤ 1) && mgmtKey s t.slot != 0 && decide (obj s 0x1410 (5 + t.slot) < t.counter) &&
    t.hmac == mgmtHmac s h (p.value.take p.vlen) t.counter t.slot

/-- Is a path the management bus? -/
def onBus (p : Pdu) : Bool := match p.path with | .bus _ => true | .wyvas _ => false

/-- Refuse a PDU before it reaches the dictionary. -/
def refusePdu (op status : Nat) (signed : Bool) (p : Pdu) (s : State) : State :=
  sendOut (mkOut s p op status (ownNode s) [] false false signed) s

/-- Relay a request to its target over the Wyvas management virtual channel (R98). -/
def relayPdu (op : Nat) (p : Pdu) (s : State) : State :=
  if obj s 0x4000 7 != 7 || !nodeNamed s p.target then refusePdu op osUnreachable true p s
  else
    let tag := s.mgmt.nextRelay
    let m : Msg := { vc := vcOf msgManagement false false, mtype := msgManagement, dst := p.target, src := ownNode s, tag := tag,
                     data := pduHeader op p.seq p.index p.sub p.count 0 p.vlen p.target 0 ++ p.value.take p.vlen }
    sendMsg { m with dataLength := m.data.length }
      (modMgmt (fun g => { g with relays := g.relays ++ [{ tag := tag, op := op, pdu := p }], nextRelay := (tag + 1) % 65536 }) s)

/-- A PDU whose header is well formed and whose sender is authenticated: executed here, or relayed. -/
def servePdu (op : Nat) (p : Pdu) (s : State) : State :=
  if onBus p && p.target != 0xFFFF && p.target != ownNode s then relayPdu op p s
  else takeReq { origin := .pdu p, op := op, fn := 64, index := p.index, sub := p.sub, count := p.count,
                 value := if op == 2 then p.value.take p.vlen else [] } s

/-- Authentication of a request on the bus (R444): a refusal carries no trailer. -/
def authPdu (op : Nat) (p : Pdu) (s : State) : State :=
  if !onBus p || obj s 0x1410 1 == 0 || needsNoTrailer op p then servePdu op p s
  else if trailerOk op p s then
    let t := p.trailer.getD { counter := 0, slot := 0, hmac := [] }
    servePdu op p (setObj 0x1410 (5 + t.slot) t.counter s)
  else refusePdu op osAuthority false p (bump 0x1410 7 s)

/-- A kept response goes again with the replayed flag. -/
def replayOut (o : PduOut) (s : State) : State :=
  bump 0x1100 2 (modMgmt (fun m => { m with tx := m.tx ++ [{ o with replayed := true }] }) s)

/-- A request PDU arrives (R94, R96). Which refusal a header gets that breaks several rules the manual does not say: the order of the tests is the
model's (DESIGN CHOICE, assumption 62). -/
def pduF (op : Nat) (p : Pdu) (s : State) : State :=
  if !s.pwr.hoopRail || (onBus p && p.dst != obj s 0x1000 7) then s
  else
    match s.mgmt.kept.find? fun k => k.path == p.path && k.seq == p.seq with
    | some o => replayOut o s
    | none =>
      if underWay s p then modMgmt (fun m => { m with dups := m.dups ++ [p] }) s
      else if p.version != 1 then refusePdu op osVersion true p s
      else if !([1, 2, 3, 4].contains op) then refusePdu op osOperation true p s
      else if p.count == 0 then refusePdu op osNoSub true p s
      else if decide (1484 < p.vlen) || decide (p.value.length < p.vlen) then refusePdu op osLength true p s
      else if p.rsvd || (decide (0x8000 ≤ p.target) && p.target != 0xFFFF) then refusePdu op osInvalid true p s
      else if onBus p && obj s 0x1410 1 == 1 && decide (1436 < p.vlen) then refusePdu op osLength true p s
      else authPdu op p s

/-- PDU_GET. -/
def execPduGet (p : Pdu) (s : State) : Res := finish s (pduF 1 p s)

/-- PDU_SET. -/
def execPduSet (p : Pdu) (s : State) : Res := finishRestart s (pduF 2 p s)

/-- PDU_DESCRIBE. -/
def execPduDescribe (p : Pdu) (s : State) : Res := finish s (pduF 3 p s)

/-- PDU_ENUMERATE. -/
def execPduEnumerate (p : Pdu) (s : State) : Res := finish s (pduF 4 p s)

/-- PDU_INVALID_OPERATION: an operation that is not one of the four requests, a received Announce or response among them (R101). -/
def execPduInvalidOperation (p : Pdu) (op : Nat) (s : State) : Res :=
  finish s (if [1, 2, 3, 4].contains (op % 256) then s else pduF (op % 256) p s)

/-- RELAY_RESPONSE: passed to the requester with the target's flags and the trailer of the bus (R98, R445). -/
def relayResponseF (tag status : Nat) (value : Bytes) (stale replayed : Bool) (s : State) : State :=
  match s.mgmt.relays.find? (·.tag == tag) with
  | none => s
  | some x =>
    sendOut (mkOut s x.pdu x.op status x.pdu.target value stale replayed true)
      (modMgmt (fun m => { m with relays := m.relays.filter (·.tag != tag) }) s)

def execRelayResponse (tag status : Nat) (value : Bytes) (f : RelayFlags) (s : State) : Res :=
  finish s (relayResponseF tag status value f.stale f.replayed s)

/-- RELAY_TIMEOUT: the requester receives Node Unreachable, and so do the repeats that were held for it (R96). It is not kept, so a resend reaches the target, which answers from its own kept
response (R98). -/
def relayTimeoutF (tag : Nat) (s : State) : State :=
  match s.mgmt.relays.find? (·.tag == tag) with
  | none => s
  | some x =>
    let o := mkOut s x.pdu x.op osUnreachable (ownNode s) [] false false true
    let dups := s.mgmt.dups.filter fun d => d.path == o.path && d.seq == o.seq
    let s := bumpBy 0x1100 2 dups.length s
    modMgmt (fun m => { m with
      tx := m.tx ++ [o] ++ dups.map fun _ => { o with replayed := true }
      relays := m.relays.filter (·.tag != tag)
      dups := m.dups.filter fun d => !(d.path == o.path && d.seq == o.seq) }) s

def execRelayTimeout (tag : Nat) (s : State) : Res := finish s (relayTimeoutF tag s)

/-- REPLAY_WINDOW_EXPIRY (R96). -/
def replayWindowExpiryF (path : PduPath) (seq : Nat) (s : State) : State :=
  modMgmt (fun m => { m with kept := m.kept.filter fun k => !(k.path == path && k.seq == seq) }) s

def execReplayWindowExpiry (path : PduPath) (seq : Nat) (s : State) : Res := finish s (replayWindowExpiryF path seq s)

/-! ### Get Object and Set Object (R99, R100) -/

/-- The fields of Table 4-6 that are not as reserved or required. -/
def objectEntryOk (e : Sqe) : Bool := decide (e.psdt < 2) && e.nsid == 0 && decide (e.cdw11 < 65536) && decide (e.cdw12 < 4)

/-- A Get Object or Set Object: `op` is the operation of the dictionary. -/
def objectCmd (e : Sqe) (opc op : Nat) (value : Bytes) (s : State) : State :=
  let idx := e.cdw10 % 65536
  let sub := e.cdw10 / 65536 % 256
  let count := e.cdw10 / 2 ^ 24 % 256
  let len := e.cdw11 % 65536
  adminCmd e opc (fun s =>
    if !objectEntryOk e then answer e stInvalidField sub 0 s
    else if count == 0 then answer e (7, osNoSub) sub 0 s
    else if len == 0 || decide (1484 < len) then answer e (7, osLength) sub 0 s
    else takeReq { origin := .nvme e.fn e.sq e.cid, op := op, fn := e.fn, index := idx, sub := sub, count := count, value := value } s) s

/-- SET_OBJECT: mode 00b only. -/
def setObjectF (e : Sqe) (buf : Bytes) (s : State) : State :=
  if e.cdw12 % 4 == 0 then objectCmd e 0xC1 2 (slice buf 0 (e.cdw11 % 65536)) s
  else adminCmd e 0xC1 (answer e stInvalidField (e.cdw10 / 65536 % 256) 0) s

def execSetObject (e : Sqe) (buf : Bytes) (s : State) : Res := finishRestart s (setObjectF e buf s)

/-- GET_OBJECT: mode 00b; 11b is reserved. -/
def getObjectF (e : Sqe) (s : State) : State :=
  match e.cdw12 % 4 with
  | 0 => objectCmd e 0xC2 1 [] s
  | 3 => adminCmd e 0xC2 (answer e stInvalidField (e.cdw10 / 65536 % 256) 0) s
  | _ => s

def execGetObject (e : Sqe) (s : State) : Res := finish s (getObjectF e s)

/-- GET_OBJECT_DESCRIBE: mode 01b. -/
def getObjectDescribeF (e : Sqe) (s : State) : State := if e.cdw12 % 4 == 1 then objectCmd e 0xC2 3 [] s else s

def execGetObjectDescribe (e : Sqe) (s : State) : Res := finish s (getObjectDescribeF e s)

/-- GET_OBJECT_ENUMERATE: mode 10b. -/
def getObjectEnumerateF (e : Sqe) (s : State) : State := if e.cdw12 % 4 == 2 then objectCmd e 0xC2 4 [] s else s

def execGetObjectEnumerate (e : Sqe) (s : State) : Res := finish s (getObjectEnumerateF e s)

end Sys2Proof.Machine
end

