-- ==== Sys2Proof/Machine/Admin.lean ====
section
/-! DEFINITION. Submission queues and the admin commands of NVMe (chapter 3, R68, R69, R158, R202, R404, R427 to R429, R443), within the
limits of Table 3-2. Fields of the published standards that the manual does not give are free values (DESIGN CHOICE, assumption 5). -/

namespace Sys2Proof.Machine

open Sys2Proof

/-! ### Doorbells and queues (R44, R48, R50, R51, R69) -/

/-- SQ_TAIL_DOORBELL: `entries` are the command identifiers and opcodes of the entries the write makes visible; they are fetched in the order of
arbitration (R52). An I/O command brings the
device back from PS3 or PS4 as it is fetched (R76). -/
def sqTailDoorbellF (fn sq tail : Nat) (entries : List (Nat × Nat)) (s : State) : State :=
  match findSq s fn sq, ctrl s fn with
  | some q, some c =>
    if !c.ready || decide (q.size ≤ tail) || entries.length != (tail + q.size - q.tail) % q.size then s
    else
      let before := s
      let s := modSq fn sq (fun q => { q with waiting := q.waiting ++ entries, tail := tail }) s
      rejoin before (arbitrate (total ((s.host.sqs.filter (·.fn == fn)).map fun q => q.waiting.length)) fn s)
  | _, _ => s

def execSqTailDoorbell (fn sq tail : Nat) (entries : List (Nat × Nat)) (s : State) : Res :=
  finish s (sqTailDoorbellF fn sq tail entries s)

/-- I/O queues and interrupt vectors of a function: 2,048 are private to function 0, the others are assigned (R44). -/
def queuesOf (s : State) (fn : Nat) : Nat :=
  if fn == 0 then 2048 else match ctrl s fn with | some c => c.flexQueues | none => 0
def vectorsOf (s : State) (fn : Nat) : Nat :=
  if fn == 0 then 2048 else match ctrl s fn with | some c => c.flexVectors | none => 0

/-- Queue identifier and size of a Create command. -/
def newQid (e : Sqe) : Nat := e.cdw10 % 65536
def newSize (e : Sqe) : Nat := e.cdw10 / 65536 % 65536 + 1

/-- Is a queue size accepted: 2 to 4,096 entries (Table 3-2)? -/
def sizeOk (n : Nat) : Bool := decide (2 ≤ n) && decide (n ≤ 4096)

/-- A completion queue of a function. -/
def findCq (s : State) (fn id : Nat) : Option Cq := s.host.cqs.find? fun q => q.fn == fn && q.id == id

/-- CREATE_IO_COMPLETION_QUEUE. -/
def createIoCompletionQueueF (e : Sqe) (s : State) : State :=
  adminCmd e 0x05 (fun s =>
    let id := newQid e
    if id == 0 || decide (queuesOf s e.fn < id) || (findCq s e.fn id).isSome then answer e stQueueIdInvalid 0 0 s
    else if !sizeOk (newSize e) then answer e stQueueSizeInvalid 0 0 s
    else if !bitOf e.cdw11 0 || bitsOf e.cdw11 15 2 != 0 then answer e stInvalidField 0 0 s
    else if decide (vectorsOf s e.fn ≤ e.cdw11 / 65536) then answer e stInvalidVector 0 0 s
    else answer e stSuccess 0 0
      (modHost (fun h => { h with cqs := h.cqs ++ [{ fn := e.fn, id := id, size := newSize e, vector := e.cdw11 / 65536 % 65536 }] }) s)) s

def execCreateIoCompletionQueue (e : Sqe) (s : State) : Res := finish s (createIoCompletionQueueF e s)

/-- CREATE_IO_SUBMISSION_QUEUE: a compute queue when its identifier is at least ComputeQueueBase (R50). -/
def createIoSubmissionQueueF (e : Sqe) (s : State) : State :=
  adminCmd e 0x01 (fun s =>
    let id := newQid e
    let cq := e.cdw11 / 65536 % 65536
    if id == 0 || decide (queuesOf s e.fn < id) || (findSq s e.fn id).isSome || cq == 0 then answer e stQueueIdInvalid 0 0 s
    else if (findCq s e.fn cq).isNone then answer e stCqInvalid 0 0 s
    else if !sizeOk (newSize e) then answer e stQueueSizeInvalid 0 0 s
    else if !bitOf e.cdw11 0 || bitsOf e.cdw11 15 3 != 0 then answer e stInvalidField 0 0 s
    else answer e stSuccess 0 0 (modHost (fun h => { h with
      sqs := h.sqs ++ [{ fn := e.fn, id := id, cq := cq, size := newSize e, prio := bitsOf e.cdw11 2 1, head := 0, tail := 0, waiting := [],
                         frozen := false }] }) s)) s

def execCreateIoSubmissionQueue (e : Sqe) (s : State) : Res := finish s (createIoSubmissionQueueF e s)

/-- DELETE_IO_SUBMISSION_QUEUE: what the queue has in flight ends as under Abort, then the deletion completes (R69). -/
def deleteIoSubmissionQueueF (e : Sqe) (s : State) : State :=
  adminCmd e 0x00 (fun s =>
    let id := newQid e
    if id == 0 || (findSq s e.fn id).isNone then answer e stQueueIdInvalid 0 0 s
    else
      let s := modSq e.fn id (fun q => { q with waiting := [], frozen := true }) s
      let xs := s.host.inflight.filter fun x => x.fn == e.fn && x.sq == id
      let s := xs.foldl (fun s x => endRequest x.fn x.sq x.cid stAbortRequested 0 s) s
      answer e stSuccess 0 0 (modHost (fun h => { h with sqs := h.sqs.filter fun q => !(q.fn == e.fn && q.id == id) }) s)) s

def execDeleteIoSubmissionQueue (e : Sqe) (s : State) : Res := finish s (deleteIoSubmissionQueueF e s)

/-- DELETE_IO_COMPLETION_QUEUE: refused while a submission queue uses it. -/
def deleteIoCompletionQueueF (e : Sqe) (s : State) : State :=
  adminCmd e 0x04 (fun s =>
    let id := newQid e
    if id == 0 || (findCq s e.fn id).isNone then answer e stQueueIdInvalid 0 0 s
    else if s.host.sqs.any fun q => q.fn == e.fn && q.id != 0 && q.cq == id then answer e stQueueDeletion 0 0 s
    else answer e stSuccess 0 0 (modHost (fun h => { h with cqs := h.cqs.filter fun q => !(q.fn == e.fn && q.id == id) }) s)) s

def execDeleteIoCompletionQueue (e : Sqe) (s : State) : Res := finish s (deleteIoCompletionQueueF e s)

/-- THAW_QUEUE (R69). -/
def thawQueueF (e : Sqe) (s : State) : State :=
  adminCmd e 0xC4 (fun s =>
    let id := e.cdw10 % 65536
    match findSq s e.fn id with
    | none => answer e stInvalidField 0 0 s
    | some q =>
      if !isCompute s e.fn id then answer e stInvalidField 0 0 s
      else if !q.frozen then answer e stSuccess 0 0 s
      else if basicMode s then answer e stBasicMode 0 0 s
      else if tagsUsed s e.fn id != 0 then answer e stCommandSequenceError 0 0 s
      else
        let before := s
        let s := modSq e.fn id (fun q => { q with frozen := false }) s
        answer e stSuccess 0 0 (rejoin before (fetchQ e.fn id s))) s

def execThawQueue (e : Sqe) (s : State) : Res := finish s (thawQueueF e s)

/-- Admin opcodes of R48. -/
def adminOpcodes : List Nat :=
  [0x00, 0x01, 0x02, 0x04, 0x05, 0x06, 0x08, 0x09, 0x0A, 0x0C, 0x0D, 0x10, 0x11, 0x15, 0x1C, 0x80, 0x81, 0x82, 0x84, 0xC1, 0xC2, 0xC4, 0xC8]

/-- ADMIN_INVALID_OPCODE. -/
def adminInvalidOpcodeF (e : Sqe) (opc : Nat) (s : State) : State :=
  if adminOpcodes.contains opc then s else adminCmd e opc (answer e stInvalidOpcode 0 0) s

def execAdminInvalidOpcode (e : Sqe) (opc : Nat) (s : State) : Res := finish s (adminInvalidOpcodeF e opc s)

/-! ### Identify and log pages (R47, R68, R156, R202, R404) -/

/-- `n` bytes of a string from `a`, padded with 00h. -/
def window (bs : Bytes) (a n : Nat) : Bytes :=
  let w := (bs.drop a).take n
  w ++ List.replicate (n - w.length) 0

/-- `n` bytes of a published layout with the given fields: the other fields of the standard, at `ranges` (start, length), are free, and its reserved
bytes are 00h (R3; PRESUMED, assumption 45). -/
def withFields (n : Nat) (ranges : List (Nat × Nat)) (fields : List (Nat × Bytes)) (s : State) : Bytes :=
  fields.foldl (fun bs f => bs.take f.1 ++ f.2 ++ bs.drop (f.1 + f.2.length))
    ((List.range n).map fun i =>
      if ranges.any fun r => decide (r.1 ≤ i) && decide (i < r.1 + r.2) then Config.freeByte s.free i else 0)

/-- Byte `i` of the free bytes, with only the bits of a mask. -/
def freeBits (i : Nat) (mask : Byte) (s : State) : Bytes := [Config.freeByte s.free i &&& mask]

/-- The power states of Table 3-8: maximum power in hundredths of a watt where 16 bits hold it, non-operational, entry and exit latency in
microseconds. -/
def powerStates : List (Option Nat × Bool × Nat × Nat) :=
  [(none, false, 0, 0), (none, false, 1000, 1000), (some 25000, false, 100000, 100000), (some 6000, true, 100000, 50000),
   (some 1500, true, 2000000, 10000000)]

/-- Power state descriptor `k`: what Table 3-8 gives, and the standard's other fields free. -/
def powerDescriptor (k : Nat) (d : Option Nat × Bool × Nat × Nat) (s : State) : List (Nat × Bytes) :=
  let a := 2048 + 32 * k
  [(a, match d.1 with | some w => natLE 2 w | none => freeBits a 255 s ++ freeBits (a + 1) 255 s), (a + 3, [if d.2.1 then 2 else 0]),
   (a + 4, natLE 4 d.2.2.1), (a + 8, natLE 4 d.2.2.2), (a + 12, freeBits (a + 12) 31 s ++ freeBits (a + 13) 31 s),
   (a + 14, freeBits (a + 14) 31 s ++ freeBits (a + 15) 31 s), (a + 16, freeBits (a + 16) 255 s ++ freeBits (a + 17) 255 s),
   (a + 18, freeBits (a + 18) 0xC0 s), (a + 20, freeBits (a + 20) 255 s ++ freeBits (a + 21) 255 s), (a + 22, freeBits (a + 22) 0xC7 s)]

/-- OACS: security, format, firmware and namespace commands, and on function 0 virtualization management (R48); no directives (R15). -/
def oacs (fn : Nat) : Nat := if fn == 0 then 0x8F else 0x0F

/-- The fields of Identify Controller that Table 3-2 and the manual's other chapters fix. CTRATT has no flexible data placement (R15). -/
def identifyFields (fn : Nat) (s : State) : List (Nat × Bytes) :=
  [(77, [9]), (78, natLE 2 fn), (80, natLE 4 0x20100), (84, natLE 4 30000000), (88, natLE 4 1000000), (98, freeBits 98 0xF7 s),
   (256, natLE 2 (oacs fn)), (259, [3]), (260, [4]), (263, [4]), (265, [0]), (319, [1]), (328, natLE 4 1), (516, natLE 4 128),
   (520, natLE 2 0x4C), (522, natLE 2 0), (525, [1]), (528, natLE 2 0), (536, natLE 4 1)] ++
  powerStates.zipIdx.flatMap fun d => powerDescriptor d.2 d.1 s

/-- The fields of Identify Controller that the published standard gives, beside the power state descriptors (PRESUMED, assumption 45). -/
def identifyRanges : List (Nat × Nat) :=
  [(0, 103), (104, 4), (110, 34), (253, 106), (360, 2), (368, 17), (386, 2), (512, 57), (768, 256), (3072, 1024)]

/-- The fields of Identify Namespace: sizes, the LBA formats of R54, no thin provisioning and DLFEAT (Table 3-2). -/
def nsFields (n : Ns) : List (Nat × Bytes) :=
  [(0, natLE 8 n.nsze), (8, natLE 8 n.nsze), (24, [0]), (25, [1]), (26, [if n.block == 4096 then 1 else 0]), (27, [0]), (28, [0]), (29, [0]),
   (33, [1]), (128, natLE 2 0 ++ [14, 0]), (132, natLE 2 0 ++ [12, 3])]

/-- The fields of Identify Namespace that the published standard gives (PRESUMED, assumption 45). -/
def nsRanges : List (Nat × Nat) := [(0, 83), (92, 4), (99, 29), (384, 3712)]

/-- The namespace identification descriptors: a 16-byte identifier and the command set (PRESUMED, assumption 45). -/
def nsDescriptors (s : State) : Bytes :=
  window ([2, 16, 0, 0] ++ freshBytes 16 s ++ [4, 1, 0, 0, 0]) 0 4096

/-- The primary controller's capabilities: the private and flexible queues and vectors of R44. -/
def primaryCaps (s : State) : Bytes :=
  let half := fun (a : Nat) => natLE 4 6144 ++ natLE 4 a ++ natLE 2 0 ++ natLE 2 2048 ++ natLE 2 2048 ++ natLE 2 1
  window (natLE 2 0 ++ freeBits 2 255 s ++ freeBits 3 255 s ++ [3] ++ List.replicate 27 0 ++
    half (total (s.host.ctrls.map (·.flexQueues))) ++ List.replicate 16 0 ++ half (total (s.host.ctrls.map (·.flexVectors)))) 0 4096

/-- The secondary controllers from an identifier on: each virtual function with what is assigned to it (R44). -/
def secondaryList (above : Nat) (s : State) : Bytes :=
  let cs := s.host.ctrls.filter fun c => c.fn != 0 && decide (above ≤ c.fn)
  window (natLE 1 cs.length ++ List.replicate 31 0 ++ cs.flatMap fun c =>
    natLE 2 c.fn ++ natLE 2 0 ++ natLE 1 (boolNat c.enabled) ++ natLE 3 0 ++ natLE 2 c.fn ++ natLE 2 c.flexQueues ++ natLE 2 c.flexVectors ++
      List.replicate 18 0) 0 4096

/-- A list of identifiers above one, as a 4,096-byte list of words of `w` bytes. -/
def idList (w : Nat) (ids : List Nat) (above : Nat) : Bytes :=
  window ((ids.filter fun i => decide (above < i)).flatMap (natLE w)) 0 4096

/-- Sort identifiers into ascending order. -/
def ascending (ids : List Nat) : List Nat :=
  (List.range 129).filter ids.contains

/-- The data of an Identify: none where CNS is not supported. -/
def identifyData (e : Sqe) (s : State) : Option Bytes :=
  let mine := s.host.namespaces.filter fun n => n.ctrls.contains e.fn
  let cntid := e.cdw10 / 65536 % 65536
  match e.cdw10 % 256 with
  | 0x00 => match mine.find? (·.id == e.nsid) with
    | some n => some (withFields 4096 nsRanges (nsFields n) s)
    | none => some (List.replicate 4096 0)
  | 0x01 => some (withFields 4096 identifyRanges (identifyFields e.fn s) s)
  | 0x02 => some (idList 4 (ascending (mine.map (·.id))) e.nsid)
  | 0x03 => some (nsDescriptors s)
  | 0x10 => some (idList 4 (ascending (s.host.namespaces.map (·.id))) e.nsid)
  | 0x11 => match s.host.namespaces.find? (·.id == e.nsid) with
    | some n => some (withFields 4096 nsRanges (nsFields n) s)
    | none => some (List.replicate 4096 0)
  | 0x12 =>
    let cs := match s.host.namespaces.find? (·.id == e.nsid) with | some n => (ascending n.ctrls).filter (decide <| cntid ≤ ·) | none => []
    some (window (natLE 2 cs.length ++ cs.flatMap (natLE 2)) 0 4096)
  | 0x13 =>
    let cs := (List.range 64).filter (decide <| cntid ≤ ·)
    some (window (natLE 2 cs.length ++ cs.flatMap (natLE 2)) 0 4096)
  | 0x14 => some (primaryCaps s)
  | 0x15 => some (secondaryList cntid s)
  | _ => none

/-- IDENTIFY. -/
def identifyF (e : Sqe) (s : State) : State :=
  adminCmd e 0x06 (fun s =>
    match identifyData e s with
    | some d => answer e stSuccess 0 0 (dma e.fn e.dptr d (drew s))
    | none => answer e stInvalidField 0 0 s) s

def execIdentify (e : Sqe) (s : State) : Res := finish s (identifyF e s)

/-- Length and offset of a Get Log Page, in bytes. -/
def logLen (e : Sqe) : Nat := 4 * (e.cdw10 / 65536 % 65536 + e.cdw11 % 65536 * 65536 + 1)
def logOff (e : Sqe) : Nat := e.cdw12 + e.cdw13 * 2 ^ 32

/-- Deliver a window of a log page. -/
def logReply (e : Sqe) (page : Bytes) (s : State) : State :=
  if logOff e % 4 != 0 || decide (page.length < logOff e) then answer e stInvalidField 0 0 s
  else answer e stSuccess 0 0 (dma e.fn e.dptr (window page (logOff e) (logLen e)) s)

/-- The bank that boots next. -/
def nextBank (s : State) : Nat := obj s 0x1001 4 % 2

/-- Log pages the device has, by identifier. -/
def logPages : List Nat := [0x00, 0x01, 0x02, 0x03, 0x04, 0x05, 0x81, 0xC1, 0xC2, 0xC3]

/-- The supported log pages: a word each, bit 0 for a page the device has. -/
def supportedPages : Bytes := (List.range 256).flatMap fun k => natLE 4 (boolNat (logPages.contains k))

/-- The commands supported: bit 0 of a word for each opcode that has the command, its effects free. -/
def supportedCommands (s : State) : Bytes :=
  (List.range 512).flatMap fun k =>
    let has := if k < 256 then adminOpcodes.contains k else [0, 1, 2, 8, 9].contains (k - 256)
    if has then ((Config.freeByte s.free (4 * k) &&& 0x1E) ||| 1) :: 0 :: freeBits (4 * k + 2) 255 s ++ freeBits (4 * k + 3) 255 s
    else natLE 4 0

/-- The fields of the SMART page that the published standard gives (PRESUMED, assumption 45). -/
def smartRanges : List (Nat × Nat) := [(0, 7), (32, 200)]

/-- A standard log page: none where it is not supported. -/
def standardLog (e : Sqe) (s : State) : Option Bytes :=
  match e.cdw10 % 256 with
  | 0x00 => some supportedPages
  | 0x01 => some (withFields 4096 ((List.range 64).flatMap fun k => [(64 * k, 42)]) [] s)
  | 0x02 => some (withFields 512 smartRanges
      [(0, natLE 1 (criticalWarning s)), (3, natLE 1 (availableSpare s)), (4, [25]), (5, natLE 1 (percentageUsed s))] s)
  | 0x03 => some (withFields 512 [] [(0, natLE 1 (s.fw.active + 1 + 16 * (nextBank s + 1))), (8, natLE 8 (bankVersion s 0)),
                                     (16, natLE 8 (bankVersion s 1))] s)
  | 0x04 => some (freshBytes 4096 s)
  | 0x05 => some (window (supportedCommands s) 0 4096)
  | 0x81 => some (withFields 512 [(0, 32)] [] s)
  | _ => none

/-- GET_LOG_PAGE: a standard page; the vendor pages have rows of their own. -/
def getLogPageF (e : Sqe) (s : State) : State :=
  if [0xC1, 0xC2, 0xC3].contains (e.cdw10 % 256) then s
  else adminCmd e 0x02 (fun s =>
    match standardLog e s with
    | some d => logReply e d (drew s)
    | none => answer e stInvalidLogPage 0 0 s) s

def execGetLogPage (e : Sqe) (s : State) : Res := finish s (getLogPageF e s)

/-- The 64 bytes of a compute error log entry (Table 3-7). -/
def errBytes (x : ErrEntry) : Bytes :=
  natLE 8 x.count ++ natLE 2 x.sq ++ natLE 2 x.cid ++ natLE 2 x.status ++ natLE 1 x.opc ++ natLE 1 (boolNat x.froze) ++ natLE 8 x.time ++
  natLE 8 x.handle ++ natLE 8 x.job ++ natLE 4 x.opIndex ++ natLE 4 x.detail ++ natLE 16 0

/-- Is the offset of a Get Log Page one of the page's words? -/
def logOffOk (e : Sqe) (page : Bytes) : Bool := logOff e % 4 == 0 && decide (logOff e ≤ page.length)

/-- A Get Log Page of a vendor page on the controllers that have it; `after` follows a page that is delivered. -/
def vendorLog (e : Sqe) (lid : Nat) (ok : Bool) (page : State → Bytes) (after : State → State) (s : State) : State :=
  if e.cdw10 % 256 != lid then s
  else adminCmd e 0x02 (fun s =>
    if !ok then answer e stInvalidLogPage 0 0 s
    else if logOffOk e (page s) then after (logReply e (page s) s)
    else logReply e (page s) s) s

/-- Retain Asynchronous Event. -/
def retains (e : Sqe) : Bool := bitOf e.cdw10 15

/-- COMPUTE_ERROR_LOG_READ: page C1h, newest first; a read with Retain Asynchronous Event cleared arms the event again (R67, R68). -/
def computeErrorLogReadF (e : Sqe) (s : State) : State :=
  vendorLog e 0xC1 true
    (fun s => match ctrl s e.fn with | some c => window (c.errLog.flatMap errBytes) 0 16384 | none => [])
    (fun s => if retains e then s else modCtrl e.fn (fun c => { c with armed := true }) s) s

def execComputeErrorLogRead (e : Sqe) (s : State) : Res := finish s (computeErrorLogReadF e s)

/-- INTEGRITY_LOG_PAGE_READ: page C2h of function 0 (R202). -/
def integrityLogPageReadF (e : Sqe) (s : State) : State :=
  vendorLog e 0xC2 (e.fn == 0) (fun s => window (s.integ.log.flatMap logBytes) 0 262144) id s

def execIntegrityLogPageRead (e : Sqe) (s : State) : Res := finish s (integrityLogPageReadF e s)

/-- The 1,024 bytes of an audit log entry (Table 16-5). -/
def auditBytes (a : AuditEntry) : Bytes :=
  let h := natLE 8 a.handle ++ natLE 2 a.sq ++ natLE 2 a.cid ++ natLE 1 a.opc ++ natLE 1 0 ++ natLE 2 a.objects.length ++ natLE 8 a.time ++
    natLE 8 0 ++ window a.digest 0 32 ++ window a.basketDigest 0 32 ++ window a.inputDigest 0 32 ++ natLE 8 a.epoch ++ natLE 2 a.cells ++
    natLE 6 0 ++ natLE 8 a.modeWord ++ natLE 8 0
  window (h ++ (a.objects.take 16).flatMap fun o => natLE 1 o.1 ++ natLE 7 0 ++ natLE 8 o.2.1 ++ window o.2.2 0 32) 0 1024

/-- AUDIT_LOG_READ: page C3h of the submitting controller (R404). -/
def auditLogReadF (e : Sqe) (s : State) : State :=
  vendorLog e 0xC3 true
    (fun s => match ctrl s e.fn with | some c => window (c.auditLog.flatMap auditBytes) 0 262144 | none => []) id s

def execAuditLogRead (e : Sqe) (s : State) : Res := finish s (auditLogReadF e s)

/-! ### Features and events (R47, R56, R74) -/

/-- Features beside Power Management and Volatile Write Cache: arbitration, temperature threshold, error recovery, number of queues,
interrupt coalescing and vector configuration, write atomicity, asynchronous events, timestamp. -/
def features : List Nat := [0x01, 0x04, 0x05, 0x07, 0x08, 0x09, 0x0A, 0x0B, 0x0E]

/-- The number-of-queues answer: queues of a function, 0-based in both halves. -/
def queueCounts (s : State) (fn : Nat) : Nat := (queuesOf s fn - 1) * 65537

/-- SET_FEATURES: no value is saveable. The timestamp comes by the data buffer and is free here. -/
def setFeaturesF (e : Sqe) (s : State) : State :=
  let f := e.cdw10 % 256
  if f == 0x02 || f == 0x06 then s
  else adminCmd e 0x09 (fun s =>
    if !features.contains f then answer e stInvalidField 0 0 s
    else if bitOf e.cdw10 31 then answer e stNotSaveable 0 0 s
    else if f == 0x07 then
      if s.host.sqs.any (fun q => q.fn == e.fn && q.id != 0) || s.host.cqs.any (fun q => q.fn == e.fn && q.id != 0) then
        answer e stCommandSequenceError 0 0 s
      else answer e stSuccess (queueCounts s e.fn) 0 s
    else
      let v := if f == 0x0E then freshNat s else e.cdw11
      answer e stSuccess 0 0 (drew (modCtrl e.fn (fun c => { c with features := kvPut 0 c.features f v }) s))) s

def execSetFeatures (e : Sqe) (s : State) : Res := finish s (setFeaturesF e s)

/-- VOLATILE_WRITE_CACHE_SET: WCE is taken even while R27 holds caching off (R56). -/
def volatileWriteCacheSetF (e : Sqe) (s : State) : State :=
  if e.cdw10 % 256 != 0x06 then s
  else adminCmd e 0x09 (fun s =>
    if decide (1 < e.cdw11) then answer e stInvalidField 0 0 s
    else if bitOf e.cdw10 31 then answer e stNotSaveable 0 0 s
    else answer e stSuccess 0 0 (modCtrl e.fn (fun c => { c with wce := e.cdw11 == 1 }) s)) s

def execVolatileWriteCacheSet (e : Sqe) (s : State) : Res := finish s (volatileWriteCacheSetF e s)

/-- The current value of a feature. -/
def featureValue (s : State) (fn f : Nat) : Nat :=
  match f with
  | 0x02 => s.pwr.ps + 32 * s.pwr.hint
  | 0x06 => boolNat (caching s fn)
  | 0x07 => queueCounts s fn
  | _ => match ctrl s fn with | some c => kvGet 0 c.features f | none => 0

/-- What a Get Features returns: the current value, or the supported forms: no feature is saveable or held per namespace, and all but Power
Management of a virtual function may be changed (R74). The default and saved values of the published standard are free. None where the feature
or the form is not supported. -/
def featureReply (e : Sqe) (s : State) : Option Nat :=
  let f := e.cdw10 % 256
  if !(f == 0x02 || f == 0x06 || features.contains f) then none
  else match bitsOf e.cdw10 10 8 with
    | 0 => some (featureValue s e.fn f % 2 ^ 32)
    | 1 => some (freshNat s % 2 ^ 32)
    | 2 => some (freshNat s % 2 ^ 32)
    | 3 => some (if f == 0x02 && e.fn != 0 then 0 else 4)
    | _ => none

/-- GET_FEATURES. -/
def getFeaturesF (e : Sqe) (s : State) : State :=
  adminCmd e 0x0A (fun s =>
    match featureReply e s with
    | some v => answer e stSuccess v 0 (drew s)
    | none => answer e stInvalidField 0 0 s) s

def execGetFeatures (e : Sqe) (s : State) : Res := finish s (getFeaturesF e s)

/-- ASYNCHRONOUS_EVENT_REQUEST: it waits for an event, or takes the one that is due; a fifth is one too many (R47). -/
def asynchronousEventRequestF (e : Sqe) (s : State) : State :=
  adminCmd e 0x0C (fun s =>
    match ctrl s e.fn with
    | none => s
    | some c =>
      if decide (4 ≤ c.aers.length) then answer e stAerLimit 0 0 s
      else
        let s := modCtrl e.fn (fun c => { c with aers := c.aers ++ [e.cid] }) s
        if c.eventDue then asyncEvent e.fn 0 0xC1 s else s) s

def execAsynchronousEventRequest (e : Sqe) (s : State) : Res := finish s (asynchronousEventRequestF e s)

/-! ### Namespaces (R45, R46, R54, R130) -/

/-- The lowest `n` allocation units that are not in use. -/
def freeUnits (s : State) (n : Nat) : List Nat :=
  let used := takenUnits s
  ((List.range (n + used.length)).filter fun a => !used.contains a).take n

/-- Bytes of a block of an LBA format. -/
def blockOf (format : Nat) : Nat := if format == 0 then 16384 else 4096

/-- NAMESPACE_CREATE: NCAP equals NSZE, whole allocation units within 256 TiB, 128 namespaces, not in Basic mode (R46, R205, Table 3-2). -/
def namespaceCreateF (e : Sqe) (nsze ncap format : Nat) (s : State) : State :=
  if e.cdw10 % 16 != 0 then s
  else adminCmd e 0x0D (fun s =>
    let units := ceilDiv (nsze * blockOf format) (2 ^ 30)
    if basicMode s then answer e stBasicMode 0 0 s
    else if decide (1 < format) then answer e stInvalidFormat 0 0 s
    else if ncap != nsze || nsze == 0 then answer e stInvalidField 0 0 s
    else if decide (262144 < (takenUnits s).length + units) then answer e stNsCapacity 0 0 s
    else
      match ((List.range 128).map (· + 1)).find? fun i => !s.host.namespaces.any (·.id == i) with
      | none => answer e stNsIdUnavailable 0 0 s
      | some id =>
        let n : Ns := { id := id, block := blockOf format, nsze := nsze, aus := freeUnits s units, ctrls := [] }
        answer e stSuccess id 0 (newKey id (modHost (fun h => { h with namespaces := h.namespaces ++ [n] }) s))) s

def execNamespaceCreate (e : Sqe) (nsze ncap format : Nat) (s : State) : Res := finish s (namespaceCreateF e nsze ncap format s)

/-- The namespaces a command names: one, or all of them by FFFFFFFFh. -/
def namedNs (s : State) (nsid : Nat) : List Ns :=
  s.host.namespaces.filter fun n => nsid == 0xFFFFFFFF || n.id == nsid

/-- The namespaces a command names among those that its function reaches: a virtual function reaches those attached to it (R45). Function 0, which
manages them, deletes any (DEDUCED, assumption 64). -/
def reachedNs (s : State) (fn nsid : Nat) (any : Bool) : List Ns :=
  (namedNs s nsid).filter fun n => any || n.ctrls.contains fn

/-- NAMESPACE_DELETE: its pages are deallocated, its allocation units freed, and its key dropped. A reserved selection is an Invalid Field (R4), and a
read-only module deallocates nothing (R156; DEDUCED, assumption 70). -/
def namespaceDeleteF (e : Sqe) (s : State) : State :=
  if e.cdw10 % 16 == 0 then s
  else adminCmd e 0x0D (fun s =>
    let ns := reachedNs s e.fn e.nsid (e.fn == 0)
    if e.cdw10 % 16 != 1 then answer e stInvalidField 0 0 s
    else if ns == [] && e.nsid != 0xFFFFFFFF then answer e stInvalidNamespace 0 0 s
    else if readOnly s then answer e stWriteProtected 0 0 s
    else
      let s := ns.foldl (fun s n => deallocNs n s) s
      let s := modHost (fun h => { h with namespaces := h.namespaces.filter fun n => !ns.any (·.id == n.id) }) s
      answer e stSuccess 0 0 (modFw (fun f => { f with keys := f.keys.filter fun k => !ns.any (·.id == k.owner) }) s)) s

def execNamespaceDelete (e : Sqe) (s : State) : Res := finish s (namespaceDeleteF e s)

/-- NAMESPACE_ATTACHMENT: attach (0) or detach (1) a list of controllers, named by CNTLID 0 to 63 (R44, R45). -/
def namespaceAttachmentF (e : Sqe) (controllers : List Nat) (s : State) : State :=
  adminCmd e 0x15 (fun s =>
    match s.host.namespaces.find? (·.id == e.nsid) with
    | none => answer e stInvalidNamespace 0 0 s
    | some n =>
      if controllers == [] || controllers.any (fun c => decide (63 < c)) then answer e stCtrlListInvalid 0 0 s
      else
        let set := fun (l : List Nat) => answer e stSuccess 0 0
          (modHost (fun h => { h with namespaces := updWhere (·.id == e.nsid) (fun n => { n with ctrls := l }) h.namespaces }) s)
        match e.cdw10 % 16 with
        | 0 => if controllers.any n.ctrls.contains then answer e stNsAttached 0 0 s else set (n.ctrls ++ controllers.eraseDups)
        | 1 => if controllers.all n.ctrls.contains then set (n.ctrls.filter fun c => !controllers.contains c)
               else answer e stNsNotAttached 0 0 s
        | _ => answer e stInvalidField 0 0 s) s

def execNamespaceAttachment (e : Sqe) (controllers : List Nat) (s : State) : Res := finish s (namespaceAttachmentF e controllers s)

/-! ### Format NVM and Sanitize (R54, R158, R442, R443) -/

/-- FORMAT_NVM: every page of the function's namespaces it names is deallocated, the journal commits, and the namespace's key changes (R45, R158).
The size keeps its allocation units. -/
def formatNvmF (e : Sqe) (s : State) : State :=
  adminCmd e 0x80 (fun s =>
    let ns := reachedNs s e.fn e.nsid false
    let b := blockOf (e.cdw10 % 16)
    if ns == [] && e.nsid != 0xFFFFFFFF then answer e stInvalidNamespace 0 0 s
    else if decide (1 < e.cdw10 % 16) || bitsOf e.cdw10 8 4 != 0 then answer e stInvalidFormat 0 0 s
    else if decide (2 < bitsOf e.cdw10 11 9) then answer e stInvalidField 0 0 s
    else if readOnly s then answer e stWriteProtected 0 0 s
    else
      let s := commitAll (ns.foldl (fun s n => deallocNs n s) s)
      let s := modHost (fun h => { h with
        namespaces := updWhere (fun n => ns.any (·.id == n.id)) (fun n => { n with block := b, nsze := n.nsze * n.block / b }) h.namespaces }) s
      answer e stSuccess 0 0 (ns.foldl (fun s n => newKey n.id s) s)) s

def execFormatNvm (e : Sqe) (s : State) : Res := finish s (formatNvmF e s)

/-- SANITIZE: cryptographic erase only (Table 3-2). Basket and block commands in flight end with Sanitize In Progress (DEDUCED, assumption 44). It
completes once every superblock has been erased and the checkpoints are written (R158); another Sanitize meanwhile ends with Sanitize In Progress. -/
def sanitizeF (e : Sqe) (s : State) : State :=
  adminCmd e 0x84 (fun s =>
    if e.cdw10 % 8 != 4 then answer e stInvalidField 0 0 s
    else if sanitizing s then answer e stSanitizeInProgress 0 0 s
    else if epochFree s == 0 then answer e stCommandSequenceError 0 0 s
    else
      let xs := s.host.inflight.filter fun x => x.sq != 0
      let s := xs.foldl (fun s x => endRequest x.fn x.sq x.cid stSanitizeInProgress 0 s) s
      sanitizeErase (some (e.fn, e.sq, e.cid)) (newEpoch (commitAll (dropAllPages s)))) s

def execSanitize (e : Sqe) (s : State) : Res := finish s (sanitizeF e s)

/-! ### Firmware update (R427 to R429) -/

/-- The largest image. -/
def imageMax : Nat := 50266112

/-- FIRMWARE_IMAGE_DOWNLOAD: a piece of the image at multiples of 4 KiB, staged in HBM; function 0 only. -/
def firmwareImageDownloadF (e : Sqe) (buf : Bytes) (s : State) : State :=
  adminCmd e 0x11 (fun s =>
    let len := 4 * (e.cdw10 + 1)
    let off := 4 * e.cdw11
    if e.fn != 0 || len % 4096 != 0 || off % 4096 != 0 || decide (imageMax < off + len) then answer e stInvalidField 0 0 s
    else answer e stSuccess 0 0 (modFw (fun f => { f with
      staged := memOver f.staged off len (memOf (buf.take len))
      stagedBytes := max f.stagedBytes (off + len) }) s)) s

def execFirmwareImageDownload (e : Sqe) (buf : Bytes) (s : State) : Res := finish s (firmwareImageDownloadF e buf s)

/-- Action and slot of a Firmware Commit. -/
def commitAction (e : Sqe) : Nat := bitsOf e.cdw10 5 3
def commitSlot (e : Sqe) : Nat := e.cdw10 % 8

/-- Step 1 of R429: header, digest, signature (`sig`: the firmware key it verifies under), security version and hardware revision. -/
def stagedOk (sig : Option Nat) (s : State) : Bool :=
  let h := memRead s.fw.staged 0 128
  let len := field h 32 4
  imageHeaderOk s h && decide (len ≤ s.fw.stagedBytes) && sig.isSome && decide (securityCounter s ≤ field h 24 4) &&
  sha256 (memRead s.fw.staged 8192 (len - 8192)) == (h.drop 64).take 32

/-- Steps 2 and 3 of R429 for bank `b`: FirmwareState.4 leaves it, its commit sector goes, and the sequencer begins its erases. -/
def beginCommit (action b : Nat) (e : Sqe) (sig : Option Nat) (readBackOk : Bool) (s : State) : State :=
  let s := if obj s 0x1001 4 == b then storeSet 0x1001 4 s.fw.active s else s
  let s := modBank b (fun _ => { header := [], digest := [], sig := none, commit := none }) s
  modFw (fun f => { f with
    job := some { fn := e.fn, sq := e.sq, cid := e.cid, bank := b, action := action, sig := sig, readBackOk := readBackOk, phase := 2,
                  pos := 0 } }) s

/-- A commit into the inactive bank: actions 000b and 001b. It goes on by the sequencer's operations. -/
def firmwareCommit (action : Nat) (e : Sqe) (sig : Option Nat) (readBackOk : Bool) (s : State) : State :=
  if commitAction e != action then s
  else adminCmd e 0x10 (fun s =>
    let b := commitSlot e - 1
    if e.fn != 0 then answer e stInvalidField 0 0 s
    else if s.fw.job.isSome then answer e stCommandSequenceError 0 0 s
    else if commitSlot e == 0 || decide (2 < commitSlot e) || b == s.fw.active then answer e stInvalidFwSlot 0 0 (dropStaged s)
    else if !stagedOk sig s then answer e stInvalidFwImage 0 0 (dropStaged (storeSet 0x1360 3 2 s))
    else beginCommit action b e sig readBackOk s) s

/-- FIRMWARE_COMMIT_REPLACE: action 000b. -/
def firmwareCommitReplaceF (e : Sqe) (sig : Option Nat) (readBackOk : Bool) (s : State) : State := firmwareCommit 0 e sig readBackOk s

def execFirmwareCommitReplace (e : Sqe) (sig : Option Nat) (readBackOk : Bool) (s : State) : Res :=
  finish s (firmwareCommitReplaceF e sig readBackOk s)

/-- FIRMWARE_COMMIT_ACTIVATE: action 001b. -/
def firmwareCommitActivateF (e : Sqe) (sig : Option Nat) (readBackOk : Bool) (s : State) : State := firmwareCommit 1 e sig readBackOk s

def execFirmwareCommitActivate (e : Sqe) (sig : Option Nat) (readBackOk : Bool) (s : State) : Res :=
  finish s (firmwareCommitActivateF e sig readBackOk s)

/-- FIRMWARE_COMMIT_SELECT: action 010b sets FirmwareState.4; any other action but 000b and 001b is an Invalid Field. -/
def firmwareCommitSelectF (e : Sqe) (s : State) : State :=
  if decide (commitAction e < 2) then s
  else adminCmd e 0x10 (fun s =>
    let b := commitSlot e - 1
    if e.fn != 0 then answer e stInvalidField 0 0 s
    else if s.fw.job.isSome then answer e stCommandSequenceError 0 0 s
    else if commitAction e != 2 then answer e stInvalidField 0 0 (dropStaged s)
    else if commitSlot e == 0 || decide (2 < commitSlot e) || !committed s b then answer e stInvalidFwSlot 0 0 (dropStaged s)
    else answer e stSuccess 0 0 (storeSet 0x1001 4 b (dropStaged s))) s

def execFirmwareCommitSelect (e : Sqe) (s : State) : Res := finish s (firmwareCommitSelectF e s)

/-! ### Virtualization Management (R44) -/

/-- Flexible resources of all virtual functions but one. -/
def flexOthers (s : State) (fn : Nat) (queues : Bool) : Nat :=
  total ((s.host.ctrls.filter fun c => c.fn != fn).map fun c => if queues then c.flexQueues else c.flexVectors)

/-- VIRTUALIZATION_MANAGEMENT: function 0 assigns queue and vector resources to a virtual function that is not enabled: at most 2,048 each
from pools of 6,144; it takes them away, or leaves them in place. -/
def virtualizationManagementF (e : Sqe) (s : State) : State :=
  adminCmd e 0x1C (fun s =>
    let fn := e.cdw10 / 65536 % 65536
    let n := e.cdw11 % 65536
    let rt := bitsOf e.cdw10 10 8
    let enabled := match ctrl s fn with | some c => c.enabled | none => false
    if e.fn != 0 then answer e stInvalidOpcode 0 0 s
    else if !([7, 8, 9].contains (e.cdw10 % 16)) then answer e stInvalidField 0 0 s
    else if fn == 0 || decide (63 < fn) then answer e stInvalidController 0 0 s
    else
      match e.cdw10 % 16 with
      | 7 => answer e stSuccess 0 0 (modCtrl fn (fun c => { c with flexQueues := 0, flexVectors := 0 }) s)
      | 9 => answer e stSuccess 0 0 s
      | _ =>
        if decide (1 < rt) then answer e stInvalidResource 0 0 s
        else if enabled then answer e stControllerState 0 0 s
        else if decide (2048 < n) || decide (6144 < flexOthers s fn (rt == 0) + n) then answer e stInvalidResources 0 0 s
        else answer e stSuccess n 0 (modCtrl fn (fun c => if rt == 0 then { c with flexQueues := n } else { c with flexVectors := n }) s)) s

def execVirtualizationManagement (e : Sqe) (s : State) : Res := finish s (virtualizationManagementF e s)

end Sys2Proof.Machine
end

