-- ==== Sys2Proof/Machine/Mgmt.lean ====
section
/-! DEFINITION. The management segment's medium, NVMe-MI over SMBus and the SPDM responder (R36, R38, R49, R440, R441, R446). Codes and layouts
of the published standards are taken from them (PRESUMED, assumption 45); what the manual gives inside them is written out. -/

namespace Sys2Proof.Machine

open Sys2Proof

/-! ### The management segment (R36) -/

/-- PLCA_BEACON_LOSS: the device transmits under CSMA/CD. -/
def plcaBeaconLossF (s : State) : State := if s.pwr.hoopRail then modMgmt (fun m => { m with beacon := false }) s else s

def execPlcaBeaconLoss (s : State) : Res := finish s (plcaBeaconLossF s)

/-- PLCA_BEACON_RETURN. -/
def plcaBeaconReturnF (s : State) : State := if s.pwr.hoopRail then modMgmt (fun m => { m with beacon := true }) s else s

def execPlcaBeaconReturn (s : State) : Res := finish s (plcaBeaconReturnF s)

/-- SLOT_COLLISION: counted; the PLCA id stays. -/
def slotCollisionF (s : State) : State := if s.pwr.hoopRail then bump 0x1110 3 s else s

def execSlotCollision (s : State) : Res := finish s (slotCollisionF s)

/-! ### NVMe-MI (R38, R49) -/

/-- Response statuses. -/
def miInvalidOpcode : Nat := 3
def miInvalidParameter : Nat := 4
def miAccessDenied : Nat := 7

/-- Answer an NVMe-MI command while the Hoop rail runs (R37, R38). -/
def miAnswer (code status : Nat) (data : Bytes) (s : State) : State :=
  modMgmt (fun m => { m with smb := m.smb ++ [{ code := code, status := status, data := data }] }) s

/-- Run an NVMe-MI command: SMBus is silent while the Hoop rail is off. -/
def miCmd (f : State → State) (s : State) : State := if s.pwr.hoopRail then f s else s

/-- The commands of R49, each as message type (1 NVMe-MI, 2 admin) and opcode. -/
def miSupported : List (Nat × Nat) := [(1, 0), (1, 1), (1, 2), (1, 3), (1, 4), (1, 5), (1, 7), (2, 0x06), (2, 0x02), (2, 0x0A)]

/-- The commands that the published standard makes mandatory (PRESUMED, assumption 45). -/
def miMandatory : List (Nat × Nat) := [(1, 0), (1, 1), (1, 2), (1, 3), (1, 4), (1, 5), (1, 6), (1, 7), (2, 0x06), (2, 0x02), (2, 0x0A)]

/-- The list of optional commands: those supported beyond the mandatory ones. -/
def miOptional : Bytes :=
  let cs := miSupported.filter fun c => !miMandatory.contains c
  natLE 2 cs.length ++ cs.flatMap fun c => natLE 1 (8 * c.1) ++ natLE 1 c.2

/-- READ_NVME_MI_DATA_STRUCTURE: subsystem, port, controller list, controller information, optional commands. -/
def readNvmeMiDataStructureF (dtyp : Nat) (s : State) : State :=
  miCmd (fun s =>
    match dtyp with
    | 0 => miAnswer 0 0 (withFields 32 [(0, 4)] [] s) (drew s)
    | 1 => miAnswer 0 0 (withFields 32 [(0, 16)] [] s) (drew s)
    | 2 => miAnswer 0 0 (natLE 2 64 ++ (List.range 64).flatMap (natLE 2)) s
    | 3 => miAnswer 0 0 (withFields 32 [(0, 1), (5, 12)] [] s) (drew s)
    | 4 => miAnswer 0 0 miOptional s
    | _ => miAnswer 0 miInvalidParameter [] s) s

def execReadNvmeMiDataStructure (dtyp : Nat) (s : State) : Res := finish s (readNvmeMiDataStructureF dtyp s)

/-- The warnings as the published layouts carry them: a bit is 0 where the warning holds. -/
def warningByte (s : State) : Bytes := natLE 1 (255 - criticalWarning s % 256)

/-- The host reads the warnings: SMB_ALERT_N clears (R38). -/
def warningsRead (s : State) : State :=
  modInteg (fun i => { i with alert := 0 }) (modMgmt (fun m => { m with healthSeen := criticalWarning s }) s)

/-- NVM_SUBSYSTEM_HEALTH_STATUS_POLL: the read clears SMB_ALERT_N. -/
def nvmSubsystemHealthStatusPollF (s : State) : State :=
  miCmd (fun s =>
    let data := withFields 8 [(0, 3)] [(1, warningByte s), (3, natLE 1 (percentageUsed s))] s
    miAnswer 1 0 data (drew (warningsRead s))) s

def execNvmSubsystemHealthStatusPoll (s : State) : Res := finish s (nvmSubsystemHealthStatusPollF s)

/-- CONTROLLER_HEALTH_STATUS_POLL. -/
def controllerHealthStatusPollF (fn : Nat) (s : State) : State :=
  miCmd (fun s =>
    match ctrl s fn with
    | none => miAnswer 2 miInvalidParameter [] s
    | some c =>
      let data := withFields 16 [(2, 7)] [(0, natLE 2 fn), (2, natLE 2 (boolNat c.ready + 4 * c.shst)), (6, natLE 1 (percentageUsed s)),
                                 (7, natLE 1 (availableSpare s)), (8, natLE 1 (criticalWarning s))] s
      miAnswer 2 0 data (drew s)) s

def execControllerHealthStatusPoll (fn : Nat) (s : State) : Res := finish s (controllerHealthStatusPollF fn s)

/-- CONFIGURATION_GET: 1 SMBus frequency (1 for 100 kHz, 2 for 400 kHz), 2 health status change. -/
def configurationGetF (id : Nat) (s : State) : State :=
  miCmd (fun s =>
    match id with
    | 1 => miAnswer 4 0 [if s.mgmt.smbFreq == 100 then 1 else 2] s
    | 2 => miAnswer 4 0 [] s
    | _ => miAnswer 4 miInvalidParameter [] s) s

def execConfigurationGet (id : Nat) (s : State) : Res := finish s (configurationGetF id s)

/-- Take the warnings of a mask as read. -/
def clearChanges (mask : Nat) (s : State) : State :=
  let w := criticalWarning s
  modInteg (fun i => { i with alert := i.alert &&& (255 - mask % 256) })
    (modMgmt (fun m => { m with healthSeen := (w &&& mask) ||| (m.healthSeen &&& (255 - mask % 256)) }) s)

/-- CONFIGURATION_SET. -/
def configurationSetF (id value : Nat) (s : State) : State :=
  miCmd (fun s =>
    match id, value with
    | 1, 1 => miAnswer 3 0 [] (modMgmt (fun m => { m with smbFreq := 100 }) s)
    | 1, 2 => miAnswer 3 0 [] (modMgmt (fun m => { m with smbFreq := 400 }) s)
    | 2, mask => miAnswer 3 0 [] (clearChanges mask s)
    | _, _ => miAnswer 3 miInvalidParameter [] s) s

def execConfigurationSet (id value : Nat) (s : State) : Res := finish s (configurationSetF id value s)

/-- VPD_READ. -/
def vpdReadF (off len : Nat) (s : State) : State :=
  miCmd (fun s =>
    if Config.vpdLength < off + len then miAnswer 5 miInvalidParameter [] s
    else miAnswer 5 0 ((List.range len).map fun i => Config.vpd (off + i)) s) s

def execVpdRead (off len : Nat) (s : State) : Res := finish s (vpdReadF off len s)

/-- NVME_MI_RESET: an NVM subsystem reset, refused while ManagementAuth.8 is 1 (R446). -/
def nvmeMiResetF (s : State) : State :=
  miCmd (fun s =>
    if obj s 0x1410 8 == 1 then miAnswer 7 miAccessDenied [] s else moduleRestart 7 (miAnswer 7 0 [] s)) s

def execNvmeMiReset (s : State) : Res := finishRestart s (nvmeMiResetF s)

/-- A vendor log page as Get Log Page of a controller returns it. -/
def vendorPage (e : Sqe) (s : State) : Option Bytes :=
  match e.cdw10 % 256, ctrl s e.fn with
  | 0xC1, some c => some (window (c.errLog.flatMap errBytes) 0 16384)
  | 0xC2, some _ => if e.fn == 0 then some (window (s.integ.log.flatMap logBytes) 0 262144) else none
  | 0xC3, some c => some (window (c.auditLog.flatMap auditBytes) 0 262144)
  | _, _ => none

/-- MI_TUNNELLED_ADMIN: Identify, Get Log Page and Get Features of a controller, answered over NVMe-MI. -/
def miTunnelledAdminF (opc : Nat) (e : Sqe) (s : State) : State :=
  miCmd (fun s =>
    if decide (63 < e.fn) then miAnswer opc miInvalidParameter [] s
    else match opc with
      | 0x06 =>
        (match identifyData e s with
         | some d => miAnswer opc 0 d (drew s)
         | none => miAnswer opc miInvalidParameter [] s)
      | 0x02 =>
        (match (match standardLog e s with | some d => some d | none => vendorPage e s) with
         | some d => miAnswer opc 0 (window d (logOff e) (logLen e)) (drew s)
         | none => miAnswer opc miInvalidParameter [] s)
      | 0x0A =>
        (match featureReply e s with
         | some v => miAnswer opc 0 (natLE 4 v) (drew s)
         | none => miAnswer opc miInvalidParameter [] s)
      | _ => miAnswer opc miInvalidOpcode [] s) s

def execMiTunnelledAdmin (opc : Nat) (e : Sqe) (s : State) : Res := finish s (miTunnelledAdminF opc e s)

/-- BASIC_MANAGEMENT_COMMAND: the status block at SMBus address 35h; with it the host reads the warnings (R38). -/
def basicManagementCommandF (off len : Nat) (s : State) : State :=
  miCmd (fun s =>
    let data := withFields 8 [(1, 3), (7, 1)] [(0, [6]), (2, warningByte s), (4, natLE 1 (percentageUsed s))] s
    miAnswer 0x35 0 (window data off len) (drew (warningsRead s))) s

def execBasicManagementCommand (off len : Nat) (s : State) : Res := finish s (basicManagementCommandF off len s)

/-! ### SPDM (R440, R441) -/

/-- Connections: 0 to 63 the controllers, 64 the MCTP endpoint. -/
def connOf (s : State) (c : Nat) : Conn :=
  match s.mgmt.conns.find? (·.conn == c) with
  | some x => x
  | none => { conn := c, stage := 0, version := 0x12, chunkIn := [], chunkOut := [] }

/-- Change the state of a connection. -/
def putConn (x : Conn) (s : State) : State :=
  modMgmt (fun m => { m with conns := x :: m.conns.filter (·.conn != x.conn) }) s

/-- Send a response. -/
def spdmSend (c code : Nat) (data : Bytes) (s : State) : State :=
  modMgmt (fun m => { m with spdm := m.spdm ++ [{ conn := c, code := code, data := data }] }) s

/-- ERROR responses and their codes. -/
def spdmError (c err : Nat) (s : State) : State := spdmSend c 0x7F (natLE 1 err) s
def errInvalidRequest : Nat := 0x01
def errUnexpected : Nat := 0x04
def errUnspecified : Nat := 0x05
def errUnsupported : Nat := 0x07
def errLargeResponse : Nat := 0x0F
def errVersion : Nat := 0x41

/-- Answer a request: on a connection that exists, while the Hoop rail runs, at stage `need` or beyond, and in the version negotiated. -/
def spdmCmd (q : Spdm) (need : Nat) (f : Conn → State → State) (s : State) : State :=
  if !s.pwr.hoopRail || decide (64 < q.conn) then s
  else
    let x := connOf s q.conn
    if x.stage < need then spdmError q.conn errUnexpected s
    else if decide (2 ≤ need) && q.version != x.version then spdmError q.conn errVersion s
    else f x s

/-- GET_VERSION: versions 1.2 and 1.3; the connection starts afresh. -/
def getVersionF (q : Spdm) (s : State) : State :=
  spdmCmd q 0 (fun x s =>
    spdmSend q.conn 0x04 (natLE 2 0x1200 ++ natLE 2 0x1300) (putConn { x with stage := 1, chunkIn := [], chunkOut := [] } s)) s

def execGetVersion (q : Spdm) (s : State) : Res := finish s (getVersionF q s)

/-- CERT_CAP, CHAL_CAP, MEAS_CAP = 10b and CHUNK_CAP. -/
def spdmCaps : Nat := 0x2 + 0x4 + 0x10 + 0x20000

/-- GET_CAPABILITIES: CTExponent 18; the version of the request is taken. -/
def getCapabilitiesF (q : Spdm) (s : State) : State :=
  spdmCmd q 1 (fun x s =>
    if q.version == 0x12 || q.version == 0x13 then
      spdmSend q.conn 0x61 (natLE 1 18 ++ natLE 4 spdmCaps) (putConn { x with stage := max x.stage 2, version := q.version } s)
    else spdmError q.conn errVersion s) s

def execGetCapabilities (q : Spdm) (s : State) : Res := finish s (getCapabilitiesF q s)

/-- NEGOTIATE_ALGORITHMS: no base asymmetric algorithm, SHA-256 and the one ExtAsym entry, algorithm 0001h. -/
def negotiateAlgorithmsF (q : Spdm) (s : State) : State :=
  spdmCmd q 2 (fun x s =>
    if q.extAsymOk && q.sha256Ok then
      spdmSend q.conn 0x63 (natLE 4 0 ++ natLE 4 1 ++ natLE 2 0x0001) (putConn { x with stage := 3 } s)
    else spdmError q.conn errInvalidRequest s) s

def execNegotiateAlgorithms (q : Spdm) (s : State) : Res := finish s (negotiateAlgorithmsF q s)

/-- GET_DIGESTS: slot 0 only. -/
def getDigestsF (q : Spdm) (s : State) : State :=
  spdmCmd q 3 (fun _ s => spdmSend q.conn 0x01 (natLE 1 1 ++ sha256 Config.certChain) s) s

def execGetDigests (q : Spdm) (s : State) : Res := finish s (getDigestsF q s)

/-- GET_CERTIFICATE: a portion of the chain in slot 0, its length and what remains. -/
def getCertificateF (q : Spdm) (s : State) : State :=
  spdmCmd q 3 (fun _ s =>
    if q.slot != 0 || decide (Config.certChain.length < q.offset) then spdmError q.conn errInvalidRequest s
    else
      let part := (Config.certChain.drop q.offset).take q.length
      spdmSend q.conn 0x02 (natLE 2 part.length ++ natLE 2 (Config.certChain.length - q.offset - part.length) ++ part) s) s

def execGetCertificate (q : Spdm) (s : State) : Res := finish s (getCertificateF q s)

/-- A signed response is larger than a message: the requester fetches it in chunks. The signature is 17,088 bytes, as FIPS 205 has it (PRESUMED, assumption 45). -/
def spdmLarge (x : Conn) (body : Bytes) (s : State) : State :=
  let sig := freshBytes 17088 s
  spdmError x.conn errLargeResponse (putConn { x with chunkOut := body ++ sig } (drew s))

/-- Can the module sign: was the identity key reproduced (R439)? -/
def canSign (s : State) : Bool := obj s 0x1400 4 == 1

/-- CHALLENGE: the CHALLENGE_AUTH names slot 0, the chain's digest and a fresh nonce. -/
def challengeF (q : Spdm) (s : State) : State :=
  spdmCmd q 3 (fun x s =>
    if q.slot != 0 then spdmError q.conn errInvalidRequest s
    else if !canSign s then spdmError q.conn errUnspecified s
    else spdmLarge x (natLE 1 0x03 ++ natLE 1 0 ++ sha256 Config.certChain ++ freshBytes 32 s) (bump 0x1400 5 (drew s))) s

def execChallenge (q : Spdm) (s : State) : Res := finish s (challengeF q s)

/-- The value of a measurement block (Table 18-3). -/
def measurement (s : State) (n : Nat) : Bytes :=
  match n with
  | 1 => sha256 (Config.romKey 0 ++ Config.romKey 1 ++ Config.romKey 2)
  | 2 => sha256 (window (bank s s.fw.active).header 0 128)
  | 3 => natLE 4 (securityCounter s) ++ natLE 4 (imgSecurity (bank s s.fw.active))
  | 4 => sha256 Config.configRecord
  | 5 => natLE 1 s.fw.active ++ natLE 1 (obj s 0x1400 1)
  | _ => sha256 (natLE 1 (obj s 0x1410 1) ++ natLE 1 (obj s 0x1410 8))

/-- The DMTF type of a block's value: digests 0 to 3, raw values with bit 7. -/
def measurementType (n : Nat) : Nat := match n with | 1 => 0 | 2 => 1 | 3 => 0x86 | 4 => 2 | 5 => 0x83 | _ => 3

/-- A block in DMTF measurement format. -/
def measurementBlock (s : State) (n : Nat) : Bytes :=
  let v := measurement s n
  natLE 1 n ++ natLE 1 1 ++ natLE 2 (v.length + 3) ++ natLE 1 (measurementType n) ++ natLE 2 v.length ++ v

/-- The blocks a request names: their number with 0, all of them with FFh, or one. -/
def measurementBody (q : Spdm) (s : State) : Option Bytes :=
  if q.index == 0 then some (natLE 1 6)
  else if q.index == 0xFF then some (natLE 1 6 ++ ((List.range 6).map (· + 1)).flatMap (measurementBlock s))
  else if decide (q.index ≤ 6) then some (natLE 1 1 ++ measurementBlock s q.index)
  else none

/-- GET_MEASUREMENTS (R441). -/
def getMeasurementsF (q : Spdm) (s : State) : State :=
  spdmCmd q 3 (fun x s =>
    match measurementBody q s with
    | none => spdmError q.conn errInvalidRequest s
    | some b =>
      if !q.signed then spdmSend q.conn 0x60 b s
      else if !canSign s then spdmError q.conn errUnspecified s
      else spdmLarge x (natLE 1 0x60 ++ b) s) s

def execGetMeasurements (q : Spdm) (s : State) : Res := finish s (getMeasurementsF q s)

/-- CHUNK_SEND: the parts of a large request are collected; once the last has come the request stands as a command of its own. -/
def chunkSendF (q : Spdm) (s : State) : State :=
  spdmCmd q 2 (fun x s =>
    spdmSend q.conn 0x05 [] (putConn { x with chunkIn := if q.last then [] else x.chunkIn ++ q.chunk } s)) s

def execChunkSend (q : Spdm) (s : State) : Res := finish s (chunkSendF q s)

/-- CHUNK_GET: a part of the large response; it goes once its last byte has been fetched. -/
def chunkGetF (q : Spdm) (s : State) : State :=
  spdmCmd q 2 (fun x s =>
    if x.chunkOut == [] || decide (x.chunkOut.length < q.offset) then spdmError q.conn errUnexpected s
    else
      let part := (x.chunkOut.drop q.offset).take q.length
      let s := if decide (x.chunkOut.length ≤ q.offset + q.length) then putConn { x with chunkOut := [] } s else s
      spdmSend q.conn 0x06 part s) s

def execChunkGet (q : Spdm) (s : State) : Res := finish s (chunkGetF q s)

/-- Request codes the responder supports. -/
def spdmCodes : List Nat := [0x84, 0xE1, 0xE3, 0x81, 0x82, 0x83, 0xE0, 0x85, 0x86]

/-- SPDM_UNSUPPORTED_REQUEST: ERROR UnsupportedRequest with the code of the request. -/
def spdmUnsupportedRequestF (q : Spdm) (code : Nat) (s : State) : State :=
  if spdmCodes.contains code then s
  else spdmCmd q 0 (fun _ s => spdmSend q.conn 0x7F (natLE 1 errUnsupported ++ natLE 1 code) s) s

def execSpdmUnsupportedRequest (q : Spdm) (code : Nat) (s : State) : Res := finish s (spdmUnsupportedRequestF q code s)

/-- SECURITY_PROTOCOL_LIST: Security Receive with protocol 00h returns 00h and E8h; any protocol but these two is an Invalid Field. A message
of protocol E8h is a command of its own. -/
def securityProtocolListF (e : Sqe) (s : State) : State :=
  let p := bitsOf e.cdw10 31 24
  if p == 0xE8 then s
  else adminCmd e 0x82 (fun s =>
    if p == 0 then answer e stSuccess 0 0 (dma e.fn e.dptr (window (natLE 6 0 ++ [0, 2] ++ [0x00, 0xE8]) 0 e.cdw11) s)
    else answer e stInvalidField 0 0 s) s

def execSecurityProtocolList (e : Sqe) (s : State) : Res := finish s (securityProtocolListF e s)

end Sys2Proof.Machine
end

