-- ==== Sys2Proof/Machine/Dispatch.lean ====
section
/-! DEFINITION. The meaning of each command of the block, one arm per constructor of Instr. -/

namespace Sys2Proof.Machine

open Sys2Proof

/-- The effect of a command on everything but the queue of waiting commands. -/
def exec (i : Instr) (s : State) : Host.Outcome State Fault Refusal :=
  match i with
  | .inputRise mv => Sys2Proof.Machine.execInputRise mv s
  | .inputLoss => Sys2Proof.Machine.execInputLoss s
  | .overVoltageDisconnect => Sys2Proof.Machine.execOverVoltageDisconnect s
  | .pwrEnLow => Sys2Proof.Machine.execPwrEnLow s
  | .pwrEnHigh => Sys2Proof.Machine.execPwrEnHigh s
  | .hoopRailStart f => Sys2Proof.Machine.execHoopRailStart f s
  | .powerGood f => Sys2Proof.Machine.execPowerGood f s
  | .drainSequencerTakeover => Sys2Proof.Machine.execDrainSequencerTakeover s
  | .hoopRailStop => Sys2Proof.Machine.execHoopRailStop s
  | .holdupCharged => Sys2Proof.Machine.execHoldupCharged s
  | .holdupMeasurement mj => Sys2Proof.Machine.execHoldupMeasurement mj s
  | .evaluationTick e => Sys2Proof.Machine.execEvaluationTick e s
  | .thermalBasicTimeout => Sys2Proof.Machine.execThermalBasicTimeout s
  | .overtempClear => Sys2Proof.Machine.execOvertempClear s
  | .locateNChange low => Sys2Proof.Machine.execLocateNChange low s
  | .plcaBeaconLoss => Sys2Proof.Machine.execPlcaBeaconLoss s
  | .plcaBeaconReturn => Sys2Proof.Machine.execPlcaBeaconReturn s
  | .slotCollision => Sys2Proof.Machine.execSlotCollision s
  | .announce => Sys2Proof.Machine.execAnnounce s
  | .readNvmeMiDataStructure dtyp => Sys2Proof.Machine.execReadNvmeMiDataStructure dtyp s
  | .nvmSubsystemHealthStatusPoll => Sys2Proof.Machine.execNvmSubsystemHealthStatusPoll s
  | .controllerHealthStatusPoll fn => Sys2Proof.Machine.execControllerHealthStatusPoll fn s
  | .configurationGet id => Sys2Proof.Machine.execConfigurationGet id s
  | .configurationSet id value => Sys2Proof.Machine.execConfigurationSet id value s
  | .vpdRead off len => Sys2Proof.Machine.execVpdRead off len s
  | .nvmeMiReset => Sys2Proof.Machine.execNvmeMiReset s
  | .miTunnelledAdmin opc e => Sys2Proof.Machine.execMiTunnelledAdmin opc e s
  | .basicManagementCommand off len => Sys2Proof.Machine.execBasicManagementCommand off len s
  | .getVersion q => Sys2Proof.Machine.execGetVersion q s
  | .getCapabilities q => Sys2Proof.Machine.execGetCapabilities q s
  | .negotiateAlgorithms q => Sys2Proof.Machine.execNegotiateAlgorithms q s
  | .getDigests q => Sys2Proof.Machine.execGetDigests q s
  | .getCertificate q => Sys2Proof.Machine.execGetCertificate q s
  | .challenge q => Sys2Proof.Machine.execChallenge q s
  | .getMeasurements q => Sys2Proof.Machine.execGetMeasurements q s
  | .chunkSend q => Sys2Proof.Machine.execChunkSend q s
  | .chunkGet q => Sys2Proof.Machine.execChunkGet q s
  | .spdmUnsupportedRequest q code => Sys2Proof.Machine.execSpdmUnsupportedRequest q code s
  | .securityProtocolList e => Sys2Proof.Machine.execSecurityProtocolList e s
  | .perstNAssert => Sys2Proof.Machine.execPerstNAssert s
  | .perstNDeassert => Sys2Proof.Machine.execPerstNDeassert s
  | .hostLinkUp rate width partnerFlit => Sys2Proof.Machine.execHostLinkUp rate width partnerFlit s
  | .hostLinkDown => Sys2Proof.Machine.execHostLinkDown s
  | .functionLevelReset fn => Sys2Proof.Machine.execFunctionLevelReset fn s
  | .controllerReset fn => Sys2Proof.Machine.execControllerReset fn s
  | .controllerEnable fn queues ams => Sys2Proof.Machine.execControllerEnable fn queues ams s
  | .shutdownNotification fn => Sys2Proof.Machine.execShutdownNotification fn s
  | .nvmSubsystemReset => Sys2Proof.Machine.execNvmSubsystemReset s
  | .sqTailDoorbell fn sq tail entries => Sys2Proof.Machine.execSqTailDoorbell fn sq tail entries s
  | .createIoSubmissionQueue e => Sys2Proof.Machine.execCreateIoSubmissionQueue e s
  | .deleteIoSubmissionQueue e => Sys2Proof.Machine.execDeleteIoSubmissionQueue e s
  | .createIoCompletionQueue e => Sys2Proof.Machine.execCreateIoCompletionQueue e s
  | .deleteIoCompletionQueue e => Sys2Proof.Machine.execDeleteIoCompletionQueue e s
  | .identify e => Sys2Proof.Machine.execIdentify e s
  | .getLogPage e => Sys2Proof.Machine.execGetLogPage e s
  | .computeErrorLogRead e => Sys2Proof.Machine.execComputeErrorLogRead e s
  | .integrityLogPageRead e => Sys2Proof.Machine.execIntegrityLogPageRead e s
  | .auditLogRead e => Sys2Proof.Machine.execAuditLogRead e s
  | .setFeatures e => Sys2Proof.Machine.execSetFeatures e s
  | .volatileWriteCacheSet e => Sys2Proof.Machine.execVolatileWriteCacheSet e s
  | .getFeatures e => Sys2Proof.Machine.execGetFeatures e s
  | .enterPs0 e => Sys2Proof.Machine.execEnterPs0 e s
  | .enterPs1 e => Sys2Proof.Machine.execEnterPs1 e s
  | .enterPs2 e => Sys2Proof.Machine.execEnterPs2 e s
  | .enterPs3 e => Sys2Proof.Machine.execEnterPs3 e s
  | .enterPs4 e => Sys2Proof.Machine.execEnterPs4 e s
  | .abort e => Sys2Proof.Machine.execAbort e s
  | .asynchronousEventRequest e => Sys2Proof.Machine.execAsynchronousEventRequest e s
  | .namespaceCreate e nsze ncap format => Sys2Proof.Machine.execNamespaceCreate e nsze ncap format s
  | .namespaceDelete e => Sys2Proof.Machine.execNamespaceDelete e s
  | .namespaceAttachment e controllers => Sys2Proof.Machine.execNamespaceAttachment e controllers s
  | .formatNvm e => Sys2Proof.Machine.execFormatNvm e s
  | .sanitize e => Sys2Proof.Machine.execSanitize e s
  | .firmwareImageDownload e buf => Sys2Proof.Machine.execFirmwareImageDownload e buf s
  | .firmwareCommitReplace e sig readBackOk => Sys2Proof.Machine.execFirmwareCommitReplace e sig readBackOk s
  | .firmwareCommitActivate e sig readBackOk => Sys2Proof.Machine.execFirmwareCommitActivate e sig readBackOk s
  | .firmwareCommitSelect e => Sys2Proof.Machine.execFirmwareCommitSelect e s
  | .virtualizationManagement e => Sys2Proof.Machine.execVirtualizationManagement e s
  | .setObject e buf => Sys2Proof.Machine.execSetObject e buf s
  | .getObject e => Sys2Proof.Machine.execGetObject e s
  | .getObjectDescribe e => Sys2Proof.Machine.execGetObjectDescribe e s
  | .getObjectEnumerate e => Sys2Proof.Machine.execGetObjectEnumerate e s
  | .thawQueue e => Sys2Proof.Machine.execThawQueue e s
  | .functionAbort c => Sys2Proof.Machine.execFunctionAbort c s
  | .adminInvalidOpcode e opc => Sys2Proof.Machine.execAdminInvalidOpcode e opc s
  | .read e => Sys2Proof.Machine.execRead e s
  | .write e buf => Sys2Proof.Machine.execWrite e buf s
  | .writeZeroes e => Sys2Proof.Machine.execWriteZeroes e s
  | .flush e => Sys2Proof.Machine.execFlush e s
  | .datasetManagement e ranges => Sys2Proof.Machine.execDatasetManagement e ranges s
  | .ioInvalidOpcode e opc => Sys2Proof.Machine.execIoInvalidOpcode e opc s
  | .pailSpaceAvailable => Sys2Proof.Machine.execPailSpaceAvailable s
  | .loadBasket e img => Sys2Proof.Machine.execLoadBasket e img s
  | .basketUnload e => Sys2Proof.Machine.execBasketUnload e s
  | .deferredCommandStart fn sq => Sys2Proof.Machine.execDeferredCommandStart fn sq s
  | .readResult e => Sys2Proof.Machine.execReadResult e s
  | .runJob e args => Sys2Proof.Machine.execRunJob e args s
  | .query e buf => Sys2Proof.Machine.execQuery e buf s
  | .ingest e buf => Sys2Proof.Machine.execIngest e buf s
  | .update e buf => Sys2Proof.Machine.execUpdate e buf s
  | .gatherCommand e => Sys2Proof.Machine.execGatherCommand e s
  | .resultRetentionExpiry handle => Sys2Proof.Machine.execResultRetentionExpiry handle s
  | .requestDeadline fn sq cid tier node => Sys2Proof.Machine.execRequestDeadline fn sq cid tier node s
  | .jobOverrun => Sys2Proof.Machine.execJobOverrun s
  | .pduGet p => Sys2Proof.Machine.execPduGet p s
  | .pduSet p => Sys2Proof.Machine.execPduSet p s
  | .pduDescribe p => Sys2Proof.Machine.execPduDescribe p s
  | .pduEnumerate p => Sys2Proof.Machine.execPduEnumerate p s
  | .pduInvalidOperation p op => Sys2Proof.Machine.execPduInvalidOperation p op s
  | .relayResponse tag status value flags => Sys2Proof.Machine.execRelayResponse tag status value flags s
  | .relayTimeout tag => Sys2Proof.Machine.execRelayTimeout tag s
  | .replayWindowExpiry path seq => Sys2Proof.Machine.execReplayWindowExpiry path seq s
  | .valueRefresh block => Sys2Proof.Machine.execValueRefresh block s
  | .objectWrite fn index sub count value => Sys2Proof.Machine.execObjectWrite fn index sub count value s
  | .storeRecordCommit ok => Sys2Proof.Machine.execStoreRecordCommit ok s
  | .fwFlashSequencerDone => Sys2Proof.Machine.execFwFlashSequencerDone s
  | .busFault addr => Sys2Proof.Machine.execBusFault addr s
  | .functionQueuesAbort fn => Sys2Proof.Machine.execFunctionQueuesAbort fn s
  | .bootBankSelect bank => Sys2Proof.Machine.execBootBankSelect bank s
  | .policyGroupSet g values => Sys2Proof.Machine.execPolicyGroupSet g values s
  | .cellRowLimitSet rows => Sys2Proof.Machine.execCellRowLimitSet rows s
  | .coherentCreate => Sys2Proof.Machine.execCoherentCreate s
  | .coherentDelete => Sys2Proof.Machine.execCoherentDelete s
  | .coherentTakeHome => Sys2Proof.Machine.execCoherentTakeHome s
  | .hbmRetirePage => Sys2Proof.Machine.execHbmRetirePage s
  | .hbmRetireBank => Sys2Proof.Machine.execHbmRetireBank s
  | .basicModeCommand => Sys2Proof.Machine.execBasicModeCommand s
  | .basicModeClear => Sys2Proof.Machine.execBasicModeClear s
  | .arrayTestRequest => Sys2Proof.Machine.execArrayTestRequest s
  | .indexCreate => Sys2Proof.Machine.execIndexCreate s
  | .indexDelete => Sys2Proof.Machine.execIndexDelete s
  | .indexCommit => Sys2Proof.Machine.execIndexCommit s
  | .tableCreate => Sys2Proof.Machine.execTableCreate s
  | .tableDelete => Sys2Proof.Machine.execTableDelete s
  | .syncCreate => Sys2Proof.Machine.execSyncCreate s
  | .syncDelete => Sys2Proof.Machine.execSyncDelete s
  | .syncSignal => Sys2Proof.Machine.execSyncSignal s
  | .nodeDrain => Sys2Proof.Machine.execNodeDrain s
  | .nodeEndDrain => Sys2Proof.Machine.execNodeEndDrain s
  | .portIsolate port => Sys2Proof.Machine.execPortIsolate port s
  | .portRelease port => Sys2Proof.Machine.execPortRelease port s
  | .deterministicModeSet on => Sys2Proof.Machine.execDeterministicModeSet on s
  | .deterministicModeApply => Sys2Proof.Machine.execDeterministicModeApply s
  | .auditCommit => Sys2Proof.Machine.execAuditCommit s
  | .moduleRestartCommand => Sys2Proof.Machine.execModuleRestartCommand s
  | .fabricNodeReset => Sys2Proof.Machine.execFabricNodeReset s
  | .securityVersionRaise => Sys2Proof.Machine.execSecurityVersionRaise s
  | .hoopWatchdogExpiry => Sys2Proof.Machine.execHoopWatchdogExpiry s
  | .pageReadDone phys cws pair => Sys2Proof.Machine.execPageReadDone phys cws pair s
  | .rebuildDone phys bad => Sys2Proof.Machine.execRebuildDone phys bad s
  | .programDone phys planes other => Sys2Proof.Machine.execProgramDone phys planes other s
  | .eraseDone sb failed => Sys2Proof.Machine.execEraseDone sb failed s
  | .dieTimeout channel die => Sys2Proof.Machine.execDieTimeout channel die s
  | .suspendIssue channel die => Sys2Proof.Machine.execSuspendIssue channel die s
  | .suspendReady channel die => Sys2Proof.Machine.execSuspendReady channel die s
  | .suspensionLimit channel die => Sys2Proof.Machine.execSuspensionLimit channel die s
  | .journalSegmentTimer => Sys2Proof.Machine.execJournalSegmentTimer s
  | .journalSegmentVerified r => Sys2Proof.Machine.execJournalSegmentVerified r s
  | .mergeReadDone lpn poisoned => Sys2Proof.Machine.execMergeReadDone lpn poisoned s
  | .checkpointSlice => Sys2Proof.Machine.execCheckpointSlice s
  | .gcStart => Sys2Proof.Machine.execGcStart s
  | .patrolRead phys cw => Sys2Proof.Machine.execPatrolRead phys cw s
  | .mapLineRebuildDone line => Sys2Proof.Machine.execMapLineRebuildDone line s
  | .tileFetchDone object tile clean => Sys2Proof.Machine.execTileFetchDone object tile clean s
  | .dirtyTileTimeout object tile => Sys2Proof.Machine.execDirtyTileTimeout object tile s
  | .placementEvaluation moves => Sys2Proof.Machine.execPlacementEvaluation moves s
  | .migrationInstallDone object tile crcOk => Sys2Proof.Machine.execMigrationInstallDone object tile crcOk s
  | .migrationRelease object tile => Sys2Proof.Machine.execMigrationRelease object tile s
  | .nodeFence => Sys2Proof.Machine.execNodeFence s
  | .nodeLostDeclare node => Sys2Proof.Machine.execNodeLostDeclare node s
  | .t3ResponseTimeout tag => Sys2Proof.Machine.execT3ResponseTimeout tag s
  | .tileRecoveryTimeout object tile => Sys2Proof.Machine.execTileRecoveryTimeout object tile s
  | .scrubLine addr outcome symbol holds => Sys2Proof.Machine.execScrubLine addr outcome symbol holds s
  | .hbmControllerFail stack => Sys2Proof.Machine.execHbmControllerFail stack s
  | .channelEngineFail channel => Sys2Proof.Machine.execChannelEngineFail channel s
  | .cellFail cell => Sys2Proof.Machine.execCellFail cell s
  | .hoopLockstepMismatch pair => Sys2Proof.Machine.execHoopLockstepMismatch pair s
  | .hoopOscillatorLoss => Sys2Proof.Machine.execHoopOscillatorLoss s
  | .moduleReferenceLoss => Sys2Proof.Machine.execModuleReferenceLoss s
  | .serviceCoreWatchdog core cmds => Sys2Proof.Machine.execServiceCoreWatchdog core cmds s
  | .arrayTest rows cells => Sys2Proof.Machine.execArrayTest rows cells s
  | .jobStart => Sys2Proof.Machine.execJobStart s
  | .expressWindowStart window => Sys2Proof.Machine.execExpressWindowStart window s
  | .contextSaved => Sys2Proof.Machine.execContextSaved s
  | .jobResume => Sys2Proof.Machine.execJobResume s
  | .jobEnd => Sys2Proof.Machine.execJobEnd s
  | .mma d => Sys2Proof.Machine.execMma d s
  | .shape d => Sys2Proof.Machine.execShape d s
  | .patternLoad d => Sys2Proof.Machine.execPatternLoad d s
  | .scaleLoad d => Sys2Proof.Machine.execScaleLoad d s
  | .rescaleLoad d => Sys2Proof.Machine.execRescaleLoad d s
  | .amax d => Sys2Proof.Machine.execAmax d s
  | .convert d => Sys2Proof.Machine.execConvert d s
  | .rescale d => Sys2Proof.Machine.execRescale d s
  | .vec d => Sys2Proof.Machine.execVec d s
  | .vtrans d => Sys2Proof.Machine.execVtrans d s
  | .reduce d => Sys2Proof.Machine.execReduce d s
  | .skim d => Sys2Proof.Machine.execSkim d s
  | .merge d => Sys2Proof.Machine.execMerge d s
  | .gather d => Sys2Proof.Machine.execGather d s
  | .churn d => Sys2Proof.Machine.execChurn d s
  | .tileLoad d => Sys2Proof.Machine.execTileLoad d s
  | .tileStore d => Sys2Proof.Machine.execTileStore d s
  | .meshMove d => Sys2Proof.Machine.execMeshMove d s
  | .outWrite d => Sys2Proof.Machine.execOutWrite d s
  | .waitOperation d => Sys2Proof.Machine.execWaitOperation d s
  | .signal d => Sys2Proof.Machine.execSignal d s
  | .threadLoad t tg r => Sys2Proof.Machine.execThreadLoad t tg r s
  | .threadStore t tg data => Sys2Proof.Machine.execThreadStore t tg data s
  | .threadAtomic t tg op a b => Sys2Proof.Machine.execThreadAtomic t tg op a b s
  | .threadFence t => Sys2Proof.Machine.execThreadFence t s
  | .threadExit t => Sys2Proof.Machine.execThreadExit t s
  | .candidateSubmit t pool cands => Sys2Proof.Machine.execCandidateSubmit t pool cands s
  | .acquire w h n => Sys2Proof.Machine.execAcquire w h n s
  | .release w h n => Sys2Proof.Machine.execRelease w h n s
  | .set w h => Sys2Proof.Machine.execSet w h s
  | .clear w h => Sys2Proof.Machine.execClear w h s
  | .wait w h => Sys2Proof.Machine.execWait w h s
  | .arrive w h => Sys2Proof.Machine.execArrive w h s
  | .await w h g => Sys2Proof.Machine.execAwait w h g s
  | .add w h v => Sys2Proof.Machine.execAdd w h v s
  | .syncRead w h => Sys2Proof.Machine.execSyncRead w h s
  | .waitGe w h v => Sys2Proof.Machine.execWaitGe w h v s
  | .cas w h a b => Sys2Proof.Machine.execCas w h a b s
  | .syncCancel w h => Sys2Proof.Machine.execSyncCancel w h s
  | .barrierReleaseInstant h => Sys2Proof.Machine.execBarrierReleaseInstant h s
  | .batchingWindowClose => Sys2Proof.Machine.execBatchingWindowClose s
  | .listScanDone index list r => Sys2Proof.Machine.execListScanDone index list r s
  | .epochCommitTimer index => Sys2Proof.Machine.execEpochCommitTimer index s
  | .epochCommitResume index => Sys2Proof.Machine.execEpochCommitResume index s
  | .ingestRecord fn sq cid => Sys2Proof.Machine.execIngestRecord fn sq cid s
  | .compaction index list => Sys2Proof.Machine.execCompaction index list s
  | .churnRecord fn sq r => Sys2Proof.Machine.execChurnRecord fn sq r s
  | .dataFlit port h msgs => Sys2Proof.Machine.execDataFlit port h msgs s
  | .idleFlit port h => Sys2Proof.Machine.execIdleFlit port h s
  | .identityFlit port x => Sys2Proof.Machine.execIdentityFlit port x s
  | .coordinateClaim port x y z sentPort => Sys2Proof.Machine.execCoordinateClaim port x y z sentPort s
  | .claimAdoption => Sys2Proof.Machine.execClaimAdoption s
  | .timeExchange port t1 t2 t3 t4 => Sys2Proof.Machine.execTimeExchange port t1 t2 t3 t4 s
  | .timeExchangeTimer => Sys2Proof.Machine.execTimeExchangeTimer s
  | .timeMismatch => Sys2Proof.Machine.execTimeMismatch s
  | .isolationFlit port => Sys2Proof.Machine.execIsolationFlit port s
  | .retrainRequest port => Sys2Proof.Machine.execRetrainRequest port s
  | .portTrainingDone port lanes d => Sys2Proof.Machine.execPortTrainingDone port lanes d s
  | .wyvasLinkDown port => Sys2Proof.Machine.execWyvasLinkDown port s
  | .planeLost plane => Sys2Proof.Machine.execPlaneLost plane s
  | .wyvasRead m => Sys2Proof.Machine.execWyvasRead m s
  | .wyvasWrite m => Sys2Proof.Machine.execWyvasWrite m s
  | .wyvasAtomic m => Sys2Proof.Machine.execWyvasAtomic m s
  | .delivery m => Sys2Proof.Machine.execDelivery m s
  | .response m => Sys2Proof.Machine.execResponse m s
  | .nodeUnavailableNotice m => Sys2Proof.Machine.execNodeUnavailableNotice m s
  | .nodeAvailableNotice m => Sys2Proof.Machine.execNodeAvailableNotice m s
  | .nodeLostNotice m => Sys2Proof.Machine.execNodeLostNotice m s
  | .planeLostNotice m => Sys2Proof.Machine.execPlaneLostNotice m s
  | .planeRestoredNotice m => Sys2Proof.Machine.execPlaneRestoredNotice m s
  | .fenceNotice m => Sys2Proof.Machine.execFenceNotice m s
  | .reissueTimeout tag => Sys2Proof.Machine.execReissueTimeout tag s
  | .tagRetentionExpiry src tag => Sys2Proof.Machine.execTagRetentionExpiry src tag s
  | .readyReport node => Sys2Proof.Machine.execReadyReport node s
  | .systemReady => Sys2Proof.Machine.execSystemReady s
  | .opticalSignalDetected port => Sys2Proof.Machine.execOpticalSignalDetected port s
  | .controlFlitInterval port kind => Sys2Proof.Machine.execControlFlitInterval port kind s

end Sys2Proof.Machine
end

