-- ==== Sys2Proof/Safety.lean ====
section
/-! DEFINITION. The terms in which statements say what a command did and what it left alone, and the invariant of the throttle ladder. -/

namespace Sys2Proof.Machine

open Sys2Proof

/-- Of the object dictionary only the values of the listed subindices may differ: every other value, the store, what waits for the Hoop and the
last status are as before. -/
def objsBut (l : List (Nat × Nat)) (s t : State) : Prop :=
  t.dict = { s.dict with vals := t.dict.vals } ∧ ∀ i j, j < 256 → (i, j) ∉ l → obj t i j = obj s i j

/-- An operation of job `j` has completed: the stream stands at the next operation, ArrayState.5 has counted it, and nothing else of the jobs has
changed (R336). -/
def opCompleted (j : Job) (s t : State) : Prop :=
  t.jobs = { s.jobs with jobs := updWhere (·.id == j.id) (fun k => { k with pos := k.pos + 1 }) s.jobs.jobs } ∧
  obj t 0x3000 5 = (obj s 0x3000 5 + 1) % 2 ^ 64

/-- The operation changed the array's memories and the listed counts, besides the position of its job, and nothing else. -/
def opFrame (l : List (Nat × Nat)) (s t : State) : Prop :=
  t = { s with dict := t.dict, arr := t.arr, jobs := t.jobs } ∧ objsBut ((0x3000, 5) :: l) s t

/-- Of the cell array only the SRAM and its poison marks differ, and those only at the keys that `touched` picks. -/
def sramBut (touched : Nat → Prop) (s t : State) : Prop :=
  t.arr = { s.arr with sram := t.arr.sram, poison := t.arr.poison } ∧
  ∀ a, ¬touched a → memByte t.arr.sram a = memByte s.arr.sram a ∧ memByte t.arr.poison a = memByte s.arr.poison a

/-- The keys of `n` bytes of a cell's SRAM from an offset. -/
def inSram (c off n a : Nat) : Prop := sramKey c off ≤ a ∧ a < sramKey c off + n

/-- The rows a vector operation writes, each with its elements, stand in the destination: row `r` of a cell holds its elements packed in the
destination format (R345). -/
def rowsWritten (v : Vdesc) (df : Nat) (s t : State) (outs : List (Nat × Nat × List Nat)) : Prop :=
  (∀ o ∈ outs, sramRead t o.1 (v.dst + 64 * v.stride * o.2.1) (rowBytes df o.2.2.length) =
    packRow df (sramNat s o.1 (v.dst + 64 * v.stride * o.2.1 + rowBytes df o.2.2.length - 1) 1) o.2.2) ∧
  sramBut (fun a => ∃ o ∈ outs, inSram o.1 (v.dst + 64 * v.stride * o.2.1) (rowBytes df o.2.2.length) a) s t

/-- The destination rows of a vector operation do not overlap and lie in the cell's 2 MiB. -/
def rowsFit (v : Vdesc) (df n : Nat) : Prop :=
  (rowBytes df n ≤ 64 * v.stride ∨ v.rows ≤ 1) ∧ v.dst + 64 * v.stride * (v.rows - 1) + rowBytes df n ≤ 2 ^ 21

/-- Regions of a cell's SRAM, each an address and a length, lie in its 2 MiB, and no two of them overlap. -/
def regionsFit (l : List (Nat × Nat)) : Prop :=
  (∀ r ∈ l, r.1 + r.2 ≤ 2 ^ 21) ∧ l.Pairwise fun a b => a.1 + a.2 ≤ b.1 ∨ b.1 + b.2 ≤ a.1

/-- The sum and the whey word that an MMA leaves for a row and a column of a partition after pass `t`: the column's sum over the pass's K rows,
started from the words there where the first pass accumulates, and from the pass before in every later one (R222, R250, R252). -/
def mmaWord (s : State) (x : Mma) (p m n : Nat) : Nat → Nat × Nat
  | 0 => finishSum x (if x.acc then some (sramNat s ((drainCells s s.arr.shape p).getD (n / 64) 0) (wordAt x.sAddr m n) 4,
        if x.whey then sramNat s ((drainCells s s.arr.shape p).getD (n / 64) 0) (wordAt x.yAddr m n) 4 else 0) else none)
      (columnSum (passStakes x s.arr.shape 0 p s).1 x (chainRows s s.arr.shape p) (passK s x s.arr.shape p 0)
        (sliceBytes s x (mmaSlices s x (chainRows s s.arr.shape p) (passK s x s.arr.shape p 0) 0 m)) n)
  | t + 1 => finishSum x (some ((mmaWord s x p m n t).1 % 2 ^ 32, if x.whey then (mmaWord s x p m n t).2 % 2 ^ 32 else 0))
      (columnSum (passStakes x s.arr.shape (t + 1) p s).1 x (chainRows s s.arr.shape p) (passK s x s.arr.shape p (t + 1))
        (sliceBytes s x (mmaSlices s x (chainRows s s.arr.shape p) (passK s x s.arr.shape p (t + 1)) (t + 1) m)) n)

/-- Pass `t` of an MMA in a partition finds what it needs: a loaded record in every chain row that holds a valid K row, slices whose bytes are not
poisoned and, behind a record that the stream loaded, lie in banks of their own, and weights that are not poisoned (R219, R226, R227). -/
def mmaPassReady (s : State) (j : Job) (x : Mma) (p t : Nat) : Prop :=
  patMissing s x (chainRows s s.arr.shape p) (passK s x s.arr.shape p t) t (if s.arr.shape = 0 then 1024 else x.m) = false ∧
  (passStakes x s.arr.shape t p s).2 = false ∧
  ∀ m < x.m, ∀ c, ∀ a : Int, ∀ cell, (mmaSlices s x (chainRows s s.arr.shape p) (passK s x s.arr.shape p t) t m)[c]? = some (cell, some a) →
    sramBad s cell a.toNat (elemBytes x.af (min (kPerRow x.wf) (passK s x s.arr.shape p t - c * kPerRow x.wf))) = false ∧
    (streamLoaded j ((x.pat + t) % 64) = true → (banksOf (a.toNat, sliceLen x.af)).any (mmaBanks x).contains = false)

/-- The regions that an MMA writes: its sums, and its whey words. -/
def mmaOuts (x : Mma) : List (Nat × Nat) := (x.sAddr, 256 * x.m) :: if x.whey then [(x.yAddr, 256 * x.m)] else []

/-- A partition of an MMA has its columns in its drain cells, and nothing that the MMA reads there is what it writes. -/
def mmaApart (s : State) (x : Mma) (p : Nat) : Prop :=
  x.n ≤ 64 * (drainCells s s.arr.shape p).length ∧
  ∀ t < mmaPasses s x s.arr.shape p,
    (0 < t ∨ x.load = 1 → regionsFit ((x.wAddr + t * blockLen x.wf, blockLen x.wf) :: mmaOuts x)) ∧
    (x.preload = true → regionsFit ((x.pAddr, blockLen x.wf) :: mmaOuts x)) ∧
    ∀ m < x.m, ∀ q ∈ mmaSlices s x (chainRows s s.arr.shape p) (passK s x s.arr.shape p t) t m, ∀ a : Int, q.2 = some a →
      regionsFit ((a.toNat, sliceLen x.af) :: mmaOuts x)

/-- The asker's side of a synchronisation operation: a ready thread with no outstanding store whose basket names the handle, or another node whose
request comes for the first time, at a node that serves the others (R186, R329, R332, R378). -/
def syncAsker (who : SyncWho) (h : Nat) (s : State) : Prop :=
  match who with
  | .thread t => ∃ j x, readyThread s t = some (j, x) ∧ x.stores = 0 ∧ inSyncTable j h = true
  | .remote node tag fn => (s.wyv.keptResp.find? fun k => k.1 == node && k.2.1 == tag) = none ∧
      (s.sync.objs.any fun o => o.waiters.any fun w => w.who == .remote node tag fn) = false ∧ selfDown s = false
  | .stream => False

/-- The command is operation `x.1` of Table 14-4 on handle `h`, with the operands `x.2`. -/
def syncCommand (c : Instr) (w : SyncWho) (h : Nat) (x : Nat × Nat × Nat) : Prop :=
  (∃ n, c = .acquire w h n ∧ x = (0, n, 0)) ∨ (∃ n, c = .release w h n ∧ x = (1, n, 0)) ∨ (c = .set w h ∧ x = (2, 0, 0)) ∨
  (c = .clear w h ∧ x = (3, 0, 0)) ∨ (c = .wait w h ∧ x = (4, 0, 0)) ∨ (c = .arrive w h ∧ x = (5, 0, 0)) ∨ (∃ g, c = .await w h g ∧ x = (6, g, 0)) ∨
  (∃ v, c = .add w h v ∧ x = (7, v, 0)) ∨ (c = .syncRead w h ∧ x = (8, 0, 0)) ∨ (∃ v, c = .waitGe w h v ∧ x = (9, v, 0)) ∨
  (∃ a b, c = .cas w h a b ∧ x = (10, a, b))

/-- `who` may operate on object `o`, which is homed here under handle `h` and, where another node asks, granted to the function (R329, R332, R337). -/
def syncReady (who : SyncWho) (h : Nat) (o : SyncObj) (s : State) : Prop :=
  syncHome s h = ownNode s ∧ findSync s (h % 65536) = some o ∧ o.homed = true ∧ syncAsker who h s ∧
  ∀ node tag fn, who = .remote node tag fn → granted o.grants fn = true

/-- An object without what the twin has of it. -/
def syncLike (a b : Option SyncObj) : Prop := a.map (fun o => { o with mirrored := false }) = b.map fun o => { o with mirrored := false }

/-- Object `o` of this home is there; where the system is twinned with a twin port up the twin has its record, in a write of its own if the record or
the object is new (R181, R337). -/
def syncNow (o : SyncObj) (s t : State) : Prop :=
  syncLike (findSync t o.no) (some o) ∧ (twinned s = false → findSync t o.no = some o) ∧
  (twinned s = true → portUp s 12 = true ∨ portUp s 13 = true → findSync t o.no = some { o with mirrored := true } ∧
    ((∀ k ∈ s.sync.objs, k.no = o.no → syncRecord k ≠ syncRecord o) → ∃ r ∈ t.wyv.requests, r.plane = 2 ∧ r.msg.mtype = msgWrite ∧
      r.msg.target = wyvasAddr (ownNode s) 1 (syncBase + 64 * o.no) ∧ r.msg.data = syncRecord o))

/-- What a synchronisation operation never touches: other objects, the block and NAND state, tiles, indexes, tables, power and the host queues. -/
def syncFrame (no : Nat) (s t : State) : Prop :=
  (∀ k, k ≠ no → syncLike (findSync t k) (findSync s k)) ∧ t.blk = s.blk ∧ t.nand = s.nand ∧ t.tier = s.tier ∧ t.retr = s.retr ∧ t.churn = s.churn ∧
  t.pwr = s.pwr ∧ t.host = s.host ∧ t.mgmt = s.mgmt ∧ t.fw = s.fw ∧ t.integ = s.integ ∧ t.time = s.time ∧ t.thr = s.thr

/-- The operation of `who` completed with value `v`, and the object became `o'` and then served its waiters; another node has its Response (R337, R338,
R370). -/
def syncDone (who : SyncWho) (v : Nat) (o' : SyncObj) (s t : State) : Prop :=
  (∃ l, t.sync.results = s.sync.results ++ (who, v) :: l) ∧ syncNow (serveObj o').1 s t ∧ syncFrame o'.no s t ∧
  ∀ node tag fn, who = .remote node tag fn → ∃ r, (node, tag, r) ∈ t.wyv.keptResp ∧ r.op = 0 ∧ r.data = natLE 8 v ++ List.replicate 56 0

/-- The operation of `who` waits at the object: it stands last among the waiters, and a thread that asked is suspended (R338). -/
def syncWaits (who : SyncWho) (op n : Nat) (o : SyncObj) (s t : State) : Prop :=
  syncLike (findSync t o.no) (some { o with waiters := o.waiters ++ [{ who := who, op := op, n := n }] }) ∧ t.sync.results = s.sync.results ∧
  (∀ k, who = .thread k → ∀ x, findThread t k = some x → x.wait = true) ∧ syncFrame o.no s t

/-- The operation of another node was turned away with a status, and no object has changed (Table 15-6). -/
def syncTurned (node tag status : Nat) (s t : State) : Prop :=
  (∃ r : Msg, (node, tag, r) ∈ t.wyv.keptResp ∧ r.op = status ∧ r.data = []) ∧ (∀ k, syncLike (findSync t k) (findSync s k)) ∧
  t.sync.results = s.sync.results ∧ t = { s with sync := t.sync, wyv := t.wyv, dict := t.dict }

/-- The operation went out as a Sync request to node `dst`, on the twin ports where the twin homes the object (R181, R337, R370). -/
def syncSent (who : SyncWho) (dst : Nat) (twin : Bool) (x : Nat × Nat × Nat) (h : Nat) (s t : State) : Prop :=
  (∃ r ∈ t.wyv.requests, r.who = who ∧ r.dst = dst ∧ (r.plane = 2 ↔ twin = true) ∧ r.msg.mtype = msgSync ∧ r.msg.op = x.1 ∧ r.msg.target = h ∧
    r.msg.data = natLE 8 x.2.1 ++ natLE 8 x.2.2 ++ List.replicate 48 0) ∧
  (∀ k, syncLike (findSync t k) (findSync s k)) ∧ t.sync.results = s.sync.results ∧ t.arr = s.arr ∧ t.host = s.host ∧ t.blk = s.blk ∧ t.tier = s.tier

/-- A basket command passes its gate: its entry is fetched on a compute queue and may start, the module computes, and the entry keeps Table 3-3
(R50, R61, R75, R158, R397). -/
def basketReady (e : Sqe) (opc : Nat) (digest : Bool) (region : Option Nat) (x : Inflight) (s : State) : Prop :=
  startable e opc s = some x ∧ isCompute s e.fn e.sq = true ∧ basicMode s = false ∧ computeReady s = true ∧ s.wyv.rejoining = false ∧
  s.blk.sanitize = none ∧ s.jobs.detNew = none ∧ entryOk e digest region = true ∧ (wantsExpress e = true → obj s (fnIdx e.fn) 3 ≠ 0)

/-- Messages were handed to the ports, or held until the fabric level rises: port records, sent and waiting messages and the counts WyvasState.1, .3
and .4 may differ, nothing else of Wyvas or of the dictionary (R366, R367, R372, R449). -/
def messagesSent (s t : State) : Prop :=
  t.wyv = { s.wyv with ports := t.wyv.ports, tx := t.wyv.tx, held := t.wyv.held, inject := t.wyv.inject } ∧
  objsBut [(0x4002, 1), (0x4002, 3), (0x4002, 4)] s t

/-- The request `m` of another node was answered with one Response, kept with its tag, and sent; the counts of what was sent are all that changed in
the dictionary (R370, R378). -/
def answered (m : Msg) (st : Nat) (data : Bytes) (poison : Nat) (s t : State) : Prop :=
  (∃ r : Msg, t.wyv.keptResp = (m.src, m.tag, r) :: s.wyv.keptResp ∧ r.mtype = 8 ∧ r.dst = m.src ∧ r.src = ownNode s ∧ r.tag = m.tag ∧ r.op = st ∧
    r.data = data ∧ r.poisonMask = poison) ∧
  messagesSent { s with wyv := { s.wyv with rx := s.wyv.rx.erase m, keptResp := t.wyv.keptResp } } t

/-- The request `m` comes for the first time, at a node that serves the others (R186, R378). -/
def firstAsked (m : Msg) (s : State) : Prop :=
  (s.wyv.keptResp.find? fun k => k.1 == m.src && k.2.1 == m.tag) = none ∧ selfDown s = false ∧ underWayFor s m = false

/-- The command `c` brings the request `m` of another node: a read, which is not of a page whose map entries are being rebuilt, a write, an
atomic or a delivery (R133, R370). -/
def requestOf (c : Instr) (m : Msg) (s : State) : Prop :=
  (c = .wyvasRead m ∧ (addrSpace m.target = 1 → flashHeld s (addrOff m.target) m.dataLength = false)) ∨ c = .wyvasWrite m ∨ c = .wyvasAtomic m ∨
  c = .delivery m

/-- The request `m` went on to the other system of the pair, which homes its data, as a request of type `ty` for the node that asked; nothing else
happened here (R181, R182). -/
def forwardedHome (m : Msg) (ty : Nat) (s t : State) : Prop :=
  t.wyv.keptResp = s.wyv.keptResp ∧ (∃ r : Request, t.wyv.requests = s.wyv.requests ++ [r] ∧ r.who = .remote m.src m.tag m.function ∧ r.plane = 2 ∧
    r.msg.mtype = ty ∧ r.msg.target = m.target ∧ r.msg.function = m.function ∧ (ty ≠ 1 → r.msg.data = m.data)) ∧
  t = { s with wyv := t.wyv, dict := t.dict }

/-- An HBM access moved only the window's bytes and marks, the pages that the twin has missed, and what the Pail takes of coherent pages: no flash page,
and of Wyvas and the dictionary what the answer moves (R17, R18, R179). -/
def hbmFrame (s t : State) : Prop :=
  t = { s with wyv := t.wyv, dict := t.dict, blk := t.blk, nand := t.nand
               tier := { s.tier with window := t.tier.window, windowPoison := t.tier.windowPoison, stale := t.tier.stale } } ∧
  t.nand.pages = s.nand.pages

/-- Outside `n` bytes from `off`, every byte of the window that was not poisoned reads as before. -/
def windowKept (off n : Nat) (s t : State) : Prop :=
  ∀ a, ¬(off ≤ a ∧ a < off + n) → (∀ c ∈ s.tier.windowPoison, c.1 ≠ a) → memByte t.tier.window a = memByte s.tier.window a


/-- The Hoop executes a request at once: it runs, nothing waits for it, and no earlier write is under way (R91, R397). -/
def hoopFree (r : HoopReq) (s : State) : Prop := s.pwr.hoopRail = true ∧ s.dict.queue = [] ∧ mustWait r s = false

/-- A value that the rim region keeps went there: of the tiers only the window and the pages that the twin has missed moved, with what the Pail takes
of them, and of the rest the messages that carry it on (R172, R395). -/
def rimFrame (s t : State) : Prop :=
  t = { s with wyv := t.wyv, dict := t.dict, jobs := t.jobs, blk := t.blk, nand := t.nand
               tier := { s.tier with window := t.tier.window, stale := t.tier.stale } } ∧
  t.nand.pages = s.nand.pages ∧ t.dict = { s.dict with vals := t.dict.vals, lastStatus := t.dict.lastStatus, lastSub := t.dict.lastSub }

/-- Nothing but the status of the last action differs. -/
def statusOnly (st sub : Nat) (s t : State) : Prop := t = { s with dict := { s.dict with lastStatus := st, lastSub := sub } }

/-- A request frame with a well-formed header for this module, in mode 0, whose source and sequence have not been seen (R94, R96, R444). -/
def pduServed (p : Pdu) (s : State) : Prop :=
  s.pwr.hoopRail = true ∧ (∃ mac, p.path = .bus mac) ∧ p.dst = obj s 0x1000 7 ∧ (∀ k ∈ s.mgmt.kept, ¬(k.path = p.path ∧ k.seq = p.seq)) ∧
  (∀ d ∈ s.mgmt.dups, ¬(d.path = p.path ∧ d.seq = p.seq)) ∧ underWay s p = false ∧ p.version = 1 ∧ 1 ≤ p.count ∧ p.vlen ≤ 1484 ∧
  p.vlen ≤ p.value.length ∧ p.rsvd = false ∧ (p.target = 0xFFFF ∨ p.target < 0x8000) ∧ obj s 0x1410 1 = 0 ∧ s.dict.queue = [] ∧
  s.dict.pendingWrite = none

/-- The request was answered with one response, which is kept for replay (R95, R96). -/
def pduAnswered (op : Nat) (p : Pdu) (status : Nat) (value : Bytes) (stale : Bool) (s t : State) : Prop :=
  ∃ o : PduOut, t.mgmt.tx = s.mgmt.tx ++ [o] ∧ o ∈ t.mgmt.kept ∧ o.path = p.path ∧ o.op = op % 128 + 128 ∧ o.seq = p.seq ∧ o.index = p.index ∧
    o.sub = p.sub ∧ o.count = p.count ∧ o.status = status ∧ o.value = value ∧ o.stale = stale ∧ o.replayed = false ∧ o.trailer = none

/-- An admin command of a fetched entry that starts: it is of the admin queue, with no reserved bit, a PSDT of Table 4-6 and not fused (R4). -/
def adminReady (e : Sqe) (opc : Nat) (s : State) : Prop := (∃ x, startable e opc s = some x) ∧ e.sq = 0 ∧ e.rsvd = false ∧ e.fuse = 0 ∧ e.psdt < 3

/-- The commands of a queue in flight, oldest first, by identifier and opcode. -/
def inFlightOf (s : State) (fn id : Nat) : List (Nat × Nat) :=
  (s.host.inflight.filter fun x => x.fn == fn && x.sq == id).map fun x => (x.cid, x.opc)

/-- The command completed with a status and two results, after the completions there were. -/
def completed (e : Sqe) (st : Status) (d0 d1 : Nat) (s t : State) : Prop := t.host.cqes = s.host.cqes ++ [cqeOf e.fn e.sq e.cid st d0 d1]

/-- An admin command moved only what the listed parts hold: of the host's side the records of commands, and nothing of flash, tiers or the array. -/
def adminFrame (s t : State) : Prop :=
  t.blk = s.blk ∧ t.nand = s.nand ∧ t.tier = s.tier ∧ t.arr = s.arr ∧ t.jobs = s.jobs ∧ t.retr = s.retr ∧ t.churn = s.churn ∧ t.sync = s.sync ∧
  t.wyv = s.wyv ∧ t.pwr = s.pwr ∧ t.dict = s.dict ∧ t.integ = s.integ ∧ t.mgmt = s.mgmt ∧ t.time = s.time

/-- An admin command moved only what the listed parts hold, and the records of the store. -/
def recordFrame (s t : State) : Prop := adminFrame { s with integ := { s.integ with store := t.integ.store } } t

/-- Of the flash side only pages of the object store were given up, as placed objects and indexes went (R157). -/
def pagesReleased (s t : State) : Prop :=
  t.nand = s.nand ∧ t.blk = { s.blk with pail := t.blk.pail, merges := t.blk.merges, map := t.blk.map, jbuf := t.blk.jbuf }

/-- A Write's pieces were accepted: their bytes are what a reader finds from then on, every page of them stands in the Pail, and where no page of the
Pail waits for others of its group, every other page reads as before and the map has not moved (R55, R136). -/
def writeTaken (ps : List (Nat × Nat × Nat)) (w : Bytes) (s t : State) : Prop :=
  (∀ p ∈ ps, ∃ q ∈ t.blk.pail, q.lpn = p.1) ∧
  ((ps.map (·.1)).Nodup → total (ps.map (·.2.2)) ≤ w.length →
    (ps.flatMap fun p => memRead (pageData t p.1).1 p.2.1 p.2.2) = w.take (total (ps.map (·.2.2)))) ∧
  ((∀ q ∈ s.blk.pail, q.group = none) → t.blk.map = s.blk.map ∧ ∀ l, l ∉ ps.map (·.1) → pageData t l = pageData s l) ∧
  t.nand.pages = s.nand.pages ∧ t.tier = s.tier ∧ t.arr = s.arr

/-- The map's entry of a page once the program unit that carries it at address `a` has verified: of a host page the new place if the Pail still holds
that very page, of a copy the new place if the entry still points at its source, and otherwise as it was (R136, R147, R148, R149). -/
def entryAfter (s : State) (stream a : Nat) (x : UnitPage) : Nat :=
  let e := mapGet s x.lpn
  if x.src = none then (if s.blk.pail.any x.is then mapEntry (x.page.poison == 15) (stream == 6) stream a else e)
  else if x.page.kind ≠ 2 ∧ entryValid e = true ∧ some (entryPhys e) = x.src then
    mapEntry (entryPoison e || x.page.poison != 0) (entryPinned e) (entryStream e) a
  else e

/-- The map reads as before, where no page of the Pail waits for others of its group (R164). -/
def mapKept (s t : State) : Prop := (∀ q ∈ s.blk.pail, q.group = none) → ∀ l, mapGet t l = mapGet s l

/-- The blocks of a namespace that `len` bytes from a byte cover read zero, and no flash page, tile or cell has changed (R58, R157). -/
def readsZero (n : Ns) (off len : Nat) (s t : State) : Prop :=
  (∀ p ∈ piecesOf n off len, memRead (pageData t p.1).1 p.2.1 p.2.2 = List.replicate p.2.2 0) ∧
  t.nand.pages = s.nand.pages ∧ t.tier = s.tier ∧ t.arr = s.arr

/-- The logical pages of allocation units are deallocated: the map has no entry for them, and the Pail holds none of them (R157). -/
def unitsFreed (aus : List Nat) (t : State) : Prop :=
  ∀ a ∈ aus, ∀ l, a * 65536 ≤ l → l < a * 65536 + 65536 → mapGet t l = 0 ∧ ∀ p ∈ t.blk.pail, p.lpn ≠ l

/-- What the end of requests, jobs and notices never touches: of the flash side more than the pages that ended work gives up, firmware, the
management side, the ladder, and, in an operational power state, fabric time. -/
def nodeFrame (s t : State) : Prop :=
  pagesReleased s t ∧ t.fw = s.fw ∧ t.mgmt = s.mgmt ∧ t.thr = s.thr ∧ (s.pwr.ps < 3 → t.time = s.time)

/-- The job ended: its command, where it is a basket's and still outstanding, completed first with a status and a result (R329, R330, R336). -/
def jobEnded (j : Job) (st : Status) (d0 : Nat) (s t : State) : Prop :=
  nodeFrame s t ∧ ∀ y, j.stage = none → inflight? s j.fn j.sq j.cid = some y → ∃ l, t.host.cqes = s.host.cqes ++ cqeOf j.fn j.sq j.cid st d0 0 :: l

/-- The command, where it is outstanding, completed first with a status and a result (R67, R70). -/
def commandEnded (fn sq cid : Nat) (st : Status) (d0 : Nat) (s t : State) : Prop :=
  ∀ y, inflight? s fn sq cid = some y → ∃ l, t.host.cqes = s.host.cqes ++ cqeOf fn sq cid st d0 0 :: l

/-- Of thread `k` only its wait and its result differ, and nothing else of the module: it goes on with a value (R330). -/
def threadGoesOn (k : ThreadId) (x : Thread) (v : Nat) (s t : State) : Prop :=
  findThread t k = some { x with wait := false, result := v } ∧ (∀ l, l ≠ k → findThread t l = findThread s l) ∧
  t = { s with jobs := { s.jobs with threads := t.jobs.threads } }

/-- The thread's access waits for a tier: it stands last among those that wait, a thread that asked for a value is suspended, and a store is posted
(R166, R329, R331). -/
def accessWaits (k : ThreadId) (j : Job) (x : Thread) (a : Access) (s t : State) : Prop :=
  t.tier.waits = s.tier.waits ++ [{ thread := k, job := j.id, fn := j.fn, access := a }] ∧
  findThread t k = some (if a.answered then { x with wait := true } else { x with stores := x.stores + 1 }) ∧
  t.host = s.host ∧ t.blk = s.blk ∧ t.nand.pages = s.nand.pages ∧ t.arr = s.arr ∧ t.retr = s.retr ∧ t.time = s.time ∧ t.thr = s.thr

/-- The thread's access went out as one request: to node `dst`, or to the twin where `plane` is 2; a thread that asked for a value is suspended, and a store
is posted (R180, R181, R330, R370). -/
def accessSent (k : ThreadId) (j : Job) (x : Thread) (dst plane ty op : Nat) (data : Bytes) (len : Nat) (s t : State) : Prop :=
  (∃ r, t.wyv.requests = s.wyv.requests ++ [r] ∧ r.who = .thread k ∧ r.dst = dst ∧ (plane = 2 ↔ r.plane = 2) ∧ r.msg.mtype = ty ∧ r.msg.op = op ∧
    r.msg.function = j.fn ∧ r.msg.data = data ∧ r.msg.dataLength = len) ∧
  findThread t k = some (if ty = msgWrite then { x with stores := x.stores + 1 } else { x with wait := true }) ∧
  t.host = s.host ∧ t.blk = s.blk ∧ t.nand = s.nand ∧ t.arr = s.arr ∧ t.tier = s.tier ∧ t.retr = s.retr ∧ t.time = s.time ∧ t.thr = s.thr

/-- An NVMe-MI or Basic Management command was answered (R38, R49). -/
def miAnswered (code status : Nat) (data : Bytes) (s t : State) : Prop :=
  t.mgmt.smb = s.mgmt.smb ++ [{ code := code, status := status, data := data }]

/-- An SPDM request in its turn: on a connection that exists, at the stage it needs and in the version negotiated, while the Hoop rail runs (R440). -/
def spdmReady (q : Spdm) (need : Nat) (x : Conn) (s : State) : Prop :=
  s.pwr.hoopRail = true ∧ q.conn ≤ 64 ∧ x = connOf s q.conn ∧ need ≤ x.stage ∧ (2 ≤ need → q.version = x.version)

/-- An SPDM request was answered with one response, and nothing else of the management side but its connection changed. -/
def spdmAnswered (q : Spdm) (code : Nat) (data : Bytes) (s t : State) : Prop :=
  t.mgmt = { s.mgmt with spdm := s.mgmt.spdm ++ [{ conn := q.conn, code := code, data := data }], conns := t.mgmt.conns } ∧
  ∀ k, k ≠ q.conn → connOf t k = connOf s k

/-- The ladder of R449 only stands where its steps lead: the array fraction is at most 16 sixteenths, the program and fabric steps are at most 4,
program steps are taken only with the array at 0, and fabric steps only with every program step taken. -/
def Throttle.Ok (t : Throttle) : Prop :=
  t.fa ≤ 16 ∧ t.prog ≤ 4 ∧ t.fab ≤ 4 ∧ (0 < t.prog → t.fa = 0) ∧ (0 < t.fab → t.prog = 4)

end Sys2Proof.Machine
end

