-- ==== Sys2Proof/Certificates/Slice0/Obligations.lean ====
section
/-! DEFINITION. The statements for the provers. Each docstring names the rules of the manual it formalises, and the log entry of a choice of the model
where a statement rests on one. -/

open Sys2Proof Sys2Proof.Machine

/-- The queue of waiting commands is first in, first out: a step runs the command at its front with the queue's rest, and idles on an empty
queue (the idling is the model's choice: log entry 4). -/
def Obligations.StepRunsTheFrontCommand : Prop :=
  (∀ (c : Instr) (rest : List Instr) (s : State), step { s with pending := c :: rest } = exec c { s with pending := rest }) ∧
  (∀ s : State, s.pending = [] → step s = .next s)

/-- No command of the table stops the block, and none changes the queue of waiting commands. -/
def Obligations.EveryCommandAnswersANextState : Prop :=
  ∀ (c : Instr) (s : State), ∃ t, exec c s = .next t ∧ t.pending = s.pending

/-- R449: every step keeps the throttle ladder where its steps lead. -/
def Obligations.EveryStepKeepsTheThrottleLadder : Prop :=
  ∀ s t : State, s.thr.Ok → step s = .next t → t.thr.Ok

/-- R5, R80, R411, R449: right after reset every subindex of the object dictionary but the identity of the module has the Reset value of its
table, no command waits, no queue exists, the main rails are off and throttling stands at its top. What no table gives is the choice of log
entries 1 and 2. -/
def Obligations.ResetHoldsTheResetValues : Prop :=
  (∀ i j w, i ≠ 0x1000 → (i, j) ≠ (0x5000, 3) → objRow i j = some w → obj State.reset i j = w.reset) ∧ obj State.reset 0x5000 3 = 1 ∧
  State.reset.pending = [] ∧ State.reset.thr.Ok ∧ State.reset.thr = { fa := 16, prog := 0, fab := 0 } ∧ State.reset.host.sqs = [] ∧ State.reset.host.cqs = [] ∧
  State.reset.host.inflight = [] ∧ State.reset.pwr.mainRails = false ∧ basicMode State.reset = false ∧ computeReady State.reset = false

/-- R406: while ReplayEpoch of a function names an index, a Query of the function on that index pins ReplayEpoch.2; above the committed epoch or
below the index's audit floor it completes with Result Expired. -/
def Obligations.ReplayedQueryPinsTheReplayEpoch : Prop :=
  ∀ s e r buf k kind m x bs b, basketReady e 0x89 true (some (64 + 8 * (e.cdw15 % 128))) r s → k = e.cdw15 % 128 → kind = bitsOf e.cdw15 9 8 →
    m = pipeValues s e.handle → 1 ≤ k → k ≤ 64 → kind ≤ 1 → e.cdw15 = k + 256 * kind → e.cdw10 ≤ 2 ^ 20 → e.handle ≤ 63 →
    indexFor s e.fn (pv m 1) = some x → pipeBaskets s e.fn m = some bs → granted (pv m 17) e.fn = true → e.cdw10 ≤ buf.length →
    b = buf.take e.cdw10 → descOk x m (kind == 0) b e.cdw10 = true → 1 ≤ descProbes m b → obj s (0x4260 + e.fn) 1 = x.id →
    ((x.committed < obj s (0x4260 + e.fn) 2 ∨ obj s (0x4260 + e.fn) 2 < auditFloor s x) → ∃ t l, exec (.query e buf) s = .next t ∧
      t.host.cqes = s.host.cqes ++ cqeOf e.fn e.sq e.cid stResultExpired 0 0 :: l ∧ t.retr = s.retr) ∧
    (obj s (0x4260 + e.fn) 2 ≤ x.committed → auditFloor s x ≤ obj s (0x4260 + e.fn) 2 → ∃ t, exec (.query e buf) s = .next t ∧
      ((∃ q ∈ t.retr.queries, q.named e.fn e.sq e.cid = true ∧ q.index = x.id ∧ q.epoch = obj s (0x4260 + e.fn) 2) ∨
       ∃ n, t.host.cqes = s.host.cqes ++ [cqeOf e.fn e.sq e.cid stNotAdmitted n 0] ∧ t.retr = s.retr))

/-- R315: when a new value or the step count of a record is not finite, or a gradient byte decodes to infinity or NaN, the record writes nothing
and is not counted in rows updated; ChurnState.3 counts it, and the Update goes on with its next record. -/
def Obligations.NonFiniteRecordWritesNothing : Prop :=
  ∀ s fn sq cid no u r b tb xn rest, s.churn.updates.find? (·.named fn sq cid) = some u → u.due no = some r → b = r.bytes →
    findTable s u.table = some tb → updTurn s u = true → updHeld s u = false → s.thr.fa ≠ 0 → s.pwr.ps < 3 →
    (∀ p ∈ rowPlaces tb (recRow b), needsFetch (tileOf s p.1 p.2) = false ∧ (tileOf s p.1 p.2).held = false ∧ (tileOf s p.1 p.2).poison = false) →
    (tb.groups.contains (recRow b / 64) = true ∨
      storeFull s (pagesLacking s ((rowPlaces tb (recRow b)).map fun p => tileOf s p.1 p.2)) = false) → xn = churnRow s tb b r.coefs →
    (∃ e ∈ xn.1, f32Finite e.1 = false ∨ f32Finite e.2.1 = false ∨ f32Finite e.2.2 = false) ∨ f32Finite xn.2 = false ∨
      (∃ i < layoutD tb.layout, isFin (decodeFmt 1 (recGrad b i)) = false) → rest = u.records.filter (·.no != no) →
    ∃ t, exec (.churnRecord fn sq ⟨cid, no⟩) s = .next t ∧ t.tier = s.tier ∧ t.churn.tables = s.churn.tables ∧ obj t 0x3401 1 = obj s 0x3401 1 ∧
      obj t 0x3401 3 = (obj s 0x3401 3 + 1) % 2 ^ 64 ∧
      (rest ≠ [] → t.churn.updates.find? (·.named fn sq cid) = some { u with records := rest })

/-- R87: a write of a P subindex with the value it already holds completes with Success and appends no record; a write of DeterministicMode
completes when the mode is applied. -/
def Obligations.UnchangedPersistentWriteAppendsNoRecord : Prop :=
  ∀ s fn idx sub w v, objRow idx sub = some w → w.grp = .p → v = obj s idx sub → v < 2 ^ (8 * objSize idx sub) →
    s.pwr.hoopRail = true → s.dict.queue = [] →
    mustWait { origin := .none, op := 2, fn := fn, index := idx, sub := sub, count := 1, value := natLE (objSize idx sub) v } s = false →
    (checkSet { origin := .none, op := 2, fn := fn, index := idx, sub := sub, count := 1, value := natLE (objSize idx sub) v } s).1 = 0 →
    ∃ t, exec (.objectWrite fn idx sub 1 (natLE (objSize idx sub) v)) s = .next t ∧ t.dict.pendingWrite = none ∧ t.integ.store = s.integ.store ∧ obj t idx sub = v ∧ (¬(idx = 0x4200 ∧ sub = 1) → t.dict.lastStatus = 0) ∧
      (idx = 0x4200 → sub = 1 → admittedInFlight t = false → ∃ u, exec .deterministicModeApply t = .next u ∧ u.dict.lastStatus = 0 ∧
        u.dict.pendingWrite = none ∧ u.integ.store = s.integ.store)

/-- R11, R23, R24, R36, R409, R412, R449, R454: input power rises above 40 V; PWR_EN rises and starts the main rails where power has come back;
the Hoop rail stops once its power is gone and, with a Hoop pair that passes its self-test, starts with the ladder at its top and the bus
address of its straps; power-good starts the main side, with fabric time from zero, and reports start-up phase 8 and the readiness that
Basic mode allows. R27, R450: the holdup bank reaches its charge; a measurement stores the energy and its time and marks the bank healthy at
45 J or more with both holdup sensors below their point; LOCATE_N is followed. The model reads what the manual leaves open here as log
entries 2, 47 and 57 say. -/
def Obligations.StartUpHoldupAndLocate : Prop :=
  (∀ s mv, s.pwr.inputPresent = false → 40000 < mv → ∃ t, exec (.inputRise mv) s = .next t ∧ t.pwr.inputPresent = true ∧ t.pwr.charging = true ∧
    obj t 0x1330 1 = mv % 2 ^ 32 ∧ (s.pwr.hoopRail = false → t = { s with pwr := t.pwr, dict := t.dict })) ∧
  (∀ s, s.pwr.pwrEn = false → ∃ t, exec .pwrEnHigh s = .next t ∧ t.pwr.pwrEn = true ∧ t.pwr.pwrEnLowAt = none ∧
    (s.pwr.inputPresent = true → s.pwr.hoopRail = true → s.pwr.tripped = false → s.pwr.mainRails = false → s.pwr.railRestart = true →
      t.pwr.starting = true ∧ t.pwr.railRestart = false ∧ t.thr = ladderTop ∧ obj t 0x1300 1 = 9) ∧
    (s.pwr.mainRails = true ∨ s.pwr.inputPresent = false → t = { s with pwr := t.pwr })) ∧
  (∀ s, s.pwr.hoopPower = true → s.pwr.inputPresent = false → s.pwr.mainRails = false → ∃ t, exec .hoopRailStop s = .next t ∧ t.pwr.hoopPower = false ∧
    t.pwr.hoopRail = false ∧ t.fw = { s.fw with seedKnown := false } ∧ t.mgmt.kept = [] ∧ t.dict.held = [] ∧ t.dict.queue = [] ∧ t.dict.pendingWrite = none ∧
    t.host = s.host ∧ t.blk = s.blk ∧ t.nand = s.nand ∧ t.arr = s.arr) ∧
  (∀ s f, s.pwr.hoopPower = false → s.pwr.inputPresent = true → (f.pair0Ok || f.pair1Ok) = true → ∃ t, exec (.hoopRailStart f) s = .next t ∧
    t.pwr.hoopPower = true ∧ t.pwr.hoopRail = true ∧ t.pwr.charging = true ∧ t.thr = ladderTop ∧ live t 0x1110 1 = f.straps % 8 + 1 ∧ t.pwr.starting = true ∧
    t.fw.seedKnown = f.pufOk ∧ t.fw.trusted = (f.configOk && f.identityOk) ∧ obj t 0x1410 2 = f.session % 2 ^ 64 ∧ t.host.sqs = [] ∧ t.host.inflight = [] ∧
    t.integ.hoopActive = (if f.pair0Ok then 0 else 1)) ∧
  (∀ s f, s.pwr.starting = true → s.pwr.hoopRail = true → s.pwr.inputPresent = true → s.pwr.pwrEn = true → s.pwr.tripped = false → s.pwr.imageOk = true → s.pwr.pufOk = true →
    f.clocksOk = true → readTables f.unreadableTables s ≠ [] → f.mapOk = true → bitOf f.failedCheckers 1 = false → bitOf f.failedCheckers 5 = false →
    ∃ t, exec (.powerGood f) s = .next t ∧ t.pwr.mainRails = true ∧ t.pwr.booted = true ∧ t.nand.started = true ∧ obj t 0x1300 4 = 8 ∧ obj t 0x1210 1 = 1 ∧
    obj t 0x1210 2 = (if basicMode t then 0 else 1) ∧ t.time = (if s.pwr.mainRails then s.time else 0) ∧
    (∀ c ∈ f.failedChannels, c < 64 → channelFailed t c = true)) ∧
  (∀ s : State, s.pwr.inputPresent = true → exec .holdupCharged s = .next { s with pwr := { s.pwr with charging := false } }) ∧
  (∀ s low, exec (.locateNChange low) s = .next { s with pwr := { s.pwr with locateN := !low } }) ∧
  (∀ s mj h, h = (match mj with | some e => decide (45000 ≤ e ∧ sensor s 0x71 < 750 ∧ sensor s 0x72 < 750) | none => false) →
     ∃ t, exec (.holdupMeasurement mj) s = .next t ∧ obj t 0x1320 2 = boolNat h ∧ t.pwr = { s.pwr with bankBad := !h } ∧
     (∀ e, mj = some e → obj t 0x1320 1 = e % 2 ^ 32 ∧ obj t 0x1320 3 = s.time % 2 ^ 64) ∧
     objsBut [(0x1320, 1), (0x1320, 2), (0x1320, 3)] s t ∧
     t = { s with dict := t.dict, integ := t.integ, pwr := t.pwr })

/-- R23, R25, R26, R72, R139, R200, R423, R454: loss of input power or an over-voltage disconnect with a service core left and PWR_EN low with
one left, and the takeover by the drain sequencer, each end with the main rails off, every function's work stopped, nothing in the Pail,
both readinesses cleared and the next start of the rails asked for; a page that waited in the Pail alone is in the dump set, and where the
sequence has the journal the map points at it there. With every service core out the loss waits for the drain sequencer. The model reads
what the manual leaves open here as log entries 15, 28 and 47 say. -/
def Obligations.PowerLossSequence : Prop :=
  (∀ s c cause, s.pwr.mainRails = true → s.pwr.inputPresent = true →
    ((c = .inputLoss ∨ c = .overVoltageDisconnect) ∧ s.pwr.pwrLossCause = 0 ∧ s.integ.coresOut.length < 16 ∧ cause = (if c = .inputLoss then 1 else 0) ∨
      c = .pwrEnLow ∧ s.pwr.pwrEn = true ∧ s.integ.coresOut.length < 16 ∧ cause = 2 ∨
      c = .drainSequencerTakeover ∧ s.pwr.pwrLossCause ≤ 1 ∧ cause = 1) → ∃ t, exec c s = .next t ∧
    t.pwr.mainRails = false ∧ t.blk.pail = [] ∧ t.pwr.railRestart = true ∧ obj t 0x1210 1 = 0 ∧ obj t 0x1210 2 = 0 ∧
    (t.pwr.inputPresent = true ↔ c = .pwrEnLow) ∧ t.time = 0 ∧ t.host.sqs = [] ∧ t.host.cqs = [] ∧ t.host.inflight = [] ∧ t.jobs.jobs = [] ∧
    ((∀ x ∈ s.host.inflight, ∃ k ∈ s.host.ctrls, k.fn = x.fn) → t.host.cqes = s.host.cqes) ∧ obj t 0x1350 4 = (if c = .drainSequencerTakeover then 2 else 1) ∧ (cause ≠ 0 → obj t 0x1330 4 = cause) ∧ t.thr = s.thr ∧
    (∀ p b n, s.blk.pail = [p] → p.kind ≠ 2 → p.kind < 16 → p.lpn < 2 ^ 60 → pailCommitted s p = false → (∀ e ∈ uncommittedEntries s.blk, e.kind ≠ 2) → s.blk.merges = [] → s.blk.units = [] → s.tier.pages = [] →
      s.blk.dumpSet = [n] → findSb s n = some b → b.id = n → 0 < unitsIn b → (b.members.map (·.ch)).Nodup →
      (∀ m ∈ b.members, m.die < 20 ∧ m.blocks.length = 4 ∧ ∀ k ∈ m.blocks, k < 2730) → ∃ a, b.holds a = true ∧
      (c ≠ .drainSequencerTakeover → ∃ k, mapGet t p.lpn = mapEntry (p.poison == 15) (p.kind == 7) k a) ∧
      (c = .drainSequencerTakeover → t.blk.dumped = [a] ∧ pageAt t a = some (pailDump p)))) ∧
  (∀ s c, s.pwr.mainRails = true → s.pwr.inputPresent = true → 16 ≤ s.integ.coresOut.length → s.pwr.pwrLossCause = 0 →
    (c = .inputLoss ∨ c = .overVoltageDisconnect ∨ c = .pwrEnLow ∧ s.pwr.pwrEn = true) → ∃ t, exec c s = .next t ∧ t.pwr.mainRails = true ∧
    t.pwr.pwrLossCause = (if c = .inputLoss then 1 else if c = .pwrEnLow then 2 else 3) ∧ t = { s with pwr := t.pwr })

/-- R9, R11, R27, R29, R449: an evaluation advances the Hoop's time, and fabric time where the main rails are on, by 1 ms, and with the Hoop
running moves the ladder by at most one step as R449 says, reports f_a and the deepest stage and nothing more; at a trip point the rails
turn off in PS3, and a trip whose conditions have ended is released. That time advances only here is the choice of log entry 3. The model
reads what the manual leaves open here as log entry 58 says. -/
def Obligations.EvaluationTickMovesTheLadder : Prop :=
  (∀ s e, s.pwr.hoopRail = false → exec (.evaluationTick e) s = .next { s with
    pwr := { s.pwr with hoopTime := s.pwr.hoopTime + 1000000 }
    time := if s.pwr.mainRails then s.time + 1000000 else s.time }) ∧
  (∀ s e u, s.pwr.hoopRail = true → u = sensed e s → (tripping u = false ∨ u.pwr.tripped = true) →
    ¬(u.pwr.tripped = true ∧ u.pwr.tripCycled = true ∧ hot u = false) →
    ∃ t, exec (.evaluationTick e) s = .next t ∧ t.time = (if s.pwr.mainRails then s.time + 1000000 else s.time) ∧
      t.thr = (if mustDeepen u e then deepen s.thr else if mayRelax u e then relax s.thr else s.thr) ∧
      obj t 0x1330 5 = t.thr.fa % 256 ∧ obj t 0x1330 3 = throttleStage t.thr ∧ obj t 0x1330 1 = e.inputMv % 2 ^ 32 ∧
      t.pwr = { s.pwr with hoopTime := s.pwr.hoopTime + 1000000, bankBad := s.pwr.bankBad || bankHot t } ∧
      t.host = s.host ∧ t.blk = s.blk ∧ t.nand = s.nand ∧ t.tier = s.tier ∧ t.arr = s.arr) ∧
  (∀ s e, s.pwr.hoopRail = true → tripping (sensed e s) = true → s.pwr.tripped = false →
    ∃ t, exec (.evaluationTick e) s = .next t ∧ t.pwr.tripped = true ∧ t.pwr.ps = 3 ∧ t.pwr.mainRails = false ∧
      (s.pwr.mainRails = true → t.host.inflight = [] ∧ t.jobs.jobs = [] ∧ t.blk.pail = [])) ∧
  (∀ s e u, s.pwr.hoopRail = true → u = sensed e s → s.pwr.tripped = true → s.pwr.tripCycled = true → hot u = false →
    ∃ t, exec (.evaluationTick e) s = .next t ∧ t.pwr.tripped = false ∧ t.pwr.ps = 0)

/-- R204, R205, R420, R421: a write of 1 to BasicModeControl.1 sets cause [3] of DeviceStatus.2, and the first cause ends compute readiness and
is recorded as a reset of code 6; a write of 0 clears the cause, and when it was the last one asks for the array test and makes compute
ready again. R29, R420: after 30 s at a throttle point with throttling at its floor the device enters Basic mode by causes [2] and [4]; the
overtemperature cause clears when every sensor is cool, and with PS2 entered for heat the power state before it returns and PS2's cause
clears too. The model reads what the manual leaves open here as log entry 13 says. -/
def Obligations.BasicModeCommandsAndHeat : Prop :=
  (∀ s, ∃ t, exec .basicModeCommand s = .next t ∧ bitOf (obj t 0x1010 2) 3 = true ∧ t.dict.lastStatus = 0 ∧
    (obj s 0x1010 2 = 0 → obj t 0x1210 2 = 0 ∧ obj t 0x1010 5 = 6) ∧ t.fw = s.fw ∧ t.mgmt = s.mgmt ∧ t.thr = s.thr ∧
    (s.pwr.ps < 3 → t.time = s.time ∧ t.pwr = s.pwr) ∧ ((∀ x ∈ s.tier.tiles, x.dirty = false) → pagesReleased s t) ∧
    ∃ l, t.host.cqes = s.host.cqes ++ l) ∧
  (∀ s, bitOf (obj s 0x1010 2) 3 = true → ∃ t, exec .basicModeClear s = .next t ∧ t.dict.lastStatus = 0 ∧
    obj t 0x1010 2 = (obj s 0x1010 2 - 8) % 2 ^ (8 * objSize 0x1010 2) ∧
    (obj s 0x1010 2 = 8 → t.arr.testAsked = true ∧ (s.pwr.booted = true → obj t 0x1210 2 = 1)) ∧
    t.blk = s.blk ∧ t.nand = s.nand ∧ t.fw = s.fw ∧ t.mgmt = s.mgmt ∧ t.thr = s.thr ∧ t.time = s.time ∧ t.pwr = s.pwr) ∧
  (∀ s, hot s = true → atFloor s = true → s.pwr.mainRails = true → ∃ t, exec .thermalBasicTimeout s = .next t ∧
    bitOf (obj t 0x1010 2) 2 = true ∧ bitOf (obj t 0x1010 2) 4 = true ∧ (obj s 0x1010 2 = 0 → obj t 0x1210 2 = 0 ∧ obj t 0x1010 5 = 6) ∧
    t.pwr = { s.pwr with psBeforeThermal := if s.pwr.ps = 2 then s.pwr.psBeforeThermal else some s.pwr.ps, ps := 2, lastOp := 2 } ∧
    t.thr = s.thr ∧ t.time = s.time ∧ t.fw = s.fw ∧ t.mgmt = s.mgmt ∧ ((∀ x ∈ s.tier.tiles, x.dirty = false) → pagesReleased s t)) ∧
  (∀ s, cool s = true → bitOf (obj s 0x1010 2) 2 = true → ∃ t, exec .overtempClear s = .next t ∧
    obj t 0x1010 2 = (obj s 0x1010 2 - (if s.pwr.psBeforeThermal.isSome && bitOf (obj s 0x1010 2) 4 then 20 else 4)) % 2 ^ (8 * objSize 0x1010 2) ∧
    t.pwr = (match s.pwr.psBeforeThermal with
      | some p => { s.pwr with ps := p, lastOp := if p < 3 then p else s.pwr.lastOp, psBeforeThermal := none }
      | none => s.pwr) ∧
    (obj t 0x1010 2 = 0 → t.arr.testAsked = true ∧ (s.pwr.booted = true → obj t 0x1210 2 = 1)) ∧
    t.blk = s.blk ∧ t.nand = s.nand ∧ t.thr = s.thr ∧ t.time = s.time ∧ t.fw = s.fw ∧ t.mgmt = s.mgmt)

/-- R166, R170, R196: a fetch whose page reads have ended installs the tile in a frame, clean or, when recovery has failed, poisoned; a tile
that was delivered poisoned is repaired by a clean outcome; at the limit of recovery the waiters receive the tile poisoned while recovery
goes on; and where the cache has no room and no tile may go, the tile waits. R190, R198, R203: the scrubber counts a corrected line and an
uncorrectable one, and the end of a pass is dated; a dirty tile that loses a line of its frame is poisoned; a failed HBM stack, once, bars
write caching and is Basic mode cause [0]. The model reads what the manual leaves open here as log entries 50 and 54 say. -/
def Obligations.TileRecoveryAndHbmFaults : Prop :=
  (∀ s o i u v, findTile s o i = some u → u.fetching = true → fetchRead s u = true → v = framed s (tileOf s o i) →
    (u.inT1 = false → cacheUsed s + tileBytes (tileOf s o i) ≤ cacheMiB s * 2 ^ 20 → s.tier.waits = [] →
      (∀ b, ∃ t, exec (.tileFetchDone o i b) s = .next t ∧
        t.tier.tiles = (putTile { v with fetching := false, poison := if b then v.poison else true } s).tier.tiles ∧
        t.tier.window = s.tier.window ∧ t.nand = s.nand ∧ t.host = s.host ∧ t.arr = s.arr ∧ t.thr = s.thr ∧ t.time = s.time ∧ (b = true → t.blk = s.blk)) ∧
      ∃ t, exec (.tileRecoveryTimeout o i) s = .next t ∧
        t.tier.tiles = (putTile { v with fetching := true, poison := true } s).tier.tiles ∧
        t.tier.window = s.tier.window ∧ t.nand = s.nand ∧ t.blk = s.blk ∧ t.host = s.host ∧ t.arr = s.arr) ∧
    (u.inT1 = true → u.poison = true → u.dirty = false → exec (.tileFetchDone o i true) s =
      .next (putTile { framed s { fromPages s { u with poison := false } with inT1 := true } with fetching := false } s)) ∧
    (u.inT1 = true → u.poison = false ∨ u.dirty = true → exec (.tileFetchDone o i true) s = .next (putTile { u with fetching := false } s)) ∧
    (u.inT1 = false → v.reserved = false → cacheMiB s * 2 ^ 20 < cacheUsed s + tileBytes v → (∀ x ∈ s.tier.tiles, mayEvict s x = false) →
      ∀ b, exec (.tileFetchDone o i b) s = .next s)) ∧
  (∀ s a sym h, exec (.scrubLine a 0 sym h) s = .next (if a % 2 ^ 39 = lastLine then setObj 0x2302 9 s.time s else s)) ∧
  (∀ s a sym h, ∃ t, exec (.scrubLine a 1 sym h) s = .next t ∧ obj t 0x2302 1 = (obj s 0x2302 1 + 1) % 2 ^ 64 ∧
    obj t 0x2302 2 = obj s 0x2302 2 ∧ (a % 2 ^ 39 = lastLine → obj t 0x2302 9 = s.time % 2 ^ 64) ∧
    t = { s with dict := t.dict, integ := t.integ }) ∧
  (∀ s a sym h, ∃ t, exec (.scrubLine a 2 sym h) s = .next t ∧ obj t 0x2302 2 = (obj s 0x2302 2 + 1) % 2 ^ 64 ∧
    obj t 0x2302 1 = obj s 0x2302 1 ∧ (h = .other → t = { s with dict := t.dict, integ := t.integ }) ∧
    (∀ o i u, h = .tile o i → findTile s o i = some u → u.atLine (a % 2 ^ 39) = true → u.dirty = true →
      t.tier = (putTile { u with poison := true } s).tier)) ∧
  (∀ s k, k < 8 → k ∉ s.integ.failedStacks → ∃ t, exec (.hbmControllerFail k) s = .next t ∧
    t.integ.failedStacks = s.integ.failedStacks ++ [k] ∧ t.pwr.cachingBarred = true ∧ bitOf (obj t 0x1010 2) 0 = true ∧
    t.thr = s.thr ∧ (s.pwr.ps < 3 → t.time = s.time) ∧ t.fw = s.fw ∧ t.mgmt = s.mgmt)

/-- R200, R201: a failed Hoop pair or oscillator is taken out of service and the standby pair takes over, and with no pair left the fault is
Basic mode cause [0]; so is the loss of the module reference; a failed cell is out of service; a service core is removed at its third expiry
within an hour. R200, R204: a channel engine that fails is marked failed; below a floor the device enters Basic mode by cause [1], and while
the floors hold no job, tile or cell is touched. The model reads what the manual leaves open here as log entries 47 and 50 say. -/
def Obligations.SingleFaultsAreContained : Prop :=
  (∀ s c p, (c = .hoopLockstepMismatch p ∧ p < 2 ∨ c = .hoopOscillatorLoss ∧ p = s.integ.hoopActive) → ∃ t, exec c s = .next t ∧
    t.integ.hoopFailed = (if p ∈ s.integ.hoopFailed then s.integ.hoopFailed else s.integ.hoopFailed ++ [p]) ∧
    (t.integ.hoopFailed.length < 2 → t.integ.hoopActive = (if s.integ.hoopActive = p then 1 - p else s.integ.hoopActive) ∧
      t = { s with integ := t.integ }) ∧
    (2 ≤ t.integ.hoopFailed.length → bitOf (obj t 0x1010 2) 0 = true)) ∧
  (∀ s, s.integ.refLost = false → ∃ t, exec .moduleReferenceLoss s = .next t ∧ t.integ.refLost = true ∧
    bitOf (obj t 0x1010 2) 0 = true ∧ t.fw = s.fw ∧ t.mgmt = s.mgmt ∧ t.thr = s.thr ∧ (s.pwr.ps < 3 → t.time = s.time ∧ t.pwr = s.pwr) ∧
    ((∀ x ∈ s.tier.tiles, x.dirty = false) → pagesReleased s t)) ∧
  (∀ s c, c < 272 → c ∉ s.integ.failedCells → ∃ t, exec (.cellFail c) s = .next t ∧ t.integ.failedCells = s.integ.failedCells ++ [c] ∧
    (∀ j, ownerJob s = some j → t.jobs.owner = none) ∧ t.fw = s.fw ∧ t.mgmt = s.mgmt ∧ t.thr = s.thr ∧ (s.pwr.ps < 3 → t.time = s.time ∧ t.pwr = s.pwr) ∧
    ((∀ x ∈ s.tier.tiles, x.dirty = false) → pagesReleased s t)) ∧
  (∀ s u c l, c < 16 → c ∉ s.integ.coresOut → s.pwr.ps < 3 →
    u = { s with integ := { s.integ with coreExpiries := kvPut 0 s.integ.coreExpiries (s.time * 16 + c) 1 } } →
    ∃ t, exec (.serviceCoreWatchdog c l) s = .next t ∧ t.integ.coreExpiries = u.integ.coreExpiries ∧
    (3 ≤ expiriesOf u c → t.integ.coresOut = s.integ.coresOut ++ [c] ∧ obj t 0x2302 7 = (obj s 0x2302 7 - 1) % 256) ∧
    (expiriesOf u c < 3 → t.integ.coresOut = s.integ.coresOut ∧ obj t 0x2302 7 = obj s 0x2302 7) ∧
    pagesReleased s t ∧ t.pwr = s.pwr ∧ t.fw = s.fw ∧ t.mgmt = s.mgmt ∧ t.thr = s.thr ∧ t.time = s.time) ∧
  (∀ s c, c < 64 → channelFailed s c = false → s.pwr.ps < 3 → ∃ t, exec (.channelEngineFail c) s = .next t ∧ obj t 0x2010 (c + 1) = 2 ∧
    (belowFloor (setObj 0x2010 (c + 1) 2 s) = true → bitOf (obj t 0x1010 2) 1 = true) ∧
    (belowFloor (setObj 0x2010 (c + 1) 2 s) = false → bitOf (obj s 0x1010 2) 1 = false → t.tier = s.tier ∧ t.arr = s.arr ∧ t.jobs = s.jobs) ∧
    t.fw = s.fw ∧ t.mgmt = s.mgmt ∧ t.thr = s.thr ∧ t.time = s.time)

/-- R203, R224: the array test runs only while no job owns the array, and then records its time and what it found; a request for it is kept;
retiring a page or a bank redirects each page of it once, to the next replacement page of its stack. The model reads what the manual leaves
open here as log entry 50 says. -/
def Obligations.ArrayTestAndHbmRetirement : Prop :=
  (∀ s rows cells, s.jobs.owner = none → (∀ a ∈ s.dict.acting, a.kind ≠ 1) → ∃ t, exec (.arrayTest rows cells) s = .next t ∧
    obj t 0x3020 1 = s.time % 2 ^ 64 ∧ t.arr.testDue = false ∧
    t.integ.failedRows = s.integ.failedRows ++ rows.filter (fun r => decide (r.1 < 272) && decide (r.2 < 65) && !s.integ.failedRows.contains r) ∧
    t.integ.failedCells = s.integ.failedCells ++ cells.filter (fun c => decide (c < 272) && !s.integ.failedCells.contains c) ∧
    (rows = [] → cells = [] → t.arr.testAsked = false ∧ t.jobs.sinceTest = [] ∧ t = { s with dict := t.dict, arr := t.arr, jobs := t.jobs }) ∧
    t.fw = s.fw ∧ t.mgmt = s.mgmt ∧ t.thr = s.thr) ∧
  (∀ s r c j, s.jobs.owner = some j → exec (.arrayTest r c) s = .next { s with arr := { s.arr with testDue := true } }) ∧
  (∀ s, exec .arrayTestRequest s = .next (setLast 0 0 { s with arr := { s.arr with testAsked := true } })) ∧
  (∀ s c k p ps, obj s 0x2310 1 < 2 ^ 39 → k = obj s 0x2310 1 / 2 ^ 36 → p = obj s 0x2310 1 % 2 ^ 36 / 65536 →
    (c = .hbmRetirePage ∧ ps = [p].filter (fun q => !(retiredOf s k).contains q) ∨
      c = .hbmRetireBank ∧ ps = ((List.range 1024).map fun n => n * 1024 + p % 1024).filter (fun q => !(retiredOf s k).contains q)) →
    (retiredOf s k).length + ps.length ≤ 4096 → ∃ t, exec c s = .next t ∧ t.dict.lastStatus = 0 ∧
    t.integ.retired = s.integ.retired ++ ps.map (fun q => (k, q)) ∧
    t.integ.remap = s.integ.remap ++ ps.zipIdx.map (fun x => (k * 2 ^ 20 + x.1, (retiredOf s k).length + x.2)) ∧
    obj t 0x2311 (k + 1) = ((retiredOf s k).length + ps.length) % 2 ^ (8 * objSize 0x2311 (k + 1)) ∧
    t.tier = s.tier ∧ t.blk = s.blk ∧ t.nand = s.nand ∧ t.host = s.host)

/-- R112, R113, R185: a suspend is issued where a read waits; once ready, a suspended die keeps the reads R113 allows and resumes with none, and
what waited for a read that is refused ends with Tier Error naming T2; a suspension at its limit ends. R126 to R128, R429: the hardware
sequencer carries out a commit operation by operation: the commit sector and the sectors of the image are erased, its pages are programmed,
it is read back, and the commit record gives the bank its image; a read-back that fails discards it. While the sequencer is busy a read of
the bank it works in is a bus fault, counted with its address, and a read of the other bank is none. The model reads what the manual leaves
open here as log entries 13, 51 and 53 say. -/
def Obligations.SuspensionAndFirmwareFlash : Prop :=
  (∀ s c d o, dieOp s c d = some o → o.susp = 0 → readsAt s c d ≠ [] →
    exec (.suspendIssue c d) s = .next (modDieOp c d (fun o => { o with susp := 1 }) s)) ∧
  (∀ s c d o, dieOp s c d = some o → o.susp = 1 → ∃ t, exec (.suspendReady c d) s = .next t ∧
    dieOp t c d = some { o with susp := if (readsAt s c d).any (readAllowed s o) then 2 else 0 } ∧
    (∀ a ∈ readsAt s c d, (a ∈ t.nand.reads ↔ readAllowed s o a = true)) ∧ (∀ a ∈ s.nand.reads, a ∉ readsAt s c d → a ∈ t.nand.reads) ∧
    (∀ x ∈ s.host.inflight, inflight? s x.fn x.sq x.cid = some x → (∃ r ∈ x.reads, r.2 ∈ readsAt s c d ∧ readAllowed s o r.2 = false) →
      cqeOf x.fn x.sq x.cid stTierError 2 0 ∈ t.host.cqes) ∧
    ((readsAt s c d).all (readAllowed s o) = true → t.host = s.host) ∧
    t.blk.map = s.blk.map ∧ t.nand.pages = s.nand.pages ∧ t.tier = s.tier ∧ t.arr = s.arr) ∧
  (∀ s c d o, dieOp s c d = some o → o.susp = 2 → exec (.suspensionLimit c d) s = .next (modDieOp c d (fun o => { o with susp := 0 }) s)) ∧
  (∀ s j n, s.fw.job = some j → n = stagedLength s → j.phase = 2 → exec .fwFlashSequencerDone s = .next { s with
    fw := { s.fw with job := some (if j.pos < (n + 65535) / 65536 then { j with pos := j.pos + 1 } else { j with phase := 3, pos := 0 }) } }) ∧
  (∀ s j n, s.fw.job = some j → n = stagedLength s → j.phase = 3 → (j.pos + 1 < (n + 255) / 256 ∨ j.readBackOk = true) →
    exec .fwFlashSequencerDone s = .next { s with
      fw := { s.fw with job := some (if j.pos + 1 < (n + 255) / 256 then { j with pos := j.pos + 1 } else { j with phase := 5, pos := 0 }) } }) ∧
  (∀ s j x, s.fw.job = some j → j.phase = 3 → (stagedLength s + 255) / 256 ≤ j.pos + 1 → j.readBackOk = false → inflight? s j.fn j.sq j.cid = some x →
    ∃ t, exec .fwFlashSequencerDone s = .next t ∧ t.host.cqes = s.host.cqes ++ [cqeOf j.fn j.sq j.cid stInvalidFwImage 0 0] ∧ obj t 0x1360 3 = 3 ∧
    t.fw = { s.fw with job := none, staged := [], stagedBytes := 0 } ∧ t.blk = s.blk ∧ t.nand = s.nand ∧ t.arr = s.arr) ∧
  (∀ s j x k, s.fw.job = some j → j.phase ≠ 2 → j.phase ≠ 3 → inflight? s j.fn j.sq j.cid = some x →
    k = ({ header := memRead s.fw.staged 0 128, digest := sha256 (memRead s.fw.staged 0 (stagedLength s)), sig := j.sig
           commit := some (1 + max (s.fw.bankA.commit.getD 0) (s.fw.bankB.commit.getD 0)) } : Bank) →
    ∃ t, exec .fwFlashSequencerDone s = .next t ∧ (if j.bank = 0 then t.fw.bankA = k ∧ t.fw.bankB = s.fw.bankB
      else t.fw.bankB = k ∧ t.fw.bankA = s.fw.bankA) ∧ obj t 0x1360 3 = 1 ∧
    (if j.action = 1 then obj t 0x1001 4 = j.bank % 256 else obj t 0x1001 4 = obj s 0x1001 4) ∧
    t.host.cqes = s.host.cqes ++ [cqeOf j.fn j.sq j.cid (if j.action = 1 then stFwNeedsReset else stSuccess) 0 0] ∧
    t.fw = { s.fw with job := none, staged := [], stagedBytes := 0, bankA := t.fw.bankA, bankB := t.fw.bankB } ∧
    t.blk = s.blk ∧ t.nand = s.nand ∧ t.arr = s.arr) ∧
  (∀ s, s.fw.job = none → exec .fwFlashSequencerDone s = .next s) ∧
  (∀ s a, sequencerBusy s = true → a / 2 ^ 26 % 2 ≠ s.fw.active → ∃ t, exec (.busFault a) s = .next t ∧
    obj t 0x2050 1 = (obj s 0x2050 1 + 1) % 2 ^ 32 ∧
    t.integ.log = (evRecord s { source := 9, cls := 6, address := a % 2 ^ 27 } :: s.integ.log).take 4096 ∧
    t = { s with dict := t.dict, integ := t.integ }) ∧
  (∀ s a, sequencerBusy s = false ∨ a / 2 ^ 26 % 2 = s.fw.active → exec (.busFault a) s = .next s)

/-- R124, R141, R142, R144: the next journal segment takes the entries that fit, with the Commit entry of the last in slot 0, and is programmed;
a segment verified on a channel of its pair commits all before it, and one that failed on both commits nothing and makes its blocks grown
bad; a slice of the map is copied for a checkpoint, whose entry is appended. R111, R116, R122, R136, R147, R148, R149: a verified program
unit is on flash, and the map moves to each of its pages that still holds the newest data; a failed one makes the blocks of the planes that
failed grown bad blocks and moves no entry. The model reads what the manual leaves open here as log entries 15, 20, 68, 71 and 72 say. -/
def Obligations.JournalAndPrograms : Prop :=
  (∀ s, s.blk.segs.all (·.verified) = true → (s.blk.jbuf ≠ [] ∨ ∃ g ∈ s.blk.segs, g.entries ≠ []) →
    ∃ t g, exec .journalSegmentTimer s = .next t ∧ t.blk.segs.map (·.seq) = s.blk.segs.map (·.seq) ++ [s.blk.nextSeg] ∧
    t.blk.segs.getLast? = some g ∧ g.seq = s.blk.nextSeg ∧ g.verified = false ∧ g.commit = (s.blk.segs.getLast?).map commitEntry ∧
    (∃ l, g.entries ++ t.blk.jbuf = s.blk.jbuf ++ l) ∧ t.blk.nextSeg = s.blk.nextSeg + 1 ∧ t.blk.map = s.blk.map ∧ t.blk.pail = s.blk.pail ∧
    t.nand.pages = s.nand.pages ∧ t = { s with blk := t.blk, nand := t.nand }) ∧
  (∀ s, ¬(s.blk.segs.all (·.verified) = true ∧ (s.blk.jbuf ≠ [] ∨ ∃ g ∈ s.blk.segs, g.entries ≠ [])) → exec .journalSegmentTimer s = .next s) ∧
  (∀ s g u b low high, s.blk.segs.getLast? = some g → g.verified = false → (s.blk.units.find? fun u => u.seg == some g.seq && g.unit == some u.phys) = some u →
    findSb s u.sb = some b → u.waiting = false → unitSuspended s u = false →
    (failedPlanes u.threshold low = [] ∨ failedPlanes u.threshold high = []) → ∃ t, exec (.journalSegmentVerified ⟨low, high⟩) s = .next t ∧
    (∀ c ∈ s.blk.segs.dropLast, c ∈ t.blk.committed ∨ c.seq < oldestSeq t.blk) ∧ (∃ h ∈ t.blk.segs, h.seq = g.seq ∧ h.verified = true) ∧
    (∀ c, s.blk.segs.dropLast.getLast? = some c → obj t 0x2100 4 = c.seq % 2 ^ 64) ∧ mapKept s t ∧ t.tier = s.tier ∧ t.arr = s.arr) ∧
  (∀ s g u b m low high, s.blk.segs.getLast? = some g → g.verified = false →
    (s.blk.units.find? fun u => u.seg == some g.seq && g.unit == some u.phys) = some u → findSb s u.sb = some b → u.waiting = false →
    unitSuspended s u = false → b.member u.ch = some m → failedPlanes u.threshold low ≠ [] → failedPlanes u.threshold high ≠ [] →
    ∃ t, exec (.journalSegmentVerified ⟨low, high⟩) s = .next t ∧ t.blk.committed = s.blk.committed ∧
    (∃ h ∈ t.blk.segs, h.seq = g.seq ∧ h.verified = false) ∧
    (∀ p ∈ failedPlanes u.threshold low, blockBad t (u.ch * 80 + m.die * 4 + p) (m.blocks.getD p 0) = true) ∧ mapKept s t ∧
    t.nand.pages = s.nand.pages ∧ t.tier = s.tier ∧ t.arr = s.arr) ∧
  (∀ s k, s.blk.ckptNew = none → k = (obj s 0x2100 3 + 1) % 80 → (takeMeta 64 sliceUnits s).isSome = true →
    ∃ t c, exec .checkpointSlice s = .next t ∧ t.blk.ckptNew = some c ∧ c.slice = k ∧ c.seq = s.blk.nextSeg ∧
    c.data = s.blk.map.filter (fun x => sliceOf x.1 == k) ∧ c.counts = s.nand.readCount ∧
    t.blk.jbuf.getLast? = some { kind := 5, count := k, key := c.seq, value := 0, extra := c.first, desc := [] } ∧
    t.blk.ckpts = s.blk.ckpts ∧ t.blk.map = s.blk.map ∧ t.blk.pail = s.blk.pail ∧ t = { s with blk := t.blk }) ∧
  (∀ s, s.blk.ckptNew.isSome = true → exec .checkpointSlice s = .next s) ∧
  (∀ s phys u b m planes other, (s.blk.units.find? fun u => u.phys == phys && !s.blk.segs.any fun g => !g.verified && g.unit == some phys) = some u →
    findSb s u.sb = some b → b.member u.ch = some m → u.waiting = false → unitSuspended s u = false → u.parity = false → u.seg = none →
    failedPlanes u.threshold planes = [] → (u.locked = true → failedPlanes u.threshold other = []) → (u.pages.map (·.lpn)).Nodup →
    (∀ q ∈ s.blk.pail, q.group = none) → ∃ t, exec (.programDone phys planes other) s = .next t ∧
    (∀ x ∈ u.pages.zipIdx, mapGet t x.1.lpn = entryAfter s b.stream (m.place u.wl x.2) x.1) ∧
    (∀ l, l ∉ u.pages.map (·.lpn) → mapGet t l = mapGet s l) ∧
    (u.locked = false → u.pages.length ≤ 12 → u.wl < 512 → m.die < 20 → (∀ k ∈ m.blocks, k < 2730) →
      ∀ x ∈ u.pages.zipIdx, pageAt t (m.place u.wl x.2) = some x.1.page) ∧ t.tier = s.tier ∧ t.arr = s.arr) ∧
  (∀ s phys u b m planes other, (s.blk.units.find? fun u => u.phys == phys && !s.blk.segs.any fun g => !g.verified && g.unit == some phys) = some u →
    findSb s u.sb = some b → b.member u.ch = some m → u.waiting = false → unitSuspended s u = false →
    (failedPlanes u.threshold planes ≠ [] ∨ u.locked = true ∧ failedPlanes u.threshold other ≠ []) →
    ∃ t, exec (.programDone phys planes other) s = .next t ∧
    (∀ p ∈ failedPlanes u.threshold planes, blockBad t (u.ch * 80 + m.die * 4 + p) (m.blocks.getD p 0) = true) ∧
    (∀ n, u.locked = true → b.member (u.ch + 32) = some n → ∀ p ∈ failedPlanes u.threshold other,
      blockBad t ((u.ch + 32) * 80 + n.die * 4 + p) (n.blocks.getD p 0) = true) ∧ mapKept s t ∧
    t.nand.pages = s.nand.pages ∧ t.tier = s.tier ∧ t.arr = s.arr)

/-- R133, R136, R137: a merge read that ends leaves the page of the Pail whole, with the rest from flash; a poisoned rest leaves those quarters
unreadable. One whose map line is being rebuilt waits. R105, R116, R145 to R147, R150 to R154: garbage collection copies the pages of
stripes without parity, or the valid pages of the victim it takes while the free pool is low, a superblock is queued or erase counts have
spread; the erases that end leave no page in their blocks, count, and mark those that failed bad, and the last frees the superblock; a die
that times out is marked failed, its reads are rebuilt and its superblocks queued; the patrol counts the codewords it recovers at each step
and those it does not. The model reads what the manual leaves open here as log entries 15, 20 and 69 say. -/
def Obligations.MergeReadsAndHousekeeping : Prop :=
  (∀ s l bad p, s.blk.merges.contains l = true → lineWaits s l = false → s.blk.pail.find? (·.lpn == l) = some p →
    ∃ t, exec (.mergeReadDone l bad) s = .next t ∧ t.blk.merges.contains l = false ∧ (∃ q ∈ t.blk.pail, q.lpn = l) ∧
    (∀ q ∈ t.blk.pail, q.lpn = l → q.quarters = 15 ∧ q.data = (pageData s l).1 ∧
      q.poison = if bad then (15 - p.quarters) ||| p.poison else (pageData s l).2) ∧
    mapKept s t ∧ t.nand.pages = s.nand.pages ∧ t = { s with blk := t.blk, nand := t.nand }) ∧
  (∀ s l bad, s.blk.merges.contains l = true → lineWaits s l = true → exec (.mergeReadDone l bad) s = .next s) ∧
  (∀ s b, s.blk.gcReads = [] → s.blk.gcBuf = [] → s.blk.urgent = [] → s.blk.victim = none → findSb s b.id = some b → b.st = 2 →
    (if freeCount s < obj s 0x2104 1 ∨ ∃ q ∈ s.blk.sbs, (q.queued = true ∨ q.refresh = true) ∧ mayEmpty s q = true then pickVictim s s.blk.sbs = some b
      else 300 < wearSpread s ∧ wearVictim s.blk.sbs = some b) → ∃ t, exec .gcStart s = .next t ∧
    t.blk.victim = some b.id ∧ (∀ x ∈ validPages s b, (x.1, entryPhys x.2) ∈ t.blk.gcReads) ∧ mapKept s t ∧ t.nand.pages = s.nand.pages ∧
    t.tier = s.tier ∧ t.arr = s.arr) ∧
  (∀ s, s.blk.gcReads = [] → s.blk.gcBuf = [] → s.blk.urgent ≠ [] → ∃ t, exec .gcStart s = .next t ∧
    (∀ l ∈ s.blk.urgent, entryValid (mapGet s l) = true → (l, entryPhys (mapGet s l)) ∈ t.blk.gcReads) ∧ mapKept s t ∧
    t.nand.pages = s.nand.pages ∧ t.tier = s.tier ∧ t.arr = s.arr) ∧
  (∀ s k b failed chs us, findSb s k = some b → b.st = 4 →
    chs = ((s.nand.dieOps.filter fun o => o.erase && o.sb == k && o.susp != 2).map (·.channel)) → chs ≠ [] →
    us = (((b.members.filter fun m => chs.contains m.ch).flatMap Member.units).filter fun u => !blockBad s u.1 u.2) →
    ∃ t, exec (.eraseDone k failed) s = .next t ∧
    (∀ x ∈ t.nand.pages, ∀ m ∈ b.members, chs.contains m.ch = true → m.holds x.1 = false) ∧
    (∀ x ∈ s.nand.pages, (∀ m ∈ b.members, chs.contains m.ch = true → m.holds x.1 = false) → x ∈ t.nand.pages) ∧
    (∀ e, kvGet 0 t.nand.wear e = kvGet 0 s.nand.wear e + ((us.map fun u => blockEntry u.1 u.2).filter (· == e)).length) ∧
    (∀ u ∈ us, failed.contains u.1 = true → blockBad t u.1 u.2 = true) ∧
    (b.toErase = [] → (∀ o ∈ s.nand.dieOps, o.erase = true → o.sb = k → o.susp ≠ 2) → s.blk.sanitize = none →
      (∃ x ∈ t.blk.sbs, x.id = k ∧ x.st = 6) ∧ ∃ e ∈ uncommittedEntries t.blk, e.kind = 7 ∧ e.key = k) ∧
    mapKept s t ∧ t.tier = s.tier ∧ t.arr = s.arr) ∧
  (∀ s c d, c < 64 → d < 20 → dieFailed s c d = false → ∃ t, exec (.dieTimeout c d) s = .next t ∧ dieFailed t c d = true ∧
    (∀ a ∈ readsAt s c d, a ∉ t.nand.reads ∧ ∃ r ∈ t.nand.rebuilds, r.phys = a ∧ ∀ k < 4, k ∈ r.cws) ∧
    (∀ b ∈ s.blk.sbs, (b.st = 1 ∨ b.st = 2) → (∃ m ∈ b.members, m.ch = c ∧ m.die = d) → (∀ x ∈ s.blk.sbs, x.id = b.id → x = b) →
      ∃ x ∈ t.blk.sbs, x.id = b.id ∧ x.queued = true ∧ x.st ≠ 1) ∧ mapKept s t ∧ t.nand.pages = s.nand.pages ∧
    t.tier = { s.tier with regions := t.tier.regions } ∧ t.arr = s.arr) ∧
  (∀ s a b w, sbAt s a = some b → (b.st = 1 ∨ b.st = 2 ∨ b.st = 5) → (pageAt s a).isSome → blockBad s (physUnit a) (physBlock a) = false →
    ∃ t, exec (.patrolRead a w) s = .next t ∧
    (if 1 ≤ w.step ∧ w.step ≤ 4 ∧ w.crcOk = true then obj t 0x2040 w.step = (obj s 0x2040 w.step + 1) % 2 ^ (8 * objSize 0x2040 w.step)
     else obj t 0x2040 5 = (obj s 0x2040 5 + 1) % 2 ^ (8 * objSize 0x2040 5)) ∧
    (a = physAddr 63 19 3 2729 1535 → obj t 0x2120 4 = s.time % 2 ^ 64) ∧
    t.nand.pages = s.nand.pages ∧ t.tier = s.tier ∧ t.arr = s.arr ∧ t.blk.map = s.blk.map) ∧
  (∀ s a b w, sbAt s a = some b → b.st ≠ 1 → b.st ≠ 2 → b.st ≠ 5 → a ≠ physAddr 63 19 3 2729 1535 → exec (.patrolRead a w) s = .next s)

/-- R58, R132, R133, R193: a Read of up to 2 MiB of an attached namespace that waits for no die delivers the logical pages' bytes and completes
with Success, or with Unrecovered Read Error where a piece meets poison, and delivers nothing then. One that needs dies queues a read or a
rebuild for each page it needs, and one whose map line is being rebuilt waits; neither completes yet. R109, R112, R121, R129, R133: the read
of a page at a die that serves it is counted for its block; with every codeword decoded it is delivered to the Read that waited for it
alone, and a codeword undecoded after step 3 starts a rebuild; a rebuild that ends is counted as a deep read of its block; the entries of a
rebuilt map line are those of the checkpoints and the committed journal, except where newer changes wait. The model reads what the manual
leaves open here as log entries 15, 53 and 74 say. -/
def Obligations.ReadsAndDieReads : Prop :=
  (∀ s e x n ps, startable e 2 s = some x → x.got = [] → isCompute s e.fn e.sq = false → s.blk.sanitize = none →
    ioCheck s e (slba e) (nlb e) = .ok n → nlb e * n.block ≤ mdts → ps = piecesOf n (slba e * n.block) (nlb e * n.block) →
    (ps.all fun p => !lineWaits s p.1 && (needsDie s p.1).isNone) = true →
    ∃ t, exec (.read e) s = .next t ∧
      (if ps.any (fun p => pieceBad (pageData s p.1).2 p.2.1 p.2.2) then completed e stUnrecoveredRead 0 0 s t ∧ t.host.dma = s.host.dma
      else completed e stSuccess 0 0 s t ∧ t.host.dma = s.host.dma ++
        [{ addr := e.dptr, data := ps.flatMap (fun p => memRead (pageData s p.1).1 p.2.1 p.2.2), relaxed := s.host.relaxed.contains e.fn }]) ∧
      t.blk = s.blk ∧ t.nand = s.nand ∧ t.tier = s.tier ∧ t.arr = s.arr) ∧
  (∀ s e x n ps, startable e 2 s = some x → isCompute s e.fn e.sq = false → s.blk.sanitize = none →
    ioCheck s e (slba e) (nlb e) = .ok n → nlb e * n.block ≤ mdts → ps = piecesOf n (slba e * n.block) (nlb e * n.block) →
    (∃ p ∈ ps, lineWaits s p.1 = true ∨ (needsDie s p.1).isSome) →
    ∃ t, exec (.read e) s = .next t ∧ t.host.cqes = s.host.cqes ∧ t.host.dma = s.host.dma ∧
      ((∀ p ∈ ps, lineWaits s p.1 = false) → ∀ p ∈ ps, ∀ a, needsDie s p.1 = some a →
        a ∈ t.nand.reads ∨ ∃ r ∈ t.nand.rebuilds, r.phys = a) ∧
      t.blk = s.blk ∧ t.nand.pages = s.nand.pages ∧ t.tier = s.tier ∧ t.arr = s.arr) ∧
  (∀ s a w p b pg, pageAt s a = some pg → sbAt s a = some b → b.stream ≠ 6 → dieServes s (physChannel a) (physDie a) a = true → inErase b a = false →
    w.any (·.parity) = false → ∃ t, exec (.pageReadDone a w p) s = .next t ∧
    kvGet 0 t.nand.decodes (blockKey a) = kvGet 0 s.nand.decodes (blockKey a) + (w.filter fun c => decide (c.step ≤ 3)).length ∧
    (undecoded w ≠ [] → ∃ r ∈ t.nand.rebuilds, r.phys = a ∧ ∀ k ∈ undecoded w, k ∈ r.cws) ∧
    (undecoded w = [] → ∀ x e n ps data, (s.host.inflight.filter fun x => x.reads.any (·.2 == a)) = [x] → inflight? s x.fn x.sq x.cid = some x →
      x.entry = some e → (e.fn, e.sq, e.cid) = (x.fn, x.sq, x.cid) → (∀ r ∈ x.reads, r.2 = a) → x.got = [] → (∀ r ∈ s.blk.gcReads, r.2 ≠ a) →
      nsOf s e.fn e.nsid = some n → ps = piecesOf n (slba e * n.block) (nlb e * n.block) →
      data = (fun l => if x.reads.any (·.1 == l) then overPail s l (pg.data, pg.poison) else pageData s l) →
      if ps.any (fun q => pieceBad (data q.1).2 q.2.1 q.2.2) then completed e stUnrecoveredRead 0 0 s t ∧ t.host.dma = s.host.dma
      else completed e stSuccess 0 0 s t ∧ t.host.dma = s.host.dma ++
        [{ addr := e.dptr, data := ps.flatMap (fun q => memRead (data q.1).1 q.2.1 q.2.2), relaxed := s.host.relaxed.contains e.fn }]) ∧
    t.nand.pages = s.nand.pages ∧ t.tier = s.tier ∧ t.arr = s.arr) ∧
  (∀ s a bad r b, s.nand.rebuilds.find? (·.phys == a) = some r → sbAt s a = some b → dieLost s (physChannel a) (physDie a) = false →
    (∀ x ∈ stripeMates s b a, blockKey x ≠ blockKey a) →
    ∃ t, exec (.rebuildDone a bad) s = .next t ∧ (∀ q ∈ t.nand.rebuilds, q.phys ≠ a) ∧
    kvGet 0 t.nand.deepReads (blockKey a) = kvGet 0 s.nand.deepReads (blockKey a) + 1 ∧ t.nand.pages = s.nand.pages ∧ t.tier = s.tier ∧ t.arr = s.arr) ∧
  (∀ s l, s.blk.badLines.contains l = true → ∃ t, exec (.mapLineRebuildDone l) s = .next t ∧ t.blk.badLines.contains l = false ∧
    (∀ q v, lineHolds l q = true → (uncommittedEntries s.blk).any (touches · q) = false → kvGet 0 (replayMap s.blk) q = v → v ≠ 0 → mapGet t q = v) ∧
    (∀ q, lineHolds l q = false ∨ (uncommittedEntries s.blk).any (touches · q) = true → mapGet t q = mapGet s q) ∧
    t.nand.pages = s.nand.pages ∧ t.tier = s.tier ∧ t.arr = s.arr)

/-- R55, R136, R137, R452: a Write that the Pail has room for puts its bytes into the Pail, where a reader finds them from then on and finds
every other page as before; with write caching in effect and FUA clear it completes at once, and otherwise once its pages are on flash. A
Write without room waits with its data. R55, R156, R452: when space appears, the oldest command that waits for it is accepted once the Pail
has room for it: a Write with its data, a deallocation with its ranges. A module that has become read-only refuses it. The model reads what
the manual leaves open here as log entries 15 and 73 say. -/
def Obligations.WritesEnterThePail : Prop :=
  (∀ s e x n buf ps w, startable e 1 s = some x → isCompute s e.fn e.sq = false → s.blk.sanitize = none → ioCheck s e (slba e) (nlb e) = .ok n →
    nlb e * n.block ≤ mdts → dtype e = 0 → readOnly s = false → writeRoom n e s = true →
    ps = piecesOf n (slba e * n.block) (nlb e * n.block) → w = slice buf 0 (nlb e * n.block) →
    ∃ t, exec (.write e buf) s = .next t ∧ writeTaken ps w s t ∧
      (if caching (acceptPieces ps w s) e.fn = true ∧ fua e = false then completed e stSuccess 0 0 s t
       else t.host.cqes = s.host.cqes ∧ ∃ y ∈ t.host.inflight, y.named e.fn e.sq e.cid = true ∧ y.lpns = ps.map fun p => (p.1, 1))) ∧
  (∀ s e x n buf, startable e 1 s = some x → isCompute s e.fn e.sq = false → s.blk.sanitize = none → ioCheck s e (slba e) (nlb e) = .ok n →
    nlb e * n.block ≤ mdts → dtype e = 0 → readOnly s = false → writeRoom n e s = false →
    ∃ t, exec (.write e buf) s = .next t ∧ t.host.cqes = s.host.cqes ∧ t.blk = s.blk ∧ t.nand = s.nand ∧ t.tier = s.tier ∧ t.arr = s.arr ∧
      ∃ y ∈ t.host.inflight, y.named e.fn e.sq e.cid = true ∧ y.space = true ∧ y.buf = slice buf 0 (nlb e * n.block)) ∧
  (∀ s x e n ps, (s.host.inflight.find? fun x => x.started && (x.space || x.tiles != []) && !isCompute s x.fn x.sq) = some x → x.tiles = [] →
    x.entry = some e → nsOf s e.fn e.nsid = some n → readOnly s = false → x.opc = 1 → writeRoom n e s = true →
    ps = piecesOf n (slba e * n.block) (nlb e * n.block) →
    ∃ t, exec .pailSpaceAvailable s = .next t ∧ writeTaken ps x.buf s t) ∧
  (∀ s x e n, (s.host.inflight.find? fun x => x.started && (x.space || x.tiles != []) && !isCompute s x.fn x.sq) = some x → x.tiles = [] →
    x.entry = some e → nsOf s e.fn e.nsid = some n → readOnly s = false → x.opc ≠ 1 → deallocRoom n x.ranges s = true →
    ∃ t, exec .pailSpaceAvailable s = .next t ∧ ∀ r ∈ x.ranges, readsZero n r.1 r.2 s t) ∧
  (∀ s x e n, (s.host.inflight.find? fun x => x.started && (x.space || x.tiles != []) && !isCompute s x.fn x.sq) = some x → x.tiles = [] →
    x.entry = some e → nsOf s e.fn e.nsid = some n → readOnly s = true → inflight? s e.fn e.sq e.cid = some x →
    ∃ t, exec .pailSpaceAvailable s = .next t ∧ completed e stWriteProtected 0 0 s t ∧ t.blk = s.blk ∧ t.nand = s.nand ∧ t.tier = s.tier)

/-- R57, R58, R157, R169: Write Zeroes and a deallocating Dataset Management leave zeroes for every block they name, and complete at once with
write caching in effect and FUA clear, and otherwise once the change is committed; without the deallocate attribute Dataset Management
changes no block. A Flush completes at once when nothing that was accepted before it waits for flash, and otherwise waits for exactly those
changes. R50: a command of the wrong set completes with Invalid Opcode; on a compute queue the queue freezes. The published status codes are
log entry 10. The model reads what the manual leaves open here as log entries 14, 15 and 21 say. -/
def Obligations.DeallocationFlushAndWrongSet : Prop :=
  (∀ s e x n, startable e 8 s = some x → isCompute s e.fn e.sq = false → s.blk.sanitize = none → ioCheck s e (slba e) (nlb e) = .ok n →
    readOnly s = false → deallocRoom n [(slba e * n.block, nlb e * n.block)] s = true →
    ∃ t, exec (.writeZeroes e) s = .next t ∧ readsZero n (slba e * n.block) (nlb e * n.block) s t ∧
      (if (caching s e.fn = true ∧ fua e = false) ∨ byteRanges n (slba e * n.block) (nlb e * n.block) = [] then completed e stSuccess 0 0 s t
       else t.host.cqes = s.host.cqes ∧ ∃ y ∈ t.host.inflight, y.named e.fn e.sq e.cid = true ∧
        y.lpns = byteRanges n (slba e * n.block) (nlb e * n.block))) ∧
  (∀ s e x n rs, startable e 9 s = some x → isCompute s e.fn e.sq = false → s.blk.sanitize = none → ioCheck s e 0 0 = .ok n → bitOf e.cdw11 2 = false →
    ∃ t, exec (.datasetManagement e rs) s = .next t ∧ completed e stSuccess 0 0 s t ∧
      t.blk = s.blk ∧ t.nand = s.nand ∧ t.tier = s.tier ∧ t.arr = s.arr) ∧
  (∀ s e x n rs bs, startable e 9 s = some x → isCompute s e.fn e.sq = false → s.blk.sanitize = none → ioCheck s e 0 0 = .ok n →
    bitOf e.cdw11 2 = true → rs.all (fun r => decide (r.1 + r.2 ≤ n.nsze)) = true → readOnly s = false →
    bs = ((rs.filter (·.2 != 0)).map fun r => (r.1 * n.block, r.2 * n.block)) → deallocRoom n bs s = true →
    ∃ t, exec (.datasetManagement e rs) s = .next t ∧ (∀ r ∈ bs, readsZero n r.1 r.2 s t) ∧
      (if caching s e.fn = true ∨ (bs.flatMap fun r => byteRanges n r.1 r.2) = [] then completed e stSuccess 0 0 s t
       else t.host.cqes = s.host.cqes ∧ ∃ y ∈ t.host.inflight, y.named e.fn e.sq e.cid = true ∧ y.lpns = bs.flatMap fun r => byteRanges n r.1 r.2)) ∧
  (∀ s e x ns rs, startable e 0 s = some x → flushHeld e s = false → isCompute s e.fn e.sq = false → s.blk.sanitize = none →
    e.rsvd = false → e.fuse = 0 → e.psdt ≠ 3 →
    ns = (s.host.namespaces.filter fun n => n.ctrls.contains e.fn && (e.nsid == 0xFFFFFFFF || n.id == e.nsid)) → (ns ≠ [] ∨ e.nsid = 0xFFFFFFFF) →
    (e.nsid = 0xFFFFFFFF → tilesToFlush s e.fn = []) →
    rs = ((pendingChanges s.blk).filter fun r => (ns.flatMap (·.aus)).any fun a => decide (r.1 < a * 65536 + 65536) && decide (a * 65536 < r.1 + r.2)) →
    ∃ t, exec (.flush e) s = .next t ∧ t.nand.pages = s.nand.pages ∧ t.tier = s.tier ∧ t.arr = s.arr ∧
      (if rs = [] then completed e stSuccess 0 0 s t ∧ t.blk = s.blk ∧ t.nand = s.nand
       else t.host.cqes = s.host.cqes ∧ ∃ y ∈ t.host.inflight, y.named e.fn e.sq e.cid = true ∧ y.lpns = rs ∧ y.tiles = [])) ∧
  (∀ s e x opc, startable e opc s = some x → isCompute s e.fn e.sq = false → e.sq ≠ 0 → opc ∉ [0, 1, 2, 8, 9] →
    ∃ t, exec (.ioInvalidOpcode e opc) s = .next t ∧ completed e stInvalidOpcode 0 0 s t ∧
      t.blk = s.blk ∧ t.nand = s.nand ∧ t.tier = s.tier ∧ t.arr = s.arr) ∧
  (∀ s e x q opc, startable e opc s = some x → isCompute s e.fn e.sq = true → opc ∉ [0x81, 0x82, 0x85, 0x89, 0x8D, 0x91, 0x94] →
    findSq s e.fn e.sq = some q → ∃ t l r, exec (.ioInvalidOpcode e opc) s = .next t ∧
      t.host.cqes = s.host.cqes ++ cqeOf e.fn e.sq e.cid stInvalidOpcode 0 0 :: l ∧ findSq t e.fn e.sq = some r ∧ r.frozen = true ∧
      t.blk = s.blk ∧ t.nand = s.nand ∧ t.tier = s.tier ∧ t.arr = s.arr)

/-- R217, R219, R244, R246: SHAPE sets the shape and reports it; PATTERN_LOAD, SCALE_LOAD and RESCALE_LOAD take each cell's record from that
cell's own SRAM into its slot, its 64 scale registers or its bank, when no byte they read is poisoned and every record is acceptable. The
model reads what the manual leaves open here as log entry 17 says. -/
def Obligations.ArrayLoadOperations : Prop :=
  (∀ s d j, issuable 0x21 d s = some j → ∃ t, exec (.shape d) s = .next t ∧ t.arr = { s.arr with shape := field d 4 1 } ∧
    obj t 0x3000 1 = field d 4 1 % 256 ∧ opCompleted j s t ∧ opFrame [(0x3000, 1)] s t) ∧
  (∀ s d j, issuable 0x22 d s = some j →
    (∀ c ∈ leftCells s s.arr.shape, sramBad s c (field d 12 4 % 2 ^ 21) 40 = false ∧ patOk (sramRead s c (field d 12 4 % 2 ^ 21) 40) = true ∧
      (sramRead s c (field d 12 4 % 2 ^ 21) 40).take 28 = (sramRead s ((leftCells s s.arr.shape).headD 0) (field d 12 4 % 2 ^ 21) 40).take 28) →
    ∃ t, exec (.patternLoad d) s = .next t ∧
    (∀ c ∈ leftCells s s.arr.shape, memRead t.arr.patterns ((c * 64 + field d 4 1 % 64) * 64) 40 = sramRead s c (field d 12 4 % 2 ^ 21) 40) ∧
    (∀ a, (∀ c ∈ leftCells s s.arr.shape, a / 64 ≠ c * 64 + field d 4 1 % 64) → memByte t.arr.patterns a = memByte s.arr.patterns a) ∧
    t.arr = { s.arr with patterns := t.arr.patterns } ∧ opCompleted j s t ∧ opFrame [] s t) ∧
  (∀ s d j kind bf n, issuable 0x23 d s = some j → kind = field d 1 1 % 2 → bf = bitOf (field d 1 1) 1 → n = (if bf then 128 else 256) →
    (∀ c ∈ activeCells s, sramBad s c (field d 12 4 % 2 ^ 21) n = false ∧
      ∀ v ∈ scaleVals bf (sramRead s c (field d 12 4 % 2 ^ 21) n), scaleOk v = true) →
    ∃ t, exec (.scaleLoad d) s = .next t ∧
    (∀ c ∈ activeCells s, ∀ i < 64, scaleReg t kind c i = (scaleVals bf (sramRead s c (field d 12 4 % 2 ^ 21) n)).getD i 0) ∧
    t.arr = { s.arr with colScale := t.arr.colScale, rowScale := t.arr.rowScale } ∧
    (kind = 0 → t.arr.rowScale = s.arr.rowScale) ∧ (kind = 1 → t.arr.colScale = s.arr.colScale) ∧ opCompleted j s t ∧ opFrame [] s t) ∧
  (∀ s d j, issuable 0x24 d s = some j →
    (∀ c ∈ activeCells s, sramBad s c (field d 12 4 % 2 ^ 21) 1024 = false ∧
      ∀ i < 64, rescaleOk (((sramRead s c (field d 12 4 % 2 ^ 21) 1024).drop (16 * i)).take 16) = true) →
    ∃ t, exec (.rescaleLoad d) s = .next t ∧
    (∀ c ∈ activeCells s, memRead t.arr.rescale ((c * 16 + field d 4 1 % 16) * 1024) 1024 = sramRead s c (field d 12 4 % 2 ^ 21) 1024) ∧
    t.arr = { s.arr with rescale := t.arr.rescale } ∧ opCompleted j s t ∧ opFrame [] s t)

/-- R239 to R247, R345: with no poisoned operand CONVERT, RESCALE, VEC, VTRANS and REDUCE complete and, where their destination rows fit, write
the rows they compute from the state before them and nothing else of the SRAM; AMAX writes one scale for each channel. The four
transcendental functions are opaque: log entry 12. The model reads what the manual leaves open here as log entry 17 says. -/
def Obligations.VectorUnitOperations : Prop :=
  (∀ s d j v, issuable 0x41 d s = some j → v = parseVec d → sumBad s v = false → ∃ t, exec (.convert d) s = .next t ∧
    (bitOf v.func 4 = false → rowsFit v v.df v.cols →
      rowsWritten v v.df s t ((convAll s v).map fun o => (o.1, o.2.1, o.2.2.map (·.bits)))) ∧
    (bitOf v.func 4 = true → v.df ≤ 5 → ∀ nb len, nb = (v.cols + 63) / 64 → len = 256 + bodyBytes v.df → v.dst + (v.rows + 63) / 64 * nb * len ≤ 2 ^ 21 →
      ∀ c ∈ (vecGroups s v).flatten, ∀ i < (v.rows + 63) / 64 * nb, sramRead t c (v.dst + i * len) (convFrame s v c (i / nb) (i % nb)
        (((convAll s v).filter (·.1 == c)).map fun o => o.2.2.map (·.bits))).length = convFrame s v c (i / nb) (i % nb)
        (((convAll s v).filter (·.1 == c)).map fun o => o.2.2.map (·.bits))) ∧
    obj t 0x3101 1 % 2 ^ 64 = (obj s 0x3101 1 + (((convAll s v).flatMap (·.2.2)).filter (·.sat)).length) % 2 ^ 64 ∧
    obj t 0x3101 2 % 2 ^ 64 = (obj s 0x3101 2 + (((convAll s v).flatMap (·.2.2)).filter (·.nanZero)).length) % 2 ^ 64 ∧
    opCompleted j s t ∧ opFrame [(0x3101, 1), (0x3101, 2)] s t) ∧
  (∀ s d j v, issuable 0x42 d s = some j → v = parseVec d → sumBad s v = false → ∃ t, exec (.rescale d) s = .next t ∧
    (rowsFit v 0x10 v.cols → rowsWritten v 0x10 s t
      (((vecRows s v).filter fun o => decide (v.imm % 65536 ≤ o.2) && decide (o.2 < v.imm % 65536 + 64)).map fun o => (o.1, o.2,
        (sumRow s v o.1 o.2).mapIdx fun i x => rescaleElem (memRead s.arr.rescale ((o.1 * 16 + v.aux % 16) * 1024 + 16 * i) 16)
          (scaleReg s 1 o.1 (o.2 - v.imm % 65536)) x))) ∧
    opCompleted j s t ∧ opFrame [] s t) ∧
  (∀ s d j v op scalar, issuable 0x43 d s = some j → v = parseVec d → op = v.func % 16 → scalar = bitOf v.func 7 →
    operandBad s v v.sf v.src = false → (scalar = false → operandBad s v v.sf v.src2 = false) →
    (op = 2 → operandBad s v v.df v.dst = false) → ∃ t, exec (.vec d) s = .next t ∧
    (rowsFit v v.df v.cols → rowsWritten v v.df s t ((vecRows s v).map fun o => (o.1, o.2, (List.range v.cols).map fun i =>
      (toDst v (vecElem op (widen v.sf ((rowOf s v v.sf v.src o.1 o.2).getD i 0))
        (if scalar then v.imm else widen v.sf ((rowOf s v v.sf v.src2 o.1 o.2).getD i 0))
        (if op = 2 then widen v.df ((rowOf s v v.df v.dst o.1 o.2).getD i 0) else 0))).bits))) ∧
    opCompleted j s t ∧ opFrame [(0x3101, 1), (0x3101, 2)] s t) ∧
  (∀ s d j v, issuable 0x44 d s = some j → v = parseVec d → operandBad s v v.sf v.src = false →
    ∃ t, exec (.vtrans d) s = .next t ∧
    (rowsFit v v.df v.cols → rowsWritten v v.df s t ((vecRows s v).map fun o => (o.1, o.2, (rowOf s v v.sf v.src o.1 o.2).map fun x =>
      (toDst v (vtransElem v.func (widen v.sf x))).bits))) ∧
    opCompleted j s t ∧ opFrame [(0x3101, 1), (0x3101, 2)] s t) ∧
  (∀ s d j v, issuable 0x45 d s = some j → v = parseVec d → operandBad s v v.sf v.src = false →
    ∃ t, exec (.reduce d) s = .next t ∧
    (bitOf v.func 2 = false → rowsFit v v.df 1 → rowsWritten v v.df s t ((vecRows s v).map fun o => (o.1, o.2,
      [(toDst v (reduceList (v.func % 4) ((rowOf s v v.sf v.src o.1 o.2).map (widen v.sf)))).bits]))) ∧
    (bitOf v.func 2 = true → rowsFit v v.df v.cols → rowsWritten v v.df s t ((vecGroups s v).flatMap fun g => (List.range v.rows).flatMap fun r =>
      g.map fun c => (c, r, (List.range v.cols).map fun i =>
        (toDst v (reduceList (v.func % 4) (g.map fun k => ((rowOf s v v.sf v.src k r).map (widen v.sf)).getD i 0))).bits))) ∧
    opCompleted j s t ∧ opFrame [(0x3101, 1), (0x3101, 2)] s t) ∧
  (∀ s d j v kind axis chans, issuable 0x40 d s = some j → v = parseVec d → kind = bitsOf v.func 4 4 → axis = v.func % 4 →
    chans = (if axis = 0 then v.rows else if axis = 1 then v.cols else 1) → operandBad s v v.sf v.src = false →
    ∃ t, exec (.amax d) s = .next t ∧
    (chans ≤ 64 → ∀ g ∈ vecGroups s v, ∀ c ∈ g, ∀ i < chans, ∀ k < 64, (axis ≠ 2 → k = i) →
      scaleReg t kind c k = scaleOf v.df (bitsOf v.func 3 3)
        (if bitOf v.func 2 then (g.map fun e => amaxCell s v axis e i).foldl max 0 else amaxCell s v axis c i)) ∧
    t.arr = { s.arr with colScale := t.arr.colScale, rowScale := t.arr.rowScale } ∧ opCompleted j s t ∧ opFrame [] s t)

/-- R212, R214 to R216, R219, R222, R226, R227, R248 to R252: an MMA whose pattern slots are loaded and that consumes no poison, nor data that
fail their parity, runs every pass to its end; where what it reads and what it writes lie apart, each row and column has its word of sum,
and of whey, in the drain cell, the stakes are those of the last pass, and no other byte of SRAM differs. It counts itself as split where a
partition needs more than one pass, and counts a sum that is not finite. The model reads what the manual leaves open here as log entry 17
says. -/
def Obligations.MatrixMultiply : Prop :=
  ∀ s u d parity j x k, issuable 0x20 d s = some j → x = parseMma d → u = parityHits parity s → k = u.arr.shape →
    (∀ p ∈ mmaParts u k x, ∀ i < mmaPasses u x k p, mmaPassReady u j x p i) →
    (x.acc = true → ∀ p ∈ mmaParts u k x, ∀ m < x.m, ∀ n < x.n, ∀ c, c = (drainCells u k p).getD (n / 64) 0 →
      sramBad u c (wordAt x.sAddr m n) 4 = false ∧ (x.whey = true → sramBad u c (wordAt x.yAddr m n) 4 = false)) →
    (∀ p ∈ mmaParts u k x, mmaApart u x p) → regionsFit (mmaOuts x) →
    ∃ t, exec (.mma ⟨d, parity⟩) s = .next t ∧
    obj t 0x3000 6 % 2 ^ 64 = (obj u 0x3000 6 + boolNat ((mmaParts u k x).any fun p => decide (1 < mmaPasses u x k p))) % 2 ^ 64 ∧
    obj t 0x3101 3 % 2 ^ 64 = (obj u 0x3101 3 + boolNat (nonFinite t x k)) % 2 ^ 64 ∧
    (∀ p ∈ mmaParts u k x, ∀ m < x.m, ∀ n < x.n, ∀ c w, c = (drainCells u k p).getD (n / 64) 0 → w = mmaWord u x p m n (mmaPasses u x k p - 1) →
      sramNat t c (wordAt x.sAddr m n) 4 = w.1 % 2 ^ 32 ∧ (x.whey = true → sramNat t c (wordAt x.yAddr m n) 4 = w.2 % 2 ^ 32)) ∧
    (∀ a, (∀ p ∈ mmaParts u k x, ∀ m < x.m, ∀ n < x.n, ∀ c, c = (drainCells u k p).getD (n / 64) 0 →
        ¬inSram c (wordAt x.sAddr m n) 4 a ∧ (x.whey = true → ¬inSram c (wordAt x.yAddr m n) 4 a)) →
      memByte t.arr.sram a = memByte u.arr.sram a ∧ memByte t.arr.poison a = memByte u.arr.poison a) ∧
    (∀ p ∈ mmaParts u k x, ∀ c ∈ (chainRows u k p).flatten, ∀ i < 8192, ∀ l, l = mmaPasses u x k p - 1 →
      memByte t.arr.stakeA (c * 8192 + i) = memByte (passStakes x k l p u).1.arr.stakeA (c * 8192 + i) ∧
      memByte t.arr.stakeS (c * 8192 + i) = memByte (passStakes x k (if x.preload = true then l else 0) p u).1.arr.stakeS (c * 8192 + i)) ∧
    t.arr = { u.arr with
      stakeA := t.arr.stakeA
      stakeS := t.arr.stakeS
      stakeAPoison := t.arr.stakeAPoison
      stakeSPoison := t.arr.stakeSPoison
      sram := t.arr.sram
      poison := t.arr.poison } ∧
    opCompleted j u t ∧ opFrame [(0x3000, 6), (0x3101, 3)] u t

/-- R293 to R306: a SKIM, a MERGE or a GATHER that consumes no poison completes. A SKIM leaves the k best elements of each row and group, and
their list where asked; a MERGE of lists that keep their layout writes the best k of them; a GATHER whose indices lie in their rows copies
the values they name. The model reads what the manual leaves open here as log entry 17 says. -/
def Obligations.SelectionOperations : Prop :=
  (∀ s d j f ty rows n k src idx cnt recs groups cand, issuable 0x30 d s = some j → f = field d 1 1 → ty = bitsOf f 3 2 → k = field d 2 1 →
    rows = field d 4 2 → n = field d 6 2 → src = field d 12 4 % 2 ^ 21 → idx = field d 16 4 % 2 ^ 21 → cnt = field d 20 4 % 2 ^ 21 →
    recs = field d 24 4 % 2 ^ 21 → groups = skimGroups s (bitOf f 5) →
    cand = (fun (g : List Nat) r => (g.mapIdx fun p c => skimCands s ty src (field d 8 2) n c (n * p) r).flatten) →
    (∀ g ∈ groups, ∀ c ∈ g, ∀ r < rows, sramBad s c (src + 64 * field d 8 2 * r) (scoreBytes ty * n) = false) →
    ∃ t, exec (.skim d) s = .next t ∧ obj t 0x3301 1 = (obj s 0x3301 1 + 1) % 2 ^ 64 ∧
    (k ≤ 64 → regionsFit ((src, 64 * field d 8 2 * (rows - 1) + scoreBytes ty * n) :: (idx, 256 * rows) :: (cnt, rows) ::
        if bitOf f 4 then [(recs, 2112 * rows)] else []) →
      obj t 0x3301 4 % 2 ^ 64 = (obj s 0x3301 4 + ((groups.flatMap fun g => (List.range rows).map fun r => nanCount ty (cand g r)).foldl (· + ·) 0)) % 2 ^ 64 ∧
      ∀ g ∈ groups, ∀ r < rows, ∀ c best, c = g.headD 0 → best = skimBest (bitOf f 1) ty k (cand g r) →
        sramNat t c (cnt + r) 1 = best.length % 256 ∧
        (∀ i < 64, sramNat t c (idx + 256 * r + 4 * i) 4 = (match best[i]? with | some e => e.index | none => 0xFFFFFFFF) % 2 ^ 32) ∧
        (bitOf f 4 = true → sramRead t c (recs + 2112 * r) (64 + 32 * best.length) = candList (bitOf f 1) ty best)) ∧
    (∀ a, (∀ g ∈ groups, ¬inSram (g.headD 0) idx (256 * rows) a ∧ ¬inSram (g.headD 0) cnt rows a ∧
        (bitOf f 4 = true → ¬inSram (g.headD 0) recs (2112 * (rows - 1) + 64 + 32 * k) a)) →
      memByte t.arr.sram a = memByte s.arr.sram a ∧ memByte t.arr.poison a = memByte s.arr.poison a) ∧
    t.arr = { s.arr with sram := t.arr.sram, poison := t.arr.poison } ∧ opCompleted j s t ∧ opFrame [(0x3301, 1), (0x3301, 4)] s t) ∧
  (∀ s d j f ty smaller cell tab nl offs lens (lists : List (List Cand)), issuable 0x31 d s = some j → f = field d 1 1 → ty = bitsOf f 3 2 →
    smaller = bitOf f 1 → cell = field d 4 1 → cellIn s cell = true → tab = field d 8 4 % 2 ^ 21 → nl = field d 3 1 →
    sramBad s cell tab (4 * nl) = false →
    offs = (List.range nl).map (fun i => sramNat s cell (tab + 4 * i) 4) → lens = offs.map (fun o => 64 + 32 * min 64 (sramNat s cell o 2)) →
    (∀ o ∈ offs, o % 64 = 0 ∧ inArea s j.basket.cls o 64 = true ∧ sramBad s cell o 64 = false) →
    (∀ x ∈ offs.zip lens, inArea s j.basket.cls x.1 x.2 = true ∧ sramBad s cell x.1 x.2 = false) →
    (offs.zip lens).map (fun x => parseList smaller ty (sramRead s cell x.1 x.2)) = lists.map some →
    ∃ t, exec (.merge d) s = .next t ∧ obj t 0x3301 2 = (obj s 0x3301 2 + 1) % 2 ^ 64 ∧
    obj t 0x3301 4 = (obj s 0x3301 4 + nanCount ty lists.flatten) % 2 ^ 64 ∧
    obj t 0x3301 5 % 2 ^ 64 = (obj s 0x3301 5 + if bitOf f 4 then dedupCount smaller ty lists.flatten else 0) % 2 ^ 64 ∧
    (∀ out, out = candList smaller ty (mergeBest smaller ty (field d 2 1) (bitOf f 4) lists.flatten) →
      sramRead t cell (field d 12 4 % 2 ^ 21) out.length = out ∧ sramBut (inSram cell (field d 12 4 % 2 ^ 21) out.length) s t) ∧
    opCompleted j s t ∧ opFrame [(0x3301, 2), (0x3301, 4), (0x3301, 5)] s t) ∧
  (∀ s d j k rows n idx src dst groups, issuable 0x32 d s = some j → k = field d 2 1 →
    rows = field d 4 2 → n = field d 6 2 → idx = field d 12 4 % 2 ^ 21 → src = field d 16 4 % 2 ^ 21 → dst = field d 20 4 % 2 ^ 21 →
    groups = skimGroups s (bitOf (field d 1 1) 0) → k ≤ 64 → regionsFit [(idx, 256 * rows), (dst, 256 * rows)] →
    (∀ g ∈ groups, ∀ r < rows, sramBad s (g.headD 0) (idx + 256 * r) (4 * k) = false ∧ ∀ i < k,
      sramNat s (g.headD 0) (idx + 256 * r + 4 * i) 4 = 0xFFFFFFFF ∨ sramNat s (g.headD 0) (idx + 256 * r + 4 * i) 4 < n * g.length) →
    ∃ t, exec (.gather d) s = .next t ∧ obj t 0x3301 3 = (obj s 0x3301 3 + 1) % 2 ^ 64 ∧
    (regionsFit [(src, 64 * field d 8 2 * (rows - 1) + 4 * n), (dst, 256 * rows)] → ∀ g ∈ groups, ∀ r < rows, ∀ i < k, ∀ c x y b,
      c = g.headD 0 → x = sramNat s c (idx + 256 * r + 4 * i) 4 → y = src + 64 * field d 8 2 * r + 4 * (x % max 1 n) → b = g.getD (x / max 1 n) 0 →
      sramNat t c (dst + 256 * r + 4 * i) 4 = (if x = 0xFFFFFFFF then field d 28 4 % 2 ^ 32 else sramNat s b y 4) ∧
      memRead t.arr.poison (sramKey c (dst + 256 * r + 4 * i)) 4 =
        (if x = 0xFFFFFFFF then List.replicate 4 0 else memRead s.arr.poison (sramKey b y) 4)) ∧
    sramBut (fun a => ∃ g ∈ groups, ∃ r < rows, ∃ i < k, inSram (g.headD 0) (dst + 256 * r + 4 * i) 4 a) s t ∧
    opCompleted j s t ∧ opFrame [(0x3301, 3)] s t)

/-- R167, R237, R344, R346: TILE_LOAD brings the frames of tiles that stand in T1 into a cell; TILE_STORE writes whole tiles of this node from
frames in order, each with a new version; MESH_MOVE copies bytes of one cell to another; OUT_WRITE copies bytes into the output of its job.
The model reads what the manual leaves open here as log entries 17 and 24 say. -/
def Obligations.TileAndMeshMovesOperations : Prop :=
  (∀ s d j o mv n addr, issuable 0x50 d s = some j → tileTarget s j d = some o → mv = tileMoves s d → n = field d 2 2 →
    addr = field d 12 4 % 2 ^ 21 → (∀ m ∈ mv, cellIn s m.1 = true ∧ m.2 + n ≤ o.size) →
    (∀ m ∈ mv, ∀ i < n, tileAway s (tileOf s o.id (m.2 + i)) = false ∧ needsFetch (tileOf s o.id (m.2 + i)) = false ∧
      ((tileOf s o.id (m.2 + i)).poison = false ∨ isMx (tileOf s o.id (m.2 + i)).format = false)) →
    ∃ t, exec (.tileLoad d) s = .next t ∧
    (∀ f, (∀ m ∈ mv, ∀ i < n, (tileOf s o.id (m.2 + i)).format = f) → addr + n * frameLen f ≤ 2 ^ 21 → ∀ m ∈ mv, ∀ i < n,
      sramRead t m.1 (addr + i * frameLen f) (frameLen f) = frameBytes (tileOf s o.id (m.2 + i)) ∧
      memRead t.arr.poison (sramKey m.1 (addr + i * frameLen f + 256)) (frameLen f - 256) =
        List.replicate (frameLen f - 256) (if (tileOf s o.id (m.2 + i)).poison then 1 else 0)) ∧
    obj t 0x3101 4 % 2 ^ 64 = (obj s 0x3101 4 +
      ((mv.flatMap fun m => (List.range n).map fun i => boolNat (isMx (tileOf s o.id (m.2 + i)).format)).foldl (· + ·) 0)) % 2 ^ 64 ∧
    t = { s with dict := t.dict, arr := t.arr, tier := t.tier, jobs := t.jobs } ∧
    t.arr = { s.arr with sram := t.arr.sram, poison := t.arr.poison } ∧ t.tier = { s.tier with tiles := t.tier.tiles } ∧
    objsBut [(0x3000, 5), (0x3101, 4)] s t ∧ opCompleted j s t) ∧
  (∀ s d j o mv n addr fl, issuable 0x51 d s = some j → tileTarget s j d = some o → mv = tileMoves s d → n = field d 2 2 →
    addr = field d 12 4 % 2 ^ 21 → fl = frameLen o.format → (∀ m ∈ mv, cellIn s m.1 = true ∧ m.2 + n ≤ o.size) →
    auditHeld s j.id 0 o.id = false →
    (∀ m ∈ mv, ∀ i < n, (tileOf s o.id (m.2 + i)).node = ownNode s ∧ (tileOf s o.id (m.2 + i)).held = false ∧ needsFetch (tileOf s o.id (m.2 + i)) = false ∧
      sramBad s m.1 (addr + i * fl + 12) 4 = false ∧ frameOk o (sramRead s m.1 (addr + i * fl + 12) 4) = true) →
    ∃ t, exec (.tileStore d) s = .next t ∧
    (∀ m ∈ mv, ∀ i < n, ∀ h x, h = sramRead s m.1 (addr + i * fl + 12) 4 →
      x = { tileOf s o.id (m.2 + i) with
        format := o.format
        rows := field h 1 1
        cols := field h 2 1
        flags := field h 3 1 &&& 0x0C
        scale := memOf (sramRead s m.1 (addr + i * fl + 128) 128)
        body := memOf (sramRead s m.1 (addr + i * fl + 256) (bodyBytes o.format)) } →
      ∃ y : Tile, y = tileOf t o.id (m.2 + i) ∧ y.format = x.format ∧ y.rows = x.rows ∧ y.cols = x.cols ∧ y.flags = x.flags ∧ y.scale = x.scale ∧
        y.body = x.clipped ∧ y.version = x.version + 1 ∧ y.writeTime = s.time ∧ y.dirty = true ∧ y.inT1 = true ∧
        y.poison = sramBad s m.1 (addr + i * fl + 128) (128 + bodyBytes o.format)) ∧
    t = { s with dict := t.dict, tier := t.tier, jobs := t.jobs } ∧ objsBut [(0x3000, 5), (0x2202, 2)] s t ∧ opCompleted j s t) ∧
  (∀ s d j a b off dst n, issuable 0x52 d s = some j → a = field d 8 1 → b = field d 9 1 → off = field d 16 4 % 2 ^ 21 →
    dst = field d 12 4 % 2 ^ 21 → n = field d 20 4 → cellIn s a = true → cellIn s b = true →
    ∃ t, exec (.meshMove d) s = .next t ∧ sramRead t b dst n = sramRead s a off n ∧
    memRead t.arr.poison (sramKey b dst) n = memRead s.arr.poison (sramKey a off) n ∧ sramBut (inSram b dst n) s t ∧
    opCompleted j s t ∧ opFrame [] s t) ∧
  (∀ s d j c off n, issuable 0x58 d s = some j → c = field d 8 1 → off = field d 12 4 % 2 ^ 21 → n = field d 20 4 → cellIn s c = true →
    ∃ t, exec (.outWrite d) s = .next t ∧
    t.jobs = { s.jobs with jobs := updWhere (·.id == j.id) (fun k => { k with
      pos := k.pos + 1
      output := memWrite k.output (field d 4 4) (sramRead s c off n)
      outPoison := memWrite k.outPoison (field d 4 4) (memRead s.arr.poison (sramKey c off) n) }) s.jobs.jobs } ∧
    obj t 0x3000 5 = (obj s 0x3000 5 + 1) % 2 ^ 64 ∧ t = { s with dict := t.dict, jobs := t.jobs } ∧ objsBut [(0x3000, 5)] s t)

/-- R337, R338, R385, Table 14-4: the eleven synchronisation operations at their home. Each returns its value and leaves the object, whose
waiters are then served; ACQUIRE, WAIT, AWAIT and WAIT_GE wait as the last in line when their condition does not hold; an operation on an
object of another kind, or out of range, is turned away as an invalid target, and one that is not granted as refused. The model reads what
the manual leaves open here as log entry 18 says. -/
def Obligations.SynchronisationOperations : Prop :=
  (∀ s w h n o, syncReady w h o s → o.kind = 0 → 1 ≤ n → n ≤ 65535 →
    (o.waiters = [] → n ≤ o.value → ∃ t, exec (.acquire w h n) s = .next t ∧ syncDone w 0 { o with value := o.value - n } s t) ∧
    (o.waiters ≠ [] ∨ o.value < n → ∃ t, exec (.acquire w h n) s = .next t ∧ syncWaits w 0 n o s t) ∧
    (o.value + n < 2 ^ 32 → ∃ t, exec (.release w h n) s = .next t ∧ syncDone w 0 { o with value := o.value + n } s t)) ∧
  (∀ s w h o, syncReady w h o s → o.kind = 1 →
    (∃ t, exec (.set w h) s = .next t ∧ syncDone w 0 { o with value := 1 } s t) ∧
    (∃ t, exec (.clear w h) s = .next t ∧ syncDone w 0 { o with value := 0 } s t) ∧
    (o.value = 1 → ∃ t, exec (.wait w h) s = .next t ∧ syncDone w 0 o s t) ∧
    (o.value ≠ 1 → ∃ t, exec (.wait w h) s = .next t ∧ syncWaits w 4 0 o s t)) ∧
  (∀ s w h o, syncReady w h o s → o.kind = 2 →
    (∃ t, exec (.arrive w h) s = .next t ∧ syncDone w o.gen
      (if o.parts ≤ o.value + 1 ∧ o.release ≤ s.time then { o with value := o.value + 1 - o.parts, gen := (o.gen + 1) % 2 ^ 32 }
       else { o with value := o.value + 1 }) s t) ∧
    (∀ g, o.gen ≠ g → ∃ t, exec (.await w h g) s = .next t ∧ syncDone w o.gen o s t) ∧
    (∃ t, exec (.await w h o.gen) s = .next t ∧ syncWaits w 6 o.gen o s t)) ∧
  (∀ s w h o, syncReady w h o s → o.kind = 3 →
    (∀ v, ∃ t, exec (.add w h v) s = .next t ∧ syncDone w o.value { o with value := (o.value + v) % 2 ^ 64 } s t) ∧
    (∃ t, exec (.syncRead w h) s = .next t ∧ syncDone w o.value o s t) ∧
    (∀ v, v ≤ o.value → ∃ t, exec (.waitGe w h v) s = .next t ∧ syncDone w o.value o s t) ∧
    (∀ v, o.value < v → ∃ t, exec (.waitGe w h v) s = .next t ∧ syncWaits w 9 v o s t) ∧
    (∀ a b, ∃ t, exec (.cas w h a b) s = .next t ∧ syncDone w o.value (if o.value = a then { o with value := b } else o) s t)) ∧
  (∀ s c node tag fn h x o, syncCommand c (.remote node tag fn) h x → syncHome s h = ownNode s → syncAsker (.remote node tag fn) h s →
    (findSync s (h % 65536) = none → ∃ t, exec c s = .next t ∧ syncTurned node tag 1 s t) ∧
    (findSync s (h % 65536) = some o → o.homed = true → granted o.grants fn = false → ∃ t, exec c s = .next t ∧ syncTurned node tag 2 s t) ∧
    (findSync s (h % 65536) = some o → o.homed = true → granted o.grants fn = true → o.kind ≠ syncKind x.1 ∨ x.1 ≤ 1 ∧ (x.2.1 = 0 ∨ 65535 < x.2.1) →
      ∃ t, exec c s = .next t ∧ syncTurned node tag 1 s t) ∧
    (findSync s (h % 65536) = some o → o.homed = false → node = ownNode s → ∃ t, exec c s = .next t ∧ syncTurned node tag 1 s t) ∧
    (findSync s (h % 65536) = some o → o.homed = false → node ≠ ownNode s → ∃ t, exec c s = .next t ∧
      syncSent (.remote node tag fn) (ownNode s) true x h s t))

/-- R337, R338, R361: SYNC_CREATE makes the object that SyncControl describes, SYNC_DELETE takes it away, its waiters ending with Job Fault, and
SYNC_SIGNAL applies RELEASE, SET, ARRIVE or ADD to it; each leaves status 0. A number that is in use, or is not homed here, is a State
Conflict, and a kind, class or value out of range is refused. R181, R329, R336, R337, R354, R370, R385, Table 14-10: a WAIT or SIGNAL of the
stream whose object lets it proceed completes, with the value it returns in cell 0 where it asks for it, and otherwise waits; an operation
on an object that another node or the twin homes goes there; a cancelled waiter stands at its object no longer; a barrier advances at its
release instant. The model reads what the manual leaves open here as log entry 18 says. -/
def Obligations.SyncControlStreamAndCancel : Prop :=
  (∀ s no kind cls v, no = obj s 0x3601 1 → kind = obj s 0x3601 2 → cls = obj s 0x3601 3 → v = obj s 0x3601 4 → kind ≤ 3 → cls ≤ 1 →
    (kind = 0 → v < 2 ^ 32) → (kind = 1 → v ≤ 1) → (kind = 2 → 1 ≤ v ∧ v ≤ 65535) →
    (findSync s no = none → ∃ t o, exec .syncCreate s = .next t ∧ o.no = no ∧ o.kind = kind ∧ o.express = decide (cls = 1) ∧ o.gen = 0 ∧
      o.value = (if kind = 2 then 0 else v) ∧ o.parts = (if kind = 2 then v else 0) ∧ o.grants = obj s 0x3601 5 ∧
      o.release = (if kind = 2 then obj s 0x3601 7 else 0) ∧ o.waiters = [] ∧ o.homed = true ∧ o.mirrored = false ∧ syncNow o s t ∧
      (∀ k, k ≠ no → syncLike (findSync t k) (findSync s k)) ∧ t.dict.lastStatus = 0 ∧ t.dict.lastSub = 0 ∧
      t = { s with sync := { s.sync with objs := t.sync.objs }, wyv := t.wyv, dict := t.dict }) ∧
    ((findSync s no).isSome = true → ∃ t, exec .syncCreate s = .next t ∧ statusOnly 0x27 6 s t)) ∧
  (∀ s kind cls v, kind = obj s 0x3601 2 → cls = obj s 0x3601 3 → v = obj s 0x3601 4 →
    (3 < kind → ∃ t, exec .syncCreate s = .next t ∧ statusOnly 0x26 2 s t) ∧
    (kind ≤ 3 → 1 < cls → ∃ t, exec .syncCreate s = .next t ∧ statusOnly 0x26 3 s t) ∧
    (cls ≤ 1 → (kind = 0 ∧ 2 ^ 32 ≤ v ∨ kind = 1 ∧ 1 < v ∨ kind = 2 ∧ (v = 0 ∨ 65535 < v)) → ∃ t, exec .syncCreate s = .next t ∧ statusOnly 0x26 4 s t)) ∧
  (∀ s o, findSync s (obj s 0x3601 1) = some o → o.homed = true → ∃ t, exec .syncDelete s = .next t ∧ t.dict.lastStatus = 0 ∧
    findSync t (obj s 0x3601 1) = none ∧
    (∀ w ∈ o.waiters, ∀ node tag fn, w.who = .remote node tag fn → ∃ r, (node, tag, r) ∈ t.wyv.keptResp ∧ r.op = 1) ∧
    (∀ w ∈ o.waiters, ∀ k j x, w.who = .thread k → ownerJob s = some j → j.stage = none → inflight? s j.fn j.sq j.cid = some x →
      ∃ d, cqeOf j.fn j.sq j.cid stJobFault d 0 ∈ t.host.cqes) ∧
    (o.waiters = [] → t = { s with sync := { s.sync with objs := t.sync.objs }, wyv := t.wyv, dict := t.dict } ∧
      (∀ k, k ≠ obj s 0x3601 1 → syncLike (findSync t k) (findSync s k)))) ∧
  (∀ s c, (c = .syncDelete ∨ c = .syncSignal) → (∀ o, findSync s (obj s 0x3601 1) = some o → o.homed = false) →
    ∃ t, exec c s = .next t ∧ statusOnly 0x27 6 s t) ∧
  (∀ s o v, findSync s (obj s 0x3601 1) = some o → o.homed = true → v = obj s 0x3601 4 → o.kind ≤ 3 →
    ((o.kind = 0 → 1 ≤ v ∧ v ≤ 65535 ∧ o.value + v < 2 ^ 32) → ∃ t, exec .syncSignal s = .next t ∧ t.dict.lastStatus = 0 ∧ syncFrame (obj s 0x3601 1) s t ∧
      syncNow (serveObj
        (if o.kind = 0 then { o with value := o.value + v } else if o.kind = 1 then { o with value := 1 }
         else if o.kind = 2 then (if o.parts ≤ o.value + 1 ∧ o.release ≤ s.time then
           { o with value := o.value + 1 - o.parts, gen := (o.gen + 1) % 2 ^ 32 } else { o with value := o.value + 1 })
         else { o with value := (o.value + v) % 2 ^ 64 })).1 s t) ∧
    (o.kind = 0 → (v = 0 ∨ 65535 < v) → ∃ t, exec .syncSignal s = .next t ∧ statusOnly 0x26 4 s t) ∧
    (o.kind = 0 → 1 ≤ v → v ≤ 65535 → 2 ^ 32 ≤ o.value + v → ∃ t, exec .syncSignal s = .next t ∧ statusOnly 0x27 6 s t)) ∧
  (∀ s c opc d j e o, (c = .waitOperation d ∧ opc = 0x60 ∨ c = .signal d ∧ opc = 0x61) → issuable opc d s = some j →
    e = field (j.basket.sync.getD (field d 2 2) []) 0 4 →
    (syncHome s e = ownNode s → findSync s (e % 65536) = some o → o.homed = true → o.kind = syncKind (field d 1 1) →
      syncOperandOk (field d 1 1) (field d 16 8) = true →
      (∀ o' v, applySync s.time (field d 1 1) (field d 16 8) (field d 24 8) o = .ok (some (o', v)) → ∃ t, exec c s = .next t ∧
        (∃ l, t.sync.results = s.sync.results ++ (.stream, v) :: l) ∧ obj t 0x3000 5 = (obj s 0x3000 5 + 1) % 2 ^ 64 ∧ syncNow (serveObj o').1 s t ∧
        (field d 12 4 ≠ 0xFFFFFFFF →
          sramNat t 0 (field d 12 4 % 2 ^ 21) 8 = v % 2 ^ 64 ∧ sramBut (inSram 0 (field d 12 4 % 2 ^ 21) 8) s t) ∧
        (field d 12 4 = 0xFFFFFFFF → t.arr = s.arr) ∧ syncFrame (e % 65536) s t) ∧
      (applySync s.time (field d 1 1) (field d 16 8) (field d 24 8) o = .ok none → ∃ t, exec c s = .next t ∧
        syncWaits .stream (field d 1 1) (field d 16 8) o s t ∧ t.arr = s.arr ∧ t.jobs = s.jobs)) ∧
    (syncHome s e = ownNode s → findSync s (e % 65536) = some o → o.homed = false → ∃ t, exec c s = .next t ∧
      syncSent .stream (ownNode s) true (field d 1 1, field d 16 8, field d 24 8) e s t ∧ t.jobs = s.jobs) ∧
    (syncHome s e ≠ ownNode s → nodeNamed s (syncHome s e) = true → t3Open s (syncHome s e) = true → ∃ t, exec c s = .next t ∧
      syncSent .stream (syncHome s e) false (field d 1 1, field d 16 8, field d 24 8) e s t ∧ t.jobs = s.jobs)) ∧
  (∀ s c k h x y, syncCommand c (.thread k) h x →
    syncAsker (.thread k) h s → y = syncHome s h →
    (y ≠ ownNode s → nodeNamed s y = true → t3Open s y = true → ∃ t, exec c s = .next t ∧
      syncSent (.thread k) y false x h s t ∧ ∀ z, findThread t k = some z → z.wait = true) ∧
    (∀ o, y = ownNode s → findSync s (h % 65536) = some o → o.homed = false → ∃ t, exec c s = .next t ∧
      syncSent (.thread k) y true x h s t ∧ ∀ z, findThread t k = some z → z.wait = true)) ∧
  (∀ s w h o, syncHome s h = ownNode s → findSync s (h % 65536) = some o → o.homed = true → (o.waiters.any (·.who == w)) = true →
    ∃ t, exec (.syncCancel w h) s = .next t ∧ syncNow (serveObj { o with waiters := o.waiters.filter (·.who != w) }).1 s t ∧
    (∀ node tag fn, w = .remote node tag fn → ∃ r, (node, tag, r) ∈ t.wyv.keptResp ∧ r.op = 5) ∧
    (∀ k z, w = .thread k → findThread t k = some z → z.wait = false) ∧ syncFrame (h % 65536) s t) ∧
  (∀ s w h o, syncHome s h = ownNode s → findSync s (h % 65536) = some o → (o.waiters.any (·.who == w)) = false → twinned s = false →
    exec (.syncCancel w h) s = .next s) ∧
  (∀ s h o, syncHome s h = ownNode s → findSync s (h % 65536) = some o → o.homed = true → o.kind = 2 →
    ∃ t, exec (.barrierReleaseInstant h) s = .next t ∧ syncFrame (h % 65536) s t ∧
    syncNow (serveObj (if o.parts ≤ o.value ∧ o.release ≤ s.time then { o with value := o.value - o.parts, gen := (o.gen + 1) % 2 ^ 32 } else o)).1 s t)

/-- R164, R168, R171 to R176: a dirty tile's timeout writes its body and its header back through the Pail; the placement engine starts a
migration or a replica where it may, decision after decision; a checked copy switches the tile's home, and its release frees the source. The
model reads what the manual leaves open here as log entry 54 says. -/
def Obligations.PlacementOfTiles : Prop :=
  (∀ s o i u v b, findTile s o i = some u → v = takeTilePages u s →
    (u.dirty = false ∨ u.node ≠ ownNode s → exec (.dirtyTileTimeout o i) s = .next s) ∧
    (u.dirty = true → u.node = ownNode s → bodyLpn v u = some b →
      (pailHasRoom v 2 2 = false → exec (.dirtyTileTimeout o i) s = .next v) ∧
      (pailHasRoom v 2 2 = true → ∃ t, exec (.dirtyTileTimeout o i) s = .next t ∧
        findTile t o i = some { u with dirty := false, writers := [], saved := u.version } ∧
        (u.format = 0xFF ∨ headerLpn v u ≠ some b → memRead (pageData t b).1 (bodyPlace u).2.2 (bodyBytes u.format) = memRead u.body 0 (bodyBytes u.format)) ∧
        (∀ h, u.format ≠ 0xFF → headerLpn v u = some h → memRead (pageData t h).1 (headerPlace u).2 256 = storedHeader u) ∧
        obj t 0x2202 4 = (obj s 0x2202 4 + 1) % 2 ^ 64 ∧ (∀ x y, (x, y) ≠ (o, i) → findTile t x y = findTile s x y) ∧
        t.nand.pages = s.nand.pages ∧ t.tier.window = s.tier.window ∧ t.arr = s.arr ∧ t.host = s.host ∧ t.jobs = s.jobs ∧ t.time = s.time))) ∧
  (∀ s o i tier node u ob, findTile s o i = some u → findObj s o = some ob →
    (basicMode s = true ∨ computeReady s = false ∨ u.migration ≠ none ∨ u.pinned = true ∨ u.node ≠ ownNode s ∨ nodeDown s u.node = true ∨
      obj s 0x4200 3 = 1 ∧ namedByJob s o = true → exec (.placementEvaluation [(o, i, tier, node)]) s = .next s) ∧
    (basicMode s = false → computeReady s = true → u.migration = none → u.pinned = false → u.node = ownNode s → nodeDown s (ownNode s) = false →
      (obj s 0x4200 3 = 1 → namedByJob s o = false) →
      (tier = 1 ∨ tier = 2 ∧ u.dirty = false ∧ u.inT1 = true ∨ tier = 3 ∧ o < 2 ^ 63 ∧ inExtent s ob.group node = true ∧ nodeDown s node = false ∨
        tier = 4 ∧ ob.written = false ∧ o < 2 ^ 63 ∧ inExtent s ob.group node = true ∧ nodeDown s node = false ∧
          u.replicas.length + 1 < obj s (0x2210 + ob.group) 7 → ∃ t, exec (.placementEvaluation [(o, i, tier, node)]) s = .next t ∧
        findTile t o i = some (if tier = 4 then { u with replicas := u.replicas ++ [node] }
          else { u with migration := some { step := 1, tier := tier, node := if tier ≤ 2 then ownNode s else node, version := u.version } }) ∧
        (∀ a b, (a, b) ≠ (o, i) → findTile t a b = findTile s a b) ∧ t = { s with tier := { s.tier with tiles := t.tier.tiles } }) ∧
      (tier = 2 → u.dirty = true → bodyLpn (takeTilePages u s) u ≠ none → pailHasRoom (takeTilePages u s) 2 2 = true →
        ∃ t v, exec (.placementEvaluation [(o, i, tier, node)]) s = .next t ∧ findTile t o i = some v ∧ v.dirty = false ∧ v.saved = u.version ∧
        v.migration = some { step := 1, tier := 2, node := ownNode s, version := u.version }))) ∧
  (∀ s t m l, exec (.placementEvaluation [m]) s = .next t → exec (.placementEvaluation (m :: l)) s = exec (.placementEvaluation l) t) ∧
  (∀ s o i u m v, findTile s o i = some u → u.migration = some m → v = (if m.tier = 1 then framed s (tileOf s o i) else { u with inT1 := false }) →
    (m.step < 3 → ∃ t r, exec (.migrationInstallDone o i true) s = .next t ∧ t = serveWaits r ∧
      findTile r o i = some { v with node := m.node, migration := some { m with step := 3 }, cancels := 0 } ∧
      (∀ a b, (a, b) ≠ (o, i) → findTile r a b = findTile s a b) ∧
      obj r 0x2202 1 = (obj s 0x2202 1 + 1) % 2 ^ 64 ∧ r = { s with tier := { s.tier with tiles := r.tier.tiles }, dict := r.dict } ∧
      objsBut [(0x2202, 1)] s r) ∧
    (s.tier.waits = [] → exec (.migrationInstallDone o i false) s = .next s)) ∧
  (∀ s o i u m, findTile s o i = some u → u.migration = some m →
    (m.step ≠ 3 → exec (.migrationRelease o i) s = .next s) ∧
    (m.step = 3 → m.tier ≠ 3 → ∃ t, exec (.migrationRelease o i) s = .next t ∧
      findTile t o i = some (if u.inT1 then { u with migration := none } else { u with migration := none, body := [], scale := [] }) ∧
      t = { s with tier := { s.tier with tiles := t.tier.tiles } } ∧ ∀ a b, (a, b) ≠ (o, i) → findTile t a b = findTile s a b) ∧
    (m.step = 3 → m.tier = 3 → ∃ t, exec (.migrationRelease o i) s = .next t ∧
      findTile t o i = some { u with migration := none, inT1 := false, dirty := false, body := [], scale := [], saved := 0 } ∧
      (∀ a b, (a, b) ≠ (o, i) → findTile t a b = findTile s a b) ∧ pagesReleased s t ∧ (∀ p ∈ t.tier.pages, p ∈ s.tier.pages) ∧
      (∀ x ∈ s.tier.tiles, (x.object, x.index) ≠ (o, i) ∨ x = u → x.node = ownNode s → x.version ≠ 0 → x.object < 2 ^ 63 →
        obj t 0x4003 2 = obj s 0x4003 2) ∧
      (obj s 0x4003 2 = 1 → (∀ x ∈ s.tier.tiles, (x.object, x.index) ≠ (o, i) → x.node ≠ ownNode s) → u.node ≠ ownNode s → obj t 0x4003 2 = 0) ∧
      (obj s 0x4003 2 ≠ 1 → t = { s with tier := t.tier, blk := t.blk })))

/-- R18, R178, R181, R183: a coherent region is made zeroed at the lowest free address, a deleted one reads zero and its accesses in flight end
with Tier Error naming T1, and taking a home moves the home and nothing else; the twin has the record of each. What CoherentControl may not
do is refused. The model reads what the manual leaves open here as log entry 79 says. -/
def Obligations.CoherentRegionsControl : Prop :=
  (∀ rs len b, lowestBase rs len = some b → regionFree rs b len = true ∧ ∀ c < b, regionFree rs c len = false) ∧
  (∀ s no len b, no = obj s 0x2230 1 → len = obj s 0x2230 2 → no ≤ 254 → 1 ≤ len → len ≤ 262144 → (s.tier.regions.any (·.no == no)) = false →
    ¬(no = 254 ∧ twinned s = true ∧ ownNode s = 0) → s.tier.regions.length < 256 → lowestBase s.tier.regions len = some b →
    (twinned s = true → portUp s 12 = true ∧ portUp s 13 = true) → ∃ t g, exec .coherentCreate s = .next t ∧
    g = { no := no, base := b, len := len, homed := true, mirrored := twinned s, unprotected := false, single := false } ∧
    t.tier.regions = s.tier.regions ++ [g] ∧
    (∀ a, memByte t.tier.window a = (if b * 65536 ≤ a ∧ a < (b + len) * 65536 then 0 else memByte s.tier.window a)) ∧
    t.dict = { s.dict with vals := t.dict.vals, lastStatus := 0, lastSub := 0 } ∧
    (twinned s = true → ∃ q ∈ t.wyv.requests, q.plane = 2 ∧ q.msg.mtype = msgWrite ∧ q.msg.target = wyvasAddr (ownNode s) 1 (8 * no) ∧
      q.msg.data = natLE 8 (regionRecord g)) ∧ (twinned s = false → t.wyv = s.wyv ∧ t.dict.vals = s.dict.vals) ∧
    (∀ k ∈ coherentGibs b len, k ∈ t.tier.coherentAus.map (·.1) ∨ freeUnit (takenUnits t) ((takenUnits t).length + 1) 0 = none) ∧
    t = { s with tier := { s.tier with regions := t.tier.regions, window := t.tier.window, windowPoison := t.tier.windowPoison,
                                       coherentAus := t.tier.coherentAus }, dict := t.dict, wyv := t.wyv }) ∧
  (∀ s no len, no = obj s 0x2230 1 → len = obj s 0x2230 2 →
    (254 < no → ∀ c, (c = .coherentCreate ∨ c = .coherentDelete ∨ c = .coherentTakeHome) → ∃ t, exec c s = .next t ∧ statusOnly 0x26 1 s t) ∧
    (no ≤ 254 → len = 0 ∨ 262144 < len → ∃ t, exec .coherentCreate s = .next t ∧ statusOnly 0x26 2 s t) ∧
    (no ≤ 254 → 1 ≤ len → len ≤ 262144 → (s.tier.regions.any (·.no == no)) = true ∨ 256 ≤ s.tier.regions.length ∨
      lowestBase s.tier.regions len = none ∨ twinned s = true ∧ (portUp s 12 = false ∨ portUp s 13 = false ∨ no = 254 ∧ ownNode s = 0) →
      ∃ t, exec .coherentCreate s = .next t ∧ statusOnly 0x27 3 s t) ∧
    (no ≤ 254 → (s.tier.regions.any fun r => r.no == no && r.homed) = false ∨ no = 254 ∧ twinned s = true ∧ ownNode s = 0 →
      ∃ t, exec .coherentDelete s = .next t ∧ statusOnly 0x27 3 s t) ∧
    (no ≤ 254 → (s.tier.regions.any fun r => r.no == no && !r.homed) = false ∨ twinned s = false ∨ portUp s 12 = false ∨ portUp s 13 = false →
      ∃ t, exec .coherentTakeHome s = .next t ∧ statusOnly 0x27 3 s t)) ∧
  (∀ s no r, no = obj s 0x2230 1 → no ≤ 254 → s.tier.regions.find? (·.no == no) = some r → r.homed = true →
    ¬(no = 254 ∧ twinned s = true ∧ ownNode s = 0) → ∃ t, exec .coherentDelete s = .next t ∧
    t.tier.regions = s.tier.regions.filter (·.no != no) ∧
    (∀ a, memByte t.tier.window a = (if r.base * 65536 ≤ a ∧ a < (r.base + r.len) * 65536 then 0 else memByte s.tier.window a)) ∧
    t.dict.lastStatus = 0 ∧ t.dict.lastSub = 0 ∧ pagesReleased s t ∧
    (∀ q ∈ t.wyv.requests, q.plane = 2 → q.msg.mtype ≠ msgSync → addrSpace q.msg.target = 0 → inRegion r (addrOff q.msg.target) = false) ∧
    (∀ w ∈ t.tier.waits, accessIn r w.access = false) ∧
    (∀ q ∈ s.wyv.requests, ∀ j x, q.plane = 2 → q.msg.mtype ≠ msgSync → addrSpace q.msg.target = 0 → inRegion r (addrOff q.msg.target) = true →
      (∃ k, q.who = .thread k) → findJob s q.job = some j → j.stage = none → inflight? s j.fn j.sq j.cid = some x → x.started = true →
      cqeOf j.fn j.sq j.cid stTierError 1 0 ∈ t.host.cqes) ∧
    (∀ w ∈ s.tier.waits, ∀ j x, accessIn r w.access = true → findJob s w.job = some j → j.stage = none → inflight? s j.fn j.sq j.cid = some x →
      x.started = true → cqeOf j.fn j.sq j.cid stTierError 1 0 ∈ t.host.cqes) ∧
    ((∀ q ∈ s.wyv.requests, q.plane ≠ 2) → s.tier.waits = [] →
      t = { s with tier := { s.tier with regions := t.tier.regions, window := t.tier.window, windowPoison := t.tier.windowPoison,
                                         coherentAus := t.tier.coherentAus }, dict := t.dict, wyv := t.wyv, blk := t.blk } ∧
      (twinned s = false → t.wyv = s.wyv))) ∧
  (∀ s no r, no = obj s 0x2230 1 → no ≤ 254 → r ∈ s.tier.regions → r.no = no → r.homed = false → twinned s = true → portUp s 12 = true →
    portUp s 13 = true → ∃ t, exec .coherentTakeHome s = .next t ∧
    t.tier = { s.tier with regions := updWhere (·.no == no) (fun r => { r with homed := true, taken := true }) s.tier.regions } ∧
    (∃ q ∈ t.wyv.requests, ∃ g ∈ t.tier.regions, q.plane = 2 ∧ q.msg.mtype = msgWrite ∧ q.msg.target = wyvasAddr (ownNode s) 1 (8 * no) ∧ g.no = no ∧
      q.msg.data = natLE 8 (regionRecord g)) ∧
    t.dict = { s.dict with vals := t.dict.vals, lastStatus := 0, lastSub := 0 } ∧ t = { s with tier := t.tier, dict := t.dict, wyv := t.wyv })

/-- R53, R341, R342: a basket image that passes every check is stored under its id with its worst-case time returned; one that fails a check
ends with Basket Refused and the lowest reason and is not stored; an unload takes a loaded basket away; commands of a queue wait exactly
behind its Load Baskets. The model reads what the manual leaves open here as log entries 14 and 16 say. -/
def Obligations.BasketStoreCommands : Prop :=
  (∀ s e x img b, basketReady e 0x81 false (some 64) x s → e.cdw10 ≤ 2 ^ 28 → e.cdw15 ≤ 1 → e.handle ≠ noHandle → 1 ≤ e.cdw10 →
    e.cdw10 ≤ img.length → (findBasket s e.fn e.handle = none ∨ e.cdw15 = 1) → b = parseBasket s e.fn e.handle e.cdw10 (img.take e.cdw10) →
    (∀ r, loadReason s b (img.take e.cdw10) = some r → ∃ t l, exec (.loadBasket e img) s = .next t ∧
      t.host.cqes = s.host.cqes ++ cqeOf e.fn e.sq e.cid stBasketRefused r 0 :: l ∧ t.jobs = s.jobs ∧ t.tier = s.tier ∧ t.arr = s.arr) ∧
    (loadReason s b (img.take e.cdw10) = none →
      (s.jobs.baskets.filter fun k => k.fn == e.fn && k.id != e.handle).length < 1024 →
      storeFull (dropBasket e.fn e.handle s) (pagesOf e.cdw10) = false →
      (pailHasRoom s (pagesOf e.cdw10) 0 = false → exec (.loadBasket e img) s = .next s) ∧
      (pailHasRoom s (pagesOf e.cdw10) 0 = true → ∃ t, exec (.loadBasket e img) s = .next t ∧
      t.jobs = { s.jobs with baskets := (s.jobs.baskets.filter fun k => !(k.fn == e.fn && k.id == e.handle)) ++ [b] } ∧
      t.host.cqes = s.host.cqes ++ [cqeOf e.fn e.sq e.cid stSuccess 0 0] ∧
      t.host.dma = s.host.dma ++ [{ addr := resultAddr e, data := resultRegion noHandle 0 0 0 b.wcet [], relaxed := false }] ∧
      (∀ p ∈ s.tier.pages, p.owner ≠ .basket e.fn e.handle → p ∈ t.tier.pages) ∧
      t.tier = { s.tier with pages := t.tier.pages, storeAus := t.tier.storeAus } ∧ t.nand.pages = s.nand.pages ∧ t.arr = s.arr))) ∧
  (∀ s e x bk, basketReady e 0x81 false (some 64) x s → e.cdw15 = 1 → e.cdw10 = 0 → e.handle ≠ noHandle → findBasket s e.fn e.handle = some bk →
    ∃ t, exec (.basketUnload e) s = .next t ∧
    t.jobs = { s.jobs with baskets := s.jobs.baskets.filter fun k => !(k.fn == e.fn && k.id == e.handle) } ∧
    t.host.cqes = s.host.cqes ++ [cqeOf e.fn e.sq e.cid stSuccess 0 0] ∧ (∀ p, p ∈ t.tier.pages ↔ p ∈ s.tier.pages ∧ p.owner ≠ .basket e.fn e.handle) ∧
    t.tier = { s.tier with pages := t.tier.pages, storeAus := t.tier.storeAus } ∧ pagesReleased s t ∧ t.arr = s.arr) ∧
  (∀ s fn sq, ∃ t, exec (.deferredCommandStart fn sq) s = .next t ∧ t.host.inflight.length = s.host.inflight.length ∧
    (∀ (i : Nat) (x : Inflight), s.host.inflight[i]? = some x → x.fn = fn → x.sq = sq → ∃ y, t.host.inflight[i]? = some { x with held := y } ∧
      (y = true ↔ ∃ k < i, ∃ z : Inflight, s.host.inflight[k]? = some z ∧ z.opc = 0x81 ∧ z.fn = fn ∧ z.sq = sq)) ∧
    (∀ (i : Nat) (x : Inflight), s.host.inflight[i]? = some x → (x.fn ≠ fn ∨ x.sq ≠ sq) → t.host.inflight[i]? = some x) ∧
    t = { s with host := { s.host with inflight := t.host.inflight } })

/-- R347, R348, R356, R357: a Run Job whose basket, arguments and handles hold is admitted when its class's test finds a window and its resident
slots fit, and joins its class's queue; otherwise it completes with Not Admitted. The next job takes a free array in the Full shape and,
with no resident slot that has still to arrive, runs at once with its threads; it runs once they are there. At an issue rate of 0 none
starts. The model reads what the manual leaves open here as log entries 18 and 65 say. -/
def Obligations.JobAdmissionAndStart : Prop :=
  (∀ s e x args bk a objects slots win, basketReady e 0x85 true (some 64) x s → findBasket s e.fn e.handle = some bk → a = jobArgs args →
    objects = ((bk.slots.zip a).map fun y => (slotKind y.1, y.2.1)) → slots = bk.slots.zip (objects.map (·.2)) →
    e.cdw10 ≤ args.length → e.cdw10 ≤ 2 ^ 20 → e.cdw15 = 0 → (bk.cls = 0 → wantsExpress e = false) → (bk.cls = 1 → wantsExpress e = true) →
    argsOk bk args e.cdw10 = true → (wantsDigest e = true → (jobReads bk objects).length ≤ 16) → handlesOk s e.fn bk a = true →
    win = (if wantsExpress e then admitExpress s (admitTime s bk) (rhoOf s slots) (timeLeft s (startedRec e x).deadline)
      else if admitStandard s (admitTime s bk) (rhoOf s slots) (timeLeft s (startedRec e x).deadline) then some 0 else none) →
    ((win.isSome = true ∧ pinnedBytes s + residentNew s slots ≤ cacheMiB s * 2 ^ 20 → ∃ t j, exec (.runJob e args) s = .next t ∧
      j.id = s.jobs.nextJob ∧ j.st = 0 ∧ j.basket = bk ∧ j.fn = e.fn ∧ j.cid = e.cid ∧ j.objects = objects ∧
      t.jobs.jobs = s.jobs.jobs ++ [j] ∧ t.jobs.nextJob = s.jobs.nextJob + 1 ∧ t.jobs.owner = s.jobs.owner ∧
      t.jobs.stdQ = (if wantsExpress e then s.jobs.stdQ else s.jobs.stdQ ++ [j.id]) ∧
      t.jobs.expQ = (if wantsExpress e then s.jobs.expQ ++ [j.id] else s.jobs.expQ) ∧
      t.host.cqes = s.host.cqes ∧ t.blk = s.blk ∧ t.nand.pages = s.nand.pages ∧ t.arr = s.arr) ∧
     ((win = none ∨ cacheMiB s * 2 ^ 20 < pinnedBytes s + residentNew s slots) → ∃ t, exec (.runJob e args) s = .next t ∧
      t.host.cqes = s.host.cqes ++ [cqeOf e.fn e.sq e.cid stNotAdmitted (ceilDiv (admitTime s bk + rhoOf s slots) 1000) 0] ∧
      t.jobs = s.jobs ∧ t.tier = s.tier ∧ t.arr = s.arr ∧ t.blk = s.blk ∧ t.nand = s.nand))) ∧
  (∀ s j, ownerJob s = none → s.arr.testDue = false → s.arr.testAsked = false → s.thr.fa ≠ 0 → nextJob s = some j →
    ∃ t, exec .jobStart s = .next t ∧ j.id ∉ t.jobs.stdQ ∧ j.id ∉ t.jobs.expQ ∧ (t.jobs.owner = some j.id ∨ findJob t j.id = none) ∧
    t.nand.pages = s.nand.pages) ∧
  (∀ s, ownerJob s = none → s.thr.fa = 0 → exec .jobStart s = .next s) ∧
  (∀ s j, ownerJob s = some j → j.st = 1 → s.jobs.preemptAsked = false → residentIn s j = true → ∃ t, exec .jobStart s = .next t ∧
    findJob t j.id = some { j with st := 2 } ∧ (∀ k, k ≠ j.id → findJob t k = findJob s k) ∧ t.jobs.threads = newThreads s j ∧
    (∀ y ∈ residentTiles s (jobSlots j), (tileOf t y.object y.index).pinned = true) ∧
    t = { s with jobs := t.jobs, tier := t.tier }) ∧
  (∀ s j, ownerJob s = none → s.arr.testDue = false → s.arr.testAsked = false → s.thr.fa ≠ 0 → nextJob s = some j → j.basket.rennet = [] →
    ∃ t, exec .jobStart s = .next t ∧ t.jobs.owner = some j.id ∧ j.id ∉ t.jobs.stdQ ∧ j.id ∉ t.jobs.expQ ∧ t.arr.shape = 0 ∧
    t.arr.stakeA = [] ∧ t.arr.rescale = [] ∧
    ((jobSlots j).all (fun x => !slotResident x.1) = true →
      (findJob t j.id).map (·.st) = some 2 ∧ t.jobs.threads = newThreads s j) ∧
    t.host = s.host ∧ t.blk = s.blk ∧ t.nand.pages = s.nand.pages ∧ t.retr = s.retr ∧ t.churn = s.churn ∧ t.sync = s.sync)

/-- R349, R352 to R355, R357: at an Express window's start the budgets gone by are forgotten; a pre-empted Standard job's context is saved and
later restored whole when the array is free and no Express job is ready. The model reads what the manual leaves open here as log entries 18
and 26 say. -/
def Obligations.PreemptionAndResume : Prop :=
  (∀ s w, ∃ t, exec (.expressWindowStart w) s = .next t ∧ t.time = max s.time (w * windowNs s) ∧
    t.jobs.budgetUsed = (s.jobs.budgetUsed.filter fun x => decide (w ≤ x.1)) ∧ t.jobs.jobs = s.jobs.jobs ∧ t.jobs.owner = s.jobs.owner ∧
    t.jobs.expQ = s.jobs.expQ ∧ t.jobs.stdQ = s.jobs.stdQ ∧ t.host = s.host ∧ t.blk = s.blk ∧ t.nand = s.nand ∧ t.tier = s.tier ∧ t.arr = s.arr) ∧
  (∀ s j, ownerJob s = some j → s.jobs.preemptAsked = true → (s.churn.updates.any (·.fromJob)) = false →
    (∀ k, (queuedJobs s true).head? = some k → k.basket.rennet = [] ∧ k.id ≠ j.id) →
    ∃ t, exec .contextSaved s = .next t ∧ t.jobs.preempted = some j.id ∧ t.jobs.preemptAsked = false ∧
    findJob t j.id = some { j with st := 3, context := some (saveContext s j), saveStart := s.time, runTime := runTimeOf s j } ∧
    obj t 0x3500 3 = (obj s 0x3500 3 + 1) % 2 ^ 64 ∧ t.host = s.host ∧ t.blk = s.blk ∧ t.nand.pages = s.nand.pages ∧
    t.retr = s.retr) ∧
  (∀ s j c, s.jobs.owner = none → s.jobs.preempted = some j.id → findJob s j.id = some j → expressReady s = none → j.context = some c →
    ∃ t, exec .jobResume s = .next t ∧ t.jobs.owner = some j.id ∧ t.jobs.preempted = none ∧ t.jobs.threads = c.threads ∧
    t.arr.shape = c.shape ∧ t.arr.stakeA = c.stakeA ∧ t.arr.stakeS = c.stakeS ∧ t.arr.stakeAPoison = c.stakeAPoison ∧ t.arr.stakeSPoison = c.stakeSPoison ∧ t.arr.colScale = c.colScale ∧ t.arr.rowScale = c.rowScale ∧
    t.arr.rescale = c.rescale ∧ t.arr.patterns = c.patterns ∧
    findJob t j.id = some { j with st := if c.starting then 1 else 2, context := none, resumed := s.time } ∧
    t.host = s.host ∧ t.blk = s.blk ∧ t.nand = s.nand ∧ t.retr = s.retr ∧ t.churn = s.churn ∧ t.sync = s.sync)

/-- R64, R348 to R350: a job whose operations and threads are done ends with Success, its output kept; one that runs past its worst-case time
ends with Job Fault or Tier Late; Read Result copies part of a kept output and gives the output up where asked. The model reads what the
manual leaves open here as log entries 14 and 35 say. -/
def Obligations.JobEndsAndReadResult : Prop :=
  (∀ s j x, ownerJob s = some j → j.st = 2 → j.stage = none → s.pwr.ps < 3 → j.basket.ops.length ≤ j.pos → s.jobs.threads = [] → streamBusy s = false →
    inflight? s j.fn j.sq j.cid = some x → ∃ t, exec .jobEnd s = .next t ∧
    t.host.cqes = s.host.cqes ++ [cqeOf j.fn j.sq j.cid stSuccess 0 0] ∧ findJob t j.id = none ∧ t.jobs.owner = none ∧
    t.jobs.outputs = s.jobs.outputs ++ [{ job := j.id, fn := j.fn, len := j.basket.output, data := j.output, poison := j.outPoison }] ∧
    t.arr.stakeA = [] ∧ t.jobs.threads = [] ∧ t.blk = s.blk ∧ t.nand = s.nand ∧ t.time = s.time) ∧
  (∀ s j x, ownerJob s = some j → (j.st = 1 ∨ j.st = 2) → j.stage = none → 16 * j.basket.wcet ≤ runTimeOf s j * s.thr.fa →
    inflight? s j.fn j.sq j.cid = some x → ∃ t l, exec .jobOverrun s = .next t ∧ findJob t j.id = none ∧ t.jobs.owner = none ∧
    t.host.cqes = s.host.cqes ++ (match jobWaits s j with
      | some (tier, node) => cqeOf j.fn j.sq j.cid stTierLate (tier + (if tier == 3 then node * 65536 else 0)) 0
      | none => cqeOf j.fn j.sq j.cid stJobFault (jobOp j) 0) :: l ∧
    t.jobs.outputs = s.jobs.outputs ∧ pagesReleased s t) ∧
  (∀ s e x o n off, basketReady e 0x82 false none x s → e.cdw10 ≤ 2 ^ 21 → e.cdw15 ≤ 1 →
    (s.jobs.outputs.find? fun o => o.job == e.handle && o.fn == e.fn) = some o → off = e.cdw12 + e.cdw13 * 2 ^ 32 → n = min e.cdw10 (o.len - off) →
    memAny o.poison off n = false → ∃ t, exec (.readResult e) s = .next t ∧
    t.host.cqes = s.host.cqes ++ [cqeOf e.fn e.sq e.cid stSuccess n 0] ∧
    t.host.dma = s.host.dma ++ (if n = 0 then []
      else [{ addr := e.dptr, data := memRead o.data off n, relaxed := s.host.relaxed.contains e.fn }]) ∧
    t.jobs.outputs = (if e.cdw15 = 1 ∧ n ≠ 0 then s.jobs.outputs.filter fun k => !(k.job == o.job && k.fn == o.fn) else s.jobs.outputs) ∧
    t.jobs.jobs = s.jobs.jobs ∧ t.tier = s.tier ∧ t.arr = s.arr)

/-- R16, R133, R161, R166, R167, R179 to R181, R189, R193, R329 to R331, R334, R371, R452: what a ready thread's accesses do. A load returns the
bytes it names, a store writes them, an atomic returns the old word and leaves the new one; what must wait for a tile, for Pail space or
behind an earlier store waits; an access of another node or of the twin's data goes there as one request; poison, a target that may not be
reached and a node that is not there end the job; a fence with no store outstanding is over, and an exit removes the thread. R293, R299,
R330: candidates of a channel-engine thread enter its engine's pool, which keeps the best 64, each with the key of this node and engine;
those of a cell's thread, or of a pool that does not exist, end the job with Job Fault. The model reads what the manual leaves open here as
log entries 24, 27, 28 and 76 say. -/
def Obligations.ThreadAccessesAndCandidates : Prop :=
  (∀ s k j x tg len, readyThread s k = some (j, x) → (∃ o, tg = .sram o ∨ ∃ e, tg = .cellSram e o) →
    (∀ c off, sramTarget s j k tg len = some (c, off) →
      (sramBad s c off len = false → ∃ t, exec (.threadLoad k tg ⟨len, false⟩) s = .next t ∧ threadGoesOn k x (leNat (sramRead s c off len)) s t) ∧
      (sramBad s c off len = true → ∃ t, exec (.threadLoad k tg ⟨len, false⟩) s = .next t ∧ jobEnded j stPoisonedInput 0 s t) ∧
      (∃ t, exec (.threadLoad k tg ⟨len, true⟩) s = .next t ∧ jobEnded j stPoisonedInput 0 s t ∧ obj t 0x2302 3 = (obj s 0x2302 3 + 1) % 2 ^ 64) ∧
      (∀ data, data.length = len → x.stores < 16 → ∃ t, exec (.threadStore k tg data) s = .next t ∧ sramRead t c off len = data ∧
        sramBad t c off len = false ∧ sramBut (inSram c off len) s t ∧ t = { s with arr := t.arr })) ∧
    (sramTarget s j k tg len = none → (∀ b, ∃ t, exec (.threadLoad k tg ⟨len, b⟩) s = .next t ∧ jobEnded j stJobFault (jobOp j) s t) ∧
      ∀ data, data.length = len → x.stores < 16 → ∃ t, exec (.threadStore k tg data) s = .next t ∧ jobEnded j stJobFault (jobOp j) s t)) ∧
  (∀ s k j x slot tile off len b, readyThread s k = some (j, x) → objectTarget s j slot tile off len = none →
    (∃ t, exec (.threadLoad k (.object slot tile off) ⟨len, b⟩) s = .next t ∧ jobEnded j stJobFault (jobOp j) s t) ∧
    ∀ data, data.length = len → x.stores < 16 → ∃ t, exec (.threadStore k (.object slot tile off) data) s = .next t ∧
      jobEnded j stJobFault (jobOp j) s t) ∧
  (∀ s k j x slot tile off len b sl o u, readyThread s k = some (j, x) → objectTarget s j slot tile off len = some (sl, o) → u = tileOf s o.id tile →
    storeAhead s k j = false →
    (tileAway s u = false → needsFetch u = false → u.poison = false → ∃ t, exec (.threadLoad k (.object slot tile off) ⟨len, b⟩) s = .next t ∧
      findThread t k = some { x with wait := false, result := leNat (memRead u.body off len) } ∧
      t = { s with jobs := { s.jobs with threads := t.jobs.threads }, tier := { s.tier with tiles := t.tier.tiles } }) ∧
    (tileAway s u = false → needsFetch u = false → u.poison = true → ∃ t, exec (.threadLoad k (.object slot tile off) ⟨len, b⟩) s = .next t ∧
      jobEnded j stPoisonedInput 1 s t) ∧
    (tileAway s u = false → needsFetch u = true → ∃ t, exec (.threadLoad k (.object slot tile off) ⟨len, b⟩) s = .next t ∧
      accessWaits k j x (.load (.object slot tile off) len) s t ∧ (tileOf t o.id tile).fetching = true) ∧
    (tileAway s u = true → nodeNamed s u.node = true → t3Open s u.node = true → ∃ t, exec (.threadLoad k (.object slot tile off) ⟨len, b⟩) s = .next t ∧
      accessSent k j x u.node 0 msgRead 0 [] len s t ∧ t.free = s.free + 1) ∧
    (∀ data, data.length = len → x.stores < 16 →
      (slotAccess sl = 0 → ∃ t, exec (.threadStore k (.object slot tile off) data) s = .next t ∧ jobEnded j stJobFault (jobOp j) s t) ∧
      (slotAccess sl ≠ 0 → u.node = ownNode s → auditHeld s j.id (auditName s o.id).1 (auditName s o.id).2 = false → u.held = false → needsFetch u = false →
        ∃ t, exec (.threadStore k (.object slot tile off) data) s = .next t ∧
        (64 ≤ u.rows → 64 ≤ u.cols → (tileOf t o.id tile).body = memWrite u.body off data) ∧ (tileOf t o.id tile).version = u.version + 1 ∧
        (tileOf t o.id tile).dirty = true ∧ (tileOf t o.id tile).writeTime = s.time ∧ t = { s with tier := t.tier, dict := t.dict } ∧
        objsBut [(0x2202, 2)] s t) ∧
      (slotAccess sl ≠ 0 → u.node = ownNode s →
        auditHeld s j.id (auditName s o.id).1 (auditName s o.id).2 = true ∨ u.held = true ∨ needsFetch u = true →
        ∃ t, exec (.threadStore k (.object slot tile off) data) s = .next t ∧ accessWaits k j x (.store (.object slot tile off) data) s t) ∧
      (slotAccess sl ≠ 0 → u.node ≠ ownNode s → nodeNamed s u.node = true → t3Open s u.node = true →
        ∃ t, exec (.threadStore k (.object slot tile off) data) s = .next t ∧
        accessSent k j x u.node 0 msgWrite 0 data len s t ∧ t.free = s.free + 1))) ∧
  (∀ s k j x off len b u, readyThread s k = some (j, x) → storeAhead s k j = false → u = (if inCoherent off len then healCoherent off len s else s) →
    (windowCheck s j.fn off len = 0 → homedAway s off len = false →
      ((windowRead u off len).2 = 0 → ∃ t, exec (.threadLoad k (.window (ownNode s) off) ⟨len, b⟩) s = .next t ∧
        threadGoesOn k x (leNat (memRead u.tier.window off len)) u t) ∧
      ((windowRead u off len).2 ≠ 0 → ∃ t, exec (.threadLoad k (.window (ownNode s) off) ⟨len, b⟩) s = .next t ∧ jobEnded j stPoisonedInput 1 s t) ∧
      (∀ data, data.length = len → x.stores < 16 → (inCoherent off len = true → coherentRoom s off len = true) →
        ∃ t, exec (.threadStore k (.window (ownNode s) off) data) s = .next t ∧ memRead t.tier.window off len = data ∧
        windowKept off len s t ∧
        findThread t k = some (if mirrors s off len then { x with stores := x.stores + 1 } else x) ∧
        (mirrors s off len = true → ∃ r ∈ t.wyv.requests, r.plane = 2 ∧ r.who = .thread k ∧ r.msg.mtype = msgWrite ∧ r.msg.data = data) ∧
        t.host = s.host ∧ t.nand.pages = s.nand.pages ∧ t.arr = s.arr ∧ t.retr = s.retr ∧ t.churn = s.churn ∧
        (inCoherent off len = false → t.blk = s.blk ∧ t.nand = s.nand)) ∧
      (∀ data, data.length = len → x.stores < 16 → inCoherent off len = true → coherentRoom s off len = false →
        ∃ t, exec (.threadStore k (.window (ownNode s) off) data) s = .next t ∧ accessWaits k j x (.store (.window (ownNode s) off) data) s t)) ∧
    (windowCheck s j.fn off len = 0 → homedAway s off len = true →
      (∃ t, exec (.threadLoad k (.window (ownNode s) off) ⟨len, b⟩) s = .next t ∧ accessSent k j x (ownNode s) 2 msgRead 0 [] len s t) ∧
      ∀ data, data.length = len → x.stores < 16 → ∃ t, exec (.threadStore k (.window (ownNode s) off) data) s = .next t ∧
        accessSent k j x (ownNode s) 2 msgWrite 0 data len s t) ∧
    (∀ v, (windowCheck s j.fn off len ∈ [1, 2] ∧ v = (stJobFault, jobOp j) ∨ windowCheck s j.fn off len = 6 ∧ v = (stTierError, 1)) →
      (∃ t, exec (.threadLoad k (.window (ownNode s) off) ⟨len, b⟩) s = .next t ∧ jobEnded j v.1 v.2 s t) ∧
      ∀ data, data.length = len → x.stores < 16 → ∃ t, exec (.threadStore k (.window (ownNode s) off) data) s = .next t ∧ jobEnded j v.1 v.2 s t)) ∧
  (∀ s k j x off len b, readyThread s k = some (j, x) → storeAhead s k j = false →
    (flashCheck s j.fn false off len = 0 → flashHeld s off len = false → (flashRead s off len).2 = 0 →
      ∃ t, exec (.threadLoad k (.flash (ownNode s) off) ⟨len, b⟩) s = .next t ∧ threadGoesOn k x (leNat (flashRead s off len).1) s t) ∧
    (flashCheck s j.fn false off len = 0 → flashHeld s off len = false → (flashRead s off len).2 ≠ 0 →
      ∃ t, exec (.threadLoad k (.flash (ownNode s) off) ⟨len, b⟩) s = .next t ∧ jobEnded j stPoisonedInput 2 s t) ∧
    (flashCheck s j.fn false off len = 0 → flashHeld s off len = true → ∃ t, exec (.threadLoad k (.flash (ownNode s) off) ⟨len, b⟩) s = .next t ∧
      accessWaits k j x (.load (.flash (ownNode s) off) len) s t) ∧
    (flashCheck s j.fn false off len ≠ 0 → ∃ t, exec (.threadLoad k (.flash (ownNode s) off) ⟨len, b⟩) s = .next t ∧ jobEnded j stJobFault (jobOp j) s t) ∧
    (∀ data, data.length = len → x.stores < 16 →
      (flashCheck s j.fn true off len ≠ 0 → ∃ t, exec (.threadStore k (.flash (ownNode s) off) data) s = .next t ∧ jobEnded j stJobFault (jobOp j) s t) ∧
      (flashCheck s j.fn true off len = 0 → (∀ l ∈ rangePages off len, pageOwner s l = none ∧ lineWaits s l = false) →
        pailHasRoom s (rangePages off len).length (rangePages off len).length = true → ∃ t, exec (.threadStore k (.flash (ownNode s) off) data) s = .next t ∧
        (flashRead t off len).1 = data ∧ t.nand.pages = s.nand.pages ∧ t.tier = s.tier ∧ t.host = s.host ∧ t.arr = s.arr ∧ t.jobs = s.jobs) ∧
      (0 < len → flashCheck s j.fn true off len = 0 → flashHeld s off len = true → ∃ t, exec (.threadStore k (.flash (ownNode s) off) data) s = .next t ∧
        findThread t k = some { x with stores := x.stores + 1 } ∧ t.blk = s.blk ∧ t.nand.pages = s.nand.pages))) ∧
  (∀ s k j x off op a b, readyThread s k = some (j, x) → off % 8 = 0 → op ≤ 2 → storeAhead s k j = false →
    (windowCheck s j.fn off 8 = 0 → homedAway s off 8 = false → (inCoherent off 8 = true → coherentRoom s off 8 = true) →
      memAny s.tier.windowPoison off 8 = false → ∃ t, exec (.threadAtomic k (.window (ownNode s) off) op a b) s = .next t ∧
      findThread t k = some (if mirrors s off 8 then { x with wait := true } else { x with wait := false, result := memNat s.tier.window off 8 }) ∧
      memNat t.tier.window off 8 = (if op = 0 then (memNat s.tier.window off 8 + a) % 2 ^ 64 else if op = 1 then a
        else if memNat s.tier.window off 8 = a then b else memNat s.tier.window off 8) % 2 ^ 64 ∧
      windowKept off 8 s t ∧
      t.host = s.host ∧ t.nand.pages = s.nand.pages ∧ t.arr = s.arr ∧ t.retr = s.retr) ∧
    (windowCheck s j.fn off 8 = 0 → homedAway s off 8 = true → ∃ t, exec (.threadAtomic k (.window (ownNode s) off) op a b) s = .next t ∧
      accessSent k j x (ownNode s) 2 msgAtomic op (natLE 8 a ++ natLE 8 b ++ List.replicate 48 0) 64 s t) ∧
    (∀ v, (windowCheck s j.fn off 8 ∈ [1, 2] ∧ v = (stJobFault, jobOp j) ∨ windowCheck s j.fn off 8 = 6 ∧ v = (stTierError, 1)) →
      ∃ t, exec (.threadAtomic k (.window (ownNode s) off) op a b) s = .next t ∧ jobEnded j v.1 v.2 s t)) ∧
  (∀ s k j x tg op a b, readyThread s k = some (j, x) → (∀ node off, tg = .window node off → off % 8 ≠ 0 ∨ 2 < op) →
    ∃ t, exec (.threadAtomic k tg op a b) s = .next t ∧ jobEnded j stJobFault (jobOp j) s t) ∧
  (∀ s k j x node off len b tg space, readyThread s k = some (j, x) → node ≠ ownNode s → (tg = .window node off ∧ space = 0 ∨ tg = .flash node off ∧ space = 1) →
    lineBusy s k node (wyvasAddr node space off) = false →
    (nodeNamed s node = true → t3Open s node = true →
      (∃ t, exec (.threadLoad k tg ⟨len, b⟩) s = .next t ∧ accessSent k j x node 0 msgRead 0 [] len s t) ∧
      (∀ data, data.length = len → x.stores < 16 → ∃ t, exec (.threadStore k tg data) s = .next t ∧ accessSent k j x node 0 msgWrite 0 data len s t) ∧
      ∀ op a c, space = 0 → off % 8 = 0 → op ≤ 2 → ∃ t, exec (.threadAtomic k tg op a c) s = .next t ∧
        accessSent k j x node 0 msgAtomic op (natLE 8 a ++ natLE 8 c ++ List.replicate 48 0) 64 s t) ∧
    (nodeNamed s node = false → (∃ t, exec (.threadLoad k tg ⟨len, b⟩) s = .next t ∧ jobEnded j stJobFault (jobOp j) s t) ∧
      ∀ data, x.stores < 16 → ∃ t, exec (.threadStore k tg data) s = .next t ∧ jobEnded j stJobFault (jobOp j) s t) ∧
    (nodeNamed s node = true → t3Open s node = false →
      (∃ t, exec (.threadLoad k tg ⟨len, b⟩) s = .next t ∧ jobEnded j stTierError (3 + node * 65536) s t) ∧
      ∀ data, x.stores < 16 → ∃ t, exec (.threadStore k tg data) s = .next t ∧ jobEnded j stTierError (3 + node * 65536) s t)) ∧
  (∀ s k j x a tg, readyThread s k = some (j, x) → storeAhead s k j = true → (∃ off, tg = .window (ownNode s) off ∨ tg = .flash (ownNode s) off) →
    (∀ len b, a = .load tg len → ∃ t, exec (.threadLoad k tg ⟨len, b⟩) s = .next t ∧ accessWaits k j x a s t) ∧
    (∀ data, a = .store tg data → x.stores < 16 → ∃ t, exec (.threadStore k tg data) s = .next t ∧ accessWaits k j x a s t)) ∧
  (∀ s k j x, readyThread s k = some (j, x) →
    (x.stores = 0 → exec (.threadFence k) s = .next s) ∧
    (x.stores ≠ 0 → ∃ t, exec (.threadFence k) s = .next t ∧ findThread t k = some { x with wait := true } ∧
      t = { s with jobs := { s.jobs with threads := t.jobs.threads } }) ∧
    (∃ t, exec (.threadExit k) s = .next t ∧ t = { s with jobs := { s.jobs with threads := s.jobs.threads.filter (·.id != k) } })) ∧
  (∀ s k j x pool cands mine, readyThread s k = some (j, x) → mine = cands.map (fun c : Cand => { c with node := keyNode s, source := k.unit }) →
    (k.engine = true → pool < 256 → ∃ t best, exec (.candidateSubmit k pool cands) s = .next t ∧ (j.id, k.unit, pool, best) ∈ t.retr.pools ∧
      best = skimBest false 0 64 ((match s.retr.pools.find? (fun y => y.1 == j.id && y.2.1 == k.unit && y.2.2.1 == pool) with
        | some y => y.2.2.2 | none => []) ++ mine) ∧ best.length ≤ 64 ∧
      obj t 0x3301 4 = (obj s 0x3301 4 + nanCount 0 mine) % 2 ^ 64 ∧
      (∀ y, ¬(y.1 = j.id ∧ y.2.1 = k.unit ∧ y.2.2.1 = pool) → (y ∈ t.retr.pools ↔ y ∈ s.retr.pools)) ∧
      t = { s with retr := { s.retr with pools := t.retr.pools }, dict := t.dict } ∧ objsBut [(0x3301, 4)] s t) ∧
    (k.engine = false ∨ 256 ≤ pool → ∃ t, exec (.candidateSubmit k pool cands) s = .next t ∧ jobEnded j stJobFault (jobOp j) s t))

/-- R312 to R317, R320, R323, R325, R327: a record that no earlier one of its row holds back, and whose row stands in T1 unpoisoned, goes
through the recurrence when every value is finite: the row's step count and its line of every plane are written, and the record is counted;
otherwise nothing is written and the refusal is counted. The last record ends its Update with Success and the result region, or its CHURN
operation. The model reads what the manual leaves open here as log entry 46 says. -/
def Obligations.ChurnRecordUpdatesItsRow : Prop :=
  ∀ s fn sq cid no u r b tb xn bad rest, s.churn.updates.find? (·.named fn sq cid) = some u → u.due no = some r → b = r.bytes →
    findTable s u.table = some tb → layoutOk tb.layout = true → recRow b < tb.rows → updTurn s u = true → updHeld s u = false → s.thr.fa ≠ 0 → s.pwr.ps < 3 →
    (∀ p ∈ rowPlaces tb (recRow b), ∀ y z : Tile, y = tileOf s p.1 p.2 → z = newTile s p.1 p.2 →
      needsFetch y = false ∧ y.held = false ∧ y.poison = false ∧ y.rows = z.rows ∧ y.cols = z.cols ∧ y.format = z.format) →
    (tb.groups.contains (recRow b / 64) = true ∨
      storeFull s (pagesLacking s ((rowPlaces tb (recRow b)).map fun p => tileOf s p.1 p.2)) = false) →
    xn = churnRow s tb b r.coefs →
    bad = (gradBad (layoutD tb.layout) b || !f32Finite xn.2 || !xn.1.all (fun x => f32Finite x.1 && f32Finite x.2.1 && f32Finite x.2.2)) →
    rest = u.records.filter (·.no != no) →
    ∃ t, exec (.churnRecord fn sq ⟨cid, no⟩) s = .next t ∧
    (if bad = true then t.tier = s.tier ∧ obj t 0x3401 3 = (obj s 0x3401 3 + 1) % 2 ^ 64 ∧ obj t 0x3401 1 = obj s 0x3401 1
     else stepCount t tb (recRow b) = xn.2 % 2 ^ 32 ∧ obj t 0x3401 1 = (obj s 0x3401 1 + 1) % 2 ^ 64 ∧ obj t 0x3401 3 = obj s 0x3401 3 ∧
       (∃ tb', findTable t u.table = some tb' ∧ tb'.groups.contains (recRow b / 64) = true) ∧
       (∀ p vals f, (p = 0 ∧ vals = xn.1.map (·.1)) ∨ (planeM tb.layout = some p ∧ vals = xn.1.map (·.2.1)) ∨
           (planeV tb.layout = some p ∧ vals = xn.1.map (·.2.2)) → f = planeFormat tb.layout p →
         ∀ k < layoutBlocks tb.layout, ∀ line : Bytes, ∀ y : Tile, y = tileOf t (tableObj tb.id) (rowTile tb (recRow b) p k) →
           line = (((storeRow tb (recRow b) u.step p vals).2.drop (64 * k)).take 64).flatMap (fun e => natLE (if f = 5 then 2 else 1) e.bits) →
           memRead y.body ((if f = 5 then 128 else 64) * (recRow b % 64)) line.length = line ∧ y.dirty = true ∧
           (f ≠ 5 → memNat y.scale (2 * (recRow b % 64)) 2 = (storeRow tb (recRow b) u.step p vals).1 / 65536 % 65536))) ∧
    (rest ≠ [] → t.churn.updates.find? (·.named fn sq cid) = some { u with records := rest, applied := u.applied + boolNat !bad } ∧
      t.host = s.host ∧ t.jobs = s.jobs) ∧
    (rest = [] → t.churn.updates.find? (·.named fn sq cid) = none ∧
      (u.fromJob = false → ∀ x, inflight? s fn sq cid = some x → t.jobs = s.jobs ∧
        t.host.cqes = s.host.cqes ++ [cqeOf fn sq cid stSuccess 0 0] ∧
        t.host.dma = s.host.dma ++ [{
          addr := u.resultAddr
          data := resultRegion noHandle 0 ((if u.throttled then 8 else 0) + (if deterministic s then 16 else 0)) 0
            ((u.applied + boolNat !bad) % 2 ^ 32 + u.fetched * 2 ^ 32) []
          relaxed := false }]) ∧
      (u.fromJob = true → ∀ j, ownerJob s = some j → t.host = s.host ∧ opCompleted j s t)) ∧
    t.blk = s.blk ∧ t.nand = s.nand ∧ t.arr = s.arr ∧ t.retr = s.retr ∧ t.sync = s.sync

/-- R310: TableControl makes the table it describes on this node, and deletes one that no update and no job uses. R318, R319, R322, R327: an
Update whose input keeps its layout and fits its deadline is admitted with the coefficients in force, and does not complete until its
records are applied; one without records completes at once. A CHURN takes every active cell's records; with none it completes at once. The
object ids of a table are log entry 22. The model reads what the manual leaves open here as log entries 22 and 46 say. -/
def Obligations.ChurnTablesAndUpdates : Prop :=
  (∀ s id w rows, id = obj s 0x3402 1 → w = obj s 0x3402 2 → rows = obj s 0x3402 3 → id ≤ 63 → findTable s id = none → layoutOk w = true →
    64 ≤ rows → rows ≤ 2 ^ 32 → ceilDiv rows 64 * layoutPlanes w * layoutBlocks w ≤ 2 ^ 32 → inExtent s (bitsOf w 59 56) (ownNode s) = true →
    ∃ t, exec .tableCreate s = .next t ∧ findTable t id = some { id := id, layout := w, rows := rows, grants := obj s 0x3402 4, st := 1, groups := [] } ∧
    (∀ k, k ≠ id → findTable t k = findTable s k) ∧ t.tier.tiles = s.tier.tiles ∧
    t.dict = { s.dict with lastStatus := 0, lastSub := 0 } ∧
    t = { s with churn := { s.churn with tables := t.churn.tables }, tier := { s.tier with objects := t.tier.objects }, dict := t.dict }) ∧
  (∀ s id tb, id = obj s 0x3402 1 → id ≤ 63 → findTable s id = some tb → (s.churn.updates.any (·.table == id)) = false → jobNamesTable s id = false →
    ∃ t, exec .tableDelete s = .next t ∧ findTable t id = none ∧ (∀ k, k ≠ id → findTable t k = findTable s k) ∧
    (∀ u ∈ t.tier.tiles, u.object ≠ tableObj id ∧ u.object ≠ countObj id) ∧ t.dict = { s.dict with lastStatus := 0, lastSub := 0 } ∧
    pagesReleased s t ∧ t = { s with
      churn := { s.churn with tables := t.churn.tables }
      tier := { s.tier with objects := t.tier.objects, tiles := t.tier.tiles, pages := t.tier.pages, storeAus := t.tier.storeAus }
      blk := t.blk
      dict := t.dict }) ∧
  (∀ s e x buf tb d, basketReady e 0x91 false (some 64) x s → tableFor s e.fn e.handle = some tb → d = layoutD tb.layout → e.cdw10 ≤ buf.length →
    e.cdw10 ≤ 2 ^ 26 → updInputOk tb buf e.cdw10 e.cdw15 = true → readOnly s = false →
    fitsDeadline s (updTime s d e.cdw10 e.cdw15) (timeLeft s (startedRec e x).deadline) = true →
    (1 ≤ e.cdw15 → ∃ t u, exec (.update e buf) s = .next t ∧ t.churn = { s.churn with updates := s.churn.updates ++ [u] } ∧
      u.fn = e.fn ∧ u.sq = e.sq ∧ u.cid = e.cid ∧ u.table = tb.id ∧ u.step = field buf 4 4 ∧ u.applied = 0 ∧ u.fromJob = false ∧
      u.records = updList (updRecords buf d e.cdw15) (recCoefs s.dict.vals (updEntries buf)) ∧ u.records.length = e.cdw15 ∧
      t.host.cqes = s.host.cqes ∧ t = { s with churn := t.churn, host := { s.host with inflight := t.host.inflight } }) ∧
    (e.cdw15 = 0 → ∃ t, exec (.update e buf) s = .next t ∧ completed e stSuccess 0 0 s t ∧ t.blk = s.blk ∧ t.nand = s.nand ∧ t.tier = s.tier ∧
      t.arr = s.arr)) ∧
  (∀ s d j tb rs, issuable 0x38 d s = some j → tableFor s j.fn (field d 1 1 % 64) = some tb → gatherRecords tb d s (activeCells s) = .ok rs →
    (rs ≠ [] → ∃ t u, exec (.churn d) s = .next t ∧ t = { s with churn := { s.churn with updates := s.churn.updates ++ [u] } } ∧
      u.table = tb.id ∧ u.step = field d 8 4 ∧ u.fromJob = true ∧ u.applied = 0 ∧
      u.records = updList rs (fun b => groupCoefs j.coefs (recGroup b))) ∧
    (rs = [] → ∃ t, exec (.churn d) s = .next t ∧ opCompleted j s t ∧ opFrame [] s t))

/-- R143, R172, R256, R257, R282, R283, R286, R291: IndexControl makes the empty index it describes, deletes one that no Ingest uses (with its
last query where some remain) and closes an epoch; the timer closes an epoch in which something entered; once no Ingest holds it and its
pages are durable an epoch becomes the committed one, each change of an index's epochs going to its record in the rim region; compaction
takes away the records of a segment tombstoned at or before the oldest pinned epoch. The model reads what the manual leaves open here as log
entries 19, 77, 78, 81 and 84 say. -/
def Obligations.IndexesAndEpochs : Prop :=
  (∀ s id w cols, id = obj s 0x3210 1 → w = obj s 0x3210 2 → cols = obj s 0x3210 3 → id ≤ 63 → (∀ c < 16, colType cols c ≤ 5) → findIndex s id = none →
    idxLayoutOk w = true → inExtent s (idxGroup w) (ownNode s) = true → objShape s (obj s 0x3210 4) (idxLists w) (idxD w) = true →
    (idxFamily w = 3 → obj s 0x3210 5 = 0) → (idxFamily w ≠ 3 → objShape s (obj s 0x3210 5) (256 * idxM w) (idxD w / idxM w) = true) →
    ∃ t x, exec .indexCreate s = .next t ∧ findIndex t id = some x ∧ x.layout = w ∧ x.columns = cols ∧ x.centroids = obj s 0x3210 4 ∧
    x.codebook = obj s 0x3210 5 ∧ x.grants = obj s 0x3210 6 ∧ x.encoder = obj s 0x3210 7 ∧ x.st = 1 ∧ x.committed = 0 ∧ x.opened = 1 ∧
    x.closing = none ∧ x.items = [] ∧ x.digests = [(0, indexDigest0 id w cols)] ∧ (∀ k, k ≠ id → findIndex t k = findIndex s k) ∧
    obj t (0x4220 + id) 1 = 2 ^ 64 - 1 ∧ t.dict.lastStatus = 0 ∧
    t.tier.objects = s.tier.objects ++ (if idxFv w = 0 then [] else [fvPlaced id w]) ∧
    (∀ r, rimRegion s = some r → memRead t.tier.window (r.base * 65536 + 8192 + 64 * id) 64 = epochRecord t x) ∧
    rimFrame { s with retr := { s.retr with indexes := t.retr.indexes }, tier := { s.tier with objects := t.tier.objects } } t) ∧
  (∀ s id, id = obj s 0x3210 1 → (63 < id → ∀ c, (c = .indexCreate ∨ c = .indexDelete ∨ c = .indexCommit) → ∃ t, exec c s = .next t ∧ statusOnly 0x26 1 s t) ∧
    (id ≤ 63 → (∃ c < 16, 5 < colType (obj s 0x3210 3) c) → ∃ t, exec .indexCreate s = .next t ∧ statusOnly 0x26 3 s t) ∧
    (id ≤ 63 → (∀ c < 16, colType (obj s 0x3210 3) c ≤ 5) → (findIndex s id).isSome = true ∨ idxLayoutOk (obj s 0x3210 2) = false ∨
      objShape s (obj s 0x3210 4) (idxLists (obj s 0x3210 2)) (idxD (obj s 0x3210 2)) = false → ∃ t, exec .indexCreate s = .next t ∧ statusOnly 0x27 8 s t) ∧
    (id ≤ 63 → findIndex s id = none ∨ (s.retr.ingests.any (·.index == id)) = true → ∃ t, exec .indexDelete s = .next t ∧ statusOnly 0x27 8 s t) ∧
    (id ≤ 63 → (∀ x, findIndex s id = some x → x.st ≠ 1 ∨ x.closing ≠ none) → ∃ t, exec .indexCommit s = .next t ∧ statusOnly 0x27 8 s t)) ∧
  (∀ s id x, id = obj s 0x3210 1 → id ≤ 63 → findIndex s id = some x → (s.retr.ingests.any (·.index == id)) = false → ∃ t, exec .indexDelete s = .next t ∧
    findIndex t id = (if s.retr.queries.any (·.index == id) then some { x with st := 2 } else none) ∧ (∀ k, k ≠ id → findIndex t k = findIndex s k) ∧
    t.dict.lastStatus = 0 ∧ t = { s with retr := { s.retr with indexes := t.retr.indexes }, dict := t.dict, tier := t.tier, blk := t.blk } ∧
    pagesReleased s t ∧ (s.retr.queries.any (·.index == id) = true → t.tier = s.tier ∧ t.blk = s.blk) ∧
    (s.retr.queries.any (·.index == id) = false → (∀ p ∈ t.tier.pages, indexPage id p = false) ∧
      (∀ u ∈ s.tier.tiles, u.object ≠ fvObject id → u ∈ t.tier.tiles) ∧ t.tier.window = s.tier.window)) ∧
  (∀ s c id x, (c = .indexCommit ∧ id = obj s 0x3210 1 ∧ id ≤ 63 ∨ c = .epochCommitTimer id ∧ x.dirty = true) → findIndex s id = some x → x.st = 1 →
    x.closing = none → ∃ t y, exec c s = .next t ∧ y = { x with closing := some x.opened, opened := x.opened + 1, dirty := false } ∧ findIndex t id = some y ∧
    (∀ k, k ≠ id → findIndex t k = findIndex s k) ∧
    (∀ r, rimRegion s = some r → memRead t.tier.window (r.base * 65536 + 8192 + 64 * id) 64 = epochRecord t y) ∧
    rimFrame { s with retr := { s.retr with indexes := t.retr.indexes } } t) ∧
  (∀ s id x, findIndex s id = some x → x.dirty = false ∨ x.st ≠ 1 → exec (.epochCommitTimer id) s = .next s) ∧
  (∀ s id x e, findIndex s id = some x → x.closing = some e →
    ((s.retr.ingests.any fun g => g.index == id && g.epoch == e) = true → exec (.epochCommitResume id) s = .next s) ∧
    ((s.retr.ingests.any fun g => g.index == id && g.epoch == e) = false →
      (indexDurable s id = false → ∃ t, exec (.epochCommitResume id) s = .next t ∧ t.retr = s.retr ∧ t.host = s.host ∧ t.nand.pages = s.nand.pages ∧
        t.tier.window = s.tier.window ∧ t.arr = s.arr) ∧
      (indexDurable s id = true → ∃ t y, exec (.epochCommitResume id) s = .next t ∧ findIndex t id = some y ∧ y.committed = e ∧ y.closing = none ∧
        y.commitTime = s.time ∧ (e, epochDigest s x e) ∈ y.digests ∧ y.items = x.items ∧ y.opened = x.opened ∧
        (∀ k, k ≠ id → findIndex t k = findIndex s k) ∧ (∀ a ∈ t.dict.acting, ¬(a.kind = 0 ∧ a.no = id)) ∧
        (∀ a ∈ s.dict.acting, ∀ fn sq cid, a.kind = 0 → a.no = id → a.req.origin = .nvme fn sq cid → (inflight? s fn sq cid).isSome = true →
          ∃ k ∈ t.host.cqes, k.fn = fn ∧ k.sq = sq ∧ k.cid = cid) ∧
        (∀ r, rimRegion s = some r → memRead t.tier.window (r.base * 65536 + 8192 + 64 * id) 16 = natLE 8 e ++ natLE 8 x.opened) ∧
        t.tier.tiles = s.tier.tiles ∧ t.tier.objects = s.tier.objects ∧ t.nand.pages = s.nand.pages ∧ t.arr = s.arr))) ∧
  (∀ s id list x old, findIndex s id = some x → old = oldestPinned s x →
    ((x.items.find? fun i => i.list == list && goneBy old i) = none → exec (.compaction id list) s = .next s) ∧
    (∀ it n, (x.items.find? fun i => i.list == list && goneBy old i) = some it → n = (s.tier.pages.filter fun p => p.owner == segOf x it).length →
      (pailHasRoom s n 0 = false → exec (.compaction id list) s = .next s) ∧
      (pailHasRoom s n 0 = true → ((segItems x list it.seg).map (·.ordinal)).Nodup → ∃ t y, exec (.compaction id list) s = .next t ∧
        findIndex t id = some y ∧ y = { x with items := y.items } ∧
        (y.items.map fun i => { i with pos := if i.list = list ∧ i.seg = it.seg then 0 else i.pos }) =
          ((x.items.filter fun i => !(i.list == list && i.seg == it.seg && goneBy old i)).map fun i =>
            { i with pos := if i.list = list ∧ i.seg = it.seg then 0 else i.pos }) ∧
        (segItems y list it.seg).map (·.pos) = List.range (segItems y list it.seg).length ∧
        (∀ k, k ≠ id → findIndex t k = findIndex s k) ∧ t.retr = { s.retr with indexes := t.retr.indexes } ∧ t.tier.window = s.tier.window ∧
        t.nand.pages = s.nand.pages ∧ t.host = s.host ∧ t.arr = s.arr ∧ t.jobs = s.jobs)))

/-- R193, R261, R284, R285, R288, R289: an Ingest whose input keeps its layout joins the open epoch, and completes at once when it has no
record; a delete record tombstones the live copy of its id, an insert record leaves its own item as the only live copy, and either is
counted; the last record completes the command. A poisoned object of the assignment, a list without an ordinal and a full store end it. The
model reads what the manual leaves open here as log entries 19, 30, 77 and 83 say. -/
def Obligations.IngestIntoTheOpenEpoch : Prop :=
  (∀ s e q buf x rs, basketReady e 0x8D false (some 64) q s → indexFor s e.fn e.handle = some x → e.cdw10 ≤ buf.length → e.cdw10 ≤ 2 ^ 26 →
    cutItems e.cdw15 (buf.take e.cdw10) = some rs → rs.all (itemOk x) = true →
    ((rs.any fun b => !itemDelete b && field b 9 1 == 0) = true → x.encoder ≠ noHandle ∧ namedBasket s e.fn x.encoder ≠ none) →
    readOnly s = false → storeFull s (pagesOf (ingestBytes x rs)) = false → ∃ t, exec (.ingest e buf) s = .next t ∧
    t.retr.nextIngest = s.retr.nextIngest + 1 ∧ t.retr.indexes = s.retr.indexes ∧
    (rs ≠ [] → t.retr.ingests = s.retr.ingests ++ [{ no := s.retr.nextIngest, fn := e.fn, sq := e.sq, cid := e.cid, index := x.id, epoch := x.opened, records := rs, applied := 0, resultAddr := resultAddr e, throttled := throttling s }] ∧ t.host.cqes = s.host.cqes) ∧
    (rs = [] → t.host.cqes = s.host.cqes ++ [cqeOf e.fn e.sq e.cid stSuccess 0 0]) ∧ t.tier = s.tier ∧ t.arr = s.arr ∧ t.jobs = s.jobs ∧ t.blk = s.blk) ∧
  (∀ s fn sq cid g b rest x h, (s.retr.ingests.find? fun g => g.fn == fn && g.sq == sq && g.cid == cid) = some g → g.records = b :: rest →
    findIndex s g.index = some x → (s.retr.ingests.find? fun k => k.no == g.no) = some g →
    (itemDelete b = true → h = { g with records := rest, applied := g.applied + boolNat (hasItem x (itemId b)) }) →
    (itemDelete b = false → h = { g with records := rest, applied := g.applied + 1 } ∧ insertWaits s g x = false ∧ poisonedOf s (assignObjects x) = none ∧
      ∃ i, i = newItem g b x (listFor s x (famVec x (itemVec s g.fn x b))) ∧ i.ordinal < 2 ^ 32 ∧ (tombstone g.no i.id g.epoch x).heldItems < 2 ^ 40 ∧ itemLacks s x i ≤ storeLeft s) →
    ∃ t y, exec (.ingestRecord fn sq cid) s = .next t ∧ findIndex t g.index = some y ∧
    (itemDelete b = true → (∀ it ∈ y.items, it.id = itemId b → it.tomb ≠ none) ∧ y.items.map (·.id) = x.items.map (·.id) ∧
      t.tier = s.tier ∧ t.blk = s.blk) ∧
    (itemDelete b = false → y.items.length = x.items.length + 1 ∧
      (∃ it ∈ y.items, it.id = itemId b ∧ it.epoch = g.epoch ∧ it.tomb = none ∧ it.writer = g.no ∧ it.list = listFor s x (famVec x (itemVec s g.fn x b))) ∧
      (∀ it ∈ y.items, it.id = itemId b → it.tomb = none → it.epoch = g.epoch ∧ it.writer = g.no)) ∧
    (∀ it ∈ x.items, it.id ≠ itemId b → it ∈ y.items) ∧
    (rest ≠ [] → (t.retr.ingests.find? fun k => k.no == g.no) = some h ∧ t.host = s.host ∧ t.jobs = s.jobs) ∧
    (rest = [] → (t.retr.ingests.find? fun k => k.no == g.no) = none ∧ commandEnded fn sq cid stSuccess 0 s t ∧
      ((inflight? s fn sq cid).isSome = true → ∃ d ∈ t.host.dma, d.addr = g.resultAddr ∧ d.relaxed = false ∧
        d.data = resultRegion noHandle 0 ((if g.throttled then 8 else 0) + (if deterministic s then 16 else 0)) g.epoch (h.applied % 2 ^ 32) [])) ∧
    t.nand.pages = s.nand.pages ∧ t.tier.window = s.tier.window ∧ t.arr = s.arr) ∧
  (∀ s fn sq cid g b rest x i, (s.retr.ingests.find? fun g => g.fn == fn && g.sq == sq && g.cid == cid) = some g → g.records = b :: rest →
    findIndex s g.index = some x → itemDelete b = false → i = newItem g b x (listFor s x (famVec x (itemVec s g.fn x b))) →
    (insertWaits s g x = true → exec (.ingestRecord fn sq cid) s = .next s) ∧
    (∀ o k tier, insertWaits s g x = false → poisonedOf s (assignObjects x) = some (o, k, tier) → ∃ t, exec (.ingestRecord fn sq cid) s = .next t ∧
      commandEnded g.fn g.sq g.cid stPoisonedInput tier s t ∧ (∀ h ∈ t.retr.ingests, h.no ≠ g.no) ∧ pagesReleased s t) ∧
    (insertWaits s g x = false → poisonedOf s (assignObjects x) = none → 2 ^ 32 ≤ i.ordinal ∨ 2 ^ 40 ≤ (tombstone g.no i.id g.epoch x).heldItems ∨ storeLeft s < itemLacks s x i →
      ∃ t, exec (.ingestRecord fn sq cid) s = .next t ∧ commandEnded g.fn g.sq g.cid stCapacityExhausted 0 s t ∧
      (∀ h ∈ t.retr.ingests, h.no ≠ g.no) ∧ pagesReleased s t))

/-- R262, R264, R268, R273, R282, R358: a Query whose handle, descriptor and epoch hold and whose class's test admits it pins its epoch, and its
first array stage is due; it does not complete yet. A closing window starts the scan of each waiting probe or carries it on, and gathers the
array stages that wait into pipeline jobs. The end of a scan settles the pool of its query; after its last scan a query with no further
stage completes. The coarse scores and stage times are opaque: log entries 31 and 32. The model reads what the manual leaves open here as
log entries 19, 31, 32 and 66 say. -/
def Obligations.QueriesAndScans : Prop :=
  (∀ s e r buf k kind m x bs b epoch c win, basketReady e 0x89 true (some (64 + 8 * (e.cdw15 % 128))) r s → k = e.cdw15 % 128 → kind = bitsOf e.cdw15 9 8 →
    m = pipeValues s e.handle → 1 ≤ k → k ≤ 64 → kind ≤ 1 → e.cdw15 = k + 256 * kind → e.cdw10 ≤ 2 ^ 20 → e.handle ≤ 63 →
    indexFor s e.fn (pv m 1) = some x → pipeBaskets s e.fn m = some bs → granted (pv m 17) e.fn = true → e.cdw10 ≤ buf.length →
    b = buf.take e.cdw10 → descOk x m (kind == 0) b e.cdw10 = true → pinEpoch s e.fn x = some epoch →
    c = queryTime s e.fn x m (kind == 0) (wantsExpress e) (descProbes m b) (poolOf m k) →
    win = (if wantsExpress e then admitExpress s c 0 (timeLeft s (startedRec e r).deadline)
      else if admitQueryStd s c (timeLeft s (startedRec e r).deadline) then some 0 else none) →
    (win.isSome = true → ∃ t q, exec (.query e buf) s = .next t ∧ q ∈ t.retr.queries ∧ q.named e.fn e.sq e.cid = true ∧
      q.pipeline = e.handle ∧ q.index = x.id ∧ q.epoch = epoch ∧ q.k = k ∧ q.pool = poolOf m k ∧ q.nProbe = descProbes m b ∧ q.express = wantsExpress e ∧
      q.digest = wantsDigest e ∧ q.cands = [] ∧ q.rounds = 0 ∧ q.probes = [] ∧ q.vec = queryVec x (kind == 0) b ∧
      (wantsExpress e = false → obj s 0x3200 1 ≠ 0 → q.stage = 2 * kind ∧ t.jobs.jobs = s.jobs.jobs) ∧
      (wantsExpress e = true ∨ obj s 0x3200 1 = 0 → q.stage = 2 * kind + 1 ∧
        ∃ j ∈ t.jobs.jobs, j.stage = some (e.handle, kind) ∧ j.express = wantsExpress e ∧ (e.fn, e.sq, e.cid) ∈ j.members) ∧
      t.retr.queries.length = s.retr.queries.length + 1 ∧ t.retr.indexes = s.retr.indexes ∧
      t.host.cqes = s.host.cqes ∧ t.arr = s.arr ∧ t.blk = s.blk ∧ t.nand = s.nand) ∧
    (win = none → ∃ t, exec (.query e buf) s = .next t ∧
      t.host.cqes = s.host.cqes ++ [cqeOf e.fn e.sq e.cid stNotAdmitted (ceilDiv c 1000) 0] ∧ t.retr = s.retr ∧ t.arr = s.arr ∧ t.tier = s.tier)) ∧
  (∀ s, ∃ t, exec .batchingWindowClose s = .next t ∧ t.retr.queries.length = s.retr.queries.length ∧
    (∀ (i : Nat) (q : Query), s.retr.queries[i]? = some q → ∃ q', t.retr.queries[i]? = some q' ∧ q' = { q with probes := q'.probes, stage := q'.stage } ∧
      (q.express = true ∨ 8 ≤ q.stage ∨ q.stage % 2 = 1 → q'.stage = q.stage) ∧
      (q.express = false → q.stage < 8 → q.stage % 2 = 0 → q'.stage = q.stage + 1 ∧
        ∃ j ∈ t.jobs.jobs, j.stage = some (q.pipeline, q.stage / 2) ∧ j.express = false ∧ (q.fn, q.sq, q.cid) ∈ j.members) ∧
      q'.probes.length = q.probes.length ∧ ∀ (n : Nat) (p : Probe), q.probes[n]? = some p →
        ((q.express = true ∨ p.arrived = false ∨ p.scanning = true ∨ p.done = true) → q'.probes[n]? = some p) ∧
        (q.express = false → p.arrived = true → p.scanning = false → p.done = false →
          q'.probes[n]? = some { p with scanning := true } ∨ q'.probes[n]? = some { p with carried := p.carried + 1 })) ∧
    (∃ l : List Job, t.jobs = { s.jobs with jobs := s.jobs.jobs ++ l, stdQ := s.jobs.stdQ ++ l.map (·.id), nextJob := s.jobs.nextJob + l.length }) ∧
    t = { s with retr := { s.retr with queries := t.retr.queries }, jobs := t.jobs, dict := t.dict } ∧ objsBut [(0x3201, 9), (0x3301, 6)] s t) ∧
  (∀ s id list recs x q p a, findIndex s id = some x → q.express = false → s.retr.queries.find? (·.named q.fn q.sq q.cid) = some q →
    (s.retr.queries.filter fun q => q.index == id && q.probes.any fun p => p.list == list && p.scanning) = [q] → scanHeld s list = false →
    (q.probes.find? fun p => p.list == list && p.scanning) = some p → a = scanList s x q p recs →
    (a.poisoned = false → (∃ o ∈ q.probes, o.list ≠ list ∧ o.done = false) → ∃ t, exec (.listScanDone id list ⟨recs, []⟩) s = .next t ∧
      t.retr.queries.find? (·.named q.fn q.sq q.cid) = some { q with
        pools := a.pools
        rawSet := a.raw
        probes := updWhere (fun p => p.list == list) (fun p => { p with scanning := false, done := true }) q.probes } ∧
      obj t 0x3201 2 = (obj s 0x3201 2 + 1) % 2 ^ 64 ∧ obj t 0x3201 3 = (obj s 0x3201 3 + 1) % 2 ^ 64 ∧
      obj t 0x3301 4 = (obj s 0x3301 4 + a.nans) % 2 ^ 64 ∧ t.retr.indexes = s.retr.indexes ∧
      t.host = s.host ∧ t.jobs = s.jobs ∧ t.nand.pages = s.nand.pages ∧ t.tier = s.tier ∧ t.arr = s.arr) ∧
    (a.poisoned = false → (∀ o ∈ q.probes, o.list ≠ list → o.done = true) → q.noWiden = true → rankStage x q = none → ∀ l, l = mergePools x { q with pools := a.pools } → candPoison s x false l = none →
      ∃ t, exec (.listScanDone id list ⟨recs, []⟩) s = .next t ∧ commandEnded q.fn q.sq q.cid stSuccess (min q.k l.length) s t ∧
      (∀ u ∈ t.retr.queries, u.named q.fn q.sq q.cid = false) ∧
      (∀ w, q.digest = false → obj s (fnIdx q.fn) 4 = 0 → w =
        resultRegion noHandle (min q.k l.length) ((if q.rounds = 0 then 0 else 2) + (if l.length < q.k then 4 else 0) + (if q.throttled then 8 else 0) +
          (if bitOf q.modeWord 8 then 16 else 0)) q.epoch 0 [] ++
        ((l.take q.k).map (·.index) ++ List.replicate (q.k - l.length) noHandle).flatMap (natLE 8) →
        t.host.dma = s.host.dma ++ [{ addr := q.resultAddr, relaxed := false, data := w }])) ∧
    (a.poisoned = true → ∃ t, exec (.listScanDone id list ⟨recs, []⟩) s = .next t ∧ commandEnded q.fn q.sq q.cid stPoisonedInput 2 s t) ∧
    (∃ t, exec (.listScanDone id list ⟨recs, [(q.fn, q.sq, q.cid)]⟩) s = .next t ∧ commandEnded q.fn q.sq q.cid stPoisonedInput 0 s t ∧
      obj t 0x2302 3 = (obj s 0x2302 3 + 1) % 2 ^ 64))

/-- R62, R63, R306, R308: a handle whose retention ends is dropped; Gather of a held query of the function returns its first scores; one of
another function or of none ever given is Unknown Handle, and one that has gone is Result Expired. The model reads what the manual leaves
open here as log entries 19 and 35 say. -/
def Obligations.ResultHandlesAndGather : Prop :=
  (∀ s h, ∃ t, exec (.resultRetentionExpiry h) s = .next t ∧ t = { s with retr := { s.retr with handles := s.retr.handles.filter (·.handle != h) } }) ∧
  (∀ s e x n, basketReady { e with psdt := 0 } 0x94 false (some (64 + 4 * n)) x s → n = e.cdw15 % 128 → e.cdw15 = n → 1 ≤ n → n ≤ 64 →
    (∀ h, e.handle ≠ noHandle → s.retr.handles.find? (·.handle == e.handle) = some h → h.fn = e.fn → ∃ t w rest, exec (.gatherCommand e) s = .next t ∧
      t.host.cqes = s.host.cqes ++ [cqeOf e.fn e.sq e.cid stSuccess (h.scores.take n).length 0] ∧ rest.length = 4 * (n - (h.scores.take n).length) ∧
      t.host.dma = s.host.dma ++ [{ addr := resultAddr e, relaxed := false, data := w }] ∧ w = resultRegion noHandle (h.scores.take n).length
        ((if throttling s then 8 else 0) + (if deterministic s then 16 else 0)) 0 0 [] ++ (h.scores.take n).flatMap (natLE 4) ++ rest ∧
      t.retr = s.retr ∧ t.jobs = s.jobs ∧ t.tier = s.tier ∧ t.arr = s.arr ∧ t.blk = s.blk) ∧
    (∀ st, (e.handle = noHandle ∧ st = stResultExpired ∨ e.handle ≠ noHandle ∧ (s.retr.handles.find? (·.handle == e.handle)) = none ∧
        st = (if wasHandle s e.fn e.handle then stResultExpired else stUnknownHandle) ∨
        e.handle ≠ noHandle ∧ (∃ h, s.retr.handles.find? (·.handle == e.handle) = some h ∧ h.fn ≠ e.fn) ∧ st = stUnknownHandle) →
      ∃ t, exec (.gatherCommand e) s = .next t ∧ commandEnded e.fn e.sq e.cid st 0 s t ∧ t.host.dma = s.host.dma ∧
      t.retr = s.retr ∧ t.jobs = s.jobs ∧ t.tier = s.tier ∧ t.arr = s.arr ∧ t.blk = s.blk))

/-- R30, R70 to R72, R184, R197: a deadline, an Abort and a Function Abort end what they name: its completion is posted with the status of the
cause, a Function Abort answers how many completions found their queue full and were discarded, and nothing of flash is touched but the
pages that ended work gives up. The model reads what the manual leaves open here as log entries 3, 14 and 18 say. -/
def Obligations.DeadlinesAndAborts : Prop :=
  (∀ s fn sq cid tier node x, inflight? s fn sq cid = some x → s.pwr.ps < 3 →
    (x.deadline = 0 → exec (.requestDeadline fn sq cid tier node) s = .next s) ∧
    (x.deadline ≠ 0 → ∃ t, exec (.requestDeadline fn sq cid tier node) s = .next t ∧ t.time = max s.time x.deadline ∧
      (if tier = 0 then cqeOf fn sq cid stDeadlineMissed (boolNat (ranThrottled s fn sq cid)) 0
       else cqeOf fn sq cid stTierLate (tier % 4 + (if tier = 3 then node % 2 ^ 15 * 65536 else 0)) 0) ∈ t.host.cqes ∧
      pagesReleased s t ∧ t.thr = s.thr)) ∧
  (∀ s e sq cid, adminReady e 0x08 s → sq = e.cdw10 % 65536 → cid = e.cdw10 / 65536 % 65536 → s.pwr.ps < 3 →
    (isCompute s e.fn sq = true → (inflight? s e.fn sq cid).isSome = true → ∃ t, exec (.abort e) s = .next t ∧
      cqeOf e.fn sq cid stAbortRequested 0 0 ∈ t.host.cqes ∧ t.host.cqes.getLast? = some (cqeOf e.fn 0 e.cid stSuccess 0 0) ∧
      pagesReleased s t ∧ t.time = s.time) ∧
    (isCompute s e.fn sq = false ∨ inflight? s e.fn sq cid = none → ∃ t, exec (.abort e) s = .next t ∧
      t.host.cqes = s.host.cqes ++ [cqeOf e.fn 0 e.cid stSuccess 1 0] ∧ t.jobs = s.jobs ∧ t.blk = s.blk ∧ t.nand = s.nand)) ∧
  (∀ s c fn full, fn ≤ 63 → s.pwr.ps < 3 → (c = .functionQueuesAbort fn ∧ full = [] ∨ ∃ e, c = .functionAbort ⟨e, full⟩ ∧ e.cdw10 = fn ∧
      adminReady e 0xC8 s ∧ (e.fn = 0 ∨ e.fn = fn)) →
    ∃ t, exec c s = .next t ∧
    (∀ x ∈ s.host.inflight, x.fn = fn → x.sq ≠ 0 → (x.sq, x.cid) ∉ full → cqeOf fn x.sq x.cid stFunctionAborted 0 0 ∈ t.host.cqes) ∧
    (∀ k, k ∈ t.host.cqes.drop s.host.cqes.length → k.fn = fn → k.sq ≠ 0 → (k.sq, k.cid) ∉ full) ∧
    (∀ e, c = .functionAbort ⟨e, full⟩ → (s.host.inflight.map fun x => (x.fn, x.sq, x.cid)).Nodup → t.host.cqes.getLast? = some (cqeOf e.fn 0 e.cid stSuccess
      (s.host.inflight.filter fun x => x.fn == fn && x.sq != 0 && full.contains (x.sq, x.cid)).length 0)) ∧
    (∀ h ∈ t.retr.handles, h.fn ≠ fn) ∧ (∀ o ∈ t.jobs.outputs, o.fn ≠ fn) ∧
    (∀ q ∈ t.host.sqs, q.fn = fn → q.id ≠ 0 → obj s (fnIdx fn) 2 ≤ q.id → q.frozen = true) ∧ pagesReleased s t ∧ t.time = s.time) ∧
  (∀ s fn, 63 < fn → ∃ t, exec (.functionQueuesAbort fn) s = .next t ∧ statusOnly 0x26 7 s t)

/-- R17, R18, R133, R178 to R181, R370, R371, R378: a request of another node that comes for the first time is checked and has its effect once
at the home of its data, and its Response says Done with what it reads; a coherent write or atomic is first copied to the twin, and one to
data that the other system homes goes on there; one that its check refuses changes nothing and is told so; a coherent write without room in
the Pail waits. A repeat has its kept Response sent again and no effect, one of a request under way is dropped, and a node that serves no
other answers Unavailable. The model reads what the manual leaves open here as log entries 18, 36 and 79 say. -/
def Obligations.RequestsOfOtherNodes : Prop :=
  (∀ s m off n h, off = addrOff m.target → n = m.dataLength → firstAsked m s → n ≤ 4096 → msgCheck s m false n = 0 →
    (addrSpace m.target = 1 → flashHeld s off n = false) → ¬(addrSpace m.target = 0 ∧ homedAway s off n = true ∧ fromTwin m = false) →
    h = (if addrSpace m.target = 0 ∧ inCoherent off n = true then healCoherent off n s else s) → ∃ t, exec (.wyvasRead m) s = .next t ∧
    answered m 0 (if addrSpace m.target = 1 then (flashRead s off n).1 else memRead h.tier.window off n)
      (if addrSpace m.target = 1 then (flashRead s off n).2 else (windowRead h off n).2) { s with tier := t.tier } t ∧
    windowKept off 0 s t ∧ hbmFrame s t ∧ t.blk = s.blk) ∧
  (∀ s m off n, off = addrOff m.target → n = m.data.length → firstAsked m s → addrSpace m.target ≠ 1 → n ≤ 4096 → msgCheck s m true n = 0 →
    ¬(homedAway s off n = true ∧ fromTwin m = false) → (inCoherent off n = true → coherentRoom s off n = true) →
    ∃ t, exec (.wyvasWrite m) s = .next t ∧ memRead t.tier.window off n = m.data ∧ windowKept off n s t ∧ hbmFrame s t ∧
    (mirrors s off n = false → answered m 0 [] 0 { s with tier := t.tier, blk := t.blk, nand := t.nand } t) ∧
    (mirrors s off n = true → t.wyv.keptResp = s.wyv.keptResp ∧ ∃ r : Request, t.wyv.requests = s.wyv.requests ++ [r] ∧
      r.who = .remote m.src m.tag m.function ∧ r.plane = 2 ∧ r.msg.mtype = 2 ∧ r.msg.target = m.target ∧ r.msg.data = m.data)) ∧
  (∀ s m c n, (c = .wyvasWrite m ∧ n = m.data.length ∧ addrSpace m.target ≠ 1 ∧ n ≤ 4096 ∨
      c = .wyvasAtomic m ∧ n = 8 ∧ addrSpace m.target ≠ 1 ∧ addrOff m.target % 8 = 0 ∧ m.op ≤ 2) →
    firstAsked m s → msgCheck s m true n = 0 → ¬(homedAway s (addrOff m.target) n = true ∧ fromTwin m = false) →
    inCoherent (addrOff m.target) n = true → coherentRoom s (addrOff m.target) n = false → exec c s = .next s) ∧
  (∀ s m off n u, off = addrOff m.target → n = m.data.length → firstAsked m s → addrSpace m.target = 1 → fromTwin m = false → n ≤ 4096 →
    msgCheck s m true n = 0 → flashWrite m.function 0 off m.data (takeMsg m s) = some u → ∃ t, exec (.wyvasWrite m) s = .next t ∧
    answered m 0 [] 0 { s with blk := t.blk, nand := t.nand, tier := t.tier, jobs := t.jobs } t ∧
    ((∀ p ∈ pagePieces (n / 16384 + 2) off n, pageOwner s p.1 = none) → (∀ q ∈ s.blk.pail, q.group = none) →
      writeTaken (pagePieces (n / 16384 + 2) off n) m.data s t) ∧ t.nand.pages = s.nand.pages ∧ t.arr = s.arr) ∧
  (∀ s m no w, no = addrOff m.target / 8 → w = field m.data 0 8 → firstAsked m s → addrSpace m.target = 1 → fromTwin m = true →
    addrOff m.target % 8 = 0 → no < 256 → m.data.length = 8 → ∃ t, exec (.wyvasWrite m) s = .next t ∧
    answered m 0 [] 0 { s with tier := t.tier, blk := t.blk } t ∧
    (∀ r, s.tier.regions.find? (·.no == no) = some r → bitOf w 63 = false →
      if r.homed then t.tier = s.tier else ∀ g ∈ t.tier.regions, g.no ≠ no) ∧
    (∀ r, s.tier.regions.find? (·.no == no) = some r → bitOf w 63 = true → bitOf w 62 = true → (bitOf w 60 = true ∨ r.taken = false) →
      ∀ g ∈ t.tier.regions, g.no = no → g.homed = false ∧ g.mirrored = true ∧ g.unprotected = false) ∧
    (s.tier.regions.find? (·.no == no) = none → bitOf w 63 = true → regionFree s.tier.regions (bitsOf w 17 0) (bitsOf w 50 32) = true →
      ∃ g ∈ t.tier.regions, g.no = no ∧ g.base = bitsOf w 17 0 ∧ g.len = bitsOf w 50 32 ∧ g.homed = !bitOf w 62 ∧ g.mirrored = true ∧
        ∀ a, g.base * 65536 ≤ a → a < (g.base + g.len) * 65536 → memByte t.tier.window a = 0) ∧
    (∀ g ∈ s.tier.regions, g.no ≠ no → g ∈ t.tier.regions) ∧ t.nand = s.nand ∧ t.arr = s.arr ∧ t.jobs = s.jobs) ∧
  (∀ s m no, addrOff m.target = syncBase + 64 * no → no ≤ 65535 → firstAsked m s → addrSpace m.target = 1 → fromTwin m = true →
    m.data.length = 64 → ∃ t, exec (.wyvasWrite m) s = .next t ∧ answered m 0 [] 0 { s with sync := t.sync } t ∧
    (∀ o, findSync s no = some o → o.homed = true → t.sync = s.sync) ∧
    ((∀ o, findSync s no = some o → o.homed = false) → field m.data 0 1 ≠ 1 → findSync t no = none) ∧
    ((∀ o, findSync s no = some o → o.homed = false) → field m.data 0 1 = 1 → ∃ o, findSync t no = some o ∧ o.homed = false ∧
      o.kind = field m.data 1 1 ∧ o.gen = field m.data 4 4 ∧ o.value = field m.data 8 8 ∧ o.parts = field m.data 16 8 ∧
      o.grants = field m.data 24 8 ∧ o.release = field m.data 32 8) ∧
    (∀ k, k ≠ no → findSync t k = findSync s k)) ∧
  (∀ s m off h old, off = addrOff m.target → h = (if inCoherent off 8 then healCoherent off 8 s else s) → old = memNat h.tier.window off 8 →
    firstAsked m s → addrSpace m.target ≠ 1 → off % 8 = 0 → m.op ≤ 2 → msgCheck s m true 8 = 0 →
    ¬(homedAway s off 8 = true ∧ fromTwin m = false) → (inCoherent off 8 = true → coherentRoom s off 8 = true) →
    memAny h.tier.windowPoison off 8 = false → ∃ t, exec (.wyvasAtomic m) s = .next t ∧
    memNat t.tier.window off 8 = atomicResult m.op old (field m.data 0 8) (field m.data 8 8) ∧ windowKept off 8 s t ∧ hbmFrame s t ∧
    (mirrors s off 8 = false → answered m 0 (natLE 8 old ++ List.replicate 56 0) 0 { s with tier := t.tier, blk := t.blk, nand := t.nand } t) ∧
    (mirrors s off 8 = true → t.wyv.keptResp = s.wyv.keptResp ∧ ∃ r : Request, t.wyv.requests = s.wyv.requests ++ [r] ∧
      r.who = .remote m.src m.tag m.function ∧ r.plane = 2 ∧ r.msg.mtype = 2 ∧ r.atomic = true ∧ r.off = old ∧
      r.msg.data = memRead t.tier.window off 8)) ∧
  (∀ s m off h, off = addrOff m.target → h = (if inCoherent off 8 then healCoherent off 8 s else s) → firstAsked m s → addrSpace m.target ≠ 1 →
    off % 8 = 0 → m.op ≤ 2 → msgCheck s m true 8 = 0 → ¬(homedAway s off 8 = true ∧ fromTwin m = false) →
    (inCoherent off 8 = true → coherentRoom s off 8 = true) → memAny h.tier.windowPoison off 8 = true → ∃ t, exec (.wyvasAtomic m) s = .next t ∧
    answered m 0 (List.replicate 64 0) 1 { s with tier := t.tier } t ∧ windowKept off 0 s t ∧ hbmFrame s t ∧ t.blk = s.blk) ∧
  (∀ s m c off, c = m.target / 2 ^ 21 → off = m.target % 2 ^ 21 → firstAsked m s → cellIn s c = true → off + m.data.length ≤ 2 ^ 21 →
    ∃ t, exec (.delivery m) s = .next t ∧ answered m 0 [] 0 { s with arr := t.arr } t ∧
    sramRead t c off m.data.length = m.data ∧
    (∀ i < m.data.length, memByte t.arr.poison (sramKey c (off + i)) = if bitOf m.poisonMask (i / 64) then 1 else 0) ∧
    sramBut (inSram c off m.data.length) s t) ∧
  (∀ s m c ty, firstAsked m s → fromTwin m = false →
    (c = .wyvasRead m ∧ ty = 1 ∧ addrSpace m.target = 0 ∧ m.dataLength ≤ 4096 ∧ msgCheck s m false m.dataLength = 0 ∧
        homedAway s (addrOff m.target) m.dataLength = true ∨
      c = .wyvasWrite m ∧ ty = 2 ∧ addrSpace m.target ≠ 1 ∧ m.data.length ≤ 4096 ∧ msgCheck s m true m.data.length = 0 ∧
        homedAway s (addrOff m.target) m.data.length = true ∨
      c = .wyvasAtomic m ∧ ty = 3 ∧ addrSpace m.target ≠ 1 ∧ addrOff m.target % 8 = 0 ∧ m.op ≤ 2 ∧ msgCheck s m true 8 = 0 ∧
        homedAway s (addrOff m.target) 8 = true) → ∃ t, exec c s = .next t ∧ forwardedHome m ty s t) ∧
  (∀ s m c st, firstAsked m s → st ≠ 0 →
    (c = .wyvasRead m ∧ (addrSpace m.target = 1 → flashHeld s (addrOff m.target) m.dataLength = false) ∧ msgCheck s m false m.dataLength = st ∨
      c = .wyvasWrite m ∧ msgCheck s m true m.data.length = st ∨ c = .wyvasAtomic m ∧ msgCheck s m true 8 = st) →
    ∃ t, exec c s = .next t ∧ answered m st [] 0 s t) ∧
  (∀ s m c k, requestOf c m s → (s.wyv.keptResp.find? fun k => k.1 == m.src && k.2.1 == m.tag) = some k → ∃ t, exec c s = .next t ∧
    t.wyv.keptResp = s.wyv.keptResp ∧ t.wyv.requests = s.wyv.requests ∧ obj t 0x4002 6 = (obj s 0x4002 6 + 1) % 2 ^ 64 ∧
    t = { s with wyv := t.wyv, dict := t.dict }) ∧
  (∀ s m c, requestOf c m s → (s.wyv.keptResp.find? fun k => k.1 == m.src && k.2.1 == m.tag) = none → selfDown s = true → ∃ t, exec c s = .next t ∧
    answered m 3 [] 0 s t) ∧
  (∀ s m c, requestOf c m s → (s.wyv.keptResp.find? fun k => k.1 == m.src && k.2.1 == m.tag) = none → selfDown s = false → underWayFor s m = true →
    exec c s = .next { s with wyv := { s.wyv with rx := s.wyv.rx.erase m } })

/-- R16, R18, R163, R185, R354, R370, R377, R378: a Response completes the request with its tag: a load's value reaches its thread, a store
leaves the thread's count, poisoned data ends the job, the last piece of a frame brings its tile into T1 if the frame is of one version, a
request made for another node is answered, the end of a resynchronisation lifts the flag of coherent regions, and one whose tag is retired
is discarded; a request that waits too long is reissued once with its tag, and in the end given up; a kept tag is dropped after its time.
The model reads what the manual leaves open here as log entries 3, 49 and 79 say. -/
def Obligations.ResponsesCompleteRequests : Prop :=
  (∀ s m r k x j, (s.wyv.requests.find? fun r => r.tag == m.tag && r.dst == m.src) = some r → m.op = 0 → r.who = .thread k →
    ownerJob s = some j → r.job = j.id → findThread s k = some x →
    (r.atomic = true ∨ r.msg.mtype ≠ 2 ∧ m.poisonMask = 0 → ∃ t, exec (.response m) s = .next t ∧
      findThread t k = some { x with wait := false
                                     result := if r.atomic then r.off else field m.data 0 (if r.msg.mtype = 1 then r.msg.dataLength else 8) } ∧
      (∀ l, l ≠ k → findThread t l = findThread s l) ∧
      t.wyv = { s.wyv with rx := s.wyv.rx.erase m, requests := s.wyv.requests.filter (·.tag != r.tag) } ∧
      t = { s with wyv := t.wyv, jobs := { s.jobs with threads := t.jobs.threads } }) ∧
    (r.atomic = false → r.msg.mtype = 2 → ∃ t, exec (.response m) s = .next t ∧
      findThread t k = some { x with stores := x.stores - 1, wait := x.wait && !(decide (x.stores ≤ 1) && !threadBlocked t r.job k) } ∧
      (∀ l, l ≠ k → findThread t l = findThread s l) ∧
      t.wyv = { s.wyv with rx := s.wyv.rx.erase m, requests := s.wyv.requests.filter (·.tag != r.tag) } ∧
      t = { s with wyv := t.wyv, jobs := { s.jobs with threads := t.jobs.threads } }) ∧
    (∀ y, r.atomic = false → r.msg.mtype ≠ 2 → m.poisonMask ≠ 0 → inflight? s j.fn j.sq j.cid = some y → ∃ t, exec (.response m) s = .next t ∧
      findJob t j.id = none ∧ (∃ l, t.host.cqes = s.host.cqes ++
        cqeOf j.fn j.sq j.cid stPoisonedInput (if r.plane = 2 then 1 else 3) 0 :: l) ∧ nodeFrame s t)) ∧
  (∀ s m r o i y, (s.wyv.requests.find? fun r => r.tag == m.tag && r.dst == m.src) = some r → m.op = 0 → r.who = .stream → r.plane ≠ 2 →
    r.msg.mtype = 1 → r.tile = some (o, i) → (s.wyv.requests.filter (·.tag != r.tag)).all (fun q => q.tile != some (o, i)) = true →
    (r.off = 0 → y.1 = field m.data 16 8 ∧ y.2 = field m.data 32 4) → (r.off ≠ 0 → y = ((tileOf s o i).version, (tileOf s o i).crc)) →
    ∃ t, exec (.response m) s = .next t ∧ (tileOf t o i).version = y.1 ∧ (tileOf t o i).crc = y.2 ∧
    (tileOf t o i).poison = (r.off != 0 && (tileOf s o i).poison || m.poisonMask != 0) ∧
    (tileOf t o i).inT1 = ((tileOf s o i).inT1 || (tileOf t o i).poison ||
      crc32 (memRead (tileOf t o i).body 0 (bodyBytes (tileOf s o i).format)) == y.2) ∧
    (∀ a b, (a, b) ≠ (o, i) → findTile t a b = findTile s a b) ∧
    (∀ b < m.data.length, 256 ≤ r.off + b → r.off + b < 256 + 16384 → memByte (tileOf t o i).body (r.off + b - 256) = m.data.getD b 0) ∧
    t.host = s.host ∧ t.blk = s.blk ∧ t.nand = s.nand ∧ t.arr = s.arr) ∧
  (∀ s m r node tag fn, (s.wyv.requests.find? fun r => r.tag == m.tag && r.dst == m.src) = some r → r.who = .remote node tag fn →
    ∃ t q, exec (.response m) s = .next t ∧ t.wyv.keptResp = (node, tag, q) :: s.wyv.keptResp ∧ q.dst = node ∧ q.tag = tag ∧ q.op = m.op ∧
    (m.op = 0 → q.data = (if r.atomic then natLE 8 r.off ++ List.replicate 56 0 else m.data) ∧ q.poisonMask = m.poisonMask) ∧
    (m.op ≠ 0 → q.data = [] ∧ q.poisonMask = 0) ∧ t.wyv.requests = s.wyv.requests.filter (·.tag != r.tag) ∧
    t = { s with wyv := t.wyv, dict := t.dict }) ∧
  (∀ s m r, (s.wyv.requests.find? fun r => r.tag == m.tag && r.dst == m.src) = some r → m.op = 0 → r.who = .stream → r.plane = 2 →
    portUp s 12 = true → portUp s 13 = true → (∀ q ∈ s.wyv.requests, q.tag ≠ r.tag → q.mirrors = false) → ∃ t, exec (.response m) s = .next t ∧
    t.wyv = { s.wyv with rx := s.wyv.rx.erase m, requests := s.wyv.requests.filter (·.tag != r.tag) } ∧
    t.tier.regions = s.tier.regions.map (fun g => if g.homed && g.mirrored then { g with unprotected := false, taken := false } else g) ∧
    t.tier = { s.tier with regions := t.tier.regions } ∧ t.blk = s.blk ∧ t.nand = s.nand ∧ t.arr = s.arr ∧ t.jobs = s.jobs) ∧
  (∀ s m, (s.wyv.requests.find? fun r => r.tag == m.tag && r.dst == m.src) = none → ∃ t, exec (.response m) s = .next t ∧
    t = { s with wyv := { s.wyv with rx := s.wyv.rx.erase m } }) ∧
  (∀ s tag r, s.wyv.requests.find? (·.tag == tag) = some r → s.pwr.ps < 3 → ∃ t, exec (.t3ResponseTimeout tag) s = .next t ∧
    t.time = max s.time (r.issued + 1000000 * obj s 0x2201 5) ∧ (∀ q ∈ t.wyv.requests, q ∈ s.wyv.requests ∧ q.tag ≠ tag) ∧
    (∀ node k fn, r.who = .remote node k fn → ∃ q : Msg, t.wyv.keptResp = (node, k, q) :: s.wyv.keptResp ∧ q.op = 3) ∧
    (∀ j x, (∀ node k fn, r.who ≠ .remote node k fn) → r.mirrors = false → findJob s r.job = some j → inflight? s j.fn j.sq j.cid = some x →
      findJob t j.id = none ∧
      ∃ l, t.host.cqes = s.host.cqes ++ cqeOf j.fn j.sq j.cid stTierError (if r.plane = 2 then 1 else 3 + r.dst * 65536) 0 :: l) ∧
    (∀ g ∈ t.tier.regions, r.mirrors = true → addrSpace r.msg.target ≠ 1 → g.homed = true →
      (coherentPages (addrOff r.msg.target) r.msg.dataLength).any (fun p => decide (g.base * 4 ≤ p) && decide (p < (g.base + g.len) * 4)) = true →
      g.mirrored = false ∧ g.unprotected = true) ∧
    nodeFrame { s with time := t.time } t) ∧
  (∀ s tag r, s.wyv.requests.find? (·.tag == tag) = some r → r.reissued = false → ∃ t, exec (.reissueTimeout tag) s = .next t ∧
    t.time = max s.time (r.issued + 800000) ∧
    t.wyv.requests = updWhere (·.tag == tag) (fun r => { r with reissued := true }) s.wyv.requests ∧ t.wyv.keptResp = s.wyv.keptResp ∧
    t.wyv.nextTag = s.wyv.nextTag ∧ obj t 0x4002 5 = (obj s 0x4002 5 + 1) % 2 ^ 64 ∧ t = { s with time := t.time, wyv := t.wyv, dict := t.dict }) ∧
  (∀ s tag r, s.wyv.requests.find? (·.tag == tag) = some r → r.reissued = true → ∃ t, exec (.reissueTimeout tag) s = .next t ∧
    t = { s with time := max s.time (r.issued + 800000) }) ∧
  (∀ s src tag, ∃ t, exec (.tagRetentionExpiry src tag) s = .next t ∧
    (∀ k, k ∈ t.wyv.keptResp ↔ k ∈ s.wyv.keptResp ∧ ¬(k.1 = src ∧ k.2.1 = tag)) ∧ t = { s with wyv := { s.wyv with keptResp := t.wyv.keptResp } })

/-- R182, R186, R205, R375, R376: a Notice is forwarded and acted on once, and dropped when it repeats. A node told unavailable, fenced or lost
is used no more and requests to it end; told available it is used again; notice from the twin system of the loss of this node's own number
makes this node the home of every region; a plane's notice is only forwarded. Which Notice concerns the twin system is log entry 37. The
model reads what the manual leaves open here as log entries 37 and 49 say. -/
def Obligations.NoticesAreForwardedOnce : Prop :=
  (∀ s m c op, (c = .nodeAvailableNotice m ∧ op = 2 ∨ c = .nodeUnavailableNotice m ∧ op = 1 ∨ c = .nodeLostNotice m ∧ op = 3 ∨
      c = .planeLostNotice m ∧ op = 4 ∨ c = .planeRestoredNotice m ∧ op = 5 ∨ c = .fenceNotice m ∧ op = 6) →
    s.wyv.notices.contains (noticeKey { m with op := op }) = true → ∃ t, exec c s = .next t ∧
    t = { s with wyv := { s.wyv with rx := s.wyv.rx.erase { m with op := op } } }) ∧
  (∀ s m c op, (c = .nodeUnavailableNotice m ∧ op = 1 ∨ c = .fenceNotice m ∧ op = 6) → s.wyv.notices.contains (noticeKey { m with op := op }) = false →
    ofTwin m = false → ∃ t, exec c s = .next t ∧ nodeDown t (noticeNode m) = true ∧ (∀ r ∈ t.wyv.requests, r.dst = noticeNode m → r.plane = 2) ∧
    noticeKey { m with op := op } ∈ t.wyv.notices ∧ (∀ n, nodeDown s n = true → nodeDown t n = true) ∧ nodeFrame s t) ∧
  (∀ s m, s.wyv.notices.contains (noticeKey { m with op := 3 }) = false → ofTwin m = false → ∃ t, exec (.nodeLostNotice m) s = .next t ∧
    t.wyv.lost.contains (noticeNode m) = true ∧ (∀ r ∈ t.wyv.requests, r.dst = noticeNode m → r.plane = 2) ∧
    (∀ r ∈ t.wyv.requests, r.dst ≠ noticeNode m → r.reissued = true) ∧ noticeKey { m with op := 3 } ∈ t.wyv.notices ∧ nodeFrame s t) ∧
  (∀ s m, s.wyv.notices.contains (noticeKey { m with op := 2 }) = false → ofTwin m = false → ∃ t, exec (.nodeAvailableNotice m) s = .next t ∧
    nodeDown t (noticeNode m) = false ∧ (∀ n, n ≠ noticeNode m → nodeDown t n = nodeDown s n) ∧ noticeKey { m with op := 2 } ∈ t.wyv.notices ∧
    t.wyv.requests = s.wyv.requests ∧ t = { s with wyv := t.wyv, dict := t.dict } ∧ objsBut [(0x4002, 1), (0x4002, 3), (0x4002, 4)] s t) ∧
  (∀ s m c op, (c = .nodeUnavailableNotice m ∧ op = 1 ∨ c = .fenceNotice m ∧ op = 6 ∨ c = .nodeLostNotice m ∧ op = 3) →
    s.wyv.notices.contains (noticeKey { m with op := op }) = false → ofTwin m = true → noticeNode m = ownNode s → ∃ t, exec c s = .next t ∧
    (∀ g ∈ s.tier.regions, g.homed = false → { g with homed := true, mirrored := false, unprotected := true, taken := true } ∈ t.tier.regions) ∧
    (∀ g ∈ t.tier.regions, g.homed = true) ∧ (∀ o ∈ t.sync.objs, o.homed = true) ∧
    t.wyv.unavailable = s.wyv.unavailable ∧ t.wyv.lost = s.wyv.lost ∧ noticeKey { m with op := op } ∈ t.wyv.notices ∧
    t.nand.pages = s.nand.pages ∧ t.fw = s.fw ∧ t.mgmt = s.mgmt ∧ t.thr = s.thr) ∧
  (∀ s m c op, (c = .nodeAvailableNotice m ∧ op = 2 ∨ c = .nodeUnavailableNotice m ∧ op = 1 ∨ c = .fenceNotice m ∧ op = 6 ∨
      c = .nodeLostNotice m ∧ op = 3) → s.wyv.notices.contains (noticeKey { m with op := op }) = false → ofTwin m = true →
    (op = 2 ∨ noticeNode m ≠ ownNode s) → ∃ t, exec c s = .next t ∧ noticeKey { m with op := op } ∈ t.wyv.notices ∧
    messagesSent { s with wyv := { s.wyv with rx := t.wyv.rx, notices := t.wyv.notices }
                          dict := { s.dict with vals := if op = 3 then (bump 0x4002 7 s).dict.vals else s.dict.vals } } t ∧
    t = { s with wyv := t.wyv, dict := t.dict }) ∧
  (∀ s m c op, (c = .planeLostNotice m ∧ op = 4 ∨ c = .planeRestoredNotice m ∧ op = 5) → s.wyv.notices.contains (noticeKey { m with op := op }) = false →
    ∃ t, exec c s = .next t ∧ noticeKey { m with op := op } ∈ t.wyv.notices ∧
    messagesSent { s with wyv := { s.wyv with rx := t.wyv.rx, notices := t.wyv.notices } } t ∧ t = { s with wyv := t.wyv, dict := t.dict })

/-- R182, R374, R376, R391: a node that declares a neighbour lost treats it so and floods the Notice; fencing marks the node and isolates every
port, and ends its coherent accesses; a port is isolated and released by command; a drain begins, and ends at once where the node holds no
placed tile. The model reads what the manual leaves open here as log entries 49 and 54 say. -/
def Obligations.NodesFencesPortsAndDrains : Prop :=
  (∀ s n, ∃ t, exec (.nodeLostDeclare n) s = .next t ∧ t.wyv.lost.contains n = true ∧ (3, n) ∈ t.wyv.notices ∧
    (∀ r ∈ t.wyv.requests, r.dst = n → r.plane = 2) ∧ (∀ r ∈ t.wyv.requests, r.dst ≠ n → r.reissued = true) ∧ nodeFrame s t) ∧
  (∀ s, s.pwr.ps < 3 → ∃ t, exec .nodeFence s = .next t ∧ obj t 0x2202 5 = 1 ∧ (∀ r ∈ t.wyv.requests, r.plane ≠ 2) ∧
    (∀ p ≤ 13, portCabled s p = true → obj t (0x4010 + p) 1 = 4 ∧ obj t (0x4010 + p) 10 = 4 ∧ (p, .isolation) ∈ t.wyv.ctl) ∧
    (∀ r ∈ s.wyv.requests, ∀ j x, r.plane = 2 → r.mirrors = false → (∀ node k fn, r.who ≠ .remote node k fn) → findJob s r.job = some j →
      inflight? s j.fn j.sq j.cid = some x → ∃ e ∈ t.host.cqes, e.fn = j.fn ∧ e.sq = j.sq ∧ e.cid = j.cid) ∧ nodeFrame s t) ∧
  (∀ s p, p ≤ 13 → ∃ t, exec (.portIsolate p) s = .next t ∧ obj t (0x4010 + p) 1 = 4 ∧ obj t (0x4010 + p) 10 = 1 ∧
    (portCabled s p = true → (p, .isolation) ∈ t.wyv.ctl) ∧ (portCabled s p = false → t.wyv.ctl = s.wyv.ctl) ∧
    (∀ x ∈ t.wyv.held, x.1 ≠ p) ∧ t.dict.lastStatus = 0 ∧
    (p < 12 → t = { s with wyv := t.wyv, dict := t.dict } ∧
      (∀ i j, j < 256 → i ≠ 0x4002 → i ≠ 0x4100 → i ≠ 0x4010 + p → obj t i j = obj s i j)) ∧
    (12 ≤ p → (∀ g ∈ t.tier.regions, g.homed = true → g.mirrored = true → g.unprotected = true) ∧
      t.nand = s.nand ∧ t.blk = s.blk ∧ t.arr = s.arr ∧ t.fw = s.fw ∧ t.mgmt = s.mgmt)) ∧
  (∀ s p, p ≤ 13 → obj s (0x4010 + p) 1 = 4 → ∃ t, exec (.portRelease p) s = .next t ∧ obj t (0x4010 + p) 1 = boolNat (portCabled s p) ∧
    obj t (0x4010 + p) 10 = 0 ∧ t.dict.lastStatus = 0 ∧ t = { s with dict := t.dict } ∧
    (∀ i j, j < 256 → (i, j) ≠ (0x4010 + p, 1) → (i, j) ≠ (0x4010 + p, 10) → obj t i j = obj s i j)) ∧
  (∀ s, ∃ t, exec .nodeDrain s = .next t ∧ obj t 0x4003 2 = (if holdsPlaced s then 1 else 0) ∧ t.dict.lastStatus = 0 ∧
    (holdsPlaced s = false → ∀ a ∈ t.dict.acting, ¬(a.kind = 2 ∧ a.no = 0)) ∧ (∀ i j, j < 256 → (i, j) ≠ (0x4003, 2) → obj t i j = obj s i j) ∧
    t.blk = s.blk ∧ t.nand = s.nand ∧ t.tier = s.tier ∧ t.arr = s.arr ∧ t.jobs = s.jobs ∧ t.wyv = s.wyv) ∧
  (∀ s, ∃ t, exec .nodeEndDrain s = .next t ∧ obj t 0x4003 2 = 0 ∧ t.dict.lastStatus = 0 ∧ (∀ a ∈ t.dict.acting, ¬(a.kind = 2 ∧ a.no = 0)) ∧
    (∀ i j, j < 256 → (i, j) ≠ (0x4003, 2) → obj t i j = obj s i j) ∧
    t.blk = s.blk ∧ t.nand = s.nand ∧ t.tier = s.tier ∧ t.arr = s.arr ∧ t.jobs = s.jobs ∧ t.wyv = s.wyv)

/-- R363 to R367, R374, R375: the link layer and the ports. A data flit in sequence advances its port and delivers what is for this node, a bad
one asks for a replay; acknowledged flits leave the replay buffer and credits come back; signal starts training, training brings a port up,
a retrain request starts it over, a partner's isolation and a loss of lock take it down; a lost plane leaves all to the other; control flits
are sent at their interval. The model reads what the manual leaves open here as log entries 23 and 49 say. -/
def Obligations.LinkLayerAndPorts : Prop :=
  (∀ s p h msgs x mine, portUp s p = true → port? s p = some x → h.crcOk = true → h.seq = x.rxSeq →
    mine = (msgs.filter fun m => decide (12 ≤ p) || m.dst == ownNode s) → ∃ t y, exec (.dataFlit p h msgs) s = .next t ∧
    port? t p = some y ∧ y.rxSeq = (x.rxSeq + 1) % 65536 ∧ y.replaying = false ∧ kvGet 0 y.owed h.vc = kvGet 0 x.owed h.vc + 1 ∧
    t.wyv.rx = s.wyv.rx ++ mine.map (fun m => { m with port := p, poisonMask := m.poisonMask ||| h.parity % 2 ^ 64 }) ∧
    (mine ≠ [] → obj t 0x4002 2 = (obj s 0x4002 2 + mine.length) % 2 ^ 64) ∧
    (h.parity = 0 → t.integ = s.integ) ∧ (h.parity ≠ 0 → obj t 0x2302 3 = (obj s 0x2302 3 + 1) % 2 ^ 64) ∧
    t = { s with wyv := t.wyv, dict := t.dict, integ := t.integ }) ∧
  (∀ s p h msgs x, portUp s p = true → port? s p = some x → (h.crcOk = false ∨ h.seq ≠ x.rxSeq ∧ x.replaying = false) →
    ∃ t y, exec (.dataFlit p h msgs) s = .next t ∧ port? t p = some y ∧ y.replaying = true ∧ y.rxSeq = x.rxSeq ∧
    t.wyv.ctl = s.wyv.ctl ++ [(p, .header)] ∧ t.wyv.rx = s.wyv.rx ∧ t = { s with wyv := t.wyv, dict := t.dict } ∧
    (h.crcOk = false → t.wyv.tx = s.wyv.tx ∧ t.dict = s.dict)) ∧
  (∀ s p h x, portUp s p = true → port? s p = some x → h.crcOk = true → ∃ t y rest, exec (.idleFlit p h) s = .next t ∧
    rest = x.replay.filter (fun r => decide (32768 ≤ (h.ackSeq + 65536 - r.1) % 65536)) ∧ port? t p = some y ∧ y.rxSeq = x.rxSeq ∧
    y.replaying = (x.replaying || h.seq != x.rxSeq) ∧ t.wyv.rx = s.wyv.rx ∧
    t.wyv.ctl = s.wyv.ctl ++ (if h.seq ≠ x.rxSeq ∧ x.replaying = false then [(p, .header)] else []) ∧
    ((∀ z ∈ s.wyv.held, z.1 ≠ p) →
      y = { x with replay := rest, credits := kvPut 0 x.credits h.creditVc (kvGet 0 x.credits h.creditVc + h.creditCount), replaying := y.replaying } ∧
      t.wyv.tx = s.wyv.tx ++ (if h.nak then rest.flatMap fun r => r.2.map fun m => (p, m) else []) ∧ t.wyv.held = s.wyv.held ∧
      objsBut [(0x4010 + p, 7)] s t) ∧
    (h.nak = true → p ≤ 13 → obj t (0x4010 + p) 7 = (obj s (0x4010 + p) 7 + 1) % 2 ^ 64) ∧
    t = { s with wyv := t.wyv, dict := t.dict }) ∧
  (∀ s p, p ≤ 13 → (obj s (0x4010 + p) 1 = 0 ∨ obj s (0x4010 + p) 1 = 6) → ∃ t, exec (.opticalSignalDetected p) s = .next t ∧
    obj t (0x4010 + p) 1 = 1 ∧ (∀ x, port? s p = some x → port? t p = some { x with cabled := true }) ∧
    t = { s with wyv := { s.wyv with ports := t.wyv.ports }, dict := t.dict } ∧ objsBut [(0x4010 + p, 1)] s t) ∧
  (∀ s p lanes delay asym x, p ≤ 13 → (obj s (0x4010 + p) 1 = 1 ∨ portUp s p = true) → port? s p = some x →
    ∃ t y, exec (.portTrainingDone p lanes ⟨delay, asym⟩) s = .next t ∧
    obj t (0x4010 + p) 1 = (if lanes % 256 = 255 then 2 else if lanes % 16 = 15 ∨ lanes / 16 % 16 = 15 then 3 else 6) ∧
    obj t (0x4010 + p) 6 = lanes % 256 ∧ obj t (0x4010 + p) 5 = delay % 2 ^ 32 ∧
    port? t p = some y ∧ y.rxSeq = 0 ∧ y.replaying = false ∧ y.owed = [] ∧ y.asym = asym ∧ y.cabled = true ∧
    (∀ vc < 8, kvGet 0 y.share vc = obj s 0x4001 (vc + 1)) ∧
    (laneStatus lanes = 6 ∨ x.replay = [] ∧ p < 12 ∧ (∀ h ∈ s.wyv.held, h.1 ≠ p) ∧ p / 6 ∉ s.wyv.planesLost → y.txSeq = 0 ∧ y.replay = [] ∧
      ∀ vc < 8, kvGet 0 y.credits vc = obj s 0x4001 (vc + 1)) ∧
    (laneStatus lanes ≠ 6 → (p, .identity (ownIdentity s p)) ∈ t.wyv.ctl ∧
      (∀ c, p < 12 → s.wyv.coord = some c → (p, .claim c.1 c.2.1 c.2.2 p) ∈ t.wyv.ctl) ∧ (p < 12 → p / 6 ∉ t.wyv.planesLost) ∧
      (12 ≤ p → twinned s = true → ∀ r ∈ t.tier.regions, r.homed = true → r.mirrored = true)) ∧
    t.wyv.rx = s.wyv.rx ∧ (p < 12 → t = { s with wyv := t.wyv, dict := t.dict }) ∧ t = { s with
      wyv := t.wyv
      dict := t.dict
      integ := t.integ
      sync := t.sync
      tier := { s.tier with regions := t.tier.regions, stale := t.tier.stale } }) ∧
  (∀ s p, p ≤ 13 → (portUp s p = true ∨ obj s (0x4010 + p) 1 = 5) → ∃ t, exec (.retrainRequest p) s = .next t ∧ obj t (0x4010 + p) 1 = 1 ∧ t = { s with dict := t.dict } ∧
    objsBut [(0x4010 + p, 1)] s t) ∧
  (∀ s p, p ≤ 13 → obj s (0x4010 + p) 1 ≠ 4 → obj s (0x4010 + p) 1 ≠ 0 → ∃ t, exec (.isolationFlit p) s = .next t ∧ obj t (0x4010 + p) 1 = 5 ∧
    t = { s with dict := t.dict } ∧ (∀ i j, j < 256 → (i, j) ≠ (0x4010 + p, 1) → i ≠ 0x4100 → obj t i j = obj s i j)) ∧
  (∀ s p x downs, p ≤ 13 → (portUp s p = true ∨ obj s (0x4010 + p) 1 = 5 ∨ obj s (0x4010 + p) 1 = 1) → port? s p = some x →
    downs = s.time :: x.downs.filter (fun k => decide (s.time < k + 10000000000)) → ∃ t, exec (.wyvasLinkDown p) s = .next t ∧
    obj t (0x4010 + p) 8 = (obj s (0x4010 + p) 8 + 1) % 2 ^ 32 ∧
    (downs.length < obj s 0x4001 9 → obj t (0x4010 + p) 1 = 6) ∧
    (obj s 0x4001 9 ≤ downs.length → obj t (0x4010 + p) 1 = 4 ∧ obj t (0x4010 + p) 10 = 3) ∧
    (p < 12 → (∃ r ∈ t.integ.log, r.source = 5 ∧ r.cls = 6 ∧ r.unit = p ∧ r.first = s.time) ∧ t.tier = s.tier) ∧
    (12 ≤ p → (∀ r ∈ t.tier.regions, r.homed = true → r.mirrored = true → r.unprotected = true) ∧
      (portUp t 12 = false → portUp t 13 = false → ∀ r ∈ t.tier.regions, r.homed = true → r.mirrored = false)) ∧
    t = { s with
      wyv := t.wyv
      dict := t.dict
      integ := t.integ
      jobs := t.jobs
      tier := { s.tier with regions := t.tier.regions, stale := t.tier.stale } }) ∧
  (∀ s plane, plane ≤ 1 → plane ∉ s.wyv.planesLost → (∀ k < 6, portUp s (plane * 6 + k) = false) → (∃ k < 6, portCabled s (plane * 6 + k) = true) →
    ∃ t, exec (.planeLost plane) s = .next t ∧ t.wyv.planesLost = s.wyv.planesLost ++ [plane] ∧
    (s.wyv.planesLost = [] → ∀ m, sourcePlane t m = 1 - plane) ∧
    messagesSent { s with wyv := { s.wyv with planesLost := s.wyv.planesLost ++ [plane] } } t ∧
    (∃ r ∈ t.integ.log, r.source = 5 ∧ r.cls = 6 ∧ r.unit = plane * 6) ∧ t = { s with wyv := t.wyv, dict := t.dict, integ := t.integ }) ∧
  (∀ s p kind, p ≤ 13 → (kind = 1 ∧ (portUp s p = true ∨ obj s (0x4010 + p) 1 = 1) ∨
      kind = 2 ∧ (portUp s p = true ∨ obj s (0x4010 + p) 1 = 1) ∧ p < 12 ∧ s.wyv.coord ≠ none ∨ kind = 3 ∧ portUp s p = true ∨
      kind = 4 ∧ obj s (0x4010 + p) 1 = 4 ∧ portCabled s p = true ∨ kind = 5 ∧ obj s (0x4010 + p) 1 = 1) → ∃ t f, exec (.controlFlitInterval p kind) s = .next t ∧
    t = { s with wyv := { s.wyv with ctl := s.wyv.ctl ++ [(p, f)] } } ∧ (kind = 1 → ∃ i, f = .identity i ∧ i.serial = ownSerial s ∧
      i.port = p ∧ i.seed = s.wyv.seed ∧ i.seedSerial = (if s.wyv.seed then some (ownSerial s) else s.wyv.seedSerial) ∧
      i.nodeId = (if ownNode s = 0xFFFF then none else some (ownNode s))) ∧
    (∀ c, kind = 2 → s.wyv.coord = some c → f = .claim c.1 c.2.1 c.2.2 p) ∧ (kind = 3 → f = .time) ∧ (kind = 4 → f = .isolation) ∧
    (kind = 5 → f = .retrain))

/-- R33, R172, R379, R386 to R389: discovery. An identity flit records the neighbour, isolates a link that breaks the cabling rule and forms the
twinned pair; a claim is kept, and one that contradicts the node's coordinate isolates its port; the node adopts the coordinate implied on
the most ports, ties to the lowest port; a ready report is counted at the seed; system-ready begins placement and stores the release time.
R380 to R384: an exchange of time flits gives the link delay and, over the parent port, the offset; the first steps fabric time to the
parent's and locks, later ones lock within 0.5 ns and lose lock outside it; the timer sends a flit on every port that is up; a mismatch is
logged. The model reads what the manual leaves open here as log entries 3, 38, 39, 49 and 82 say. -/
def Obligations.DiscoveryAndFabricTime : Prop :=
  (∀ s p i, p ≤ 13 → obj s (0x4010 + p) 1 ≠ 0 → ∃ t, exec (.identityFlit p i) s = .next t ∧
    obj t (0x4010 + p) 2 = i.nodeId.getD 0xFFFF % 2 ^ 16 ∧ obj t (0x4010 + p) 3 = i.port % 2 ^ 8 ∧ obj t (0x4010 + p) 4 = i.serial % 2 ^ 160 ∧
    (cablingOk p i.port = false → obj t (0x4010 + p) 1 = 4 ∧ obj t (0x4010 + p) 10 = 2) ∧
    (cablingOk p i.port = true → 12 ≤ p → (∀ n, i.nodeId = some n → n = ownNode s → n ≠ 0 → obj t 0x4000 9 = 1) ∧
      (∀ n, i.nodeId = some n → n ≠ ownNode s → ownNode s ≠ 0xFFFF → obj t (0x4010 + p) 1 = 4 ∧ obj t (0x4010 + p) 10 = 5) ∧
      (i.nodeId = some 0 → ownNode s = 0 → if (s.tier.regions.any (·.no == 254)) = true ∧ twinned s = false then
        obj t 0x4022 1 = 4 ∧ obj t 0x4023 1 = 4 ∧ obj t 0x4022 10 = 5 ∧ obj t 0x4023 10 = 5 else obj t 0x4000 9 = 1)) ∧
    (p < 12 → t = { s with wyv := t.wyv, dict := t.dict, integ := t.integ }) ∧ t = { s with
      wyv := t.wyv
      dict := t.dict
      integ := t.integ
      jobs := t.jobs
      sync := t.sync
      tier := { s.tier with regions := t.tier.regions, stale := t.tier.stale } }) ∧
  (∀ p q, p ≤ 13 → q ≤ 13 → (cablingOk p q = true ↔ (12 ≤ p ∧ q = p) ∨ (p < 12 ∧ q < 12 ∧ p / 2 = q / 2 ∧ p ≠ q))) ∧
  (∀ s p x y z q c, p ≤ 11 → (portUp s p = true ∨ obj s (0x4010 + p) 1 = 1) → c = stepCoord s.wyv.extents (x, y, z) q →
    (s.wyv.coord = none → ∃ t, exec (.coordinateClaim p x y z q) s = .next t ∧
      t = { s with wyv := { s.wyv with claims := s.wyv.claims.filter (·.port != p) ++ [{ port := p, x := c.1, y := c.2.1, z := c.2.2 }] } }) ∧
    (∀ a k, s.wyv.coord = some a → (∀ z ∈ s.wyv.claims, z.port < 12) → k = { port := p, x := c.1, y := c.2.1, z := c.2.2 } → ∃ t, exec (.coordinateClaim p x y z q) s = .next t ∧
      t.wyv.coord = some a ∧ t.wyv.claims = s.wyv.claims.filter (·.port != p) ++ [k] ∧ t.tier = s.tier ∧ t.jobs = s.jobs ∧ t.host = s.host ∧
      (p < 6 → c = a → t = { s with wyv := { s.wyv with claims := t.wyv.claims } }) ∧
      (p < 6 → c ≠ a → obj t (0x4010 + p) 1 = 4 ∧ obj t (0x4010 + p) 10 = 2) ∧
      (6 ≤ p → ∀ w, majority (t.wyv.claims.filter fun z => decide (6 ≤ z.port)) = some w → t.wyv.weftCoord = some w ∧
        (w = a → c ≠ a → obj t (0x4010 + p) 1 = 4 ∧ obj t (0x4010 + p) 10 = 2) ∧
        (w ≠ a → ∀ z < 6, portCabled s (6 + z) = true → obj t (0x4010 + (6 + z)) 1 = 4 ∧ obj t (0x4010 + (6 + z)) 10 = 2)))) ∧
  (∀ cs c, majority cs = some c → (∃ d ∈ cs, d.coord = c) ∧
    ∀ d ∈ cs, (cs.filter fun k => k.coord == d.coord).length ≤ (cs.filter fun k => k.coord == c).length) ∧
  (∀ s c, s.wyv.coord = none → (∀ k ∈ s.wyv.claims, k.port < 12) → majority (s.wyv.claims.filter fun k => decide (k.port < 6)) = some c ∨
      (∀ k ∈ s.wyv.claims, 6 ≤ k.port) ∧ majority s.wyv.claims = some c → ∃ t, exec .claimAdoption s = .next t ∧
    t.wyv.coord = some c ∧ obj t 0x4000 6 = nodeOf c.1 c.2.1 c.2.2 % 2 ^ 16 ∧
    (∀ k ∈ s.wyv.claims, k.port < 6 → k.coord ≠ c → obj t (0x4010 + k.port) 1 = 4 ∧ obj t (0x4010 + k.port) 10 = 2) ∧
    t = { s with wyv := t.wyv, dict := t.dict, integ := t.integ }) ∧
  (∀ s n, s.wyv.seed = true → nodeNamed s n = true → n ∉ s.wyv.readyNodes → ∃ t, exec (.readyReport n) s = .next t ∧
    t = { s with wyv := { s.wyv with readyNodes := s.wyv.readyNodes ++ [n] } }) ∧
  (∀ s, s.wyv.systemReady = false → s.wyv.coord ≠ none →
    (s.wyv.seed = true → s.wyv.readyNodes.length = systemNodes s ∨ s.wyv.late = true ∧ systemNodes s ≠ 1) →
    ∃ t, exec .systemReady s = .next t ∧ t.wyv.systemReady = true ∧ t.wyv.rejoining = false ∧ t.wyv.late = false ∧
    t.time = (if s.wyv.seed then s.time + 1000000000 else s.time) ∧ obj t 0x4000 8 = t.time % 2 ^ 64 ∧ (obj s 0x4000 7 ≤ 7 → obj t 0x4000 7 = 7) ∧
    (s.wyv.seed = false → t.tier = s.tier) ∧
    (s.wyv.seed = false → s.wyv.late = false → t = { s with wyv := { s.wyv with systemReady := true, rejoining := false }, dict := t.dict }) ∧
    (∀ b, s.wyv.seed = true → (∀ r ∈ s.tier.regions, r.no ≠ rimNo s) → lowestBase s.tier.regions 1 = some b → t.tier.regions = s.tier.regions ++
      [{ no := rimNo s, base := b, len := 1, homed := true, mirrored := twinned s, unprotected := false, single := false }])) ∧
  (∀ s p t1 t2 t3 t4, p ≤ 13 → portUp s p = true → ∃ t, exec (.timeExchange p t1 t2 t3 t4) s = .next t ∧
    obj t (0x4010 + p) 5 = (halfDiff t4 t1 t3 t2 - laneAsym s p).toNat % 2 ^ 32 ∧
    (ownNode s = 0xFFFF → t = { s with dict := t.dict } ∧ objsBut [(0x4010 + p, 5)] s t) ∧
    (ownNode s ≠ 0xFFFF → (timeRoot s ≠ ownNode s ∧ obj s 0x4100 6 = p) ∨ (ownNode s = 0 ∧ secondary s = true ∧ 12 ≤ p) →
      obj t 0x4100 7 = i32 (halfDiff t2 t1 t4 t3) % 2 ^ 32 ∧
      (s.wyv.everLocked = false → t.time = (s.time + halfDiff t2 t1 t4 t3 / 1000 : Int).toNat ∧ obj t 0x4100 3 = 1 ∧ t.wyv.everLocked = true ∧
        t.wyv.late = false) ∧
      (s.wyv.everLocked = true → t.time = s.time ∧ t.wyv = s.wyv ∧
        (withinLock (halfDiff t2 t1 t4 t3) = true → obj t 0x4100 3 = 1 ∧ obj t 0x4100 11 = obj s 0x4100 11) ∧
        (withinLock (halfDiff t2 t1 t4 t3) = false → obj s 0x4100 3 = 1 → obj t 0x4100 3 = 0 ∧ obj t 0x4100 11 = (obj s 0x4100 11 + 1) % 2 ^ 32)) ∧
      (-10000 ≤ sint 32 (obj t 0x4100 8) ∧ sint 32 (obj t 0x4100 8) ≤ 10000)) ∧
    (ownNode s ≠ 0xFFFF → timeRoot s ≠ ownNode s → obj s 0x4100 6 ≠ p → ¬(ownNode s = 0 ∧ secondary s = true ∧ 12 ≤ p) →
      leastDeep s (timeRoot s) 1 = some p →
      obj t 0x4100 9 = i32 (sint 32 (obj s 0x4100 7) - halfDiff t2 t1 t4 t3) % 2 ^ 32 ∧ objsBut [(0x4010 + p, 5), (0x4100, 9)] s t) ∧
    t = { s with wyv := t.wyv, dict := t.dict, time := t.time, free := t.free }) ∧
  (∀ s, ∃ t, exec .timeExchangeTimer s = .next t ∧
    t = { s with wyv := { s.wyv with ctl := s.wyv.ctl ++ ((List.range 14).filter (portUp s)).map fun p => (p, .time) } }) ∧
  (∀ s, ∃ t, exec .timeMismatch s = .next t ∧ (∃ r ∈ t.integ.log, r.source = 5 ∧ r.cls = 5 ∧ r.unit = obj s 0x4100 6 ∧ r.first = s.time) ∧
    t = { s with integ := t.integ })

/-- R411 to R417, R425: resets. A module restart by any of its three rows stops every queue, empties the Pail while the main rails are on,
leaves them as they are and begins start-up in PS0, recording its cause; a fabric node reset forgets the fabric side and trains the cabled
ports again; PERST_N, a function-level reset and a controller reset stop the functions they name without completions. The model reads what
the manual leaves open here as log entries 14, 47, 48, 59 and 60 say. -/
def Obligations.ResetsStopWhatTheyName : Prop :=
  (∀ s c k, (c = .nvmSubsystemReset ∧ k = 7 ∨ c = .moduleRestartCommand ∧ k = 8 ∨ c = .hoopWatchdogExpiry ∧ k = 4) → ∃ t, exec c s = .next t ∧
    t.host.sqs = [] ∧ t.host.inflight = [] ∧ t.jobs.jobs = [] ∧ t.pwr.ps = 0 ∧ t.pwr.starting = true ∧ t.pwr.booted = false ∧
    t.pwr.mainRails = s.pwr.mainRails ∧ t.pwr.inputPresent = s.pwr.inputPresent ∧ t.thr = ladderTop ∧ t.mgmt.straps = s.mgmt.straps ∧
    (s.pwr.mainRails = true → t.blk.pail = []) ∧ obj t 0x1300 1 = k ∧ obj t 0x1300 2 = 0 ∧ t.time = 0 ∧ obj t 0x1010 5 = 4 ∧
    live t 0x1110 1 = s.mgmt.straps % 8 + 1 ∧ t.host.linkUp = false ∧ t.host.cqs = [] ∧ (∀ n < 64, ctrl t n = some (ctrlReset n)) ∧ t.dict.queue = [] ∧
    t.dict.pendingWrite = none ∧ t.mgmt.kept = [] ∧ t.wyv.requests = [] ∧ t.nand.started = false ∧ t.pwr.hint = 0) ∧
  (∀ s, ∃ t, exec .fabricNodeReset s = .next t ∧ t.wyv.rejoining = true ∧ t.wyv.late = true ∧ t.wyv.requests = [] ∧ t.wyv.keptResp = [] ∧ t.wyv.held = [] ∧
    (∀ x ∈ s.wyv.ports, x.cabled = true → x.no ≤ 13 → obj t (0x4010 + x.no) 1 = 1) ∧ obj t 0x1300 1 = 5 ∧ obj t 0x1010 5 = 5 ∧ t.dict.lastStatus = 0 ∧
    pagesReleased s t ∧ t.fw = s.fw ∧ t.mgmt = s.mgmt ∧ t.thr = s.thr ∧ t.time = 0) ∧
  (∀ s, s.host.perst = false → ∃ t, exec .perstNAssert s = .next t ∧ t.host.perst = true ∧ t.host.linkUp = false ∧ t.host.cqes = s.host.cqes ∧
    (∀ q ∈ t.host.sqs, 64 ≤ q.fn) ∧ (∀ q ∈ t.host.cqs, 64 ≤ q.fn) ∧ (∀ x ∈ t.host.inflight, 64 ≤ x.fn) ∧ (∀ h ∈ t.retr.handles, 64 ≤ h.fn) ∧
    (∀ o ∈ t.jobs.outputs, 64 ≤ o.fn) ∧ (∀ n c, n < 64 → ctrl s n = some c → ctrl t n = some { ctrlReset n with auditLog := c.auditLog, flexVectors := c.flexVectors }) ∧
    obj t 0x1200 1 = 0 ∧ obj t 0x1200 2 = 0 ∧ obj t 0x1200 5 = obj s 0x1200 5 ∧ obj t 0x1300 1 = 1 ∧ obj t 0x1010 5 = 1 ∧ pagesReleased s t) ∧
  (∀ s, s.host.perst = true → exec .perstNAssert s = .next s) ∧
  (∀ s fn, fn < 64 → ∃ t, exec (.functionLevelReset fn) s = .next t ∧ t.host.cqes = s.host.cqes ∧
    (∀ k < 64, k = fn ∨ fn = 0 → (∀ q ∈ t.host.sqs, q.fn ≠ k) ∧ (∀ q ∈ t.host.cqs, q.fn ≠ k) ∧ (∀ x ∈ t.host.inflight, x.fn ≠ k) ∧
      (∀ h ∈ t.retr.handles, h.fn ≠ k) ∧ (∀ o ∈ t.jobs.outputs, o.fn ≠ k)) ∧
    (∀ q ∈ s.host.sqs, q.fn ≠ fn → fn ≠ 0 → q ∈ t.host.sqs) ∧ obj t 0x1300 1 = 2 ∧ obj t 0x1010 5 = 2 ∧ pagesReleased s t) ∧
  (∀ s fn c, ctrl s fn = some c → c.enabled = true → ∃ t, exec (.controllerReset fn) s = .next t ∧ t.host.cqes = s.host.cqes ∧
    ctrl t fn = some { ctrlReset fn with auditLog := c.auditLog, flexVectors := c.flexVectors } ∧
    (∀ q ∈ t.host.sqs, q.fn ≠ fn) ∧ (∀ q ∈ t.host.cqs, q.fn ≠ fn) ∧ (∀ x ∈ t.host.inflight, x.fn ≠ fn) ∧
    (∀ q ∈ s.host.sqs, q.fn ≠ fn → q ∈ t.host.sqs) ∧ obj t 0x1300 1 = 3 ∧ obj t 0x1010 5 = 3 ∧ pagesReleased s t)

/-- R40, R41, R73, R411: the host link comes up with its rate, width and FLIT mode and goes down counted; a controller is enabled with its admin
queues, ready once Basic storage is; a shutdown completes at once where nothing waits for flash and otherwise drains first. The model reads
what the manual leaves open here as log entries 10, 14 and 60 say. -/
def Obligations.HostLinkAndControllers : Prop :=
  (∀ s rate width flit, s.host.perst = false → s.pwr.mainRails = true → rate ∈ [2, 5, 8, 16, 32, 64, 128] → width ∈ [1, 2, 4, 8] →
    ∃ t, exec (.hostLinkUp rate width flit) s = .next t ∧ t.host = { s.host with linkUp := true } ∧ obj t 0x1200 1 = rate ∧ obj t 0x1200 2 = width ∧
    obj t 0x1200 3 = (if 64 ≤ rate ∨ flit = true then 1 else 0) ∧ obj t 0x1200 4 = (if rate < 32 ∨ width < 4 then 1 else 0) ∧
    t = { s with host := t.host, dict := t.dict } ∧ objsBut [(0x1200, 1), (0x1200, 2), (0x1200, 3), (0x1200, 4)] s t) ∧
  (∀ s, s.host.linkUp = true → ∃ t, exec .hostLinkDown s = .next t ∧ t.host = { s.host with linkUp := false } ∧
    obj t 0x1200 5 = (obj s 0x1200 5 + 1) % 2 ^ 32 ∧ obj t 0x1200 1 = 0 ∧ obj t 0x1200 2 = 0 ∧ obj t 0x1200 3 = 0 ∧ obj t 0x1200 4 = 0 ∧
    t = { s with host := t.host, dict := t.dict } ∧ objsBut [(0x1200, 1), (0x1200, 2), (0x1200, 3), (0x1200, 4), (0x1200, 5)] s t) ∧
  (∀ s, exec .perstNDeassert s = .next { s with host := { s.host with perst := false } }) ∧
  (∀ s fn c a b ams, ctrl s fn = some c → c.enabled = false → s.host.perst = false → s.pwr.mainRails = true → ∃ t, exec (.controllerEnable fn ⟨a, b⟩ ams) s = .next t ∧
    ctrl t fn = some { c with enabled := true, ready := storageReady s, ams := ams } ∧ (∀ k, k ≠ fn → ctrl t k = ctrl s k) ∧
    t.host.sqs = s.host.sqs ++ [{ fn := fn, id := 0, cq := 0, size := max 2 (min 4096 a), prio := 0, head := 0, tail := 0, waiting := [], frozen := false }] ∧
    t.host.cqs = s.host.cqs ++ [{ fn := fn, id := 0, size := max 2 (min 4096 b), vector := 0 }] ∧
    t = { s with host := { s.host with ctrls := t.host.ctrls, sqs := t.host.sqs, cqs := t.host.cqs } }) ∧
  (∀ s fn c, ctrl s fn = some c → c.enabled = true → c.shst = 0 → ∃ t, exec (.shutdownNotification fn) s = .next t ∧
    (∃ k, ctrl t fn = some k ∧ k.enabled = true ∧
      (s.blk.pail = [] → uncommittedEntries s.blk = [] → s.blk.gcBuf = [] → s.blk.victim = none → k.shst = 2) ∧
      (∀ p ∈ s.blk.pail, p.phase ≠ 2 → k.shst = 1 ∧ ∃ q ∈ t.blk.pail, q.lpn = p.lpn)) ∧
    t.nand.pages = s.nand.pages ∧ t.tier = s.tier ∧ t.arr = s.arr)

/-- R74 to R76, R419: Set Features Power Management on function 0 moves the module to the state it names and completes with Success; PS2 is
Basic mode, PS0 and PS1 leave it; PS3 and PS4 are refused while an I/O command is outstanding, and PS4 drains the Pail and takes every link
down; another function may not change the power state. The model reads what the manual leaves open here as log entries 10, 14 and 54 say. -/
def Obligations.PowerStatesByFeature : Prop :=
  (∀ s e c n, (c = .enterPs0 e ∧ n = 0 ∨ c = .enterPs1 e ∧ n = 1 ∨ c = .enterPs2 e ∧ n = 2 ∨ c = .enterPs3 e ∧ n = 3 ∨ c = .enterPs4 e ∧ n = 4) →
    adminReady e 0x09 s → e.cdw10 % 256 = 2 → bitOf e.cdw10 31 = false → e.cdw11 % 32 = n →
    e.cdw11 / 32 % 8 ≤ 2 → (∀ k, ctrl s e.fn = some k → e.cid ∉ k.aers) →
    (e.fn = 0 → (3 ≤ n → ∀ y ∈ s.host.inflight, y.sq = 0 ∧ y.lpns = []) → ∃ t l, exec c s = .next t ∧
      t.host.cqes = s.host.cqes ++ l ++ [cqeOf e.fn e.sq e.cid stSuccess 0 0] ∧ t.pwr.ps = n ∧ t.pwr.hint = e.cdw11 / 32 % 8 ∧
      (n < 3 → t.pwr.lastOp = n ∧ bitOf (obj t 0x1010 2) 4 = decide (n = 2)) ∧
      (n = 4 → s.pwr.ps ≠ 4 → t.blk.pail = [] ∧ ∀ p ≤ 13, portUp t p = false)) ∧
    (e.fn = 0 → 3 ≤ n → (∃ y ∈ s.host.inflight, y.sq ≠ 0) → ∃ t, exec c s = .next t ∧
      t.host.cqes = s.host.cqes ++ [cqeOf e.fn e.sq e.cid stCommandSequenceError 0 0] ∧ t.pwr = s.pwr ∧ t.blk = s.blk ∧ t.nand = s.nand ∧ t.dict = s.dict) ∧
    (e.fn ≠ 0 → ∃ t, exec c s = .next t ∧ t.host.cqes = s.host.cqes ++ [cqeOf e.fn e.sq e.cid stNotChangeable 0 0] ∧ t.pwr = s.pwr ∧
      t.blk = s.blk ∧ t.nand = s.nand ∧ t.dict = s.dict))

/-- R90, R97: VALUE_REFRESH copies a block's values so that a read returns them fresh; an Announce carries the device status with the next
sequence number. R36 to R38, R49, R446: the beacon's loss and return and a collision in the slot; NVMe-MI and the Basic Management command
are answered while the Hoop rail runs, the health poll lets SMB_ALERT_N go, the SMBus frequency is set and read back, VPD is read within its
length, and a reset over NVMe-MI restarts the module unless ManagementAuth.8 refuses it. The published NVMe-MI codes are log entry 45. The
model reads what the manual leaves open here as log entries 8, 45 and 52 say. -/
def Obligations.ManagementCopyAndAnnounce : Prop :=
  (∀ s block, s.pwr.mainRails = true → ∃ t, exec (.valueRefresh block) s = .next t ∧
    (∀ i j, j < 256 → i / 256 = block → copied i j = true → (i, j) ∈ blockValues block → readValue t i j = (live s i j, false)) ∧
    (∀ i j, copied i j = false → readValue t i j = (live s i j, false)) ∧
    t = { s with dict := { s.dict with held := t.dict.held, refreshed := t.dict.refreshed } }) ∧
  (∀ s, s.pwr.hoopRail = true → ∃ t p, exec .announce s = .next t ∧ t.mgmt = { s.mgmt with tx := s.mgmt.tx ++ [p], announceSeq := (s.mgmt.announceSeq + 1) % 65536 } ∧
    p.op = 0x20 ∧ p.seq = s.mgmt.announceSeq ∧ p.index = 0x1010 ∧ p.sub = 1 ∧ p.count = 5 ∧ p.value = statusBytes s ∧ p.trailer = none ∧
    t = { s with mgmt := t.mgmt }) ∧
  (∀ s, s.pwr.hoopRail = true → exec .plcaBeaconLoss s = .next { s with mgmt := { s.mgmt with beacon := false } } ∧
    exec .plcaBeaconReturn s = .next { s with mgmt := { s.mgmt with beacon := true } } ∧
    ∃ t, exec .slotCollision s = .next t ∧ obj t 0x1110 3 = (obj s 0x1110 3 + 1) % 2 ^ 32 ∧ t = { s with dict := t.dict } ∧ objsBut [(0x1110, 3)] s t) ∧
  (∀ s n, s.pwr.hoopRail = true → n ≤ 4 → ∃ t d, exec (.readNvmeMiDataStructure n) s = .next t ∧ miAnswered 0 0 d s t ∧ d ≠ [] ∧
    (n = 2 → d = natLE 2 64 ++ (List.range 64).flatMap (natLE 2)) ∧ (n = 4 → d = miOptional) ∧ t = { s with mgmt := t.mgmt, free := t.free }) ∧
  (∀ s n, s.pwr.hoopRail = true → 4 < n → ∃ t, exec (.readNvmeMiDataStructure n) s = .next t ∧ miAnswered 0 miInvalidParameter [] s t ∧
    t = { s with mgmt := t.mgmt }) ∧
  (∀ s, s.pwr.hoopRail = true → ∃ t d, exec .nvmSubsystemHealthStatusPoll s = .next t ∧ miAnswered 1 0 d s t ∧ field d 1 1 = 255 - criticalWarning s % 256 ∧
    field d 3 1 = percentageUsed s % 256 ∧ smbAlertN t = true ∧ t = { s with
      mgmt := t.mgmt
      free := t.free
      integ := { s.integ with alert := 0 } }) ∧
  (∀ s fn c, s.pwr.hoopRail = true → ctrl s fn = some c → ∃ t d, exec (.controllerHealthStatusPoll fn) s = .next t ∧ miAnswered 2 0 d s t ∧
    field d 0 2 = fn % 65536 ∧ field d 2 2 = (boolNat c.ready + 4 * c.shst) % 65536 ∧ field d 6 1 = percentageUsed s % 256 ∧
    field d 7 1 = availableSpare s % 256 ∧ field d 8 1 = criticalWarning s % 256 ∧ t = { s with mgmt := t.mgmt, free := t.free }) ∧
  (∀ s v, s.pwr.hoopRail = true → 1 ≤ v → v ≤ 2 → ∃ t u, exec (.configurationSet 1 v) s = .next t ∧ miAnswered 3 0 [] s t ∧
    t = { s with mgmt := t.mgmt } ∧ t.mgmt.smbFreq = (if v = 1 then 100 else 400) ∧
    exec (.configurationGet 1) t = .next u ∧ miAnswered 4 0 [BitVec.ofNat 8 v] t u) ∧
  (∀ s id, s.pwr.hoopRail = true → ∃ t, exec (.configurationGet id) s = .next t ∧
    miAnswered 4 (if id = 1 ∨ id = 2 then 0 else miInvalidParameter) (if id = 1 then [if s.mgmt.smbFreq = 100 then 1 else 2] else []) s t ∧
    t = { s with mgmt := t.mgmt }) ∧
  (∀ s mask, s.pwr.hoopRail = true → ∃ t, exec (.configurationSet 2 mask) s = .next t ∧ miAnswered 3 0 [] s t ∧
    t.mgmt.smbFreq = s.mgmt.smbFreq ∧ (mask % 256 = 255 → smbAlertN t = true) ∧ t = { s with
      mgmt := t.mgmt
      integ := { s.integ with alert := s.integ.alert &&& (255 - mask % 256) } }) ∧
  (∀ s id v, s.pwr.hoopRail = true → id ≠ 2 → (id = 1 → v ≠ 1 ∧ v ≠ 2) → ∃ t, exec (.configurationSet id v) s = .next t ∧
    miAnswered 3 miInvalidParameter [] s t ∧ t = { s with mgmt := t.mgmt }) ∧
  (∀ s off len, s.pwr.hoopRail = true → off + len ≤ Config.vpdLength → ∃ t, exec (.vpdRead off len) s = .next t ∧
    miAnswered 5 0 ((List.range len).map fun i => Config.vpd (off + i)) s t ∧ t = { s with mgmt := t.mgmt }) ∧
  (∀ s, s.pwr.hoopRail = true → (obj s 0x1410 8 = 1 → ∃ t, exec .nvmeMiReset s = .next t ∧ miAnswered 7 miAccessDenied [] s t ∧ t = { s with mgmt := t.mgmt }) ∧
    (obj s 0x1410 8 ≠ 1 → ∃ t, exec .nvmeMiReset s = .next t ∧ obj t 0x1300 1 = 7 ∧ t.pwr.starting = true ∧ t.host.sqs = [] ∧ t.host.inflight = [])) ∧
  (∀ s e d, s.pwr.hoopRail = true → e.fn ≤ 63 → identifyData e s = some d → ∃ t, exec (.miTunnelledAdmin 6 e) s = .next t ∧ miAnswered 6 0 d s t ∧
    t = { s with mgmt := t.mgmt, free := t.free }) ∧
  (∀ s e d, s.pwr.hoopRail = true → e.fn ≤ 63 → (match standardLog e s with | some d => some d | none => vendorPage e s) = some d →
    ∃ t, exec (.miTunnelledAdmin 2 e) s = .next t ∧ miAnswered 2 0 (window d (logOff e) (logLen e)) s t ∧
    t = { s with mgmt := t.mgmt, free := t.free }) ∧
  (∀ s e v, s.pwr.hoopRail = true → e.fn ≤ 63 → featureReply e s = some v → ∃ t, exec (.miTunnelledAdmin 10 e) s = .next t ∧
    miAnswered 10 0 (natLE 4 v) s t ∧ t = { s with mgmt := t.mgmt, free := t.free }) ∧
  (∀ s e opc, s.pwr.hoopRail = true → e.fn ≤ 63 → opc ∉ [2, 6, 10] → ∃ t, exec (.miTunnelledAdmin opc e) s = .next t ∧
    miAnswered opc miInvalidOpcode [] s t ∧ t = { s with mgmt := t.mgmt }) ∧
  (∀ s off len, s.pwr.hoopRail = true → ∃ t d, exec (.basicManagementCommand off len) s = .next t ∧ miAnswered 0x35 0 d s t ∧ d.length = len ∧
    (off = 0 → 3 ≤ len → field d 2 1 = 255 - criticalWarning s % 256) ∧ smbAlertN t = true ∧ t = { s with
      mgmt := t.mgmt
      free := t.free
      integ := { s.integ with alert := 0 } })

/-- R399, R400, R401: AUDIT_COMMIT of an object gives it the version digest of its leaves, a commit, the time and the first page for its leaves;
of an object that does not exist it changes nothing and reports State Conflict. -/
def Obligations.AuditCommitOfObjects : Prop :=
  (∀ s kind o, kind = obj s 0x4201 1 → kind ≤ 2 → auditRec s kind (obj s 0x4201 2) = some o → ∃ t, exec .auditCommit s = .next t ∧
    findObj t o.id = some { o with commits := o.commits + 1, commitTime := s.time, digest := versionOf kind (leavesOf s kind (obj s 0x4201 2)), written := false } ∧
    (∀ k, k ≠ o.id → findObj t k = findObj s k) ∧ obj t 0x4203 2 = (obj s 0x4203 2 + 1) % 2 ^ 64 ∧ t.dict.lastStatus = 0 ∧
    obj t 0x4203 4 = (obj s 0x4203 4 + changedBytes s o) % 2 ^ 64 ∧
    (∀ w size no, (storeLpn s w size no).isSome = true → storeLpn t w size no = storeLpn s w size no) ∧
    (leavesOf s kind (obj s 0x4201 2) ≠ [] → (freePage s).isSome = true → (storeLpn t (.object o.id) 32 0).isSome = true) ∧
    t = { s with tier := { s.tier with objects := t.tier.objects, pages := t.tier.pages, storeAus := t.tier.storeAus }, dict := t.dict }) ∧
  (∀ s, 3 < obj s 0x4201 1 → ∃ t, exec .auditCommit s = .next t ∧ t = { s with dict := { s.dict with lastStatus := 0x26, lastSub := 1 } }) ∧
  (∀ s, obj s 0x4201 1 = 3 → (findIndex s (obj s 0x4201 2)).isSome = true → ∃ t, exec .auditCommit s = .next t ∧ t.dict.lastStatus = 0 ∧
    t.retr = s.retr ∧ t.tier.tiles = s.tier.tiles) ∧
  (∀ s kind, kind = obj s 0x4201 1 → (kind ≤ 2 ∧ auditRec s kind (obj s 0x4201 2) = none ∨ kind = 3 ∧ findIndex s (obj s 0x4201 2) = none) →
    ∃ t, exec .auditCommit s = .next t ∧ t = { s with dict := { s.dict with lastStatus := 0x27, lastSub := 3 } })

/-- R84 to R93, R395, R397, R430, R436: a write of objects is checked whole. A write that fails leaves everything as it was and names the
subindex; one that changes a stored value waits for its record; any other is applied at once. When the record commits the values are set;
after three failed programs the write fails and changes nothing. The rows of single objects are such writes. The model reads what the manual
leaves open here as log entries 43, 51 and 62 say. -/
def Obligations.ObjectWritesAndTheStore : Prop :=
  (∀ s c r vs, (c = .objectWrite r.fn r.index r.sub r.count r.value ∨ (∃ b, c = .bootBankSelect b ∧ r = { origin := .none, op := 2, fn := 0, index := 0x1001, sub := 4, count := 1, value := natLE 1 b }) ∨
      (∃ g l, c = .policyGroupSet g l ∧ r = { origin := .none, op := 2, fn := 0, index := 0x2210 + g, sub := 1, count := l.length, value := l.zipIdx.flatMap fun x => natLE (objSize (0x2210 + g) (x.2 + 1)) x.1 }) ∨
      (∃ n, c = .cellRowLimitSet n ∧ r = { origin := .none, op := 2, fn := 0, index := 0x4200, sub := 2, count := 1, value := natLE 1 n }) ∨
      (c = .securityVersionRaise ∧ r = { origin := .none, op := 2, fn := 0, index := 0x1401, sub := 3, count := 1, value := [1] }) ∨
      (∃ on, c = .deterministicModeSet on ∧ r = { origin := .none, op := 2, fn := 0, index := 0x4200, sub := 1, count := 1, value := natLE 1 (boolNat on) })) →
    r.origin = .none → r.op = 2 → hoopFree r s → vs = cutValues r.index (subsOf r) r.value →
    ((checkSet r s).1 ≠ 0 → ∃ t, exec c s = .next t ∧ statusOnly (checkSet r s).1 (checkSet r s).2 s t) ∧
    ((checkSet r s).1 = 0 → changesP r s = true → ∃ t, exec c s = .next t ∧
      t = { s with dict := { s.dict with pendingWrite := some { origin := .none, fn := r.fn, index := r.index, sub := r.sub, values := vs.map (·.2), tries := 0 } } }) ∧
    ((checkSet r s).1 = 0 → changesP r s = false → actionOf r.index vs = none → r.index ≠ 0x2300 → r.index ≠ 0x4200 → r.index / 16 ≠ 0x221 →
      ∃ t, exec c s = .next t ∧ t.dict.lastStatus = 0 ∧ (∀ v ∈ vs, obj t r.index v.1 = v.2 % 2 ^ (8 * objSize r.index v.1)) ∧
      (∀ i j, j < 256 → (i ≠ r.index ∨ ∀ v ∈ vs, v.1 ≠ j) → obj t i j = obj s i j) ∧
      t = { s with dict := { s.dict with vals := t.dict.vals, lastStatus := 0, lastSub := 0 } }) ∧
    ((checkSet r s).1 = 0 → changesP r s = false → r.index / 16 = 0x221 → ∃ t, exec c s = .next t ∧ t.dict.lastStatus = 0 ∧
      (∀ v ∈ vs, obj t r.index v.1 = v.2 % 2 ^ (8 * objSize r.index v.1)) ∧ rimFrame s t ∧ t.jobs = s.jobs)) ∧
  (∀ s b, b ≤ 1 → s.pwr.hoopRail = true → s.dict.queue = [] → s.dict.pendingWrite = none →
    (committed s b = false → ∃ t, exec (.bootBankSelect b) s = .next t ∧ statusOnly 0x27 4 s t) ∧
    (committed s b = true → obj s 0x1001 4 ≠ b → ∃ t w, exec (.bootBankSelect b) s = .next t ∧ t = { s with dict := { s.dict with pendingWrite := some w } } ∧
      w.index = 0x1001 ∧ w.sub = 4 ∧ w.values = [b] ∧ w.tries = 0)) ∧
  (∀ s v, v = imgSecurity (bank s s.fw.active) → s.pwr.hoopRail = true → s.dict.queue = [] → s.dict.pendingWrite = none → ∃ t, exec .securityVersionRaise s = .next t ∧
    (v ≤ securityCounter s → t.fw = s.fw ∧ t.dict.lastStatus = 0) ∧
    (securityCounter s < v → securityFree s ≠ 0 → t.dict.lastStatus = 0 ∧ securityCounter t = v ∧
      t.fw = (if s.fw.active = 0 then { s.fw with secB := s.fw.secB ++ [v] } else { s.fw with secA := s.fw.secA ++ [v] })) ∧
    (securityCounter s < v → securityFree s = 0 → t.dict.lastStatus = 0x27 ∧ t.fw = s.fw) ∧
    t = { s with fw := t.fw, dict := { s.dict with lastStatus := t.dict.lastStatus, lastSub := t.dict.lastSub } }) ∧
  (∀ s on, s.pwr.hoopRail = true → s.dict.queue = [] → s.dict.pendingWrite = none → s.jobs.detNew = none → obj s 0x4200 1 = boolNat on →
    ∃ t, exec (.deterministicModeSet on) s = .next t ∧ t.jobs = { s.jobs with detNew := some on, detOrigin := .none } ∧
    (∀ i j, j < 256 → i ≠ 0x4002 → obj t i j = obj s i j) ∧ rimFrame s t) ∧
  (∀ s on, s.jobs.detNew = some on → s.jobs.detOrigin = .none → admittedInFlight s = false → s.dict.queue = [] → ∃ t, exec .deterministicModeApply s = .next t ∧
    t.jobs = { s.jobs with detNew := none } ∧ obj t 0x4200 3 = boolNat on ∧ t.dict.lastStatus = 0 ∧
    (∀ i j, j < 256 → (i, j) ≠ (0x4200, 3) → obj t i j = obj s i j) ∧ t = { s with jobs := t.jobs, dict := t.dict }) ∧
  (∀ s w vs, s.dict.pendingWrite = some w → w.origin = .none → s.dict.queue = [] → vs = cutValues w.index (subsOf w.req) w.req.value → 
    (actionOf w.index vs = none → w.index ≠ 0x2300 → w.index ≠ 0x4200 → w.index / 16 ≠ 0x221 → w.sub + w.values.length ≤ 256 →
      ∃ t k, exec (.storeRecordCommit true) s = .next t ∧ t.dict.pendingWrite = none ∧
      t.dict.lastStatus = 0 ∧ (∀ v ∈ vs, obj t w.index v.1 = v.2 % 2 ^ (8 * objSize w.index v.1)) ∧ t.integ.store.commits = s.integ.store.commits + 1 ∧
      (storeCopy t).recs.head? = some k ∧ k.valid = true ∧ k.index = w.index ∧ k.sub = w.sub ∧ k.data = w.item.data ∧
      t.integ.store.nextSeq = k.seq + 1 ∧ s.integ.store.nextSeq ≤ k.seq ∧
      t = { s with dict := t.dict, integ := { s.integ with store := t.integ.store } }) ∧
    (w.tries < 3 → ∃ t k, exec (.storeRecordCommit false) s = .next t ∧ t.dict = { s.dict with pendingWrite := some { w with tries := w.tries + 1 } } ∧
      (storeCopy t).recs.head? = some k ∧ k.done = false ∧ s.integ.store.nextSeq ≤ k.seq ∧ t.integ.store.commits = s.integ.store.commits ∧
      t = { s with dict := t.dict, integ := { s.integ with store := t.integ.store } }) ∧
    (3 ≤ w.tries → ∃ t, exec (.storeRecordCommit false) s = .next t ∧ t.dict.pendingWrite = none ∧ t.dict.lastStatus = 0x28 ∧
      t.integ.store.failures = s.integ.store.failures + 1 ∧ (∃ g ∈ t.integ.log, g.source = 9 ∧ g.cls = 2 ∧ g.address = storeAddress w.item.data.length s) ∧
      (∀ i j, j < 256 → obj t i j = obj s i j) ∧ t = { s with dict := t.dict, integ := t.integ }))

/-- R94 to R98, R101: the object protocol in mode 0. A Get returns the values of one instant, a Describe a subindex's form, an Enumerate the
next index; a Set answers the status of its check, or waits for its record; another operation is refused; a kept sequence gets its kept
response again; a request for another node is relayed, its response passed on, and its timeout answered with Node Unreachable; a kept
response expires. The model reads what the manual leaves open here as log entries 42, 51, 62 and 63 say. -/
def Obligations.ObjectProtocolOverTheBus : Prop :=
  (∀ s p u, pduServed p s → p.target = 0xFFFF → u = bump 0x1100 1 s → objExists p.index = true → p.sub + p.count - 1 ≤ objCount p.index →
    (∀ k < p.count, (objRow p.index (p.sub + k)).all (fun w => w.acc != .wo) = true) →
    total ((List.range p.count).map fun k => objSize p.index (p.sub + k)) ≤ 1484 → ∃ t, exec (.pduGet p) s = .next t ∧
    pduAnswered 1 p 0 ((List.range p.count).flatMap fun k => natLE (objSize p.index (p.sub + k)) (readValue u p.index (p.sub + k)).1)
      ((List.range p.count).any fun k => (readValue u p.index (p.sub + k)).2) s t ∧
    obj t 0x1100 1 = (obj s 0x1100 1 + 1) % 2 ^ 32 ∧ t = { s with mgmt := t.mgmt, dict := t.dict, free := t.free }) ∧
  (∀ s p c op, (c = .pduGet p ∧ op = 1 ∨ c = .pduDescribe p ∧ op = 3) → pduServed p s → p.target = 0xFFFF → objExists p.index = false →
    ∃ t, exec c s = .next t ∧ pduAnswered op p 0x20 [] false s t ∧ t = { s with mgmt := t.mgmt, dict := t.dict }) ∧
  (∀ s p w, pduServed p s → p.target = 0xFFFF → objRow p.index p.sub = some w → 1 ≤ p.sub → p.sub ≤ objCount p.index → p.count = 1 →
    ∃ t, exec (.pduDescribe p) s = .next t ∧
    pduAnswered 3 p 0 ([w.code, accCode w.acc, clsCode w.grp].flatMap (natLE 1) ++ natLE 1 (boolNat ((objRows p.index).any fun w => w.hasIdx p.index && w.arr)) ++
      natLE 2 (objSize p.index p.sub) ++ natLE 2 0) false s t ∧ t = { s with mgmt := t.mgmt, dict := t.dict }) ∧
  (∀ s p, pduServed p s → p.target = 0xFFFF → p.sub = 0 → p.count = 1 → ∃ t, exec (.pduEnumerate p) s = .next t ∧
    pduAnswered 4 p 0 (natLE 2 (nextIndex none p.index)) false s t ∧ t = { s with mgmt := t.mgmt, dict := t.dict }) ∧
  (∀ s p r vs, pduServed p s → p.target = 0xFFFF → r = { origin := .pdu p, op := 2, fn := 64, index := p.index, sub := p.sub, count := p.count, value := p.value.take p.vlen } →
    mustWait r s = false → vs = cutValues r.index (subsOf r) r.value →
    ((checkSet r (bump 0x1100 1 s)).1 ≠ 0 → ∃ t, exec (.pduSet p) s = .next t ∧ pduAnswered 2 p (checkSet r (bump 0x1100 1 s)).1 [] false s t ∧
      t = { s with mgmt := t.mgmt, dict := t.dict } ∧ objsBut [(0x1100, 1), (0x1100, 2)] s t) ∧
    ((checkSet r (bump 0x1100 1 s)).1 = 0 → changesP r (bump 0x1100 1 s) = true → ∃ t, exec (.pduSet p) s = .next t ∧
      t.dict.pendingWrite = some { origin := .pdu p, fn := 64, index := p.index, sub := p.sub, values := vs.map (·.2), tries := 0 } ∧
      t = { s with dict := t.dict }) ∧
    ((checkSet r (bump 0x1100 1 s)).1 = 0 → changesP r (bump 0x1100 1 s) = false → actionOf r.index vs = none → p.index ∉ [0x2300, 0x4200, 0x1100, 0x1410] →
      p.index / 16 ≠ 0x221 →
      ∃ t, exec (.pduSet p) s = .next t ∧ pduAnswered 2 p 0 [] false s t ∧ (∀ v ∈ vs, obj t r.index v.1 = v.2 % 2 ^ (8 * objSize r.index v.1)) ∧
      t = { s with mgmt := t.mgmt, dict := t.dict })) ∧
  (∀ s p op, pduServed p s → op < 256 → op ∉ [1, 2, 3, 4] → ∃ t, exec (.pduInvalidOperation p op) s = .next t ∧ pduAnswered op p 0x2D [] false s t ∧
    t = { s with mgmt := t.mgmt, dict := t.dict }) ∧
  (∀ s p c o, (c = .pduGet p ∨ c = .pduSet p ∨ c = .pduDescribe p ∨ c = .pduEnumerate p) → s.pwr.hoopRail = true → (onBus p = true → p.dst = obj s 0x1000 7) →
    (s.mgmt.kept.find? fun k => k.path == p.path && k.seq == p.seq) = some o → ∃ t, exec c s = .next t ∧
    t.mgmt = { s.mgmt with tx := s.mgmt.tx ++ [{ o with replayed := true }] } ∧ obj t 0x1100 2 = (obj s 0x1100 2 + 1) % 2 ^ 32 ∧
    t = { s with mgmt := t.mgmt, dict := t.dict } ∧ objsBut [(0x1100, 2)] s t) ∧
  (∀ s p c op, (c = .pduGet p ∧ op = 1 ∨ c = .pduSet p ∧ op = 2 ∨ c = .pduDescribe p ∧ op = 3 ∨ c = .pduEnumerate p ∧ op = 4) → pduServed p s →
    p.target ≠ 0xFFFF → p.target ≠ ownNode s → obj s 0x4000 7 = 7 → nodeNamed s p.target = true → ∃ t, exec c s = .next t ∧
    t.mgmt = { s.mgmt with relays := s.mgmt.relays ++ [{ tag := s.mgmt.nextRelay, op := op, pdu := p }], nextRelay := (s.mgmt.nextRelay + 1) % 65536 } ∧
    messagesSent s t ∧ t = { s with mgmt := t.mgmt, wyv := t.wyv, dict := t.dict }) ∧
  (∀ s tag st value stale rep x, s.mgmt.relays.find? (·.tag == tag) = some x → ∃ t o, exec (.relayResponse tag st value ⟨stale, rep⟩) s = .next t ∧
    t.mgmt.tx = s.mgmt.tx ++ [o] ++ ((s.mgmt.dups.filter fun d => d.path == x.pdu.path && d.seq == x.pdu.seq).map fun _ => { o with replayed := true }) ∧
    o ∈ t.mgmt.kept ∧ o.path = x.pdu.path ∧ o.seq = x.pdu.seq ∧ o.index = x.pdu.index ∧ o.status = st ∧ o.value = value ∧ o.stale = stale ∧ o.replayed = rep ∧
    o.node = x.pdu.target ∧ (obj s 0x1410 1 = 0 → o.trailer = none) ∧ (∀ y ∈ t.mgmt.relays, y.tag ≠ tag) ∧
    t = { s with mgmt := t.mgmt, dict := t.dict } ∧ objsBut [(0x1100, 2)] s t) ∧
  (∀ s tag x, s.mgmt.relays.find? (·.tag == tag) = some x → ∃ t o, exec (.relayTimeout tag) s = .next t ∧
    t.mgmt.tx = s.mgmt.tx ++ [o] ++ ((s.mgmt.dups.filter fun d => d.path == x.pdu.path && d.seq == x.pdu.seq).map fun _ => { o with replayed := true }) ∧
    o.status = 0x2E ∧ o.path = x.pdu.path ∧ o.seq = x.pdu.seq ∧ o.value = [] ∧ t.mgmt.kept = s.mgmt.kept ∧ (∀ y ∈ t.mgmt.relays, y.tag ≠ tag) ∧
    t = { s with mgmt := t.mgmt, dict := t.dict } ∧ objsBut [(0x1100, 2)] s t) ∧
  (∀ s path seq, ∃ t, exec (.replayWindowExpiry path seq) s = .next t ∧
    (∀ k, k ∈ t.mgmt.kept ↔ k ∈ s.mgmt.kept ∧ ¬(k.path = path ∧ k.seq = seq)) ∧ t = { s with mgmt := { s.mgmt with kept := t.mgmt.kept } })

/-- R99, R100: Get Object returns values, the form of a subindex or the next index to host memory with the bytes written in DW0; Set Object
applies its write, waits for its record, or completes with the status of the object protocol and the failing subindex. The model reads what
the manual leaves open here as log entries 8 and 10 say. -/
def Obligations.ObjectCommandsOverNvme : Prop :=
  (∀ s e idx sub count u, adminReady e 0xC2 s → objectEntryOk e = true → e.cdw12 = 0 → idx = e.cdw10 % 65536 → sub = e.cdw10 / 65536 % 256 →
    count = e.cdw10 / 2 ^ 24 % 256 → 1 ≤ count → 1 ≤ e.cdw11 → e.cdw11 ≤ 1484 → s.dict.queue = [] → s.dict.pendingWrite = none → u = startCmd e s →
    reach (some e.fn) idx ≠ 0 → sub + count - 1 ≤ objCount idx → (∀ k < count, (objRow idx (sub + k)).all (fun w => w.acc != .wo) = true) →
    total ((List.range count).map fun k => objSize idx (sub + k)) ≤ e.cdw11 → ∃ t stale, exec (.getObject e) s = .next t ∧
    stale = ((List.range count).any fun k => (readValue u idx (sub + k)).2) ∧
    completed e stSuccess (total ((List.range count).map fun k => objSize idx (sub + k))) (boolNat stale) s t ∧
    t.host.dma = s.host.dma ++ [{
      addr := e.dptr
      data := (List.range count).flatMap fun k => natLE (objSize idx (sub + k)) (readValue u idx (sub + k)).1
      relaxed := s.host.relaxed.contains e.fn }] ∧ adminFrame s t) ∧
  (∀ s e idx sub w, adminReady e 0xC2 s → objectEntryOk e = true → e.cdw12 = 1 → idx = e.cdw10 % 65536 → sub = e.cdw10 / 65536 % 256 → e.cdw10 / 2 ^ 24 % 256 = 1 →
    8 ≤ e.cdw11 → e.cdw11 ≤ 1484 → s.dict.queue = [] → s.dict.pendingWrite = none → reach (some e.fn) idx ≠ 0 → objRow idx sub = some w → sub ≤ objCount idx →
    ∃ t, exec (.getObjectDescribe e) s = .next t ∧ completed e stSuccess 8 0 s t ∧
    t.host.dma = s.host.dma ++ [{
      addr := e.dptr
      data := [w.code, accCode w.acc, clsCode w.grp].flatMap (natLE 1) ++ natLE 1 (boolNat ((objRows idx).any fun w => w.hasIdx idx && w.arr)) ++
        natLE 2 (objSize idx sub) ++ natLE 2 0
      relaxed := s.host.relaxed.contains e.fn }] ∧ adminFrame s t) ∧
  (∀ s e idx, adminReady e 0xC2 s → objectEntryOk e = true → e.cdw12 = 2 → e.cdw10 = idx + 2 ^ 24 → idx < 65536 → 2 ≤ e.cdw11 → e.cdw11 ≤ 1484 → s.dict.queue = [] →
    s.dict.pendingWrite = none → ∃ t, exec (.getObjectEnumerate e) s = .next t ∧ completed e stSuccess 2 0 s t ∧
    t.host.dma = s.host.dma ++ [{ addr := e.dptr, data := natLE 2 (nextIndex (some e.fn) idx), relaxed := s.host.relaxed.contains e.fn }] ∧ adminFrame s t) ∧
  (∀ s e buf r vs u, adminReady e 0xC1 s → objectEntryOk e = true → e.cdw12 = 0 → 1 ≤ e.cdw11 → e.cdw11 ≤ 1484 → 1 ≤ e.cdw10 / 2 ^ 24 % 256 → s.dict.queue = [] →
    r = { origin := .nvme e.fn e.sq e.cid, op := 2, fn := e.fn, index := e.cdw10 % 65536, sub := e.cdw10 / 65536 % 256, count := e.cdw10 / 2 ^ 24 % 256, value := slice buf 0 e.cdw11 } →
    mustWait r s = false → vs = cutValues r.index (subsOf r) r.value → u = startCmd e s →
    ((checkSet r u).1 ≠ 0 → ∃ t, exec (.setObject e buf) s = .next t ∧ completed e (7, (checkSet r u).1) (checkSet r u).2 0 s t ∧ adminFrame s t) ∧
    ((checkSet r u).1 = 0 → changesP r u = true → ∃ t, exec (.setObject e buf) s = .next t ∧ t.host.cqes = s.host.cqes ∧
      t.dict = { s.dict with pendingWrite := some { origin := r.origin, fn := e.fn, index := r.index, sub := r.sub, values := vs.map (·.2), tries := 0 } }) ∧
    ((checkSet r u).1 = 0 → changesP r u = false → actionOf r.index vs = none → r.index ≠ 0x2300 → r.index ≠ 0x4200 → r.index / 16 ≠ 0x221 →
      ∃ t, exec (.setObject e buf) s = .next t ∧
      completed e stSuccess 0 0 s t ∧ (∀ v ∈ vs, obj t r.index v.1 = v.2 % 2 ^ (8 * objSize r.index v.1)) ∧ t.blk = s.blk ∧ t.tier = s.tier ∧ t.arr = s.arr))

/-- R44, R48 to R51, R69, R76: a doorbell makes entries visible and the device fetches them in order up to 32 tags; queues are created within a
function's resources and deleted, a submission queue taking its commands with it; a frozen compute queue with nothing in flight is thawed;
an opcode outside the list completes with Invalid Opcode; flexible resources are assigned to a disabled virtual function, taken away, or
left in place. The published status codes are log entry 10. The model reads what the manual leaves open here as log entries 10 and 14 say. -/
def Obligations.AdminQueuesAndThaw : Prop :=
  (∀ s fn sq tail entries q c, findSq s fn sq = some q → ctrl s fn = some c → c.ready = true → tail < q.size → entries.length = (tail + q.size - q.tail) % q.size →
    ∃ t r k, exec (.sqTailDoorbell fn sq tail entries) s = .next t ∧ findSq t fn sq = some r ∧ r.tail = tail ∧ r.size = q.size ∧ r.frozen = q.frozen ∧
    r.waiting = (q.waiting ++ entries).drop k ∧ inFlightOf t fn sq = inFlightOf s fn sq ++ (q.waiting ++ entries).take k ∧ (q.frozen = true → k = 0) ∧
    (q.frozen = false → r.waiting ≠ [] → 32 ≤ (inFlightOf t fn sq).length) ∧ t.host.cqes = s.host.cqes ∧ t.blk = s.blk ∧ t.tier = s.tier) ∧
  (∀ s e id, adminReady e 0x05 s → id = newQid e → 1 ≤ id → id ≤ queuesOf s e.fn → findCq s e.fn id = none → sizeOk (newSize e) = true →
    bitOf e.cdw11 0 = true → bitsOf e.cdw11 15 2 = 0 → e.cdw11 / 65536 < vectorsOf s e.fn → ∃ t, exec (.createIoCompletionQueue e) s = .next t ∧
    completed e stSuccess 0 0 s t ∧ t.host.cqs = s.host.cqs ++ [{ fn := e.fn, id := id, size := newSize e, vector := e.cdw11 / 65536 % 65536 }] ∧ adminFrame s t) ∧
  (∀ s e id cq, adminReady e 0x01 s → id = newQid e → cq = e.cdw11 / 65536 % 65536 → 1 ≤ id → id ≤ queuesOf s e.fn → findSq s e.fn id = none → cq ≠ 0 →
    (findCq s e.fn cq).isSome = true → sizeOk (newSize e) = true → bitOf e.cdw11 0 = true → bitsOf e.cdw11 15 3 = 0 →
    ∃ t, exec (.createIoSubmissionQueue e) s = .next t ∧ completed e stSuccess 0 0 s t ∧ findSq t e.fn id = some { fn := e.fn, id := id, cq := cq, size := newSize e, prio := bitsOf e.cdw11 2 1, head := 0, tail := 0, waiting := [], frozen := false } ∧
    adminFrame s t) ∧
  (∀ s e id, adminReady e 0x00 s → id = newQid e → 1 ≤ id → (findSq s e.fn id).isSome = true → ∃ t l, exec (.deleteIoSubmissionQueue e) s = .next t ∧
    t.host.cqes = s.host.cqes ++ l ++ [cqeOf e.fn e.sq e.cid stSuccess 0 0] ∧ findSq t e.fn id = none ∧ pagesReleased s t) ∧
  (∀ s e id, adminReady e 0x04 s → id = newQid e → 1 ≤ id → (findCq s e.fn id).isSome = true → ∃ t, exec (.deleteIoCompletionQueue e) s = .next t ∧
    ((∃ q ∈ s.host.sqs, q.fn = e.fn ∧ q.id ≠ 0 ∧ q.cq = id) → completed e stQueueDeletion 0 0 s t ∧ t.host.cqs = s.host.cqs) ∧
    ((∀ q ∈ s.host.sqs, q.fn = e.fn → q.id ≠ 0 → q.cq ≠ id) → completed e stSuccess 0 0 s t ∧ findCq t e.fn id = none) ∧ adminFrame s t) ∧
  (∀ s e id q, adminReady e 0xC4 s → id = e.cdw10 % 65536 → findSq s e.fn id = some q → isCompute s e.fn id = true → q.frozen = true → basicMode s = false →
    (tagsUsed s e.fn id = 0 → ∃ t r, exec (.thawQueue e) s = .next t ∧ completed e stSuccess 0 0 s t ∧ findSq t e.fn id = some r ∧ r.frozen = false ∧
      r.waiting = q.waiting.drop 32 ∧ inFlightOf t e.fn id = q.waiting.take 32) ∧
    (tagsUsed s e.fn id ≠ 0 → ∃ t, exec (.thawQueue e) s = .next t ∧ completed e stCommandSequenceError 0 0 s t ∧ (findSq t e.fn id).map (·.frozen) = some true ∧
      adminFrame s t)) ∧
  (∀ s e opc, adminReady e opc s → opc ∉ adminOpcodes → ∃ t, exec (.adminInvalidOpcode e opc) s = .next t ∧ completed e stInvalidOpcode 0 0 s t ∧ adminFrame s t) ∧
  (∀ s e fn, adminReady e 0x1C s → e.fn = 0 → fn = e.cdw10 / 65536 % 65536 → 1 ≤ fn → fn ≤ 63 →
    (e.cdw10 % 16 = 7 → ∃ t, exec (.virtualizationManagement e) s = .next t ∧ completed e stSuccess 0 0 s t ∧
      ctrl t fn = (ctrl s fn).map (fun c => { c with flexQueues := 0, flexVectors := 0 }) ∧ (∀ k, k ≠ fn → ctrl t k = ctrl s k) ∧ adminFrame s t) ∧
    (e.cdw10 % 16 = 9 → ∃ t, exec (.virtualizationManagement e) s = .next t ∧ completed e stSuccess 0 0 s t ∧ t.host.ctrls = s.host.ctrls ∧ adminFrame s t)) ∧
  (∀ s e fn n rt c, adminReady e 0x1C s → e.fn = 0 → fn = e.cdw10 / 65536 % 65536 → n = e.cdw11 % 65536 → rt = bitsOf e.cdw10 10 8 → e.cdw10 % 16 = 8 →
    1 ≤ fn → fn ≤ 63 → ctrl s fn = some c → c.enabled = false → rt ≤ 1 → n ≤ 2048 → flexOthers s fn (rt == 0) + n ≤ 6144 →
    ∃ t, exec (.virtualizationManagement e) s = .next t ∧ completed e stSuccess n 0 s t ∧
    ctrl t fn = some (if rt = 0 then { c with flexQueues := n } else { c with flexVectors := n }) ∧ (∀ k, k ≠ fn → ctrl t k = ctrl s k) ∧ adminFrame s t)

/-- R47, R56, R67, R68, R74, R202, R404: Identify and Get Log Page return a page to host memory with the bytes asked for; the vendor pages hold
the compute error log, the integrity log on function 0 and the audit log; a feature is set and read; write caching is enabled per
controller; an event request waits or takes the event that is due. The model reads what the manual leaves open here as log entries 5, 10,
14, 85 and 86 say. -/
def Obligations.IdentifyLogsFeaturesAndEvents : Prop :=
  (∀ s e, adminReady e 0x06 s → e.cdw10 % 256 ∈ [0x00, 0x01, 0x02, 0x03, 0x10, 0x11, 0x12, 0x13, 0x14, 0x15] → ∃ t d, exec (.identify e) s = .next t ∧
    completed e stSuccess 0 0 s t ∧ t.host.dma = s.host.dma ++ [{ addr := e.dptr, data := d, relaxed := s.host.relaxed.contains e.fn }] ∧ d.length = 4096 ∧
    (e.cdw10 % 256 = 2 → d = idList 4 (ascending ((s.host.namespaces.filter fun n => n.ctrls.contains e.fn).map (·.id))) e.nsid) ∧
    (e.cdw10 % 256 = 1 → field d 77 1 = 9 ∧ field d 78 2 = e.fn % 65536 ∧ field d 516 4 = 128) ∧ adminFrame s t) ∧
  (∀ s e n, adminReady e 0x02 s → (e.cdw10 % 256, n) ∈ [(0x00, 1024), (0x01, 4096), (0x02, 512), (0x03, 512), (0x04, 4096), (0x05, 4096), (0x81, 512)] →
    logOff e % 4 = 0 → logOff e ≤ n → ∃ t d, exec (.getLogPage e) s = .next t ∧
    completed e stSuccess 0 0 s t ∧ t.host.dma = s.host.dma ++ [{ addr := e.dptr, data := d, relaxed := s.host.relaxed.contains e.fn }] ∧ d.length = logLen e ∧
    (e.cdw10 % 256 = 2 → logOff e = 0 → 512 ≤ logLen e → field d 0 1 = criticalWarning s % 256 ∧ field d 3 1 = availableSpare s % 256 ∧ field d 5 1 = percentageUsed s) ∧
    adminFrame s t) ∧
  (∀ s e c cl page, adminReady e 0x02 s → ctrl s e.fn = some cl → logOff e % 4 = 0 → logOff e ≤ page.length →
    (c = .computeErrorLogRead e ∧ e.cdw10 % 256 = 0xC1 ∧ page = window (cl.errLog.flatMap errBytes) 0 16384 ∨
      c = .integrityLogPageRead e ∧ e.cdw10 % 256 = 0xC2 ∧ e.fn = 0 ∧ page = window (s.integ.log.flatMap logBytes) 0 262144 ∨
      c = .auditLogRead e ∧ e.cdw10 % 256 = 0xC3 ∧ page = window (cl.auditLog.flatMap auditBytes) 0 262144) →
    ∃ t, exec c s = .next t ∧ completed e stSuccess 0 0 s t ∧ t.host.dma = s.host.dma ++
      [{ addr := e.dptr, data := window page (logOff e) (logLen e), relaxed := s.host.relaxed.contains e.fn }] ∧
    ctrl t e.fn = some (if e.cdw10 % 256 = 0xC1 ∧ retains e = false then { cl with armed := true } else cl) ∧ adminFrame s t) ∧
  (∀ s e f cl, adminReady e 0x09 s → f = e.cdw10 % 256 → f ∈ [0x01, 0x04, 0x05, 0x08, 0x09, 0x0A, 0x0B] → bitOf e.cdw10 31 = false → ctrl s e.fn = some cl →
    ∃ t, exec (.setFeatures e) s = .next t ∧ completed e stSuccess 0 0 s t ∧ ctrl t e.fn = some { cl with features := kvPut 0 cl.features f e.cdw11 } ∧
    featureValue t e.fn f = e.cdw11 ∧ adminFrame s t) ∧
  (∀ s e, adminReady e 0x09 s → e.cdw10 % 256 = 7 → bitOf e.cdw10 31 = false → (∀ q ∈ s.host.sqs, q.fn = e.fn → q.id = 0) →
    (∀ q ∈ s.host.cqs, q.fn = e.fn → q.id = 0) → ∃ t, exec (.setFeatures e) s = .next t ∧ completed e stSuccess (queueCounts s e.fn) 0 s t ∧
    t.host.ctrls = s.host.ctrls ∧ adminFrame s t) ∧
  (∀ s e cl, adminReady e 0x09 s → e.cdw10 % 256 = 0x0E → bitOf e.cdw10 31 = false → ctrl s e.fn = some cl → ∃ t v, exec (.setFeatures e) s = .next t ∧
    completed e stSuccess 0 0 s t ∧ ctrl t e.fn = some { cl with features := kvPut 0 cl.features 0x0E v } ∧ adminFrame s t) ∧
  (∀ s e cl, adminReady e 0x09 s → e.cdw10 % 256 = 6 → bitOf e.cdw10 31 = false → e.cdw11 ≤ 1 → ctrl s e.fn = some cl →
    ∃ t, exec (.volatileWriteCacheSet e) s = .next t ∧ completed e stSuccess 0 0 s t ∧ ctrl t e.fn = some { cl with wce := e.cdw11 == 1 } ∧
    (∀ k, k ≠ e.fn → ctrl t k = ctrl s k) ∧ adminFrame s t) ∧
  (∀ s e f, adminReady e 0x0A s → f = e.cdw10 % 256 → f ∈ [0x01, 0x02, 0x04, 0x05, 0x06, 0x07, 0x08, 0x09, 0x0A, 0x0B, 0x0E] → bitsOf e.cdw10 10 8 ≤ 3 →
    ∃ t v, exec (.getFeatures e) s = .next t ∧ completed e stSuccess v 0 s t ∧ (bitsOf e.cdw10 10 8 = 0 → v = featureValue s e.fn f % 2 ^ 32) ∧
    (bitsOf e.cdw10 10 8 = 3 → v = if f = 2 ∧ e.fn ≠ 0 then 0 else 4) ∧ t.host.ctrls = s.host.ctrls ∧ adminFrame s t) ∧
  (∀ s e cl, adminReady e 0x0C s → ctrl s e.fn = some cl →
    (cl.aers.length < 4 → cl.eventDue = false → ∃ t, exec (.asynchronousEventRequest e) s = .next t ∧ t.host.cqes = s.host.cqes ∧
      ctrl t e.fn = some { cl with aers := cl.aers ++ [e.cid] } ∧ adminFrame s t) ∧
    (cl.aers = [] → cl.eventDue = true → ∃ t, exec (.asynchronousEventRequest e) s = .next t ∧ completed e stSuccess (7 + 0xC1 * 65536) 0 s t ∧
      ctrl t e.fn = some { cl with eventDue := false } ∧ t.host.events = s.host.events ++ [(e.fn, 0, 0xC1)] ∧ adminFrame s t) ∧
    (4 ≤ cl.aers.length → ∃ t, exec (.asynchronousEventRequest e) s = .next t ∧ completed e stAerLimit 0 0 s t ∧ ctrl t e.fn = some cl ∧ adminFrame s t))

/-- R45, R46, R54, R158, R442, R443: a namespace is created with whole allocation units that no other holds and a fresh key, attached to and
detached from controllers, and deleted with its key and the data of its units; Format takes the data and changes the key; a cryptographic
Sanitize takes every namespace's and the object store's data, raises the key epoch, and completes once the last erase has ended. What a
Sanitize takes besides is log entry 44. The model reads what the manual leaves open here as log entries 10, 44, 53, 64 and 70 say. -/
def Obligations.NamespacesFormatAndSanitize : Prop :=
  (∀ s e n b, adminReady e 0x0D s → e.cdw10 % 16 = 0 → basicMode s = false → b ≤ 1 → 1 ≤ n → (takenUnits s).length + ceilDiv (n * blockOf b) (2 ^ 30) ≤ 262144 →
    (∃ i, 1 ≤ i ∧ i ≤ 128 ∧ (s.host.namespaces.any (·.id == i)) = false) → ∃ t x, exec (.namespaceCreate e n n b) s = .next t ∧
    t.host.namespaces = s.host.namespaces ++ [x] ∧ completed e stSuccess x.id 0 s t ∧ (s.host.namespaces.any (·.id == x.id)) = false ∧ 1 ≤ x.id ∧ x.id ≤ 128 ∧
    x.nsze = n ∧ x.block = blockOf b ∧ x.ctrls = [] ∧ x.aus.length = ceilDiv (n * blockOf b) (2 ^ 30) ∧ (∀ a ∈ x.aus, a ∉ takenUnits s) ∧
    (∃ k ∈ t.fw.keys, k.owner = x.id ∧ k.epoch = keyEpoch s) ∧ recordFrame s t) ∧
  (∀ s e ns, adminReady e 0x0D s → e.cdw10 % 16 = 1 → ns = reachedNs s e.fn e.nsid (e.fn == 0) → ns ≠ [] ∨ e.nsid = 0xFFFFFFFF → readOnly s = false →
    ∃ t, exec (.namespaceDelete e) s = .next t ∧ completed e stSuccess 0 0 s t ∧
    (∀ y, y ∈ t.host.namespaces ↔ y ∈ s.host.namespaces ∧ ∀ n ∈ ns, n.id ≠ y.id) ∧
    (∀ n ∈ ns, (∀ k ∈ t.fw.keys, k.owner ≠ n.id) ∧ unitsFreed n.aus t) ∧ t.tier = s.tier ∧ t.arr = s.arr ∧ t.jobs = s.jobs) ∧
  (∀ s e n cs, adminReady e 0x15 s → s.host.namespaces.find? (·.id == e.nsid) = some n → cs ≠ [] → (∀ c ∈ cs, c ≤ 63) →
    (e.cdw10 % 16 = 0 → (∀ c ∈ cs, c ∉ n.ctrls) → ∃ t, exec (.namespaceAttachment e cs) s = .next t ∧ completed e stSuccess 0 0 s t ∧
      t.host.namespaces.find? (·.id == e.nsid) = some { n with ctrls := n.ctrls ++ cs.eraseDups } ∧ adminFrame s t) ∧
    (e.cdw10 % 16 = 1 → (∀ c ∈ cs, c ∈ n.ctrls) → ∃ t, exec (.namespaceAttachment e cs) s = .next t ∧ completed e stSuccess 0 0 s t ∧
      t.host.namespaces.find? (·.id == e.nsid) = some { n with ctrls := n.ctrls.filter fun c => !cs.contains c } ∧ adminFrame s t)) ∧
  (∀ s e ns b, adminReady e 0x80 s → ns = reachedNs s e.fn e.nsid false → ns ≠ [] ∨ e.nsid = 0xFFFFFFFF → e.cdw10 % 16 ≤ 1 → bitsOf e.cdw10 8 4 = 0 →
    bitsOf e.cdw10 11 9 ≤ 2 → readOnly s = false → b = blockOf (e.cdw10 % 16) → s.blk.sanitize = none → (∀ y ∈ s.host.inflight, y.lpns = []) →
    ∃ t, exec (.formatNvm e) s = .next t ∧ completed e stSuccess 0 0 s t ∧
    t.host.namespaces.map (·.id) = s.host.namespaces.map (·.id) ∧ (∀ y ∈ t.host.namespaces, (∃ n ∈ ns, n.id = y.id) → y.block = b) ∧
    (∀ n ∈ ns, unitsFreed n.aus t ∧ ∃ k ∈ t.fw.keys, k.owner = n.id ∧ k.epoch = keyEpoch s) ∧ t.tier = s.tier ∧ t.arr = s.arr) ∧
  (∀ s e, adminReady e 0x84 s → e.cdw10 % 8 = 4 → epochFree s ≠ 0 → s.blk.sanitize = none → (∀ y ∈ s.host.inflight, y.sq = 0 ∧ y.lpns = []) →
    ∃ t, exec (.sanitize e) s = .next t ∧
    (t.blk.sanitize = some (some (e.fn, e.sq, e.cid)) ∧ t.host.cqes = s.host.cqes ∨ t.blk.sanitize = none ∧ completed e stSuccess 0 0 s t) ∧
    keyEpoch t = keyEpoch s + 1 ∧ unitsFreed (takenUnits s) t ∧ t.tier.objects = [] ∧ t.tier.tiles = [] ∧ t.tier.regions = [] ∧
    t.retr.indexes = [] ∧ t.churn.tables = [] ∧ t.jobs.baskets = [] ∧ t.jobs.outputs = [] ∧ obj t 0x1402 5 = s.time % 2 ^ 64 ∧
    (∀ k ∈ t.fw.keys, (k.owner = 0 ∨ ∃ n ∈ s.host.namespaces, n.id = k.owner) → k.epoch = keyEpoch t) ∧ t.host.namespaces = s.host.namespaces)

/-- R427 to R429: an image is staged in pieces of 4 KiB by function 0; a commit into the inactive bank checks the staged image, and with a good
one takes that bank out of FirmwareState.4, drops its commit record and begins the sequencer's operations; action 010b selects a committed
bank. The model reads what the manual leaves open here as log entries 10, 14, 44 and 53 say. -/
def Obligations.FirmwareDownloadAndCommit : Prop :=
  (∀ s e buf len off, adminReady e 0x11 s → e.fn = 0 → len = 4 * (e.cdw10 + 1) → off = 4 * e.cdw11 → len % 4096 = 0 → off % 4096 = 0 → off + len ≤ imageMax →
    ∃ t, exec (.firmwareImageDownload e buf) s = .next t ∧ completed e stSuccess 0 0 s t ∧ t.fw = { s.fw with staged := t.fw.staged, stagedBytes := max s.fw.stagedBytes (off + len) } ∧
    (∀ a, memByte t.fw.staged a = if off ≤ a ∧ a < off + len then buf.getD (a - off) 0 else memByte s.fw.staged a) ∧ adminFrame s t) ∧
  (∀ s e c n sig rb b, (c = .firmwareCommitReplace e sig rb ∧ n = 0 ∨ c = .firmwareCommitActivate e sig rb ∧ n = 1) → adminReady e 0x10 s → e.fn = 0 →
    commitAction e = n → 1 ≤ commitSlot e → commitSlot e ≤ 2 → b = commitSlot e - 1 → b ≠ s.fw.active → s.fw.job = none →
    (stagedOk sig s = false → ∃ t, exec c s = .next t ∧ completed e stInvalidFwImage 0 0 s t ∧ t.fw = { s.fw with staged := [], stagedBytes := 0 } ∧
      obj t 0x1360 3 = 2) ∧
    (stagedOk sig s = true → ∃ t, exec c s = .next t ∧ t.host.cqes = s.host.cqes ∧ bank t b = { header := [], digest := [], sig := none, commit := none } ∧
      bank t (1 - b) = bank s (1 - b) ∧ t.fw.staged = s.fw.staged ∧ t.fw.active = s.fw.active ∧
      t.fw.job = some { fn := e.fn, sq := e.sq, cid := e.cid, bank := b, action := n, sig := sig, readBackOk := rb, phase := 2, pos := 0 } ∧
      (obj s 0x1001 4 = b → obj t 0x1001 4 = s.fw.active % 256) ∧ (obj s 0x1001 4 ≠ b → obj t 0x1001 4 = obj s 0x1001 4) ∧
      t.blk = s.blk ∧ t.tier = s.tier ∧ t.arr = s.arr)) ∧
  (∀ s e, adminReady e 0x10 s → e.fn = 0 → s.fw.job = none → commitAction e = 2 → 1 ≤ commitSlot e → commitSlot e ≤ 2 → committed s (commitSlot e - 1) = true →
    ∃ t, exec (.firmwareCommitSelect e) s = .next t ∧ completed e stSuccess 0 0 s t ∧ obj t 0x1001 4 = commitSlot e - 1 ∧
    t.fw = { s.fw with staged := [], stagedBytes := 0 } ∧ t.blk = s.blk ∧ t.tier = s.tier ∧ t.arr = s.arr)

/-- R440, R441: the SPDM responder in the order of its negotiation: versions 1.2 and 1.3, its capabilities, SHA-256 with the one extended
algorithm, digest and certificate of slot 0, a challenge that is counted and signed, the measurements, large messages in chunks, and an
error for any other request; Security Receive lists the two protocols. The published message codes are log entry 45. The model reads what
the manual leaves open here as log entries 5, 45 and 52 say. -/
def Obligations.SpdmResponder : Prop :=
  (∀ s q x, spdmReady q 0 x s → ∃ t, exec (.getVersion q) s = .next t ∧ spdmAnswered q 4 (natLE 2 0x1200 ++ natLE 2 0x1300) s t ∧
    connOf t q.conn = { x with stage := 1, chunkIn := [], chunkOut := [] } ∧ t = { s with mgmt := t.mgmt }) ∧
  (∀ s q x, spdmReady q 1 x s → (q.version = 0x12 ∨ q.version = 0x13) → ∃ t, exec (.getCapabilities q) s = .next t ∧
    spdmAnswered q 0x61 (natLE 1 18 ++ natLE 4 spdmCaps) s t ∧ connOf t q.conn = { x with stage := max x.stage 2, version := q.version } ∧
    t = { s with mgmt := t.mgmt }) ∧
  (∀ s q x, spdmReady q 2 x s → q.extAsymOk = true → q.sha256Ok = true → ∃ t, exec (.negotiateAlgorithms q) s = .next t ∧
    spdmAnswered q 0x63 (natLE 4 0 ++ natLE 4 1 ++ natLE 2 1) s t ∧ connOf t q.conn = { x with stage := 3 } ∧ t = { s with mgmt := t.mgmt }) ∧
  (∀ s q x, spdmReady q 3 x s → ∃ t, exec (.getDigests q) s = .next t ∧ spdmAnswered q 1 (natLE 1 1 ++ sha256 Config.certChain) s t ∧
    t.mgmt.conns = s.mgmt.conns ∧ t = { s with mgmt := t.mgmt }) ∧
  (∀ s q x part, spdmReady q 3 x s → q.slot = 0 → q.offset ≤ Config.certChain.length → part = (Config.certChain.drop q.offset).take q.length →
    ∃ t, exec (.getCertificate q) s = .next t ∧
    spdmAnswered q 2 (natLE 2 part.length ++ natLE 2 (Config.certChain.length - q.offset - part.length) ++ part) s t ∧ t.mgmt.conns = s.mgmt.conns ∧
    t = { s with mgmt := t.mgmt }) ∧
  (∀ s q x, spdmReady q 3 x s → q.slot = 0 → (obj s 0x1400 4 = 1 → ∃ t sig nonce, exec (.challenge q) s = .next t ∧ spdmAnswered q 0x7F (natLE 1 errLargeResponse) s t ∧
      connOf t q.conn = { x with chunkOut := natLE 1 3 ++ natLE 1 0 ++ sha256 Config.certChain ++ nonce ++ sig } ∧ sig.length = 17088 ∧ nonce.length = 32 ∧
      obj t 0x1400 5 = (obj s 0x1400 5 + 1) % 2 ^ 32 ∧ objsBut [(0x1400, 5)] s t ∧ t = { s with mgmt := t.mgmt, dict := t.dict, free := t.free }) ∧
    (obj s 0x1400 4 ≠ 1 → ∃ t, exec (.challenge q) s = .next t ∧ spdmAnswered q 0x7F (natLE 1 errUnspecified) s t ∧ t = { s with mgmt := t.mgmt })) ∧
  (∀ s q x b, spdmReady q 3 x s → measurementBody q s = some b → (q.signed = false → ∃ t, exec (.getMeasurements q) s = .next t ∧ spdmAnswered q 0x60 b s t ∧
      t.mgmt.conns = s.mgmt.conns ∧ t = { s with mgmt := t.mgmt }) ∧
    (q.signed = true → obj s 0x1400 4 = 1 → ∃ t sig, exec (.getMeasurements q) s = .next t ∧ spdmAnswered q 0x7F (natLE 1 errLargeResponse) s t ∧
      connOf t q.conn = { x with chunkOut := natLE 1 0x60 ++ b ++ sig } ∧ sig.length = 17088 ∧ t = { s with mgmt := t.mgmt, free := t.free })) ∧
  (∀ s q x, spdmReady q 2 x s → ∃ t, exec (.chunkSend q) s = .next t ∧ spdmAnswered q 5 [] s t ∧
    connOf t q.conn = { x with chunkIn := if q.last then [] else x.chunkIn ++ q.chunk } ∧ t = { s with mgmt := t.mgmt }) ∧
  (∀ s q x, spdmReady q 2 x s → x.chunkOut ≠ [] → q.offset ≤ x.chunkOut.length → ∃ t, exec (.chunkGet q) s = .next t ∧
    spdmAnswered q 6 ((x.chunkOut.drop q.offset).take q.length) s t ∧
    (connOf t q.conn).chunkOut = (if x.chunkOut.length ≤ q.offset + q.length then [] else x.chunkOut) ∧ t = { s with mgmt := t.mgmt }) ∧
  (∀ s q x c need, (c = .getCapabilities q ∧ need = 1 ∨ c = .negotiateAlgorithms q ∧ need = 2 ∨ c = .chunkSend q ∧ need = 2 ∨
      c = .chunkGet q ∧ need = 2 ∨ c = .getDigests q ∧ need = 3 ∨ c = .getCertificate q ∧ need = 3 ∨ c = .challenge q ∧ need = 3 ∨
      c = .getMeasurements q ∧ need = 3) → s.pwr.hoopRail = true → q.conn ≤ 64 → x = connOf s q.conn → x.stage < need →
    ∃ t, exec c s = .next t ∧ spdmAnswered q 0x7F (natLE 1 errUnexpected) s t ∧ t.mgmt.conns = s.mgmt.conns ∧ t = { s with mgmt := t.mgmt }) ∧
  (∀ s q x code, spdmReady q 0 x s → code ∉ spdmCodes → ∃ t, exec (.spdmUnsupportedRequest q code) s = .next t ∧
    spdmAnswered q 0x7F (natLE 1 errUnsupported ++ natLE 1 code) s t ∧ t.mgmt.conns = s.mgmt.conns ∧ t = { s with mgmt := t.mgmt }) ∧
  (∀ s e, adminReady e 0x82 s → bitsOf e.cdw10 31 24 = 0 → ∃ t, exec (.securityProtocolList e) s = .next t ∧ completed e stSuccess 0 0 s t ∧
    t.host.dma = s.host.dma ++ [{ addr := e.dptr, data := window (natLE 6 0 ++ [0, 2] ++ [0x00, 0xE8]) 0 e.cdw11, relaxed := s.host.relaxed.contains e.fn }] ∧ adminFrame s t)
end

