-- ==== Sys2Proof/Laws/Mem.lean ====
section
/-! SUPPORT. Laws of the sparse byte memories and number tables: what a read after a write gives, that a write leaves every other
key alone, and that every operation keeps the canonical form. -/

namespace Sys2Proof.Machine

open Sys2Proof

/-! ### Number tables -/

theorem kvGet_filter_ne (d k j : Nat) (h : j ≠ k) (m : KV) : kvGet d (m.filter fun e => e.1 != k) j = kvGet d m j := by
  induction m with
  | nil => rfl
  | cons e m ih =>
    obtain ⟨a, x⟩ := e
    by_cases ha : a = k
    · subst ha; simp [kvGet, ih, Ne.symm h]
    · rw [List.filter_cons_of_pos (by simpa using ha)]
      by_cases hj : a = j <;> simp [kvGet, hj, ih]

theorem kvGet_filter_same (d k : Nat) (m : KV) : kvGet d (m.filter fun e => e.1 != k) k = d := by
  induction m with
  | nil => rfl
  | cons e m ih =>
    obtain ⟨a, x⟩ := e
    by_cases ha : a = k <;> simp [kvGet, ha, ih]

theorem kvGet_kvIns_same (d k v : Nat) (m : KV) (h : ∀ e ∈ m, e.1 ≠ k) : kvGet d (kvIns m k v) k = v := by
  induction m with
  | nil => simp [kvIns, kvGet]
  | cons e m ih =>
    obtain ⟨a, x⟩ := e
    have ha : a ≠ k := h (a, x) (by simp)
    have ih := ih fun e he => h e (by simp [he])
    by_cases hk : k < a <;> simp [kvIns, kvGet, hk, ha, ih]

theorem kvGet_kvIns_ne (d k v j : Nat) (h : j ≠ k) (m : KV) : kvGet d (kvIns m k v) j = kvGet d m j := by
  induction m with
  | nil => simp [kvIns, kvGet, Ne.symm h]
  | cons e m ih =>
    obtain ⟨a, x⟩ := e
    by_cases hk : k < a <;> simp [kvIns, kvGet, hk, ih, Ne.symm h]

/-- Reading a key just written gives the value written. -/
@[simp] theorem kvGet_kvPut_same (d k v : Nat) (m : KV) : kvGet d (kvPut d m k v) k = v := by
  unfold kvPut
  by_cases hv : v = d
  · simp [hv, kvGet_filter_same]
  · simp only [beq_iff_eq, hv, if_false]
    exact kvGet_kvIns_same d k v _ fun e he => by simpa using (List.mem_filter.mp he).2

/-- A write leaves every other key alone. -/
theorem kvGet_kvPut_ne (d d' k v j : Nat) (h : j ≠ k) (m : KV) : kvGet d (kvPut d' m k v) j = kvGet d m j := by
  unfold kvPut
  by_cases hv : v = d'
  · simp [hv, kvGet_filter_ne d k j h]
  · simp only [beq_iff_eq, hv, if_false]
    rw [kvGet_kvIns_ne d k v j h, kvGet_filter_ne d k j h]

/-! ### Byte memories -/

theorem memByte_filter_ne (k j : Nat) (h : j ≠ k) (m : Mem) : memByte (m.filter fun e => e.1 != k) j = memByte m j := by
  induction m with
  | nil => rfl
  | cons e m ih =>
    obtain ⟨a, x⟩ := e
    by_cases ha : a = k
    · subst ha; simp [memByte, ih, Ne.symm h]
    · rw [List.filter_cons_of_pos (by simpa using ha)]
      by_cases hj : a = j <;> simp [memByte, hj, ih]

theorem memByte_filter_same (k : Nat) (m : Mem) : memByte (m.filter fun e => e.1 != k) k = 0 := by
  induction m with
  | nil => rfl
  | cons e m ih =>
    obtain ⟨a, x⟩ := e
    by_cases ha : a = k <;> simp [memByte, ha, ih]

theorem memByte_memIns_same (k : Nat) (v : Byte) (m : Mem) (h : ∀ e ∈ m, e.1 ≠ k) : memByte (memIns m k v) k = v := by
  induction m with
  | nil => simp [memIns, memByte]
  | cons e m ih =>
    obtain ⟨a, x⟩ := e
    have ha : a ≠ k := h (a, x) (by simp)
    have ih := ih fun e he => h e (by simp [he])
    by_cases hk : k < a <;> simp [memIns, memByte, hk, ha, ih]

theorem memByte_memIns_ne (k j : Nat) (v : Byte) (h : j ≠ k) (m : Mem) : memByte (memIns m k v) j = memByte m j := by
  induction m with
  | nil => simp [memIns, memByte, Ne.symm h]
  | cons e m ih =>
    obtain ⟨a, x⟩ := e
    by_cases hk : k < a <;> simp [memIns, memByte, hk, ih, Ne.symm h]

/-- Reading a byte just written gives it. -/
@[simp] theorem memByte_memPut_same (m : Mem) (k : Nat) (v : Byte) : memByte (memPut m k v) k = v := by
  unfold memPut
  by_cases hv : v = 0
  · simp [hv, memByte_filter_same]
  · simp only [beq_iff_eq, hv, if_false]
    exact memByte_memIns_same k v _ fun e he => by simpa using (List.mem_filter.mp he).2

/-- Writing one byte leaves every other byte alone. -/
theorem memByte_memPut_ne (m : Mem) (k j : Nat) (v : Byte) (h : j ≠ k) : memByte (memPut m k v) j = memByte m j := by
  unfold memPut
  by_cases hv : v = 0
  · simp [hv, memByte_filter_ne k j h]
  · simp only [beq_iff_eq, hv, if_false]
    rw [memByte_memIns_ne k j v h, memByte_filter_ne k j h]

/-- A byte string changes no byte outside it. -/
theorem memByte_memWrite_out (m : Mem) (a j : Nat) (bs : Bytes) (h : j < a ∨ a + bs.length ≤ j) :
    memByte (memWrite m a bs) j = memByte m j := by
  induction bs generalizing m a with
  | nil => rfl
  | cons b bs ih =>
    simp only [List.length_cons] at h
    rw [memWrite, ih (memPut m a b) (a + 1) (by omega), memByte_memPut_ne m a j b (by omega)]

/-- Reading back a byte string just written gives it. -/
theorem memByte_memWrite_in (m : Mem) (a i : Nat) (bs : Bytes) (h : i < bs.length) :
    memByte (memWrite m a bs) (a + i) = bs[i] := by
  induction bs generalizing m a i with
  | nil => simp at h
  | cons b bs ih =>
    cases i with
    | zero => rw [memWrite, memByte_memWrite_out _ _ _ _ (by omega)]; simp
    | succ i =>
      have := ih (memPut m a b) (a + 1) i (by simpa using h)
      rw [memWrite]; simpa [Nat.add_assoc, Nat.add_comm, Nat.add_left_comm] using this

/-! ### The canonical form -/

/-- The canonical form, said of every pair of entries: addresses strictly rise, and no byte is 00h. -/
def Mem.Canon (m : Mem) : Prop := m.Pairwise (fun c d => c.1 < d.1) ∧ ∀ c ∈ m, c.2 ≠ 0

theorem Mem.wf_iff (m : Mem) : Mem.wf m = true ↔ Mem.Canon m := by
  unfold Mem.Canon
  induction m with
  | nil => simp [Mem.wf]
  | cons c m ih =>
    obtain ⟨a, x⟩ := c
    cases m with
    | nil => simp [Mem.wf]
    | cons d m =>
      obtain ⟨b, y⟩ := d
      simp only [Mem.wf, Bool.and_eq_true, decide_eq_true_eq, bne_iff_ne, ih]
      constructor
      · rintro ⟨⟨hab, hx⟩, hp, hz⟩
        refine ⟨List.Pairwise.cons ?_ hp, ?_⟩
        · intro e he
          rcases List.mem_cons.mp he with rfl | he
          · exact hab
          · exact Nat.lt_trans hab ((List.pairwise_cons.mp hp).1 e he)
        · intro e he
          rcases List.mem_cons.mp he with rfl | he
          · exact hx
          · exact hz e he
      · rintro ⟨hp, hz⟩
        have h := List.pairwise_cons.mp hp
        exact ⟨⟨h.1 (b, y) (by simp), hz (a, x) (by simp)⟩, h.2, fun e he => hz e (List.mem_cons_of_mem _ he)⟩

theorem Mem.Canon.filter {m : Mem} (h : Mem.Canon m) (p : Host.Cell → Bool) : Mem.Canon (m.filter p) :=
  ⟨h.1.filter p, fun c hc => h.2 c (List.mem_filter.mp hc).1⟩

theorem memIns_mem (m : Mem) (k : Nat) (v : Byte) (c : Host.Cell) (h : c ∈ memIns m k v) : c = (k, v) ∨ c ∈ m := by
  induction m with
  | nil => simpa [memIns] using h
  | cons e m ih =>
    obtain ⟨a, x⟩ := e
    by_cases hk : k < a
    · simpa [memIns, hk] using h
    · simp only [memIns, hk, if_false, List.mem_cons] at h
      rcases h with rfl | h
      · simp
      · rcases ih h with rfl | h <;> simp_all

theorem Mem.Canon.ins {m : Mem} (h : Mem.Canon m) (k : Nat) (v : Byte) (hv : v ≠ 0) (hk : ∀ c ∈ m, c.1 ≠ k) :
    Mem.Canon (memIns m k v) := by
  induction m with
  | nil => exact ⟨by simp [memIns], by simpa [memIns] using hv⟩
  | cons e m ih =>
    obtain ⟨a, x⟩ := e
    have hp := List.pairwise_cons.mp h.1
    have hm : Mem.Canon m := ⟨hp.2, fun c hc => h.2 c (List.mem_cons_of_mem _ hc)⟩
    have ha : a ≠ k := hk (a, x) (by simp)
    by_cases hlt : k < a
    · simp only [memIns, hlt, if_true]
      refine ⟨List.Pairwise.cons ?_ h.1, ?_⟩
      · intro c hc
        rcases List.mem_cons.mp hc with rfl | hc
        · exact hlt
        · exact Nat.lt_trans hlt (hp.1 c hc)
      · intro c hc
        rcases List.mem_cons.mp hc with rfl | hc
        · exact hv
        · exact h.2 c hc
    · simp only [memIns, hlt, if_false]
      have ih := ih hm fun c hc => hk c (List.mem_cons_of_mem _ hc)
      refine ⟨List.Pairwise.cons ?_ ih.1, ?_⟩
      · intro c hc
        rcases memIns_mem m k v c hc with rfl | hc
        · simp only; omega
        · exact hp.1 c hc
      · intro c hc
        rcases List.mem_cons.mp hc with rfl | hc
        · exact h.2 _ (by simp)
        · exact ih.2 c hc

theorem Mem.Canon.put {m : Mem} (h : Mem.Canon m) (k : Nat) (v : Byte) : Mem.Canon (memPut m k v) := by
  unfold memPut
  by_cases hv : v = 0
  · simpa [hv] using h.filter _
  · simp only [beq_iff_eq, hv, if_false]
    exact (h.filter _).ins k v hv fun c hc => by simpa using (List.mem_filter.mp hc).2

/-- Writing one byte keeps the canonical form. -/
theorem memPut_wf (m : Mem) (k : Nat) (v : Byte) (h : Mem.wf m = true) : Mem.wf (memPut m k v) = true :=
  (Mem.wf_iff _).mpr (((Mem.wf_iff m).mp h).put k v)

/-- Writing a byte string keeps the canonical form. -/
theorem memWrite_wf (m : Mem) (a : Nat) (bs : Bytes) (h : Mem.wf m = true) : Mem.wf (memWrite m a bs) = true := by
  induction bs generalizing m a with
  | nil => exact h
  | cons b bs ih => exact ih (memPut m a b) (a + 1) (memPut_wf m a b h)

/-- Clearing a range keeps the canonical form. -/
theorem memClear_wf (m : Mem) (lo hi : Nat) (h : Mem.wf m = true) : Mem.wf (memClear m lo hi) = true :=
  (Mem.wf_iff _).mpr (((Mem.wf_iff m).mp h).filter _)

theorem foldl_memPut_wf (l : Mem) (lo : Nat) (m : Mem) (h : Mem.wf m = true) :
    Mem.wf (l.foldl (fun m c => memPut m (lo + c.1) c.2) m) = true := by
  induction l generalizing m with
  | nil => exact h
  | cons c l ih => exact ih _ (memPut_wf m _ _ h)

/-- Copying one memory over a range of another keeps the canonical form. -/
theorem memOver_wf (m : Mem) (lo n : Nat) (src : Mem) (h : Mem.wf m = true) : Mem.wf (memOver m lo n src) = true :=
  foldl_memPut_wf _ _ _ (memClear_wf _ _ _ h)

/-- Writing a number keeps the canonical form. -/
theorem memPutNat_wf (m : Mem) (a n v : Nat) (h : Mem.wf m = true) : Mem.wf (memPutNat m a n v) = true := memWrite_wf _ _ _ h

/-- The memory of a byte string from an address has the canonical form and starts there at the earliest. -/
theorem memFrom_canon (a : Nat) (bs : Bytes) : Mem.Canon (memFrom a bs) ∧ ∀ c ∈ memFrom a bs, a ≤ c.1 := by
  induction bs generalizing a with
  | nil => exact ⟨⟨.nil, by simp [memFrom]⟩, by simp [memFrom]⟩
  | cons b bs ih =>
    obtain ⟨⟨p, z⟩, l⟩ := ih (a + 1)
    simp only [memFrom]
    split
    · exact ⟨⟨p, z⟩, fun c h => by have := l c h; omega⟩
    · rename_i hb
      refine ⟨⟨List.pairwise_cons.mpr ⟨fun c h => by have := l c h; simp only; omega, p⟩, ?_⟩, ?_⟩
      · have h0 : ¬b = 0#8 := by simpa using hb
        simpa [h0] using z
      · intro c h
        obtain rfl | h := List.mem_cons.mp h
        · exact Nat.le_refl _
        · have := l c h; omega

/-- The memory of a byte string has the canonical form. -/
theorem memOf_wf (bs : Bytes) : Mem.wf (memOf bs) = true := (Mem.wf_iff _).mpr (memFrom_canon 0 bs).1

/-- A slice of a memory has the canonical form. -/
theorem memSlice_wf (m : Mem) (lo hi : Nat) (h : Mem.wf m = true) : Mem.wf (memSlice m lo hi) = true := by
  rw [Mem.wf_iff] at h ⊢
  have hf := h.filter fun c => decide (lo ≤ c.1) && decide (c.1 < hi)
  refine ⟨List.pairwise_map.mpr (hf.1.imp_of_mem ?_), ?_⟩
  · intro c d hc hd hcd
    have h1 := (List.mem_filter.mp hc).2
    have h2 := (List.mem_filter.mp hd).2
    simp only [Bool.and_eq_true, decide_eq_true_eq] at h1 h2
    simp only; omega
  · intro c hc
    obtain ⟨d, hd, rfl⟩ := List.mem_map.mp hc
    exact hf.2 d hd

end Sys2Proof.Machine
end

