-- ==== Sys2Proof/Laws/State.lean ====
section
/-! SUPPORT. One lemma per field per update of the state, each true by rfl, so that no later proof unfolds a record update; and what
a read of the object dictionary gives after each update. -/

namespace Sys2Proof.Machine

open Sys2Proof

variable (s : State)

/-! ### modPwr -/

@[simp] theorem modPwr_pending (h : Power → Power) : (modPwr h s).pending = s.pending := rfl
@[simp] theorem modPwr_time (h : Power → Power) : (modPwr h s).time = s.time := rfl
@[simp] theorem modPwr_free (h : Power → Power) : (modPwr h s).free = s.free := rfl
@[simp] theorem modPwr_thr (h : Power → Power) : (modPwr h s).thr = s.thr := rfl
@[simp] theorem modPwr_pwr (h : Power → Power) : (modPwr h s).pwr = h s.pwr := rfl
@[simp] theorem modPwr_dict (h : Power → Power) : (modPwr h s).dict = s.dict := rfl
@[simp] theorem modPwr_mgmt (h : Power → Power) : (modPwr h s).mgmt = s.mgmt := rfl
@[simp] theorem modPwr_fw (h : Power → Power) : (modPwr h s).fw = s.fw := rfl
@[simp] theorem modPwr_host (h : Power → Power) : (modPwr h s).host = s.host := rfl
@[simp] theorem modPwr_blk (h : Power → Power) : (modPwr h s).blk = s.blk := rfl
@[simp] theorem modPwr_nand (h : Power → Power) : (modPwr h s).nand = s.nand := rfl
@[simp] theorem modPwr_tier (h : Power → Power) : (modPwr h s).tier = s.tier := rfl
@[simp] theorem modPwr_integ (h : Power → Power) : (modPwr h s).integ = s.integ := rfl
@[simp] theorem modPwr_arr (h : Power → Power) : (modPwr h s).arr = s.arr := rfl
@[simp] theorem modPwr_jobs (h : Power → Power) : (modPwr h s).jobs = s.jobs := rfl
@[simp] theorem modPwr_sync (h : Power → Power) : (modPwr h s).sync = s.sync := rfl
@[simp] theorem modPwr_retr (h : Power → Power) : (modPwr h s).retr = s.retr := rfl
@[simp] theorem modPwr_churn (h : Power → Power) : (modPwr h s).churn = s.churn := rfl
@[simp] theorem modPwr_wyv (h : Power → Power) : (modPwr h s).wyv = s.wyv := rfl
@[simp] theorem obj_modPwr (h : Power → Power) (i j : Nat) : obj (modPwr h s) i j = obj s i j := rfl

/-! ### modDict -/

@[simp] theorem modDict_pending (h : Dict → Dict) : (modDict h s).pending = s.pending := rfl
@[simp] theorem modDict_time (h : Dict → Dict) : (modDict h s).time = s.time := rfl
@[simp] theorem modDict_free (h : Dict → Dict) : (modDict h s).free = s.free := rfl
@[simp] theorem modDict_thr (h : Dict → Dict) : (modDict h s).thr = s.thr := rfl
@[simp] theorem modDict_pwr (h : Dict → Dict) : (modDict h s).pwr = s.pwr := rfl
@[simp] theorem modDict_dict (h : Dict → Dict) : (modDict h s).dict = h s.dict := rfl
@[simp] theorem modDict_mgmt (h : Dict → Dict) : (modDict h s).mgmt = s.mgmt := rfl
@[simp] theorem modDict_fw (h : Dict → Dict) : (modDict h s).fw = s.fw := rfl
@[simp] theorem modDict_host (h : Dict → Dict) : (modDict h s).host = s.host := rfl
@[simp] theorem modDict_blk (h : Dict → Dict) : (modDict h s).blk = s.blk := rfl
@[simp] theorem modDict_nand (h : Dict → Dict) : (modDict h s).nand = s.nand := rfl
@[simp] theorem modDict_tier (h : Dict → Dict) : (modDict h s).tier = s.tier := rfl
@[simp] theorem modDict_integ (h : Dict → Dict) : (modDict h s).integ = s.integ := rfl
@[simp] theorem modDict_arr (h : Dict → Dict) : (modDict h s).arr = s.arr := rfl
@[simp] theorem modDict_jobs (h : Dict → Dict) : (modDict h s).jobs = s.jobs := rfl
@[simp] theorem modDict_sync (h : Dict → Dict) : (modDict h s).sync = s.sync := rfl
@[simp] theorem modDict_retr (h : Dict → Dict) : (modDict h s).retr = s.retr := rfl
@[simp] theorem modDict_churn (h : Dict → Dict) : (modDict h s).churn = s.churn := rfl
@[simp] theorem modDict_wyv (h : Dict → Dict) : (modDict h s).wyv = s.wyv := rfl

/-! ### modMgmt -/

@[simp] theorem modMgmt_pending (h : Mgmt → Mgmt) : (modMgmt h s).pending = s.pending := rfl
@[simp] theorem modMgmt_time (h : Mgmt → Mgmt) : (modMgmt h s).time = s.time := rfl
@[simp] theorem modMgmt_free (h : Mgmt → Mgmt) : (modMgmt h s).free = s.free := rfl
@[simp] theorem modMgmt_thr (h : Mgmt → Mgmt) : (modMgmt h s).thr = s.thr := rfl
@[simp] theorem modMgmt_pwr (h : Mgmt → Mgmt) : (modMgmt h s).pwr = s.pwr := rfl
@[simp] theorem modMgmt_dict (h : Mgmt → Mgmt) : (modMgmt h s).dict = s.dict := rfl
@[simp] theorem modMgmt_mgmt (h : Mgmt → Mgmt) : (modMgmt h s).mgmt = h s.mgmt := rfl
@[simp] theorem modMgmt_fw (h : Mgmt → Mgmt) : (modMgmt h s).fw = s.fw := rfl
@[simp] theorem modMgmt_host (h : Mgmt → Mgmt) : (modMgmt h s).host = s.host := rfl
@[simp] theorem modMgmt_blk (h : Mgmt → Mgmt) : (modMgmt h s).blk = s.blk := rfl
@[simp] theorem modMgmt_nand (h : Mgmt → Mgmt) : (modMgmt h s).nand = s.nand := rfl
@[simp] theorem modMgmt_tier (h : Mgmt → Mgmt) : (modMgmt h s).tier = s.tier := rfl
@[simp] theorem modMgmt_integ (h : Mgmt → Mgmt) : (modMgmt h s).integ = s.integ := rfl
@[simp] theorem modMgmt_arr (h : Mgmt → Mgmt) : (modMgmt h s).arr = s.arr := rfl
@[simp] theorem modMgmt_jobs (h : Mgmt → Mgmt) : (modMgmt h s).jobs = s.jobs := rfl
@[simp] theorem modMgmt_sync (h : Mgmt → Mgmt) : (modMgmt h s).sync = s.sync := rfl
@[simp] theorem modMgmt_retr (h : Mgmt → Mgmt) : (modMgmt h s).retr = s.retr := rfl
@[simp] theorem modMgmt_churn (h : Mgmt → Mgmt) : (modMgmt h s).churn = s.churn := rfl
@[simp] theorem modMgmt_wyv (h : Mgmt → Mgmt) : (modMgmt h s).wyv = s.wyv := rfl
@[simp] theorem obj_modMgmt (h : Mgmt → Mgmt) (i j : Nat) : obj (modMgmt h s) i j = obj s i j := rfl

/-! ### modFw -/

@[simp] theorem modFw_pending (h : Firmware → Firmware) : (modFw h s).pending = s.pending := rfl
@[simp] theorem modFw_time (h : Firmware → Firmware) : (modFw h s).time = s.time := rfl
@[simp] theorem modFw_free (h : Firmware → Firmware) : (modFw h s).free = s.free := rfl
@[simp] theorem modFw_thr (h : Firmware → Firmware) : (modFw h s).thr = s.thr := rfl
@[simp] theorem modFw_pwr (h : Firmware → Firmware) : (modFw h s).pwr = s.pwr := rfl
@[simp] theorem modFw_dict (h : Firmware → Firmware) : (modFw h s).dict = s.dict := rfl
@[simp] theorem modFw_mgmt (h : Firmware → Firmware) : (modFw h s).mgmt = s.mgmt := rfl
@[simp] theorem modFw_fw (h : Firmware → Firmware) : (modFw h s).fw = h s.fw := rfl
@[simp] theorem modFw_host (h : Firmware → Firmware) : (modFw h s).host = s.host := rfl
@[simp] theorem modFw_blk (h : Firmware → Firmware) : (modFw h s).blk = s.blk := rfl
@[simp] theorem modFw_nand (h : Firmware → Firmware) : (modFw h s).nand = s.nand := rfl
@[simp] theorem modFw_tier (h : Firmware → Firmware) : (modFw h s).tier = s.tier := rfl
@[simp] theorem modFw_integ (h : Firmware → Firmware) : (modFw h s).integ = s.integ := rfl
@[simp] theorem modFw_arr (h : Firmware → Firmware) : (modFw h s).arr = s.arr := rfl
@[simp] theorem modFw_jobs (h : Firmware → Firmware) : (modFw h s).jobs = s.jobs := rfl
@[simp] theorem modFw_sync (h : Firmware → Firmware) : (modFw h s).sync = s.sync := rfl
@[simp] theorem modFw_retr (h : Firmware → Firmware) : (modFw h s).retr = s.retr := rfl
@[simp] theorem modFw_churn (h : Firmware → Firmware) : (modFw h s).churn = s.churn := rfl
@[simp] theorem modFw_wyv (h : Firmware → Firmware) : (modFw h s).wyv = s.wyv := rfl
@[simp] theorem obj_modFw (h : Firmware → Firmware) (i j : Nat) : obj (modFw h s) i j = obj s i j := rfl

/-! ### modHost -/

@[simp] theorem modHost_pending (h : HostIf → HostIf) : (modHost h s).pending = s.pending := rfl
@[simp] theorem modHost_time (h : HostIf → HostIf) : (modHost h s).time = s.time := rfl
@[simp] theorem modHost_free (h : HostIf → HostIf) : (modHost h s).free = s.free := rfl
@[simp] theorem modHost_thr (h : HostIf → HostIf) : (modHost h s).thr = s.thr := rfl
@[simp] theorem modHost_pwr (h : HostIf → HostIf) : (modHost h s).pwr = s.pwr := rfl
@[simp] theorem modHost_dict (h : HostIf → HostIf) : (modHost h s).dict = s.dict := rfl
@[simp] theorem modHost_mgmt (h : HostIf → HostIf) : (modHost h s).mgmt = s.mgmt := rfl
@[simp] theorem modHost_fw (h : HostIf → HostIf) : (modHost h s).fw = s.fw := rfl
@[simp] theorem modHost_host (h : HostIf → HostIf) : (modHost h s).host = h s.host := rfl
@[simp] theorem modHost_blk (h : HostIf → HostIf) : (modHost h s).blk = s.blk := rfl
@[simp] theorem modHost_nand (h : HostIf → HostIf) : (modHost h s).nand = s.nand := rfl
@[simp] theorem modHost_tier (h : HostIf → HostIf) : (modHost h s).tier = s.tier := rfl
@[simp] theorem modHost_integ (h : HostIf → HostIf) : (modHost h s).integ = s.integ := rfl
@[simp] theorem modHost_arr (h : HostIf → HostIf) : (modHost h s).arr = s.arr := rfl
@[simp] theorem modHost_jobs (h : HostIf → HostIf) : (modHost h s).jobs = s.jobs := rfl
@[simp] theorem modHost_sync (h : HostIf → HostIf) : (modHost h s).sync = s.sync := rfl
@[simp] theorem modHost_retr (h : HostIf → HostIf) : (modHost h s).retr = s.retr := rfl
@[simp] theorem modHost_churn (h : HostIf → HostIf) : (modHost h s).churn = s.churn := rfl
@[simp] theorem modHost_wyv (h : HostIf → HostIf) : (modHost h s).wyv = s.wyv := rfl
@[simp] theorem obj_modHost (h : HostIf → HostIf) (i j : Nat) : obj (modHost h s) i j = obj s i j := rfl

/-! ### modBlk -/

@[simp] theorem modBlk_pending (h : Block → Block) : (modBlk h s).pending = s.pending := rfl
@[simp] theorem modBlk_time (h : Block → Block) : (modBlk h s).time = s.time := rfl
@[simp] theorem modBlk_free (h : Block → Block) : (modBlk h s).free = s.free := rfl
@[simp] theorem modBlk_thr (h : Block → Block) : (modBlk h s).thr = s.thr := rfl
@[simp] theorem modBlk_pwr (h : Block → Block) : (modBlk h s).pwr = s.pwr := rfl
@[simp] theorem modBlk_dict (h : Block → Block) : (modBlk h s).dict = s.dict := rfl
@[simp] theorem modBlk_mgmt (h : Block → Block) : (modBlk h s).mgmt = s.mgmt := rfl
@[simp] theorem modBlk_fw (h : Block → Block) : (modBlk h s).fw = s.fw := rfl
@[simp] theorem modBlk_host (h : Block → Block) : (modBlk h s).host = s.host := rfl
@[simp] theorem modBlk_blk (h : Block → Block) : (modBlk h s).blk = h s.blk := rfl
@[simp] theorem modBlk_nand (h : Block → Block) : (modBlk h s).nand = s.nand := rfl
@[simp] theorem modBlk_tier (h : Block → Block) : (modBlk h s).tier = s.tier := rfl
@[simp] theorem modBlk_integ (h : Block → Block) : (modBlk h s).integ = s.integ := rfl
@[simp] theorem modBlk_arr (h : Block → Block) : (modBlk h s).arr = s.arr := rfl
@[simp] theorem modBlk_jobs (h : Block → Block) : (modBlk h s).jobs = s.jobs := rfl
@[simp] theorem modBlk_sync (h : Block → Block) : (modBlk h s).sync = s.sync := rfl
@[simp] theorem modBlk_retr (h : Block → Block) : (modBlk h s).retr = s.retr := rfl
@[simp] theorem modBlk_churn (h : Block → Block) : (modBlk h s).churn = s.churn := rfl
@[simp] theorem modBlk_wyv (h : Block → Block) : (modBlk h s).wyv = s.wyv := rfl
@[simp] theorem obj_modBlk (h : Block → Block) (i j : Nat) : obj (modBlk h s) i j = obj s i j := rfl

/-! ### modNand -/

@[simp] theorem modNand_pending (h : Nand → Nand) : (modNand h s).pending = s.pending := rfl
@[simp] theorem modNand_time (h : Nand → Nand) : (modNand h s).time = s.time := rfl
@[simp] theorem modNand_free (h : Nand → Nand) : (modNand h s).free = s.free := rfl
@[simp] theorem modNand_thr (h : Nand → Nand) : (modNand h s).thr = s.thr := rfl
@[simp] theorem modNand_pwr (h : Nand → Nand) : (modNand h s).pwr = s.pwr := rfl
@[simp] theorem modNand_dict (h : Nand → Nand) : (modNand h s).dict = s.dict := rfl
@[simp] theorem modNand_mgmt (h : Nand → Nand) : (modNand h s).mgmt = s.mgmt := rfl
@[simp] theorem modNand_fw (h : Nand → Nand) : (modNand h s).fw = s.fw := rfl
@[simp] theorem modNand_host (h : Nand → Nand) : (modNand h s).host = s.host := rfl
@[simp] theorem modNand_blk (h : Nand → Nand) : (modNand h s).blk = s.blk := rfl
@[simp] theorem modNand_nand (h : Nand → Nand) : (modNand h s).nand = h s.nand := rfl
@[simp] theorem modNand_tier (h : Nand → Nand) : (modNand h s).tier = s.tier := rfl
@[simp] theorem modNand_integ (h : Nand → Nand) : (modNand h s).integ = s.integ := rfl
@[simp] theorem modNand_arr (h : Nand → Nand) : (modNand h s).arr = s.arr := rfl
@[simp] theorem modNand_jobs (h : Nand → Nand) : (modNand h s).jobs = s.jobs := rfl
@[simp] theorem modNand_sync (h : Nand → Nand) : (modNand h s).sync = s.sync := rfl
@[simp] theorem modNand_retr (h : Nand → Nand) : (modNand h s).retr = s.retr := rfl
@[simp] theorem modNand_churn (h : Nand → Nand) : (modNand h s).churn = s.churn := rfl
@[simp] theorem modNand_wyv (h : Nand → Nand) : (modNand h s).wyv = s.wyv := rfl
@[simp] theorem obj_modNand (h : Nand → Nand) (i j : Nat) : obj (modNand h s) i j = obj s i j := rfl

/-! ### modTier -/

@[simp] theorem modTier_pending (h : Tiers → Tiers) : (modTier h s).pending = s.pending := rfl
@[simp] theorem modTier_time (h : Tiers → Tiers) : (modTier h s).time = s.time := rfl
@[simp] theorem modTier_free (h : Tiers → Tiers) : (modTier h s).free = s.free := rfl
@[simp] theorem modTier_thr (h : Tiers → Tiers) : (modTier h s).thr = s.thr := rfl
@[simp] theorem modTier_pwr (h : Tiers → Tiers) : (modTier h s).pwr = s.pwr := rfl
@[simp] theorem modTier_dict (h : Tiers → Tiers) : (modTier h s).dict = s.dict := rfl
@[simp] theorem modTier_mgmt (h : Tiers → Tiers) : (modTier h s).mgmt = s.mgmt := rfl
@[simp] theorem modTier_fw (h : Tiers → Tiers) : (modTier h s).fw = s.fw := rfl
@[simp] theorem modTier_host (h : Tiers → Tiers) : (modTier h s).host = s.host := rfl
@[simp] theorem modTier_blk (h : Tiers → Tiers) : (modTier h s).blk = s.blk := rfl
@[simp] theorem modTier_nand (h : Tiers → Tiers) : (modTier h s).nand = s.nand := rfl
@[simp] theorem modTier_tier (h : Tiers → Tiers) : (modTier h s).tier = h s.tier := rfl
@[simp] theorem modTier_integ (h : Tiers → Tiers) : (modTier h s).integ = s.integ := rfl
@[simp] theorem modTier_arr (h : Tiers → Tiers) : (modTier h s).arr = s.arr := rfl
@[simp] theorem modTier_jobs (h : Tiers → Tiers) : (modTier h s).jobs = s.jobs := rfl
@[simp] theorem modTier_sync (h : Tiers → Tiers) : (modTier h s).sync = s.sync := rfl
@[simp] theorem modTier_retr (h : Tiers → Tiers) : (modTier h s).retr = s.retr := rfl
@[simp] theorem modTier_churn (h : Tiers → Tiers) : (modTier h s).churn = s.churn := rfl
@[simp] theorem modTier_wyv (h : Tiers → Tiers) : (modTier h s).wyv = s.wyv := rfl
@[simp] theorem obj_modTier (h : Tiers → Tiers) (i j : Nat) : obj (modTier h s) i j = obj s i j := rfl

/-! ### modInteg -/

@[simp] theorem modInteg_pending (h : Integrity → Integrity) : (modInteg h s).pending = s.pending := rfl
@[simp] theorem modInteg_time (h : Integrity → Integrity) : (modInteg h s).time = s.time := rfl
@[simp] theorem modInteg_free (h : Integrity → Integrity) : (modInteg h s).free = s.free := rfl
@[simp] theorem modInteg_thr (h : Integrity → Integrity) : (modInteg h s).thr = s.thr := rfl
@[simp] theorem modInteg_pwr (h : Integrity → Integrity) : (modInteg h s).pwr = s.pwr := rfl
@[simp] theorem modInteg_dict (h : Integrity → Integrity) : (modInteg h s).dict = s.dict := rfl
@[simp] theorem modInteg_mgmt (h : Integrity → Integrity) : (modInteg h s).mgmt = s.mgmt := rfl
@[simp] theorem modInteg_fw (h : Integrity → Integrity) : (modInteg h s).fw = s.fw := rfl
@[simp] theorem modInteg_host (h : Integrity → Integrity) : (modInteg h s).host = s.host := rfl
@[simp] theorem modInteg_blk (h : Integrity → Integrity) : (modInteg h s).blk = s.blk := rfl
@[simp] theorem modInteg_nand (h : Integrity → Integrity) : (modInteg h s).nand = s.nand := rfl
@[simp] theorem modInteg_tier (h : Integrity → Integrity) : (modInteg h s).tier = s.tier := rfl
@[simp] theorem modInteg_integ (h : Integrity → Integrity) : (modInteg h s).integ = h s.integ := rfl
@[simp] theorem modInteg_arr (h : Integrity → Integrity) : (modInteg h s).arr = s.arr := rfl
@[simp] theorem modInteg_jobs (h : Integrity → Integrity) : (modInteg h s).jobs = s.jobs := rfl
@[simp] theorem modInteg_sync (h : Integrity → Integrity) : (modInteg h s).sync = s.sync := rfl
@[simp] theorem modInteg_retr (h : Integrity → Integrity) : (modInteg h s).retr = s.retr := rfl
@[simp] theorem modInteg_churn (h : Integrity → Integrity) : (modInteg h s).churn = s.churn := rfl
@[simp] theorem modInteg_wyv (h : Integrity → Integrity) : (modInteg h s).wyv = s.wyv := rfl
@[simp] theorem obj_modInteg (h : Integrity → Integrity) (i j : Nat) : obj (modInteg h s) i j = obj s i j := rfl

/-! ### modArr -/

@[simp] theorem modArr_pending (h : CellArray → CellArray) : (modArr h s).pending = s.pending := rfl
@[simp] theorem modArr_time (h : CellArray → CellArray) : (modArr h s).time = s.time := rfl
@[simp] theorem modArr_free (h : CellArray → CellArray) : (modArr h s).free = s.free := rfl
@[simp] theorem modArr_thr (h : CellArray → CellArray) : (modArr h s).thr = s.thr := rfl
@[simp] theorem modArr_pwr (h : CellArray → CellArray) : (modArr h s).pwr = s.pwr := rfl
@[simp] theorem modArr_dict (h : CellArray → CellArray) : (modArr h s).dict = s.dict := rfl
@[simp] theorem modArr_mgmt (h : CellArray → CellArray) : (modArr h s).mgmt = s.mgmt := rfl
@[simp] theorem modArr_fw (h : CellArray → CellArray) : (modArr h s).fw = s.fw := rfl
@[simp] theorem modArr_host (h : CellArray → CellArray) : (modArr h s).host = s.host := rfl
@[simp] theorem modArr_blk (h : CellArray → CellArray) : (modArr h s).blk = s.blk := rfl
@[simp] theorem modArr_nand (h : CellArray → CellArray) : (modArr h s).nand = s.nand := rfl
@[simp] theorem modArr_tier (h : CellArray → CellArray) : (modArr h s).tier = s.tier := rfl
@[simp] theorem modArr_integ (h : CellArray → CellArray) : (modArr h s).integ = s.integ := rfl
@[simp] theorem modArr_arr (h : CellArray → CellArray) : (modArr h s).arr = h s.arr := rfl
@[simp] theorem modArr_jobs (h : CellArray → CellArray) : (modArr h s).jobs = s.jobs := rfl
@[simp] theorem modArr_sync (h : CellArray → CellArray) : (modArr h s).sync = s.sync := rfl
@[simp] theorem modArr_retr (h : CellArray → CellArray) : (modArr h s).retr = s.retr := rfl
@[simp] theorem modArr_churn (h : CellArray → CellArray) : (modArr h s).churn = s.churn := rfl
@[simp] theorem modArr_wyv (h : CellArray → CellArray) : (modArr h s).wyv = s.wyv := rfl
@[simp] theorem obj_modArr (h : CellArray → CellArray) (i j : Nat) : obj (modArr h s) i j = obj s i j := rfl

/-! ### modJobs -/

@[simp] theorem modJobs_pending (h : Jobs → Jobs) : (modJobs h s).pending = s.pending := rfl
@[simp] theorem modJobs_time (h : Jobs → Jobs) : (modJobs h s).time = s.time := rfl
@[simp] theorem modJobs_free (h : Jobs → Jobs) : (modJobs h s).free = s.free := rfl
@[simp] theorem modJobs_thr (h : Jobs → Jobs) : (modJobs h s).thr = s.thr := rfl
@[simp] theorem modJobs_pwr (h : Jobs → Jobs) : (modJobs h s).pwr = s.pwr := rfl
@[simp] theorem modJobs_dict (h : Jobs → Jobs) : (modJobs h s).dict = s.dict := rfl
@[simp] theorem modJobs_mgmt (h : Jobs → Jobs) : (modJobs h s).mgmt = s.mgmt := rfl
@[simp] theorem modJobs_fw (h : Jobs → Jobs) : (modJobs h s).fw = s.fw := rfl
@[simp] theorem modJobs_host (h : Jobs → Jobs) : (modJobs h s).host = s.host := rfl
@[simp] theorem modJobs_blk (h : Jobs → Jobs) : (modJobs h s).blk = s.blk := rfl
@[simp] theorem modJobs_nand (h : Jobs → Jobs) : (modJobs h s).nand = s.nand := rfl
@[simp] theorem modJobs_tier (h : Jobs → Jobs) : (modJobs h s).tier = s.tier := rfl
@[simp] theorem modJobs_integ (h : Jobs → Jobs) : (modJobs h s).integ = s.integ := rfl
@[simp] theorem modJobs_arr (h : Jobs → Jobs) : (modJobs h s).arr = s.arr := rfl
@[simp] theorem modJobs_jobs (h : Jobs → Jobs) : (modJobs h s).jobs = h s.jobs := rfl
@[simp] theorem modJobs_sync (h : Jobs → Jobs) : (modJobs h s).sync = s.sync := rfl
@[simp] theorem modJobs_retr (h : Jobs → Jobs) : (modJobs h s).retr = s.retr := rfl
@[simp] theorem modJobs_churn (h : Jobs → Jobs) : (modJobs h s).churn = s.churn := rfl
@[simp] theorem modJobs_wyv (h : Jobs → Jobs) : (modJobs h s).wyv = s.wyv := rfl
@[simp] theorem obj_modJobs (h : Jobs → Jobs) (i j : Nat) : obj (modJobs h s) i j = obj s i j := rfl

/-! ### modSync -/

@[simp] theorem modSync_pending (h : Sync → Sync) : (modSync h s).pending = s.pending := rfl
@[simp] theorem modSync_time (h : Sync → Sync) : (modSync h s).time = s.time := rfl
@[simp] theorem modSync_free (h : Sync → Sync) : (modSync h s).free = s.free := rfl
@[simp] theorem modSync_thr (h : Sync → Sync) : (modSync h s).thr = s.thr := rfl
@[simp] theorem modSync_pwr (h : Sync → Sync) : (modSync h s).pwr = s.pwr := rfl
@[simp] theorem modSync_dict (h : Sync → Sync) : (modSync h s).dict = s.dict := rfl
@[simp] theorem modSync_mgmt (h : Sync → Sync) : (modSync h s).mgmt = s.mgmt := rfl
@[simp] theorem modSync_fw (h : Sync → Sync) : (modSync h s).fw = s.fw := rfl
@[simp] theorem modSync_host (h : Sync → Sync) : (modSync h s).host = s.host := rfl
@[simp] theorem modSync_blk (h : Sync → Sync) : (modSync h s).blk = s.blk := rfl
@[simp] theorem modSync_nand (h : Sync → Sync) : (modSync h s).nand = s.nand := rfl
@[simp] theorem modSync_tier (h : Sync → Sync) : (modSync h s).tier = s.tier := rfl
@[simp] theorem modSync_integ (h : Sync → Sync) : (modSync h s).integ = s.integ := rfl
@[simp] theorem modSync_arr (h : Sync → Sync) : (modSync h s).arr = s.arr := rfl
@[simp] theorem modSync_jobs (h : Sync → Sync) : (modSync h s).jobs = s.jobs := rfl
@[simp] theorem modSync_sync (h : Sync → Sync) : (modSync h s).sync = h s.sync := rfl
@[simp] theorem modSync_retr (h : Sync → Sync) : (modSync h s).retr = s.retr := rfl
@[simp] theorem modSync_churn (h : Sync → Sync) : (modSync h s).churn = s.churn := rfl
@[simp] theorem modSync_wyv (h : Sync → Sync) : (modSync h s).wyv = s.wyv := rfl
@[simp] theorem obj_modSync (h : Sync → Sync) (i j : Nat) : obj (modSync h s) i j = obj s i j := rfl

/-! ### modRetr -/

@[simp] theorem modRetr_pending (h : Retrieval → Retrieval) : (modRetr h s).pending = s.pending := rfl
@[simp] theorem modRetr_time (h : Retrieval → Retrieval) : (modRetr h s).time = s.time := rfl
@[simp] theorem modRetr_free (h : Retrieval → Retrieval) : (modRetr h s).free = s.free := rfl
@[simp] theorem modRetr_thr (h : Retrieval → Retrieval) : (modRetr h s).thr = s.thr := rfl
@[simp] theorem modRetr_pwr (h : Retrieval → Retrieval) : (modRetr h s).pwr = s.pwr := rfl
@[simp] theorem modRetr_dict (h : Retrieval → Retrieval) : (modRetr h s).dict = s.dict := rfl
@[simp] theorem modRetr_mgmt (h : Retrieval → Retrieval) : (modRetr h s).mgmt = s.mgmt := rfl
@[simp] theorem modRetr_fw (h : Retrieval → Retrieval) : (modRetr h s).fw = s.fw := rfl
@[simp] theorem modRetr_host (h : Retrieval → Retrieval) : (modRetr h s).host = s.host := rfl
@[simp] theorem modRetr_blk (h : Retrieval → Retrieval) : (modRetr h s).blk = s.blk := rfl
@[simp] theorem modRetr_nand (h : Retrieval → Retrieval) : (modRetr h s).nand = s.nand := rfl
@[simp] theorem modRetr_tier (h : Retrieval → Retrieval) : (modRetr h s).tier = s.tier := rfl
@[simp] theorem modRetr_integ (h : Retrieval → Retrieval) : (modRetr h s).integ = s.integ := rfl
@[simp] theorem modRetr_arr (h : Retrieval → Retrieval) : (modRetr h s).arr = s.arr := rfl
@[simp] theorem modRetr_jobs (h : Retrieval → Retrieval) : (modRetr h s).jobs = s.jobs := rfl
@[simp] theorem modRetr_sync (h : Retrieval → Retrieval) : (modRetr h s).sync = s.sync := rfl
@[simp] theorem modRetr_retr (h : Retrieval → Retrieval) : (modRetr h s).retr = h s.retr := rfl
@[simp] theorem modRetr_churn (h : Retrieval → Retrieval) : (modRetr h s).churn = s.churn := rfl
@[simp] theorem modRetr_wyv (h : Retrieval → Retrieval) : (modRetr h s).wyv = s.wyv := rfl
@[simp] theorem obj_modRetr (h : Retrieval → Retrieval) (i j : Nat) : obj (modRetr h s) i j = obj s i j := rfl

/-! ### modChurn -/

@[simp] theorem modChurn_pending (h : Churns → Churns) : (modChurn h s).pending = s.pending := rfl
@[simp] theorem modChurn_time (h : Churns → Churns) : (modChurn h s).time = s.time := rfl
@[simp] theorem modChurn_free (h : Churns → Churns) : (modChurn h s).free = s.free := rfl
@[simp] theorem modChurn_thr (h : Churns → Churns) : (modChurn h s).thr = s.thr := rfl
@[simp] theorem modChurn_pwr (h : Churns → Churns) : (modChurn h s).pwr = s.pwr := rfl
@[simp] theorem modChurn_dict (h : Churns → Churns) : (modChurn h s).dict = s.dict := rfl
@[simp] theorem modChurn_mgmt (h : Churns → Churns) : (modChurn h s).mgmt = s.mgmt := rfl
@[simp] theorem modChurn_fw (h : Churns → Churns) : (modChurn h s).fw = s.fw := rfl
@[simp] theorem modChurn_host (h : Churns → Churns) : (modChurn h s).host = s.host := rfl
@[simp] theorem modChurn_blk (h : Churns → Churns) : (modChurn h s).blk = s.blk := rfl
@[simp] theorem modChurn_nand (h : Churns → Churns) : (modChurn h s).nand = s.nand := rfl
@[simp] theorem modChurn_tier (h : Churns → Churns) : (modChurn h s).tier = s.tier := rfl
@[simp] theorem modChurn_integ (h : Churns → Churns) : (modChurn h s).integ = s.integ := rfl
@[simp] theorem modChurn_arr (h : Churns → Churns) : (modChurn h s).arr = s.arr := rfl
@[simp] theorem modChurn_jobs (h : Churns → Churns) : (modChurn h s).jobs = s.jobs := rfl
@[simp] theorem modChurn_sync (h : Churns → Churns) : (modChurn h s).sync = s.sync := rfl
@[simp] theorem modChurn_retr (h : Churns → Churns) : (modChurn h s).retr = s.retr := rfl
@[simp] theorem modChurn_churn (h : Churns → Churns) : (modChurn h s).churn = h s.churn := rfl
@[simp] theorem modChurn_wyv (h : Churns → Churns) : (modChurn h s).wyv = s.wyv := rfl
@[simp] theorem obj_modChurn (h : Churns → Churns) (i j : Nat) : obj (modChurn h s) i j = obj s i j := rfl

/-! ### modWyv -/

@[simp] theorem modWyv_pending (h : Wyvas → Wyvas) : (modWyv h s).pending = s.pending := rfl
@[simp] theorem modWyv_time (h : Wyvas → Wyvas) : (modWyv h s).time = s.time := rfl
@[simp] theorem modWyv_free (h : Wyvas → Wyvas) : (modWyv h s).free = s.free := rfl
@[simp] theorem modWyv_thr (h : Wyvas → Wyvas) : (modWyv h s).thr = s.thr := rfl
@[simp] theorem modWyv_pwr (h : Wyvas → Wyvas) : (modWyv h s).pwr = s.pwr := rfl
@[simp] theorem modWyv_dict (h : Wyvas → Wyvas) : (modWyv h s).dict = s.dict := rfl
@[simp] theorem modWyv_mgmt (h : Wyvas → Wyvas) : (modWyv h s).mgmt = s.mgmt := rfl
@[simp] theorem modWyv_fw (h : Wyvas → Wyvas) : (modWyv h s).fw = s.fw := rfl
@[simp] theorem modWyv_host (h : Wyvas → Wyvas) : (modWyv h s).host = s.host := rfl
@[simp] theorem modWyv_blk (h : Wyvas → Wyvas) : (modWyv h s).blk = s.blk := rfl
@[simp] theorem modWyv_nand (h : Wyvas → Wyvas) : (modWyv h s).nand = s.nand := rfl
@[simp] theorem modWyv_tier (h : Wyvas → Wyvas) : (modWyv h s).tier = s.tier := rfl
@[simp] theorem modWyv_integ (h : Wyvas → Wyvas) : (modWyv h s).integ = s.integ := rfl
@[simp] theorem modWyv_arr (h : Wyvas → Wyvas) : (modWyv h s).arr = s.arr := rfl
@[simp] theorem modWyv_jobs (h : Wyvas → Wyvas) : (modWyv h s).jobs = s.jobs := rfl
@[simp] theorem modWyv_sync (h : Wyvas → Wyvas) : (modWyv h s).sync = s.sync := rfl
@[simp] theorem modWyv_retr (h : Wyvas → Wyvas) : (modWyv h s).retr = s.retr := rfl
@[simp] theorem modWyv_churn (h : Wyvas → Wyvas) : (modWyv h s).churn = s.churn := rfl
@[simp] theorem modWyv_wyv (h : Wyvas → Wyvas) : (modWyv h s).wyv = h s.wyv := rfl
@[simp] theorem obj_modWyv (h : Wyvas → Wyvas) (i j : Nat) : obj (modWyv h s) i j = obj s i j := rfl

/-! ### setObj -/

@[simp] theorem setObj_pending (i j v : Nat) : (setObj i j v s).pending = s.pending := rfl
@[simp] theorem setObj_time (i j v : Nat) : (setObj i j v s).time = s.time := rfl
@[simp] theorem setObj_free (i j v : Nat) : (setObj i j v s).free = s.free := rfl
@[simp] theorem setObj_thr (i j v : Nat) : (setObj i j v s).thr = s.thr := rfl
@[simp] theorem setObj_pwr (i j v : Nat) : (setObj i j v s).pwr = s.pwr := rfl
@[simp] theorem setObj_mgmt (i j v : Nat) : (setObj i j v s).mgmt = s.mgmt := rfl
@[simp] theorem setObj_fw (i j v : Nat) : (setObj i j v s).fw = s.fw := rfl
@[simp] theorem setObj_host (i j v : Nat) : (setObj i j v s).host = s.host := rfl
@[simp] theorem setObj_blk (i j v : Nat) : (setObj i j v s).blk = s.blk := rfl
@[simp] theorem setObj_nand (i j v : Nat) : (setObj i j v s).nand = s.nand := rfl
@[simp] theorem setObj_tier (i j v : Nat) : (setObj i j v s).tier = s.tier := rfl
@[simp] theorem setObj_integ (i j v : Nat) : (setObj i j v s).integ = s.integ := rfl
@[simp] theorem setObj_arr (i j v : Nat) : (setObj i j v s).arr = s.arr := rfl
@[simp] theorem setObj_jobs (i j v : Nat) : (setObj i j v s).jobs = s.jobs := rfl
@[simp] theorem setObj_sync (i j v : Nat) : (setObj i j v s).sync = s.sync := rfl
@[simp] theorem setObj_retr (i j v : Nat) : (setObj i j v s).retr = s.retr := rfl
@[simp] theorem setObj_churn (i j v : Nat) : (setObj i j v s).churn = s.churn := rfl
@[simp] theorem setObj_wyv (i j v : Nat) : (setObj i j v s).wyv = s.wyv := rfl
@[simp] theorem setObj_dict_held (i j v : Nat) : (setObj i j v s).dict.held = s.dict.held := rfl
@[simp] theorem setObj_dict_refreshed (i j v : Nat) : (setObj i j v s).dict.refreshed = s.dict.refreshed := rfl
@[simp] theorem setObj_dict_acting (i j v : Nat) : (setObj i j v s).dict.acting = s.dict.acting := rfl
@[simp] theorem setObj_dict_pendingWrite (i j v : Nat) : (setObj i j v s).dict.pendingWrite = s.dict.pendingWrite := rfl
@[simp] theorem setObj_dict_queue (i j v : Nat) : (setObj i j v s).dict.queue = s.dict.queue := rfl
@[simp] theorem setObj_dict_lastStatus (i j v : Nat) : (setObj i j v s).dict.lastStatus = s.dict.lastStatus := rfl
@[simp] theorem setObj_dict_lastSub (i j v : Nat) : (setObj i j v s).dict.lastSub = s.dict.lastSub := rfl

/-- Reading a subindex just set gives its value, modulo its width. -/
@[simp] theorem obj_setObj_same (i j v : Nat) : obj (setObj i j v s) i j = v % 2 ^ (8 * objSize i j) := by
  simp [obj, setObj]

/-- Setting a subindex leaves every other subindex alone. -/
theorem obj_setObj_ne (i j i' j' v : Nat) (h : objKey i' j' ≠ objKey i j) : obj (setObj i j v s) i' j' = obj s i' j' := by
  simp [obj, setObj, kvGet_kvPut_ne _ _ _ _ _ h]

/-! ### A free value drawn -/

@[simp] theorem drew_pending : (drew s).pending = s.pending := rfl
@[simp] theorem drew_time : (drew s).time = s.time := rfl
@[simp] theorem drew_free : (drew s).free = s.free + 1 := rfl
@[simp] theorem drew_thr : (drew s).thr = s.thr := rfl
@[simp] theorem drew_pwr : (drew s).pwr = s.pwr := rfl
@[simp] theorem drew_dict : (drew s).dict = s.dict := rfl
@[simp] theorem drew_mgmt : (drew s).mgmt = s.mgmt := rfl
@[simp] theorem drew_fw : (drew s).fw = s.fw := rfl
@[simp] theorem drew_host : (drew s).host = s.host := rfl
@[simp] theorem drew_blk : (drew s).blk = s.blk := rfl
@[simp] theorem drew_nand : (drew s).nand = s.nand := rfl
@[simp] theorem drew_tier : (drew s).tier = s.tier := rfl
@[simp] theorem drew_integ : (drew s).integ = s.integ := rfl
@[simp] theorem drew_arr : (drew s).arr = s.arr := rfl
@[simp] theorem drew_jobs : (drew s).jobs = s.jobs := rfl
@[simp] theorem drew_sync : (drew s).sync = s.sync := rfl
@[simp] theorem drew_retr : (drew s).retr = s.retr := rfl
@[simp] theorem drew_churn : (drew s).churn = s.churn := rfl
@[simp] theorem drew_wyv : (drew s).wyv = s.wyv := rfl
@[simp] theorem obj_drew (i j : Nat) : obj (drew s) i j = obj s i j := rfl

/-! ### The end of a command -/

variable (t : State)

@[simp] theorem keepBoth_pending : (keepBoth s t).pending = s.pending := rfl
@[simp] theorem keepBoth_time : (keepBoth s t).time = t.time := rfl
@[simp] theorem keepBoth_free : (keepBoth s t).free = t.free := rfl
@[simp] theorem keepBoth_thr : (keepBoth s t).thr = s.thr := rfl
@[simp] theorem keepBoth_pwr : (keepBoth s t).pwr = t.pwr := rfl
@[simp] theorem keepBoth_dict : (keepBoth s t).dict = t.dict := rfl
@[simp] theorem keepBoth_mgmt : (keepBoth s t).mgmt = t.mgmt := rfl
@[simp] theorem keepBoth_fw : (keepBoth s t).fw = t.fw := rfl
@[simp] theorem keepBoth_host : (keepBoth s t).host = t.host := rfl
@[simp] theorem keepBoth_blk : (keepBoth s t).blk = t.blk := rfl
@[simp] theorem keepBoth_nand : (keepBoth s t).nand = t.nand := rfl
@[simp] theorem keepBoth_tier : (keepBoth s t).tier = t.tier := rfl
@[simp] theorem keepBoth_integ : (keepBoth s t).integ = t.integ := rfl
@[simp] theorem keepBoth_arr : (keepBoth s t).arr = t.arr := rfl
@[simp] theorem keepBoth_jobs : (keepBoth s t).jobs = t.jobs := rfl
@[simp] theorem keepBoth_sync : (keepBoth s t).sync = t.sync := rfl
@[simp] theorem keepBoth_retr : (keepBoth s t).retr = t.retr := rfl
@[simp] theorem keepBoth_churn : (keepBoth s t).churn = t.churn := rfl
@[simp] theorem keepBoth_wyv : (keepBoth s t).wyv = t.wyv := rfl
@[simp] theorem obj_keepBoth (i j : Nat) : obj (keepBoth s t) i j = obj t i j := rfl
@[simp] theorem keepQueue_pending : (keepQueue s t).pending = s.pending := rfl
@[simp] theorem keepQueue_time : (keepQueue s t).time = t.time := rfl
@[simp] theorem keepQueue_free : (keepQueue s t).free = t.free := rfl
@[simp] theorem keepQueue_thr : (keepQueue s t).thr = t.thr := rfl
@[simp] theorem keepQueue_pwr : (keepQueue s t).pwr = t.pwr := rfl
@[simp] theorem keepQueue_dict : (keepQueue s t).dict = t.dict := rfl
@[simp] theorem keepQueue_mgmt : (keepQueue s t).mgmt = t.mgmt := rfl
@[simp] theorem keepQueue_fw : (keepQueue s t).fw = t.fw := rfl
@[simp] theorem keepQueue_host : (keepQueue s t).host = t.host := rfl
@[simp] theorem keepQueue_blk : (keepQueue s t).blk = t.blk := rfl
@[simp] theorem keepQueue_nand : (keepQueue s t).nand = t.nand := rfl
@[simp] theorem keepQueue_tier : (keepQueue s t).tier = t.tier := rfl
@[simp] theorem keepQueue_integ : (keepQueue s t).integ = t.integ := rfl
@[simp] theorem keepQueue_arr : (keepQueue s t).arr = t.arr := rfl
@[simp] theorem keepQueue_jobs : (keepQueue s t).jobs = t.jobs := rfl
@[simp] theorem keepQueue_sync : (keepQueue s t).sync = t.sync := rfl
@[simp] theorem keepQueue_retr : (keepQueue s t).retr = t.retr := rfl
@[simp] theorem keepQueue_churn : (keepQueue s t).churn = t.churn := rfl
@[simp] theorem keepQueue_wyv : (keepQueue s t).wyv = t.wyv := rfl
@[simp] theorem obj_keepQueue (i j : Nat) : obj (keepQueue s t) i j = obj t i j := rfl
@[simp] theorem keepOrTop_pending : (keepOrTop s t).pending = s.pending := rfl
@[simp] theorem keepOrTop_time : (keepOrTop s t).time = t.time := rfl
@[simp] theorem keepOrTop_free : (keepOrTop s t).free = t.free := rfl
@[simp] theorem keepOrTop_thr : (keepOrTop s t).thr = (if t.thr = ladderTop then ladderTop else s.thr) := rfl
@[simp] theorem keepOrTop_pwr : (keepOrTop s t).pwr = t.pwr := rfl
@[simp] theorem keepOrTop_dict : (keepOrTop s t).dict = t.dict := rfl
@[simp] theorem keepOrTop_mgmt : (keepOrTop s t).mgmt = t.mgmt := rfl
@[simp] theorem keepOrTop_fw : (keepOrTop s t).fw = t.fw := rfl
@[simp] theorem keepOrTop_host : (keepOrTop s t).host = t.host := rfl
@[simp] theorem keepOrTop_blk : (keepOrTop s t).blk = t.blk := rfl
@[simp] theorem keepOrTop_nand : (keepOrTop s t).nand = t.nand := rfl
@[simp] theorem keepOrTop_tier : (keepOrTop s t).tier = t.tier := rfl
@[simp] theorem keepOrTop_integ : (keepOrTop s t).integ = t.integ := rfl
@[simp] theorem keepOrTop_arr : (keepOrTop s t).arr = t.arr := rfl
@[simp] theorem keepOrTop_jobs : (keepOrTop s t).jobs = t.jobs := rfl
@[simp] theorem keepOrTop_sync : (keepOrTop s t).sync = t.sync := rfl
@[simp] theorem keepOrTop_retr : (keepOrTop s t).retr = t.retr := rfl
@[simp] theorem keepOrTop_churn : (keepOrTop s t).churn = t.churn := rfl
@[simp] theorem keepOrTop_wyv : (keepOrTop s t).wyv = t.wyv := rfl
@[simp] theorem obj_keepOrTop (i j : Nat) : obj (keepOrTop s t) i j = obj t i j := rfl

/-- A command that ends with `finish` answers its effect, with the queue and the throttle ladder as they were. -/
theorem finish_eq : finish s t = .next (keepBoth s t) := rfl

/-- A command that ends with `finishRestart` answers its effect, with the queue as it was and the ladder as it was or at its top. -/
theorem finishRestart_eq : finishRestart s t = .next (keepOrTop s t) := rfl

end Sys2Proof.Machine
end

