-- ==== Sys2Proof/Laws/Ops.lean ====
section
/-! SUPPORT. What the shared operations of Ops.lean can do, said once: the integrity log, the status of an action, completions, and the
fetch of entries that follows one. -/

namespace Sys2Proof.Machine

open Sys2Proof

variable (s : State)

/-! ### The integrity log -/

/-- Reporting an event changes the integrity log and nothing else. -/
theorem logEv_frame (e : Ev) : ∃ i, logEv e s = { s with integ := i } := by
  unfold logEv
  split
  · exact ⟨_, rfl⟩
  · exact ⟨_, rfl⟩

@[simp] theorem logEv_pending (e : Ev) : (logEv e s).pending = s.pending := by
  obtain ⟨i, h⟩ := logEv_frame s e; rw [h]
@[simp] theorem logEv_time (e : Ev) : (logEv e s).time = s.time := by
  obtain ⟨i, h⟩ := logEv_frame s e; rw [h]
@[simp] theorem logEv_free (e : Ev) : (logEv e s).free = s.free := by
  obtain ⟨i, h⟩ := logEv_frame s e; rw [h]
@[simp] theorem logEv_thr (e : Ev) : (logEv e s).thr = s.thr := by
  obtain ⟨i, h⟩ := logEv_frame s e; rw [h]
@[simp] theorem logEv_pwr (e : Ev) : (logEv e s).pwr = s.pwr := by
  obtain ⟨i, h⟩ := logEv_frame s e; rw [h]
@[simp] theorem logEv_dict (e : Ev) : (logEv e s).dict = s.dict := by
  obtain ⟨i, h⟩ := logEv_frame s e; rw [h]
@[simp] theorem logEv_mgmt (e : Ev) : (logEv e s).mgmt = s.mgmt := by
  obtain ⟨i, h⟩ := logEv_frame s e; rw [h]
@[simp] theorem logEv_fw (e : Ev) : (logEv e s).fw = s.fw := by
  obtain ⟨i, h⟩ := logEv_frame s e; rw [h]
@[simp] theorem logEv_host (e : Ev) : (logEv e s).host = s.host := by
  obtain ⟨i, h⟩ := logEv_frame s e; rw [h]
@[simp] theorem logEv_blk (e : Ev) : (logEv e s).blk = s.blk := by
  obtain ⟨i, h⟩ := logEv_frame s e; rw [h]
@[simp] theorem logEv_nand (e : Ev) : (logEv e s).nand = s.nand := by
  obtain ⟨i, h⟩ := logEv_frame s e; rw [h]
@[simp] theorem logEv_tier (e : Ev) : (logEv e s).tier = s.tier := by
  obtain ⟨i, h⟩ := logEv_frame s e; rw [h]
@[simp] theorem logEv_arr (e : Ev) : (logEv e s).arr = s.arr := by
  obtain ⟨i, h⟩ := logEv_frame s e; rw [h]
@[simp] theorem logEv_jobs (e : Ev) : (logEv e s).jobs = s.jobs := by
  obtain ⟨i, h⟩ := logEv_frame s e; rw [h]
@[simp] theorem logEv_sync (e : Ev) : (logEv e s).sync = s.sync := by
  obtain ⟨i, h⟩ := logEv_frame s e; rw [h]
@[simp] theorem logEv_retr (e : Ev) : (logEv e s).retr = s.retr := by
  obtain ⟨i, h⟩ := logEv_frame s e; rw [h]
@[simp] theorem logEv_churn (e : Ev) : (logEv e s).churn = s.churn := by
  obtain ⟨i, h⟩ := logEv_frame s e; rw [h]
@[simp] theorem logEv_wyv (e : Ev) : (logEv e s).wyv = s.wyv := by
  obtain ⟨i, h⟩ := logEv_frame s e; rw [h]
@[simp] theorem obj_logEv (e : Ev) (i j : Nat) : obj (logEv e s) i j = obj s i j := by
  obtain ⟨k, h⟩ := logEv_frame s e; rw [h]; rfl

/-- An event that is not correctable gets a record of its own, newest first. -/
theorem logEv_log (e : Ev) (h : correctable e.cls = false) :
    (logEv e s).integ.log = (evRecord s e :: s.integ.log).take 4096 := by
  simp [logEv, h, evRecord]

/-- Reporting an event keeps every record of which redundant parts are in service. -/
theorem logEv_integ (e : Ev) : (logEv e s).integ = { s.integ with log := (logEv e s).integ.log, stored := (logEv e s).integ.stored,
                                                                   nextSeq := (logEv e s).integ.nextSeq,
                                                                   store := (logEv e s).integ.store } := by
  unfold logEv
  split <;> rfl

@[simp] theorem logEv_integ_retired (e : Ev) : (logEv e s).integ.retired = s.integ.retired := by
  unfold logEv; split <;> rfl
@[simp] theorem logEv_integ_remap (e : Ev) : (logEv e s).integ.remap = s.integ.remap := by
  unfold logEv; split <;> rfl
@[simp] theorem logEv_integ_failedStacks (e : Ev) : (logEv e s).integ.failedStacks = s.integ.failedStacks := by
  unfold logEv; split <;> rfl
@[simp] theorem logEv_integ_coresOut (e : Ev) : (logEv e s).integ.coresOut = s.integ.coresOut := by
  unfold logEv; split <;> rfl
@[simp] theorem logEv_integ_coreExpiries (e : Ev) : (logEv e s).integ.coreExpiries = s.integ.coreExpiries := by
  unfold logEv; split <;> rfl
@[simp] theorem logEv_integ_hoopActive (e : Ev) : (logEv e s).integ.hoopActive = s.integ.hoopActive := by
  unfold logEv; split <;> rfl
@[simp] theorem logEv_integ_hoopFailed (e : Ev) : (logEv e s).integ.hoopFailed = s.integ.hoopFailed := by
  unfold logEv; split <;> rfl
@[simp] theorem logEv_integ_refLost (e : Ev) : (logEv e s).integ.refLost = s.integ.refLost := by
  unfold logEv; split <;> rfl
@[simp] theorem logEv_integ_failedRows (e : Ev) : (logEv e s).integ.failedRows = s.integ.failedRows := by
  unfold logEv; split <;> rfl
@[simp] theorem logEv_integ_failedCells (e : Ev) : (logEv e s).integ.failedCells = s.integ.failedCells := by
  unfold logEv; split <;> rfl

/-! ### Records of the store -/

@[simp] theorem storePut_pending (x : StoreItem) (b : Bool) : (storePut x b s).pending = s.pending := rfl
@[simp] theorem storePut_time (x : StoreItem) (b : Bool) : (storePut x b s).time = s.time := rfl
@[simp] theorem storePut_free (x : StoreItem) (b : Bool) : (storePut x b s).free = s.free := rfl
@[simp] theorem storePut_thr (x : StoreItem) (b : Bool) : (storePut x b s).thr = s.thr := rfl
@[simp] theorem storePut_pwr (x : StoreItem) (b : Bool) : (storePut x b s).pwr = s.pwr := rfl
@[simp] theorem storePut_mgmt (x : StoreItem) (b : Bool) : (storePut x b s).mgmt = s.mgmt := rfl
@[simp] theorem storePut_fw (x : StoreItem) (b : Bool) : (storePut x b s).fw = s.fw := rfl
@[simp] theorem storePut_host (x : StoreItem) (b : Bool) : (storePut x b s).host = s.host := rfl
@[simp] theorem storePut_blk (x : StoreItem) (b : Bool) : (storePut x b s).blk = s.blk := rfl
@[simp] theorem storePut_nand (x : StoreItem) (b : Bool) : (storePut x b s).nand = s.nand := rfl
@[simp] theorem storePut_tier (x : StoreItem) (b : Bool) : (storePut x b s).tier = s.tier := rfl
@[simp] theorem storePut_arr (x : StoreItem) (b : Bool) : (storePut x b s).arr = s.arr := rfl
@[simp] theorem storePut_jobs (x : StoreItem) (b : Bool) : (storePut x b s).jobs = s.jobs := rfl
@[simp] theorem storePut_sync (x : StoreItem) (b : Bool) : (storePut x b s).sync = s.sync := rfl
@[simp] theorem storePut_retr (x : StoreItem) (b : Bool) : (storePut x b s).retr = s.retr := rfl
@[simp] theorem storePut_churn (x : StoreItem) (b : Bool) : (storePut x b s).churn = s.churn := rfl
@[simp] theorem storePut_wyv (x : StoreItem) (b : Bool) : (storePut x b s).wyv = s.wyv := rfl
@[simp] theorem storePut_dict (x : StoreItem) (b : Bool) : (storePut x b s).dict = s.dict := rfl
@[simp] theorem obj_storePut (x : StoreItem) (b : Bool) (i j : Nat) : obj (storePut x b s) i j = obj s i j := rfl
@[simp] theorem storeSet_pending (i j v : Nat) : (storeSet i j v s).pending = s.pending := rfl
@[simp] theorem storeSet_time (i j v : Nat) : (storeSet i j v s).time = s.time := rfl
@[simp] theorem storeSet_free (i j v : Nat) : (storeSet i j v s).free = s.free := rfl
@[simp] theorem storeSet_thr (i j v : Nat) : (storeSet i j v s).thr = s.thr := rfl
@[simp] theorem storeSet_pwr (i j v : Nat) : (storeSet i j v s).pwr = s.pwr := rfl
@[simp] theorem storeSet_mgmt (i j v : Nat) : (storeSet i j v s).mgmt = s.mgmt := rfl
@[simp] theorem storeSet_fw (i j v : Nat) : (storeSet i j v s).fw = s.fw := rfl
@[simp] theorem storeSet_host (i j v : Nat) : (storeSet i j v s).host = s.host := rfl
@[simp] theorem storeSet_blk (i j v : Nat) : (storeSet i j v s).blk = s.blk := rfl
@[simp] theorem storeSet_nand (i j v : Nat) : (storeSet i j v s).nand = s.nand := rfl
@[simp] theorem storeSet_tier (i j v : Nat) : (storeSet i j v s).tier = s.tier := rfl
@[simp] theorem storeSet_arr (i j v : Nat) : (storeSet i j v s).arr = s.arr := rfl
@[simp] theorem storeSet_jobs (i j v : Nat) : (storeSet i j v s).jobs = s.jobs := rfl
@[simp] theorem storeSet_sync (i j v : Nat) : (storeSet i j v s).sync = s.sync := rfl
@[simp] theorem storeSet_retr (i j v : Nat) : (storeSet i j v s).retr = s.retr := rfl
@[simp] theorem storeSet_churn (i j v : Nat) : (storeSet i j v s).churn = s.churn := rfl
@[simp] theorem storeSet_wyv (i j v : Nat) : (storeSet i j v s).wyv = s.wyv := rfl

/-- A value set with its record leaves every other value as it was. -/
theorem obj_storeSet_ne (i j i' j' v : Nat) (h : objKey i' j' ≠ objKey i j) : obj (storeSet i j v s) i' j' = obj s i' j' := by
  unfold storeSet; exact obj_setObj_ne _ _ _ _ _ _ h

/-! ### Management events -/

@[simp] theorem raiseAlert_pending (b : Nat) : (raiseAlert b s).pending = s.pending := rfl
@[simp] theorem raiseAlert_time (b : Nat) : (raiseAlert b s).time = s.time := rfl
@[simp] theorem raiseAlert_free (b : Nat) : (raiseAlert b s).free = s.free := rfl
@[simp] theorem raiseAlert_thr (b : Nat) : (raiseAlert b s).thr = s.thr := rfl
@[simp] theorem raiseAlert_pwr (b : Nat) : (raiseAlert b s).pwr = s.pwr := rfl
@[simp] theorem raiseAlert_dict (b : Nat) : (raiseAlert b s).dict = s.dict := rfl
@[simp] theorem raiseAlert_mgmt (b : Nat) : (raiseAlert b s).mgmt = s.mgmt := rfl
@[simp] theorem raiseAlert_fw (b : Nat) : (raiseAlert b s).fw = s.fw := rfl
@[simp] theorem raiseAlert_host (b : Nat) : (raiseAlert b s).host = s.host := rfl
@[simp] theorem raiseAlert_blk (b : Nat) : (raiseAlert b s).blk = s.blk := rfl
@[simp] theorem raiseAlert_nand (b : Nat) : (raiseAlert b s).nand = s.nand := rfl
@[simp] theorem raiseAlert_tier (b : Nat) : (raiseAlert b s).tier = s.tier := rfl
@[simp] theorem raiseAlert_arr (b : Nat) : (raiseAlert b s).arr = s.arr := rfl
@[simp] theorem raiseAlert_jobs (b : Nat) : (raiseAlert b s).jobs = s.jobs := rfl
@[simp] theorem raiseAlert_sync (b : Nat) : (raiseAlert b s).sync = s.sync := rfl
@[simp] theorem raiseAlert_retr (b : Nat) : (raiseAlert b s).retr = s.retr := rfl
@[simp] theorem raiseAlert_churn (b : Nat) : (raiseAlert b s).churn = s.churn := rfl
@[simp] theorem raiseAlert_wyv (b : Nat) : (raiseAlert b s).wyv = s.wyv := rfl
@[simp] theorem obj_raiseAlert (b i j : Nat) : obj (raiseAlert b s) i j = obj s i j := rfl
@[simp] theorem raiseAlert_alert (b : Nat) : (raiseAlert b s).integ.alert = s.integ.alert ||| 2 ^ b := rfl

/-! ### Actions -/

@[simp] theorem setLast_pending (a b : Nat) : (setLast a b s).pending = s.pending := rfl
@[simp] theorem setLast_time (a b : Nat) : (setLast a b s).time = s.time := rfl
@[simp] theorem setLast_free (a b : Nat) : (setLast a b s).free = s.free := rfl
@[simp] theorem setLast_thr (a b : Nat) : (setLast a b s).thr = s.thr := rfl
@[simp] theorem setLast_pwr (a b : Nat) : (setLast a b s).pwr = s.pwr := rfl
@[simp] theorem setLast_mgmt (a b : Nat) : (setLast a b s).mgmt = s.mgmt := rfl
@[simp] theorem setLast_fw (a b : Nat) : (setLast a b s).fw = s.fw := rfl
@[simp] theorem setLast_host (a b : Nat) : (setLast a b s).host = s.host := rfl
@[simp] theorem setLast_blk (a b : Nat) : (setLast a b s).blk = s.blk := rfl
@[simp] theorem setLast_nand (a b : Nat) : (setLast a b s).nand = s.nand := rfl
@[simp] theorem setLast_tier (a b : Nat) : (setLast a b s).tier = s.tier := rfl
@[simp] theorem setLast_integ (a b : Nat) : (setLast a b s).integ = s.integ := rfl
@[simp] theorem setLast_arr (a b : Nat) : (setLast a b s).arr = s.arr := rfl
@[simp] theorem setLast_jobs (a b : Nat) : (setLast a b s).jobs = s.jobs := rfl
@[simp] theorem setLast_sync (a b : Nat) : (setLast a b s).sync = s.sync := rfl
@[simp] theorem setLast_retr (a b : Nat) : (setLast a b s).retr = s.retr := rfl
@[simp] theorem setLast_churn (a b : Nat) : (setLast a b s).churn = s.churn := rfl
@[simp] theorem setLast_wyv (a b : Nat) : (setLast a b s).wyv = s.wyv := rfl
@[simp] theorem obj_setLast (a b i j : Nat) : obj (setLast a b s) i j = obj s i j := rfl
@[simp] theorem setLast_status (a b : Nat) : (setLast a b s).dict.lastStatus = a := rfl
@[simp] theorem setLast_sub (a b : Nat) : (setLast a b s).dict.lastSub = b := rfl

/-- An action whose check passes has its effect and the status Success. -/
theorem runAction_ok (chk : Nat × Nat) (eff : State → State) (h : chk.1 = 0) : runAction chk eff s = setLast 0 0 (eff s) := by
  simp [runAction, h]

/-- An action whose check fails changes nothing but the status it answers. -/
theorem runAction_refused (chk : Nat × Nat) (eff : State → State) (h : chk.1 ≠ 0) : runAction chk eff s = setLast chk.1 chk.2 s := by
  simp [runAction, h]

/-! ### Completions -/

/-- What a fetch of entries may change between `s` and `t`: queues, tags, and by a wake the power state, values of the dictionary and fabric time; on an
admin queue no more than queues and tags. -/
structure Fetched (id : Nat) (s t : State) : Prop where
  rest : t = { s with host := t.host, pwr := t.pwr, dict := t.dict, time := t.time }
  host : t.host = { s.host with sqs := t.host.sqs, inflight := t.host.inflight }
  admin : id = 0 → t.pwr = s.pwr ∧ t.dict = s.dict ∧ t.time = s.time

theorem Fetched.refl (id : Nat) (s : State) : Fetched id s s := ⟨rfl, rfl, fun _ => ⟨rfl, rfl, rfl⟩⟩

theorem Fetched.trans {id : Nat} {s t u : State} (h : Fetched id s t) (k : Fetched id t u) : Fetched id s u := by
  refine ⟨?_, ?_, fun h0 => ?_⟩
  · rw [k.rest, h.rest]
  · rw [k.host, h.host]
  · exact ⟨(k.admin h0).1.trans (h.admin h0).1, (k.admin h0).2.1.trans (h.admin h0).2.1, (k.admin h0).2.2.trans (h.admin h0).2.2⟩

/-- Outside PS3 and PS4 a fetch wakes nothing. -/
theorem wake_awake (s : State) (h : s.pwr.ps < 3) : wake s = s := by
  unfold wake; rw [if_neg (by simp; omega)]

theorem Fetched.host_of (id : Nat) (s : State) (f : HostIf → HostIf)
    (h : f s.host = { s.host with sqs := (f s.host).sqs, inflight := (f s.host).inflight }) : Fetched id s (modHost f s) :=
  ⟨rfl, h, fun _ => ⟨rfl, rfl, rfl⟩⟩

theorem Fetched.wake (id : Nat) (s : State) (h0 : id ≠ 0) : Fetched id s (Machine.wake s) := by
  unfold Machine.wake
  split
  · simp only
    split
    · exact ⟨rfl, rfl, fun h => absurd h h0⟩
    · exact ⟨rfl, rfl, fun h => absurd h h0⟩
  · exact Fetched.refl id s

/-- A fetch of entries changes what Fetched says. -/
theorem fetchN_spec (n fn id : Nat) (s : State) : Fetched id s (fetchN n fn id s) := by
  induction n generalizing s with
  | zero => exact Fetched.refl id s
  | succ n ih =>
    unfold fetchN
    split
    · exact Fetched.refl id s
    · split
      · exact Fetched.refl id s
      · split
        · exact Fetched.refl id s
        · refine Fetched.trans ?_ (ih _)
          refine Fetched.trans ?_ (Fetched.host_of id _ _ rfl)
          refine Fetched.trans ?_ (Fetched.host_of id _ _ rfl)
          split
          · exact Fetched.refl id s
          · exact Fetched.wake id s (by simpa using ‹¬(id == 0) = true›)

/-- Outside PS3 and PS4 a fetch of entries moves no power state, no object and no time. -/
theorem fetchN_awake (n fn id : Nat) (s : State) (h : s.pwr.ps < 3) :
    (fetchN n fn id s).pwr = s.pwr ∧ (fetchN n fn id s).dict = s.dict ∧ (fetchN n fn id s).time = s.time := by
  induction n generalizing s with
  | zero => exact ⟨rfl, rfl, rfl⟩
  | succ n ih =>
    unfold fetchN
    split
    · exact ⟨rfl, rfl, rfl⟩
    · split
      · exact ⟨rfl, rfl, rfl⟩
      · split
        · exact ⟨rfl, rfl, rfl⟩
        · simp only [wake_awake s h, ite_self]
          exact ih _ h

/-- The host side once a completion is posted and its tag is free. -/
def postedHost (fn sq cid : Nat) (st : Status) (d0 d1 : Nat) : State :=
  modHost (fun h => { h with
    inflight := h.inflight.filter fun x => !x.named fn sq cid
    cqes := h.cqes ++ [cqeOf fn sq cid st d0 d1] }) s

/-- Posting the completion of a command in flight appends it to the completions, frees its tag and fetches what the queue can have. -/
theorem post_spec (fn sq cid : Nat) (st : Status) (d0 d1 : Nat) (hin : (inflight? s fn sq cid).isSome) :
    Fetched sq (postedHost s fn sq cid st d0 d1) (post fn sq cid st d0 d1 s) := by
  obtain ⟨x, hx⟩ := Option.isSome_iff_exists.mp hin
  unfold post
  rw [hx]
  exact fetchN_spec 32 fn sq _

/-- A completion of no command in flight changes nothing. -/
theorem post_none (fn sq cid : Nat) (st : Status) (d0 d1 : Nat) (hin : inflight? s fn sq cid = none) :
    post fn sq cid st d0 d1 s = s := by
  unfold post; rw [hin]

@[simp] theorem post_pending (fn sq cid : Nat) (st : Status) (d0 d1 : Nat) : (post fn sq cid st d0 d1 s).pending = s.pending := by
  cases hin : inflight? s fn sq cid with
  | none => rw [post_none s _ _ _ _ _ _ hin]
  | some x => rw [(post_spec s fn sq cid st d0 d1 (by rw [hin]; rfl)).rest]; rfl
@[simp] theorem post_free (fn sq cid : Nat) (st : Status) (d0 d1 : Nat) : (post fn sq cid st d0 d1 s).free = s.free := by
  cases hin : inflight? s fn sq cid with
  | none => rw [post_none s _ _ _ _ _ _ hin]
  | some x => rw [(post_spec s fn sq cid st d0 d1 (by rw [hin]; rfl)).rest]; rfl
@[simp] theorem post_thr (fn sq cid : Nat) (st : Status) (d0 d1 : Nat) : (post fn sq cid st d0 d1 s).thr = s.thr := by
  cases hin : inflight? s fn sq cid with
  | none => rw [post_none s _ _ _ _ _ _ hin]
  | some x => rw [(post_spec s fn sq cid st d0 d1 (by rw [hin]; rfl)).rest]; rfl
@[simp] theorem post_mgmt (fn sq cid : Nat) (st : Status) (d0 d1 : Nat) : (post fn sq cid st d0 d1 s).mgmt = s.mgmt := by
  cases hin : inflight? s fn sq cid with
  | none => rw [post_none s _ _ _ _ _ _ hin]
  | some x => rw [(post_spec s fn sq cid st d0 d1 (by rw [hin]; rfl)).rest]; rfl
@[simp] theorem post_fw (fn sq cid : Nat) (st : Status) (d0 d1 : Nat) : (post fn sq cid st d0 d1 s).fw = s.fw := by
  cases hin : inflight? s fn sq cid with
  | none => rw [post_none s _ _ _ _ _ _ hin]
  | some x => rw [(post_spec s fn sq cid st d0 d1 (by rw [hin]; rfl)).rest]; rfl
@[simp] theorem post_blk (fn sq cid : Nat) (st : Status) (d0 d1 : Nat) : (post fn sq cid st d0 d1 s).blk = s.blk := by
  cases hin : inflight? s fn sq cid with
  | none => rw [post_none s _ _ _ _ _ _ hin]
  | some x => rw [(post_spec s fn sq cid st d0 d1 (by rw [hin]; rfl)).rest]; rfl
@[simp] theorem post_nand (fn sq cid : Nat) (st : Status) (d0 d1 : Nat) : (post fn sq cid st d0 d1 s).nand = s.nand := by
  cases hin : inflight? s fn sq cid with
  | none => rw [post_none s _ _ _ _ _ _ hin]
  | some x => rw [(post_spec s fn sq cid st d0 d1 (by rw [hin]; rfl)).rest]; rfl
@[simp] theorem post_tier (fn sq cid : Nat) (st : Status) (d0 d1 : Nat) : (post fn sq cid st d0 d1 s).tier = s.tier := by
  cases hin : inflight? s fn sq cid with
  | none => rw [post_none s _ _ _ _ _ _ hin]
  | some x => rw [(post_spec s fn sq cid st d0 d1 (by rw [hin]; rfl)).rest]; rfl
@[simp] theorem post_integ (fn sq cid : Nat) (st : Status) (d0 d1 : Nat) : (post fn sq cid st d0 d1 s).integ = s.integ := by
  cases hin : inflight? s fn sq cid with
  | none => rw [post_none s _ _ _ _ _ _ hin]
  | some x => rw [(post_spec s fn sq cid st d0 d1 (by rw [hin]; rfl)).rest]; rfl
@[simp] theorem post_arr (fn sq cid : Nat) (st : Status) (d0 d1 : Nat) : (post fn sq cid st d0 d1 s).arr = s.arr := by
  cases hin : inflight? s fn sq cid with
  | none => rw [post_none s _ _ _ _ _ _ hin]
  | some x => rw [(post_spec s fn sq cid st d0 d1 (by rw [hin]; rfl)).rest]; rfl
@[simp] theorem post_jobs (fn sq cid : Nat) (st : Status) (d0 d1 : Nat) : (post fn sq cid st d0 d1 s).jobs = s.jobs := by
  cases hin : inflight? s fn sq cid with
  | none => rw [post_none s _ _ _ _ _ _ hin]
  | some x => rw [(post_spec s fn sq cid st d0 d1 (by rw [hin]; rfl)).rest]; rfl
@[simp] theorem post_sync (fn sq cid : Nat) (st : Status) (d0 d1 : Nat) : (post fn sq cid st d0 d1 s).sync = s.sync := by
  cases hin : inflight? s fn sq cid with
  | none => rw [post_none s _ _ _ _ _ _ hin]
  | some x => rw [(post_spec s fn sq cid st d0 d1 (by rw [hin]; rfl)).rest]; rfl
@[simp] theorem post_retr (fn sq cid : Nat) (st : Status) (d0 d1 : Nat) : (post fn sq cid st d0 d1 s).retr = s.retr := by
  cases hin : inflight? s fn sq cid with
  | none => rw [post_none s _ _ _ _ _ _ hin]
  | some x => rw [(post_spec s fn sq cid st d0 d1 (by rw [hin]; rfl)).rest]; rfl
@[simp] theorem post_churn (fn sq cid : Nat) (st : Status) (d0 d1 : Nat) : (post fn sq cid st d0 d1 s).churn = s.churn := by
  cases hin : inflight? s fn sq cid with
  | none => rw [post_none s _ _ _ _ _ _ hin]
  | some x => rw [(post_spec s fn sq cid st d0 d1 (by rw [hin]; rfl)).rest]; rfl
@[simp] theorem post_wyv (fn sq cid : Nat) (st : Status) (d0 d1 : Nat) : (post fn sq cid st d0 d1 s).wyv = s.wyv := by
  cases hin : inflight? s fn sq cid with
  | none => rw [post_none s _ _ _ _ _ _ hin]
  | some x => rw [(post_spec s fn sq cid st d0 d1 (by rw [hin]; rfl)).rest]; rfl
@[simp] theorem post_host_perst (fn sq cid : Nat) (st : Status) (d0 d1 : Nat) :
    (post fn sq cid st d0 d1 s).host.perst = s.host.perst := by
  cases hin : inflight? s fn sq cid with
  | none => rw [post_none s _ _ _ _ _ _ hin]
  | some x => rw [(post_spec s fn sq cid st d0 d1 (by rw [hin]; rfl)).host]; rfl
@[simp] theorem post_host_linkUp (fn sq cid : Nat) (st : Status) (d0 d1 : Nat) :
    (post fn sq cid st d0 d1 s).host.linkUp = s.host.linkUp := by
  cases hin : inflight? s fn sq cid with
  | none => rw [post_none s _ _ _ _ _ _ hin]
  | some x => rw [(post_spec s fn sq cid st d0 d1 (by rw [hin]; rfl)).host]; rfl
@[simp] theorem post_host_ctrls (fn sq cid : Nat) (st : Status) (d0 d1 : Nat) :
    (post fn sq cid st d0 d1 s).host.ctrls = s.host.ctrls := by
  cases hin : inflight? s fn sq cid with
  | none => rw [post_none s _ _ _ _ _ _ hin]
  | some x => rw [(post_spec s fn sq cid st d0 d1 (by rw [hin]; rfl)).host]; rfl
@[simp] theorem post_host_cqs (fn sq cid : Nat) (st : Status) (d0 d1 : Nat) :
    (post fn sq cid st d0 d1 s).host.cqs = s.host.cqs := by
  cases hin : inflight? s fn sq cid with
  | none => rw [post_none s _ _ _ _ _ _ hin]
  | some x => rw [(post_spec s fn sq cid st d0 d1 (by rw [hin]; rfl)).host]; rfl
@[simp] theorem post_host_dma (fn sq cid : Nat) (st : Status) (d0 d1 : Nat) :
    (post fn sq cid st d0 d1 s).host.dma = s.host.dma := by
  cases hin : inflight? s fn sq cid with
  | none => rw [post_none s _ _ _ _ _ _ hin]
  | some x => rw [(post_spec s fn sq cid st d0 d1 (by rw [hin]; rfl)).host]; rfl
@[simp] theorem post_host_events (fn sq cid : Nat) (st : Status) (d0 d1 : Nat) :
    (post fn sq cid st d0 d1 s).host.events = s.host.events := by
  cases hin : inflight? s fn sq cid with
  | none => rw [post_none s _ _ _ _ _ _ hin]
  | some x => rw [(post_spec s fn sq cid st d0 d1 (by rw [hin]; rfl)).host]; rfl
@[simp] theorem post_host_namespaces (fn sq cid : Nat) (st : Status) (d0 d1 : Nat) :
    (post fn sq cid st d0 d1 s).host.namespaces = s.host.namespaces := by
  cases hin : inflight? s fn sq cid with
  | none => rw [post_none s _ _ _ _ _ _ hin]
  | some x => rw [(post_spec s fn sq cid st d0 d1 (by rw [hin]; rfl)).host]; rfl

/-- A completion on an admin queue moves no value of the dictionary. -/
@[simp] theorem post_admin_dict (fn cid : Nat) (st : Status) (d0 d1 : Nat) : (post fn 0 cid st d0 d1 s).dict = s.dict := by
  cases hin : inflight? s fn 0 cid with
  | none => rw [post_none s _ _ _ _ _ _ hin]
  | some x => exact ((post_spec s fn 0 cid st d0 d1 (by rw [hin]; rfl)).admin rfl).2.1

/-- A completion on an admin queue leaves fabric time alone. -/
@[simp] theorem post_admin_time (fn cid : Nat) (st : Status) (d0 d1 : Nat) : (post fn 0 cid st d0 d1 s).time = s.time := by
  cases hin : inflight? s fn 0 cid with
  | none => rw [post_none s _ _ _ _ _ _ hin]
  | some x => exact ((post_spec s fn 0 cid st d0 d1 (by rw [hin]; rfl)).admin rfl).2.2

/-- A completion on an admin queue leaves the power state alone. -/
@[simp] theorem post_admin_pwr (fn cid : Nat) (st : Status) (d0 d1 : Nat) : (post fn 0 cid st d0 d1 s).pwr = s.pwr := by
  cases hin : inflight? s fn 0 cid with
  | none => rw [post_none s _ _ _ _ _ _ hin]
  | some x => exact ((post_spec s fn 0 cid st d0 d1 (by rw [hin]; rfl)).admin rfl).1

/-- A completion on an admin queue leaves every object alone. -/
@[simp] theorem obj_post_admin (fn cid : Nat) (st : Status) (d0 d1 i j : Nat) : obj (post fn 0 cid st d0 d1 s) i j = obj s i j := by
  simp [obj]

/-- Posting the completion of a command in flight appends it to the completions. -/
theorem post_cqes (fn sq cid : Nat) (st : Status) (d0 d1 : Nat) (hin : (inflight? s fn sq cid).isSome) :
    (post fn sq cid st d0 d1 s).host.cqes = s.host.cqes ++ [cqeOf fn sq cid st d0 d1] := by
  rw [(post_spec s fn sq cid st d0 d1 hin).host]; rfl

/-- Outside PS3 and PS4 a completion leaves the power state alone. -/
theorem post_awake_pwr (fn sq cid : Nat) (st : Status) (d0 d1 : Nat) (h : s.pwr.ps < 3) : (post fn sq cid st d0 d1 s).pwr = s.pwr := by
  unfold post; split
  · rfl
  · unfold fetchQ; refine (fetchN_awake 32 fn sq _ ?_).1; exact h

/-- Outside PS3 and PS4 a completion leaves the dictionary alone. -/
theorem post_awake_dict (fn sq cid : Nat) (st : Status) (d0 d1 : Nat) (h : s.pwr.ps < 3) : (post fn sq cid st d0 d1 s).dict = s.dict := by
  unfold post; split
  · rfl
  · unfold fetchQ; refine (fetchN_awake 32 fn sq _ ?_).2.1; exact h

/-- Outside PS3 and PS4 a completion leaves fabric time alone. -/
theorem post_awake_time (fn sq cid : Nat) (st : Status) (d0 d1 : Nat) (h : s.pwr.ps < 3) : (post fn sq cid st d0 d1 s).time = s.time := by
  unfold post; split
  · rfl
  · unfold fetchQ; refine (fetchN_awake 32 fn sq _ ?_).2.2; exact h

/-! ### The start of a command -/

/-- Starting a command leaves it in flight, as it does every other. -/
theorem inflight_startCmd (e : Sqe) (fn sq cid : Nat) : (inflight? (startCmd e s) fn sq cid).isSome = (inflight? s fn sq cid).isSome := by
  simp only [inflight?, startCmd, modInflight, modHost_host, updWhere, List.find?_map, Option.isSome_map]
  congr 2
  funext x
  simp only [Function.comp]
  split <;> rfl

end Sys2Proof.Machine
end

