-- ==== Sys2Proof/Laws/Exec.lean ====
section
/-! SUPPORT. What the effect of a command can be, said once for every command: no command faults or is refused, each keeps the queue of
waiting commands, and only the evaluation of R449 and the commands that may restart the module move the throttle ladder. -/

namespace Sys2Proof.Machine

open Sys2Proof

/-- Every command ends in one of three ways. -/
theorem exec_shape (c : Instr) (s : State) :
    (∃ t, exec c s = finish s t) ∨ (∃ t, exec c s = finishRestart s t) ∨
    (∃ e, c = .evaluationTick e ∧ exec c s = .next (keepQueue s (evaluationTickF e s))) := by
  cases c
  case evaluationTick e => exact .inr (.inr ⟨e, rfl, rfl⟩)
  case objectWrite => exact .inr (.inl ⟨_, rfl⟩)
  case storeRecordCommit => exact .inr (.inl ⟨_, rfl⟩)
  case bootBankSelect => exact .inr (.inl ⟨_, rfl⟩)
  case policyGroupSet => exact .inr (.inl ⟨_, rfl⟩)
  case cellRowLimitSet => exact .inr (.inl ⟨_, rfl⟩)
  case securityVersionRaise => exact .inr (.inl ⟨_, rfl⟩)
  case deterministicModeSet => exact .inr (.inl ⟨_, rfl⟩)
  case deterministicModeApply => exact .inr (.inl ⟨_, rfl⟩)
  case pduSet => exact .inr (.inl ⟨_, rfl⟩)
  case setObject => exact .inr (.inl ⟨_, rfl⟩)
  case nvmeMiReset => exact .inr (.inl ⟨_, rfl⟩)
  case inputRise => exact .inr (.inl ⟨_, rfl⟩)
  case drainSequencerTakeover => exact .inr (.inl ⟨_, rfl⟩)
  case pwrEnHigh => exact .inr (.inl ⟨_, rfl⟩)
  case hoopRailStart => exact .inr (.inl ⟨_, rfl⟩)
  case nvmSubsystemReset => exact .inr (.inl ⟨_, rfl⟩)
  case moduleRestartCommand => exact .inr (.inl ⟨_, rfl⟩)
  case hoopWatchdogExpiry => exact .inr (.inl ⟨_, rfl⟩)
  all_goals exact .inl ⟨_, rfl⟩

end Sys2Proof.Machine
end

