-- ==== Sys2Proof/Laws/Flash.lean ====
section
/-! SUPPORT. What the programs of the Pail, the journal and the dies can do, said once: they change the translation layer and the flash array, and nothing
else. -/

namespace Sys2Proof.Machine

open Sys2Proof

/-- A fold whose step keeps a projection keeps it. -/
theorem foldl_same {α β γ : Type} (π : β → γ) (f : β → α → β) (h : ∀ b a, π (f b a) = π b) (l : List α) (b : β) :
    π (l.foldl f b) = π b := by
  induction l generalizing b with
  | nil => rfl
  | cons a l ih => rw [List.foldl_cons, ih, h]

/-- A change of the translation layer and the flash array, and of nothing else. -/
def FlashOnly (s t : State) : Prop := t = { s with blk := t.blk, nand := t.nand }

theorem FlashOnly.refl (s : State) : FlashOnly s s := rfl
theorem FlashOnly.trans {s t u : State} (h : FlashOnly s t) (k : FlashOnly t u) : FlashOnly s u := by
  unfold FlashOnly at *; rw [k, h]
theorem FlashOnly.modBlk (f : Block → Block) (s : State) : FlashOnly s (Machine.modBlk f s) := rfl
theorem FlashOnly.modNand (f : Nand → Nand) (s : State) : FlashOnly s (Machine.modNand f s) := rfl
theorem FlashOnly.modSb (id : Nat) (f : Superblock → Superblock) (s : State) : FlashOnly s (Machine.modSb id f s) := rfl
theorem FlashOnly.journal (e : JEntry) (s : State) : FlashOnly s (Machine.journal e s) := rfl
theorem FlashOnly.mapSet (l e : Nat) (s : State) : FlashOnly s (Machine.mapSet l e s) := rfl

theorem FlashOnly.ite {c : Prop} [Decidable c] {s a b : State} (h : FlashOnly s a) (k : FlashOnly s b) : FlashOnly s (if c then a else b) := by
  split
  · exact h
  · exact k

theorem FlashOnly.foldl {α : Type} (f : State → α → State) (h : ∀ s a, FlashOnly s (f s a)) (l : List α) (s : State) :
    FlashOnly s (l.foldl f s) := by
  induction l generalizing s with
  | nil => exact FlashOnly.refl s
  | cons a l ih => exact (h s a).trans (ih (f s a))

theorem FlashOnly.deallocRange (a n : Nat) (s : State) : FlashOnly s (Machine.deallocRange a n s) := by
  unfold Machine.deallocRange
  exact FlashOnly.ite (FlashOnly.refl s) rfl

theorem FlashOnly.openSb (k st : Nat) (sk : Nat → List Nat) (s : State) : FlashOnly s (Machine.openSb k st sk s).2 := by
  unfold Machine.openSb
  split
  · exact FlashOnly.refl s
  · rfl

theorem FlashOnly.streamSb (k : Nat) (s : State) : FlashOnly s (Machine.streamSb k s).2 := by
  unfold Machine.streamSb
  split
  · exact FlashOnly.refl s
  · split
    · exact FlashOnly.refl s
    · exact FlashOnly.openSb _ _ _ s

theorem FlashOnly.placeUnit {k : Nat} {g : Option Nat} {ps : List UnitPage} {s t : State} (h : Machine.placeUnit k g ps s = some t) :
    FlashOnly s t := by
  unfold Machine.placeUnit at h
  have hs := FlashOnly.streamSb k s
  split at h
  · cases h
  · rename_i b u e
    rw [e] at hs
    have h := Option.some.inj h
    subst h
    refine hs.trans ?_
    by_cases hb : (b.stream == 6) = true
    · simp only [hb, if_true]; rfl
    · simp only [hb]; rfl

theorem FlashOnly.programStream (a : Bool) (k n : Nat) (s : State) : FlashOnly s (Machine.programStream a k n s) := by
  induction n generalizing s with
  | zero => exact FlashOnly.refl s
  | succ n ih =>
    unfold Machine.programStream
    extract_lets xs
    split
    · exact FlashOnly.refl s
    · split
      · exact FlashOnly.refl s
      · rename_i t e
        exact (FlashOnly.placeUnit e).trans ((FlashOnly.modBlk _ _).trans (ih _))

/-- Programming the Pail moves no state but the flash side's. -/
theorem FlashOnly.programPail (a : Bool) (s : State) : FlashOnly s (Machine.programPail a s) :=
  FlashOnly.foldl _ (fun s _ => FlashOnly.programStream _ _ _ s) _ s

theorem FlashOnly.mapGroups (s : State) : FlashOnly s (Machine.mapGroups s) := by
  refine FlashOnly.foldl _ (fun s g => ?_) _ s
  unfold Machine.mapGroup
  extract_lets ps
  split
  · exact FlashOnly.refl s
  · exact (FlashOnly.foldl _ (fun s _ => FlashOnly.mapSet _ _ s) _ s).trans (FlashOnly.modBlk _ _)

theorem FlashOnly.placeSegment (g : Segment) (s : State) : FlashOnly s (Machine.placeSegment g s) := by
  unfold Machine.placeSegment
  split
  · exact FlashOnly.refl s
  · rename_i t e; exact (FlashOnly.placeUnit e).trans (FlashOnly.modBlk _ _)

theorem FlashOnly.startSegment (s : State) : FlashOnly s (Machine.startSegment s) := by
  unfold Machine.startSegment
  extract_lets t
  have h : FlashOnly s t := (FlashOnly.streamSb 6 s).trans (FlashOnly.modBlk _ _)
  split
  · exact h.trans (FlashOnly.placeSegment _ _)
  · exact h

theorem FlashOnly.pumpJournal (s : State) : FlashOnly s (Machine.pumpJournal s) := by
  unfold Machine.pumpJournal
  split
  · exact FlashOnly.ite (FlashOnly.ite (FlashOnly.placeSegment _ s) (FlashOnly.refl s)) (FlashOnly.ite (FlashOnly.startSegment s) (FlashOnly.refl s))
  · exact FlashOnly.ite (FlashOnly.startSegment s) (FlashOnly.refl s)

theorem FlashOnly.closeEarly (p : Stripe → Bool) (s : State) : FlashOnly s (Machine.closeEarly p s) :=
  (FlashOnly.modBlk _ s).trans (FlashOnly.foldl _ (fun s _ => FlashOnly.modSb _ _ s) _ _)

theorem FlashOnly.startParity (b : Superblock) (wl : Nat) (s : State) : FlashOnly s (Machine.startParity b wl s) := by
  unfold Machine.startParity
  split
  · exact FlashOnly.ite rfl rfl
  · rfl

theorem FlashOnly.pumpStripes (s : State) : FlashOnly s (Machine.pumpStripes s) := by
  refine FlashOnly.foldl _ (fun s t => ?_) _ s
  split
  · rfl
  · exact FlashOnly.ite (FlashOnly.refl s) (FlashOnly.ite rfl (FlashOnly.startParity _ _ s))

theorem FlashOnly.issueAll (s : State) : FlashOnly s (Machine.issueAll s) := by
  unfold Machine.issueAll
  refine FlashOnly.trans (FlashOnly.foldl _ (fun s u => ?_) _ s) (FlashOnly.foldl _ (fun s b => FlashOnly.foldl _ (fun s c => ?_) _ s) _ _)
  · unfold Machine.issueUnit; exact FlashOnly.ite rfl (FlashOnly.refl s)
  · unfold Machine.issueErase
    split
    · exact FlashOnly.ite rfl (FlashOnly.refl s)
    · exact FlashOnly.refl s

/-- The flash going on after a change moves no state but the flash side's. -/
theorem FlashOnly.pump (a : Bool) (s : State) : FlashOnly s (Machine.pump a s) := by
  unfold Machine.pump
  extract_lets u
  have h : FlashOnly s u := (FlashOnly.mapGroups s).trans ((FlashOnly.programPail a _).trans (FlashOnly.pumpJournal _))
  clear_value u
  exact h.trans ((FlashOnly.closeEarly _ _).trans ((FlashOnly.pumpStripes _).trans (FlashOnly.issueAll _)))

theorem FlashOnly.acceptAs (k st l o : Nat) (d : Bytes) (s : State) : FlashOnly s (Machine.acceptAs k st l o d s) := by
  unfold Machine.acceptAs; exact FlashOnly.modBlk _ s
theorem FlashOnly.acceptWhole (k st l : Nat) (d : Mem) (s : State) : FlashOnly s (Machine.acceptWhole k st l d s) := by
  unfold Machine.acceptWhole; exact FlashOnly.modBlk _ s
theorem FlashOnly.poisonPail (l o n : Nat) (s : State) : FlashOnly s (Machine.poisonPail l o n s) := by
  unfold Machine.poisonPail; exact FlashOnly.modBlk _ s

theorem FlashOnly.acceptBytes (k : Nat) (b : Bool) (l o : Nat) (d : Bytes) (s : State) : FlashOnly s (Machine.acceptBytes k b l o d s) := by
  unfold Machine.acceptBytes
  exact FlashOnly.ite ((FlashOnly.acceptAs _ _ _ _ _ s).trans (FlashOnly.poisonPail _ _ _ _)) (FlashOnly.acceptAs _ _ _ _ _ s)

theorem FlashOnly.acceptPair (t : Tile) (b : Nat) (s : State) : FlashOnly s (Machine.acceptPair t b s) := by
  unfold Machine.acceptPair
  extract_lets u
  have h : FlashOnly s u := FlashOnly.acceptBytes _ _ _ _ _ s
  refine FlashOnly.ite h ?_
  split
  · exact h
  · exact h.trans ((FlashOnly.acceptBytes _ _ _ _ _ _).trans (FlashOnly.modBlk _ _))

/-- A change of the flash side keeps every object. -/
theorem FlashOnly.obj {s t : State} (h : FlashOnly s t) (i j : Nat) : obj t i j = Machine.obj s i j := by rw [h]; rfl
theorem FlashOnly.pending_eq {s t : State} (h : FlashOnly s t) : t.pending = s.pending := by rw [h]
theorem FlashOnly.time_eq {s t : State} (h : FlashOnly s t) : t.time = s.time := by rw [h]
theorem FlashOnly.free_eq {s t : State} (h : FlashOnly s t) : t.free = s.free := by rw [h]
theorem FlashOnly.thr_eq {s t : State} (h : FlashOnly s t) : t.thr = s.thr := by rw [h]
theorem FlashOnly.pwr_eq {s t : State} (h : FlashOnly s t) : t.pwr = s.pwr := by rw [h]
theorem FlashOnly.dict_eq {s t : State} (h : FlashOnly s t) : t.dict = s.dict := by rw [h]
theorem FlashOnly.mgmt_eq {s t : State} (h : FlashOnly s t) : t.mgmt = s.mgmt := by rw [h]
theorem FlashOnly.fw_eq {s t : State} (h : FlashOnly s t) : t.fw = s.fw := by rw [h]
theorem FlashOnly.host_eq {s t : State} (h : FlashOnly s t) : t.host = s.host := by rw [h]
theorem FlashOnly.tier_eq {s t : State} (h : FlashOnly s t) : t.tier = s.tier := by rw [h]
theorem FlashOnly.integ_eq {s t : State} (h : FlashOnly s t) : t.integ = s.integ := by rw [h]
theorem FlashOnly.arr_eq {s t : State} (h : FlashOnly s t) : t.arr = s.arr := by rw [h]
theorem FlashOnly.jobs_eq {s t : State} (h : FlashOnly s t) : t.jobs = s.jobs := by rw [h]
theorem FlashOnly.sync_eq {s t : State} (h : FlashOnly s t) : t.sync = s.sync := by rw [h]
theorem FlashOnly.retr_eq {s t : State} (h : FlashOnly s t) : t.retr = s.retr := by rw [h]
theorem FlashOnly.churn_eq {s t : State} (h : FlashOnly s t) : t.churn = s.churn := by rw [h]
theorem FlashOnly.wyv_eq {s t : State} (h : FlashOnly s t) : t.wyv = s.wyv := by rw [h]

end Sys2Proof.Machine
end

