-- ==== Sys2Proof/Laws/Ending.lean ====
section
/-! SUPPORT. What the end of a command with a status other than Success can do, said once: it leaves the flash, the management side, the firmware
and the parts in service alone; of the translation layer it moves only what giving up pages of the object store moves; completions are only
added; and outside PS3 and PS4 it moves no power state, no time, and no object but counts of its own. -/

namespace Sys2Proof.Machine

open Sys2Proof

/-- The subindices that no end of a command moves: those of the power, Hoop, host-service, flash, translation and placement objects, and
those of the integrity objects but their counts and the count of write-backs. -/
def Untouched (i j : Nat) : Prop := j < 256 ∧ i ≠ 0x2202 ∧ (i < 0x2302 ∨ (0x2302 < i ∧ i < 0x3000))

/-- No tile holds a write that is not yet saved. -/
def Clean (t : Tiers) : Prop := ∀ x ∈ t.tiles, x.dirty = false

theorem Clean.filter {t u : Tiers} (p : Tile → Bool) (h : Clean t) (e : u.tiles = t.tiles.filter p) : Clean u := by
  intro x hx; rw [e] at hx; exact h x (List.mem_filter.mp hx).1

theorem Clean.map {t u : Tiers} (f : Tile → Tile) (hf : ∀ x, (f x).dirty = x.dirty) (h : Clean t) (e : u.tiles = t.tiles.map f) : Clean u := by
  intro x hx; rw [e] at hx; obtain ⟨y, hy, rfl⟩ := List.mem_map.mp hx; rw [hf]; exact h y hy

/-- What the end of a command may change between `s` and `t`. -/
structure Ended (s t : State) : Prop where
  nand : t.nand = s.nand
  blk : t.blk = { s.blk with pail := t.blk.pail, merges := t.blk.merges, map := t.blk.map, jbuf := t.blk.jbuf }
  mgmt : t.mgmt = s.mgmt
  fw : t.fw = s.fw
  thr : t.thr = s.thr
  pending : t.pending = s.pending
  clean : Clean s.tier → Clean t.tier
  parts : t.integ = { s.integ with log := t.integ.log, stored := t.integ.stored, nextSeq := t.integ.nextSeq, store := t.integ.store }
  cqes : ∃ l, t.host.cqes = s.host.cqes ++ l
  wyv : t.wyv = { s.wyv with ports := t.wyv.ports, tx := t.wyv.tx, held := t.wyv.held, inject := t.wyv.inject, requests := t.wyv.requests,
                             keptResp := t.wyv.keptResp, nextTag := t.wyv.nextTag }
  time : s.pwr.ps < 3 → t.time = s.time
  pwr : s.pwr.ps < 3 → t.pwr = s.pwr
  objs : s.pwr.ps < 3 → ∀ i j, Untouched i j → obj t i j = obj s i j

theorem Ended.refl (s : State) : Ended s s :=
  ⟨rfl, rfl, rfl, rfl, rfl, rfl, id, rfl, ⟨[], by simp⟩, rfl, fun _ => rfl, fun _ => rfl, fun _ _ _ _ => rfl⟩

theorem Ended.trans {s t u : State} (h : Ended s t) (k : Ended t u) : Ended s u := by
  refine ⟨k.nand.trans h.nand, ?_, k.mgmt.trans h.mgmt, k.fw.trans h.fw, k.thr.trans h.thr, k.pending.trans h.pending, fun c => k.clean (h.clean c), ?_, ?_, ?_,
    fun hp => ?_, fun hp => ?_, fun hp i j hu => ?_⟩
  · rw [k.blk, h.blk]
  · rw [k.parts, h.parts]
  · obtain ⟨l, hl⟩ := h.cqes; obtain ⟨m, hm⟩ := k.cqes
    exact ⟨l ++ m, by rw [hm, hl, List.append_assoc]⟩
  · rw [k.wyv, h.wyv]
  · rw [k.time (by rw [h.pwr hp]; exact hp), h.time hp]
  · rw [k.pwr (by rw [h.pwr hp]; exact hp), h.pwr hp]
  · rw [k.objs (by rw [h.pwr hp]; exact hp) i j hu, h.objs hp i j hu]

theorem Ended.ite {c : Prop} [Decidable c] {s a b : State} (h : Ended s a) (k : Ended s b) : Ended s (if c then a else b) := by
  split
  · exact h
  · exact k

theorem Ended.modArr (f : CellArray → CellArray) (s : State) : Ended s (Machine.modArr f s) :=
  ⟨rfl, rfl, rfl, rfl, rfl, rfl, id, rfl, ⟨[], by simp⟩, rfl, fun _ => rfl, fun _ => rfl, fun _ _ _ _ => rfl⟩
theorem Ended.modTier (f : Tiers → Tiers) (s : State) (h : Clean s.tier → Clean (f s.tier)) : Ended s (Machine.modTier f s) :=
  ⟨rfl, rfl, rfl, rfl, rfl, rfl, h, rfl, ⟨[], by simp⟩, rfl, fun _ => rfl, fun _ => rfl, fun _ _ _ _ => rfl⟩
theorem Ended.modJobs (f : Jobs → Jobs) (s : State) : Ended s (Machine.modJobs f s) :=
  ⟨rfl, rfl, rfl, rfl, rfl, rfl, id, rfl, ⟨[], by simp⟩, rfl, fun _ => rfl, fun _ => rfl, fun _ _ _ _ => rfl⟩
theorem Ended.modSync (f : Sync → Sync) (s : State) : Ended s (Machine.modSync f s) :=
  ⟨rfl, rfl, rfl, rfl, rfl, rfl, id, rfl, ⟨[], by simp⟩, rfl, fun _ => rfl, fun _ => rfl, fun _ _ _ _ => rfl⟩
theorem Ended.modRetr (f : Retrieval → Retrieval) (s : State) : Ended s (Machine.modRetr f s) :=
  ⟨rfl, rfl, rfl, rfl, rfl, rfl, id, rfl, ⟨[], by simp⟩, rfl, fun _ => rfl, fun _ => rfl, fun _ _ _ _ => rfl⟩
theorem Ended.modChurn (f : Churns → Churns) (s : State) : Ended s (Machine.modChurn f s) :=
  ⟨rfl, rfl, rfl, rfl, rfl, rfl, id, rfl, ⟨[], by simp⟩, rfl, fun _ => rfl, fun _ => rfl, fun _ _ _ _ => rfl⟩
theorem Ended.modWyv (f : Wyvas → Wyvas) (s : State)
    (h : f s.wyv = { s.wyv with
      ports := (f s.wyv).ports, tx := (f s.wyv).tx, held := (f s.wyv).held, inject := (f s.wyv).inject, requests := (f s.wyv).requests,
      keptResp := (f s.wyv).keptResp, nextTag := (f s.wyv).nextTag }) : Ended s (Machine.modWyv f s) :=
  ⟨rfl, rfl, rfl, rfl, rfl, rfl, id, rfl, ⟨[], by simp⟩, h, fun _ => rfl, fun _ => rfl, fun _ _ _ _ => rfl⟩
theorem Ended.modHost (f : HostIf → HostIf) (s : State) (h : ∃ l, (f s.host).cqes = s.host.cqes ++ l) : Ended s (Machine.modHost f s) :=
  ⟨rfl, rfl, rfl, rfl, rfl, rfl, id, rfl, h, rfl, fun _ => rfl, fun _ => rfl, fun _ _ _ _ => rfl⟩
theorem Ended.logEv (e : Ev) (s : State) : Ended s (Machine.logEv e s) :=
  ⟨by simp, by simp, by simp, by simp, by simp, by simp, fun c => by simpa using c, logEv_integ s e, ⟨[], by simp⟩, by simp, fun _ => by simp, fun _ => by simp, fun _ _ _ _ => by simp⟩

/-- Setting an object that an end may move. -/
theorem Ended.setObj (i j v : Nat) (s : State) (h : ∀ i' j', Untouched i' j' → objKey i' j' ≠ objKey i j) : Ended s (Machine.setObj i j v s) :=
  ⟨rfl, rfl, rfl, rfl, rfl, rfl, id, rfl, ⟨[], by simp⟩, rfl, fun _ => rfl, fun _ => rfl, fun _ i' j' hu => obj_setObj_ne s i j i' j' v (h i' j' hu)⟩

theorem Ended.bumpBy (i j n : Nat) (s : State) (h : ∀ i' j', Untouched i' j' → objKey i' j' ≠ objKey i j) : Ended s (Machine.bumpBy i j n s) :=
  Ended.setObj i j _ s h

/-- A fold of steps that each end something. -/
theorem Ended.foldl {α : Type} (f : State → α → State) (h : ∀ s a, Ended s (f s a)) (l : List α) (s : State) : Ended s (l.foldl f s) := by
  induction l generalizing s with
  | nil => exact Ended.refl s
  | cons a l ih => exact (h s a).trans (ih (f s a))

/-- Keys of objects that are not untouched. -/
theorem key_ge (i j : Nat) (hi : 0x3000 ≤ i) : ∀ i' j', Untouched i' j' → objKey i' j' ≠ objKey i j := by
  rintro i' j' ⟨hj, -, h⟩
  simp only [objKey]
  omega
theorem key_2302 (j : Nat) (hj : j < 256) : ∀ i' j', Untouched i' j' → objKey i' j' ≠ objKey 0x2302 j := by
  rintro i' j' ⟨hj', -, h⟩
  simp only [objKey]
  omega

theorem Ended.post (fn sq cid : Nat) (st : Status) (d0 d1 : Nat) (s : State) : Ended s (Machine.post fn sq cid st d0 d1 s) := by
  cases hin : inflight? s fn sq cid with
  | none => rw [post_none s _ _ _ _ _ _ hin]; exact Ended.refl s
  | some x =>
    refine ⟨by simp, by simp, by simp, by simp, by simp, by simp, fun c => by simpa using c, by simp, ⟨_, post_cqes s fn sq cid st d0 d1 (by rw [hin]; rfl)⟩,
      by rw [post_wyv], ?_, ?_, ?_⟩
    · intro hp; exact post_awake_time s fn sq cid st d0 d1 hp
    · intro hp; exact post_awake_pwr s fn sq cid st d0 d1 hp
    · intro hp i j _; simp [obj, post_awake_dict s fn sq cid st d0 d1 hp]

theorem Ended.modCtrl (fn : Nat) (f : Ctrl → Ctrl) (s : State) : Ended s (Machine.modCtrl fn f s) := Ended.modHost _ s ⟨[], by simp⟩
theorem Ended.modSq (fn id : Nat) (f : Sq → Sq) (s : State) : Ended s (Machine.modSq fn id f s) := Ended.modHost _ s ⟨[], by simp⟩

theorem Ended.asyncEvent (fn a b : Nat) (s : State) : Ended s (Machine.asyncEvent fn a b s) := by
  unfold Machine.asyncEvent
  split
  · exact Ended.refl s
  · split
    · exact Ended.modCtrl _ _ s
    · exact (Ended.modCtrl _ _ s).trans ((Ended.modHost _ _ ⟨[], by simp⟩).trans (Ended.post _ _ _ _ _ _ _))

theorem Ended.abortUnstarted (fn id : Nat) (s : State) : Ended s (Machine.abortUnstarted fn id s) :=
  Ended.foldl _ (fun s _ => Ended.post _ _ _ _ _ _ s) _ s

theorem Ended.freezeEvent (fn : Nat) (s : State) : Ended s (Machine.freezeEvent fn s) := by
  unfold Machine.freezeEvent
  split
  · split
    · exact (Ended.modCtrl _ _ s).trans (Ended.asyncEvent _ _ _ _)
    · exact Ended.refl s
  · exact Ended.refl s

theorem Ended.freezeQueue (fn id : Nat) (s : State) : Ended s (Machine.freezeQueue fn id s) := by
  unfold Machine.freezeQueue
  split
  · split
    · exact Ended.refl s
    · exact (Ended.modSq _ _ _ s).trans ((Ended.abortUnstarted _ _ _).trans (Ended.freezeEvent _ _))
  · exact Ended.refl s

theorem Ended.logError (fn sq cid : Nat) (st : Status) (d j o : Nat) (fr : Bool) (s : State) : Ended s (Machine.logError fn sq cid st d j o fr s) :=
  Ended.modCtrl _ _ s

theorem Ended.endBasket (fn sq cid : Nat) (st : Status) (d j o : Nat) (s : State) : Ended s (Machine.endBasket fn sq cid st d j o s) := by
  unfold Machine.endBasket
  split
  · exact Ended.refl s
  · have h1 : ∀ b : Bool, Ended s (if logsError st then Machine.logError fn sq cid st d j o b s else s) := by
      intro b; split
      · exact Ended.logError _ _ _ _ _ _ _ _ s
      · exact Ended.refl s
    refine Ended.ite ?_ ?_
    · exact (h1 _).trans ((Ended.modSq _ _ _ _).trans ((Ended.post _ _ _ _ _ _ _).trans ((Ended.abortUnstarted _ _ _).trans
        (Ended.freezeEvent _ _))))
    · exact (h1 _).trans (Ended.post _ _ _ _ _ _ _)

theorem Ended.emit (p : Nat) (m : Msg) (s : State) : Ended s (Machine.emit p m s) := by
  unfold Machine.emit
  refine Ended.ite ?_ ?_
  · exact (Ended.modWyv _ s rfl).trans ((Ended.modWyv _ _ rfl).trans (Ended.bumpBy _ _ _ _ (key_ge 0x4002 _ (by decide))))
  · exact Ended.modWyv _ s rfl

theorem Ended.forward (plane : Nat) (m : Msg) (s : State) : Ended s (Machine.forward plane m s) := by
  unfold Machine.forward
  split
  · exact Ended.emit _ _ s
  · split
    · exact (Ended.bumpBy _ _ _ s (key_ge 0x4002 _ (by decide))).trans (Ended.emit _ _ _)
    · split
      · exact Ended.refl s
      · split
        · exact (Ended.bumpBy _ _ _ s (key_ge 0x4002 _ (by decide))).trans (Ended.emit _ _ _)
        · exact Ended.refl s

theorem Ended.holdInject (b : Bool) (m : Msg) (s : State) : Ended s (Machine.holdInject b m s) := Ended.modWyv _ s rfl

theorem Ended.sendMsg (m : Msg) (s : State) : Ended s (Machine.sendMsg m s) := by
  unfold Machine.sendMsg Machine.injectOn
  exact Ended.ite (Ended.holdInject _ _ s) (Ended.forward _ m s)

theorem Ended.sendTwin (m : Msg) (s : State) : Ended s (Machine.sendTwin m s) := by
  unfold Machine.sendTwin
  exact Ended.ite (Ended.holdInject _ _ s) (Ended.ite (Ended.emit _ _ s) (Ended.ite (Ended.emit _ _ s) (Ended.refl s)))

theorem Ended.announceNode (op : Nat) (s : State) : Ended s (Machine.announceNode op s) :=
  (Ended.foldl _ (fun s _ => Ended.emit _ _ s) _ s).trans (Ended.sendTwin _ _)

theorem Ended.withdrawRequests (p : Request → Bool) (s : State) : Ended s (Machine.withdrawRequests p s) :=
  (Ended.modWyv _ s rfl).trans (Ended.foldl _ (fun s _ => Ended.sendMsg _ s) _ _)

theorem Ended.respond (m : Msg) (st : Nat) (data : Bytes) (poison : Nat) (s : State) : Ended s (Machine.respond m st data poison s) := by
  unfold Machine.respond
  exact (Ended.modWyv _ s rfl).trans (Ended.ite (Ended.sendTwin _ _) (Ended.sendMsg _ _))

theorem Ended.issueTwin (mt op tg fn : Nat) (x : Bool) (n : Nat) (d : Bytes) (k : Nat) (w : SyncWho) (o : Option Nat) (s : State) :
    Ended s (Machine.issueTwin mt op tg fn x n d k w o s) := by
  unfold Machine.issueTwin
  exact (Ended.modWyv _ s rfl).trans (Ended.sendTwin _ _)

theorem Ended.sendSync (no : Nat) (b : Bytes) (s : State) : Ended s (Machine.sendSync no b s) := Ended.issueTwin _ _ _ _ _ _ _ _ _ _ s

theorem Ended.sendSyncs (s : State) : Ended s (Machine.sendSyncs s) :=
  Ended.foldl _ (fun s _ => (Ended.modSync _ s).trans (Ended.sendSync _ _ _)) _ s

theorem Ended.mirrorSync (old : List SyncObj) (s : State) : Ended s (Machine.mirrorSync old s) := by
  unfold Machine.mirrorSync
  refine Ended.ite (Ended.refl s) (Ended.ite (Ended.modSync _ s) ?_)
  exact (Ended.modSync _ s).trans ((Ended.foldl _ (fun s _ => Ended.sendSync _ _ s) _ _).trans (Ended.sendSyncs _))

theorem Ended.serveRemote (no : Nat) (s : State) : Ended s (Machine.serveRemote no s) := by
  unfold Machine.serveRemote
  split
  · exact Ended.refl s
  · refine (Ended.modSync _ s).trans (Ended.foldl _ (fun s x => ?_) _ _)
    split
    · exact (Ended.modSync _ s).trans (Ended.respond _ _ _ _ _)
    · exact Ended.refl s

theorem Ended.dropWaiters (s : State) : Ended s (Machine.dropWaiters s) :=
  (Ended.modSync _ s).trans ((Ended.foldl _ (fun s no => Ended.serveRemote no s) _ _).trans (Ended.mirrorSync _ _))

theorem Ended.coverDie (d : Nat) (s : State) : Ended s (Machine.coverDie d s) := by
  unfold Machine.coverDie
  extract_lets bad t
  have h : Ended s t := Ended.ite (Ended.setObj _ _ _ s (key_ge 0x3010 _ (by decide))) (Ended.refl s)
  refine Ended.ite ?_ h
  split
  · exact h.trans (Ended.setObj _ _ _ _ (key_ge 0x3010 _ (by decide)))
  · exact h

theorem Ended.applyRepair (s : State) : Ended s (Machine.applyRepair s) := by
  have so : ∀ i j v s, 0x3000 ≤ i → Ended s (Machine.setObj i j v s) := fun i j v s h => Ended.setObj i j v s (key_ge i j h)
  have s2 : ∀ j v s, j < 256 → Ended s (Machine.setObj 0x2302 j v s) := fun j v s h => Ended.setObj _ j v s (key_2302 j h)
  unfold Machine.applyRepair
  extract_lets t1 rows t2 t3 t4 hp t5 t6 t7 t8
  have h1 : Ended s t1 := Ended.foldl _ (fun s d => Ended.coverDie d s) _ s
  have h2 : Ended s t2 := h1.trans (so _ _ _ _ (by decide))
  have h3 : Ended s t3 := h2.trans ((s2 _ _ _ (by decide)).trans ((so _ _ _ _ (by decide)).trans (so _ _ _ _ (by decide))))
  have h4 : Ended s t4 := h3.trans (Ended.foldl _ (fun s k => so _ _ _ s (by decide)) _ _)
  have h5 : Ended s t5 := h4.trans ((so _ _ _ _ (by decide)).trans ((so _ _ _ _ (by decide)).trans (so _ _ _ _ (by decide))))
  have h6 : Ended s t6 := h5.trans (Ended.foldl _ (fun s k => so _ _ _ s (by omega)) _ _)
  have h7 : Ended s t7 := h6.trans (s2 _ _ _ (by decide))
  have h8 : Ended s t8 := h7.trans (s2 _ _ _ (by decide))
  exact h8.trans (Ended.modArr _ _)

theorem Ended.applyPending (s : State) : Ended s (Machine.applyPending s) := by
  unfold Machine.applyPending
  split
  · exact Ended.applyRepair s
  · exact Ended.refl s

theorem Ended.logPoison (c : Nat) (s : State) : Ended s (Machine.logPoison c s) :=
  (Ended.bumpBy _ _ _ s (key_2302 4 (by decide))).trans (Ended.logEv _ _)

theorem Ended.deallocRange (a n : Nat) (s : State) : Ended s (Machine.deallocRange a n s) := by
  unfold Machine.deallocRange
  exact Ended.ite (Ended.refl s)
    ⟨rfl, rfl, rfl, rfl, rfl, rfl, id, rfl, ⟨[], (List.append_nil _).symm⟩, rfl, fun _ => rfl, fun _ => rfl, fun _ _ _ _ => rfl⟩

theorem Ended.dropPages (p : StorePage → Bool) (s : State) : Ended s (Machine.dropPages p s) := by
  unfold Machine.dropPages
  exact Ended.ite (Ended.refl s) ((Ended.foldl _ (fun s _ => Ended.deallocRange _ _ s) _ s).trans (Ended.modTier _ _ id))

theorem Ended.deleteObj (id : Nat) (s : State) : Ended s (Machine.deleteObj id s) := (Ended.modTier _ s fun c => c.filter _ rfl).trans (Ended.dropPages _ _)

theorem Ended.removeIndex (id : Nat) (s : State) : Ended s (Machine.removeIndex id s) :=
  (Ended.modRetr _ s).trans ((Ended.modTier _ _ fun c => c.filter _ rfl).trans (Ended.dropPages _ _))

theorem Ended.dropDeleted (s : State) : Ended s (Machine.dropDeleted s) := Ended.foldl _ (fun s _ => Ended.removeIndex _ s) _ s

theorem Ended.dropQuery (fn sq cid : Nat) (s : State) : Ended s (Machine.dropQuery fn sq cid s) :=
  (Ended.modRetr _ s).trans (Ended.dropDeleted _)

theorem Ended.account (j : Job) (sub n : Nat) (s : State) : Ended s (Machine.account j sub n s) :=
  Ended.foldl _ (fun s _ => Ended.bumpBy _ _ _ s (key_ge _ _ (by unfold fnIdx; omega))) _ s

theorem Ended.jobFails (j : Job) (s : State) : Ended s (Machine.jobFails j s) := by
  unfold Machine.jobFails
  split
  · exact Ended.refl s
  · exact Ended.foldl _ (fun s _ => Ended.deleteObj _ s) _ s

theorem Ended.releaseArray (j : Job) (s : State) : Ended s (Machine.releaseArray j s) := by
  unfold Machine.releaseArray
  extract_lets t1 left t2 t3 t4 t5
  have h1 : Ended s t1 := (Ended.dropWaiters s).trans (Ended.withdrawRequests _ _)
  have h2 : Ended s t2 := h1.trans ((Ended.modChurn _ _).trans (Ended.bumpBy _ _ _ _ (key_ge 0x3401 _ (by decide))))
  have h3 : Ended s t3 := by
    refine h2.trans ?_
    show Ended t2 (zeroScratch (zeroArea j.basket.cls (zeroRennet t2)))
    unfold zeroScratch zeroArea zeroRennet
    exact (Ended.modArr _ _).trans ((Ended.modArr _ _).trans (Ended.modTier _ _ id))
  exact h3.trans ((Ended.modJobs _ _).trans ((Ended.modRetr _ _).trans (Ended.applyPending _)))

theorem Ended.dropWaits (id : Nat) (s : State) : Ended s (Machine.dropWaits id s) := Ended.modTier _ s fun c => c
theorem Ended.unpin (j : Job) (s : State) : Ended s (Machine.unpin j s) := by
  unfold Machine.unpin; exact Ended.modTier _ s fun c => c.map _ (fun x => by split <;> rfl) rfl

/-- A job leaves with all it holds. -/
theorem Ended.clearJob (j : Job) (s : State) : Ended s (Machine.clearJob j s) := by
  unfold Machine.clearJob
  extract_lets u v w
  have h1 : Ended s u := Ended.ite (Ended.releaseArray j s) (Ended.refl s)
  have h2 : Ended u v := by
    refine Ended.ite (Ended.trans (t := zeroArea j.basket.cls u) ?_ ((Ended.modJobs _ _).trans (Ended.account _ _ _ _))) (Ended.refl u)
    unfold zeroArea; exact Ended.modArr _ u
  have h3 : Ended v w := (Ended.dropWaits _ _).trans (Ended.unpin _ _)
  exact h1.trans (h2.trans (h3.trans ((Ended.modJobs _ _).trans (Ended.bumpBy _ _ _ _ (key_ge _ _ (by decide))))))

theorem Ended.dropIdleStages (s : State) : Ended s (Machine.dropIdleStages s) := Ended.foldl _ (fun s _ => Ended.clearJob _ s) _ s

theorem Ended.failQuery (q : Query) (st : Status) (d : Nat) (s : State) : Ended s (Machine.failQuery q st d s) := by
  unfold Machine.failQuery
  extract_lets u
  have h : Ended s u := Ended.ite (Ended.logPoison _ s) (Ended.refl s)
  exact h.trans ((Ended.dropQuery _ _ _ _).trans ((Ended.dropIdleStages _).trans (Ended.endBasket _ _ _ _ _ _ _ _)))

/-- The end of a job with a status other than Success. -/
theorem Ended.finishJob (j : Job) (st : Status) (d : Nat) (s : State) (hst : st ≠ stSuccess) : Ended s (Machine.finishJob j st d s) := by
  unfold Machine.finishJob
  have hst' : (st == stSuccess) = false := by simpa using hst
  simp only [hst', Bool.false_eq_true, if_false]
  refine Ended.ite ?_ ?_
  · exact (Ended.clearJob j s).trans (Ended.foldl _ (fun s _ => Ended.failQuery _ _ _ s) _ _)
  · exact (Ended.jobFails j s).trans ((Ended.ite (Ended.logPoison _ _) (Ended.refl _)).trans
      ((Ended.clearJob j _).trans (Ended.endBasket _ _ _ _ _ _ _ _)))

theorem Ended.endJob (id : Nat) (st : Status) (d : Nat) (s : State) (hst : st ≠ stSuccess) : Ended s (Machine.endJob id st d s) := by
  unfold Machine.endJob
  split
  · exact Ended.refl s
  · exact Ended.finishJob _ _ _ s hst

theorem Ended.dropIngest (g : Ingest) (s : State) : Ended s (Machine.dropIngest g s) := by
  unfold Machine.dropIngest Machine.modIndex
  exact (Ended.modRetr _ s).trans (Ended.modRetr _ _)

theorem Ended.dropUpd (fn sq cid : Nat) (s : State) : Ended s (Machine.dropUpd fn sq cid s) :=
  (Ended.modChurn _ s).trans (Ended.bumpBy _ _ _ _ (key_ge _ _ (by decide)))

theorem Ended.cancelFetches (s : State) : Ended s (Machine.cancelFetches s) :=
  Ended.modTier _ s fun c => c.map _ (fun x => by split <;> rfl) rfl

/-- The end of a command with a status other than Success. -/
theorem Ended.endRequest (fn sq cid : Nat) (st : Status) (d : Nat) (s : State) (hst : st ≠ stSuccess) :
    Ended s (Machine.endRequest fn sq cid st d s) := by
  unfold Machine.endRequest
  split
  · exact (Ended.finishJob _ _ _ s hst).trans (Ended.cancelFetches _)
  · split
    · exact Ended.failQuery _ _ _ s
    · split
      · exact (Ended.dropIngest _ s).trans (Ended.endBasket _ _ _ _ _ _ _ _)
      · split
        · exact ((Ended.dropUpd _ _ _ s).trans (Ended.endBasket _ _ _ _ _ _ _ _)).trans (Ended.cancelFetches _)
        · split
          · exact Ended.endBasket _ _ _ _ _ _ _ s
          · exact Ended.post _ _ _ _ _ _ s

theorem Ended.endOwner (st : Status) (d : Option Nat) (s : State) (hst : st ≠ stSuccess) : Ended s (Machine.endOwner st d s) := by
  unfold Machine.endOwner
  split
  · exact Ended.endJob _ _ _ s hst
  · exact Ended.refl s

theorem Ended.dropHeld (fn : Nat) (s : State) : Ended s (Machine.dropHeld fn s) := by
  unfold Machine.dropHeld
  exact (Ended.modRetr _ s).trans (Ended.modJobs _ _)

/-- Function Abort. -/
theorem Ended.abortFunction (fn : Nat) (s : State) : Ended s (Machine.abortFunction fn s) := by
  unfold Machine.abortFunction
  extract_lets xs base t
  have h : Ended s t := Ended.modHost _ s ⟨[], by simp⟩
  exact (h.trans (Ended.foldl _ (fun s (x : Inflight) => Ended.endRequest fn x.sq x.cid stFunctionAborted 0 s (by decide)) _ _)).trans (Ended.dropHeld _ _)

/-- The stop of a controller's work. -/
theorem Ended.stopFunction (fn : Nat) (s : State) : Ended s (Machine.stopFunction fn s) := by
  unfold Machine.stopFunction
  extract_lets xs t
  have h : Ended s t := Ended.modHost _ s ⟨[], by simp⟩
  exact (h.trans (Ended.foldl _ (fun s (x : Inflight) => Ended.endRequest fn x.sq x.cid stAbortRequested 0 s (by decide)) _ _)).trans (Ended.dropHeld _ _)

theorem Ended.stopHost (s : State) : Ended s (Machine.stopHost s) := by
  refine Ended.foldl _ (fun u c => ?_) _ s
  split
  · exact Ended.stopFunction _ _
  · exact Ended.refl _

theorem Ended.endCompute (st : Status) (s : State) (hst : st ≠ stSuccess) : Ended s (Machine.endCompute st s) :=
  (Ended.foldl _ (fun s _ => Ended.freezeQueue _ _ s) _ s).trans (Ended.foldl _ (fun s _ => Ended.endRequest _ _ _ _ _ s hst) _ _)

theorem key_2202 (j : Nat) (hj : j < 256) : ∀ i' j', Untouched i' j' → objKey i' j' ≠ objKey 0x2202 j := by
  rintro i' j' ⟨hj', h, -⟩
  simp only [objKey]
  omega

/-- What taking pages and writing tiles back may change between `s` and `t`: the flash side, the tiers, and the count of write-backs. -/
structure Stored (s t : State) : Prop where
  rest : t = { s with blk := t.blk, nand := t.nand, tier := t.tier, dict := t.dict }
  objs : ∀ i j, Untouched i j → obj t i j = obj s i j

theorem Stored.refl (s : State) : Stored s s := ⟨rfl, fun _ _ _ => rfl⟩
theorem Stored.trans {s t u : State} (h : Stored s t) (k : Stored t u) : Stored s u :=
  ⟨by rw [k.rest, h.rest], fun i j hu => (k.objs i j hu).trans (h.objs i j hu)⟩
theorem Stored.ite {c : Prop} [Decidable c] {s a b : State} (h : Stored s a) (k : Stored s b) : Stored s (if c then a else b) := by
  split
  · exact h
  · exact k
theorem Stored.foldl {α : Type} (f : State → α → State) (h : ∀ s a, Stored s (f s a)) (l : List α) (s : State) : Stored s (l.foldl f s) := by
  induction l generalizing s with
  | nil => exact Stored.refl s
  | cons a l ih => exact (h s a).trans (ih (f s a))
theorem FlashOnly.stored {s t : State} (h : FlashOnly s t) : Stored s t := ⟨by rw [h], fun i j _ => h.obj i j⟩
theorem Stored.modTier (f : Tiers → Tiers) (s : State) : Stored s (Machine.modTier f s) := ⟨rfl, fun _ _ _ => rfl⟩

theorem Stored.bump (s : State) : Stored s (Machine.bump 0x2202 4 s) :=
  ⟨rfl, fun i j hu => obj_setObj_ne _ _ _ _ _ _ (key_2202 4 (by decide) i j hu)⟩

theorem Stored.takePage (w : StoreOwner) (k sp n : Nat) (s : State) : Stored s (Machine.takePage w k sp n s) := by
  unfold Machine.takePage
  refine Stored.ite (Stored.refl s) ?_
  extract_lets add
  have h : ∀ l a, Stored s (add l a) := fun l a => Stored.modTier _ s
  split
  · exact h _ _
  · split
    · exact h _ _
    · exact Stored.refl s

theorem Stored.takeTilePages (t : Tile) (s : State) : Stored s (Machine.takeTilePages t s) := by
  unfold Machine.takeTilePages
  extract_lets u
  have h : Stored s u := Stored.takePage _ _ _ _ s
  exact Stored.ite h (h.trans (Stored.takePage _ _ _ _ _))

theorem Stored.writeBack (b : Bool) (o i : Nat) (s : State) : Stored s (Machine.writeBack b o i s) := by
  unfold Machine.writeBack
  split
  · exact Stored.refl s
  · refine Stored.ite (Stored.refl s) ?_
    extract_lets u
    have h : Stored s u := Stored.takeTilePages _ s
    clear_value u
    split
    · exact h
    · rename_i x _ _ b _
      refine Stored.ite h (h.trans ((FlashOnly.acceptPair x b u).stored.trans ?_))
      refine Stored.trans (t := putTile { x with dirty := false, writers := [], saved := x.version } (acceptPair x b u)) ?_ ?_
      · unfold putTile; exact Stored.modTier _ _
      exact (FlashOnly.pump false _).stored.trans (Stored.bump _)

theorem Stored.writeBackAll (p : Tile → Bool) (s : State) : Stored s (Machine.writeBackAll p s) :=
  Stored.foldl _ (fun s _ => Stored.writeBack _ _ _ s) _ s

/-- With no dirty tile nothing is written back. -/
theorem writeBackAll_clean (p : Tile → Bool) (s : State) (h : Clean s.tier) : writeBackAll p s = s := by
  unfold writeBackAll
  rw [List.filter_eq_nil_iff.mpr (fun x hx => by simp [h x hx])]; rfl

theorem Ended.stopPlacement (s : State) : Ended s (Machine.stopPlacement s) :=
  Ended.modTier _ s fun c => c.map _ (fun x => by split <;> (try split) <;> rfl) rfl

/-- What the module does on entry to Basic mode ends with the record of the entry and the alert. -/
theorem basicEntry_spec (c : Nat) (s : State) : ∃ u v, Ended s u ∧ Stored u v ∧ (Clean u.tier → v = u) ∧ basicEntry c s =
    raiseAlert 2 (logEv { source := 6, cls := 9, action := 6, detail := 0, context := c } (noteReset 6 6 (setObj 0x1210 2 0 v))) := by
  refine ⟨_, _, ?_, Stored.writeBackAll _ _, writeBackAll_clean _ _, rfl⟩
  exact (Ended.endCompute _ s (by decide)).trans ((Ended.stopPlacement _).trans (Ended.announceNode _ _))

end Sys2Proof.Machine
end

