-- ==== Sys2Proof/Laws/Basic.lean ====
section
/-! SUPPORT. What an entry to Basic mode and the end of a cause can do, and the check of the floors (R204, R205, R420). -/

namespace Sys2Proof.Machine

open Sys2Proof

/-- What every entry to Basic mode keeps: with no dirty tile to write back, the flash side too. -/
structure Parts (s t : State) : Prop where
  mgmt : t.mgmt = s.mgmt
  fw : t.fw = s.fw
  pending : t.pending = s.pending
  parts : t.integ = { s.integ with log := t.integ.log, stored := t.integ.stored, nextSeq := t.integ.nextSeq, store := t.integ.store,
                                   alert := t.integ.alert }
  cqes : ∃ l, t.host.cqes = s.host.cqes ++ l
  time : s.pwr.ps < 3 → t.time = s.time
  pwr : s.pwr.ps < 3 → t.pwr = s.pwr
  flash : Clean s.tier → Clean t.tier ∧ t.nand = s.nand ∧
    t.blk = { s.blk with pail := t.blk.pail, merges := t.blk.merges, map := t.blk.map, jbuf := t.blk.jbuf }

theorem Parts.refl (s : State) : Parts s s := ⟨rfl, rfl, rfl, rfl, ⟨[], by simp⟩, fun _ => rfl, fun _ => rfl, fun c => ⟨c, rfl, rfl⟩⟩

theorem Parts.trans {s t u : State} (h : Parts s t) (k : Parts t u) : Parts s u := by
  refine ⟨k.mgmt.trans h.mgmt, k.fw.trans h.fw, k.pending.trans h.pending, ?_, ?_, fun hp => ?_, fun hp => ?_, fun c => ?_⟩
  · rw [k.parts, h.parts]
  · obtain ⟨l, hl⟩ := h.cqes; obtain ⟨m, hm⟩ := k.cqes
    exact ⟨l ++ m, by rw [hm, hl, List.append_assoc]⟩
  · rw [k.time (by rw [h.pwr hp]; exact hp), h.time hp]
  · rw [k.pwr (by rw [h.pwr hp]; exact hp), h.pwr hp]
  · obtain ⟨c1, h1, h2⟩ := h.flash c
    obtain ⟨c2, k1, k2⟩ := k.flash c1
    exact ⟨c2, k1.trans h1, by rw [k2, h2]⟩

theorem Ended.toParts {s t : State} (h : Ended s t) : Parts s t :=
  ⟨h.mgmt, h.fw, h.pending, by rw [h.parts], h.cqes, h.time, h.pwr, fun c => ⟨h.clean c, h.nand, h.blk⟩⟩

theorem Parts.setObj (i j v : Nat) (s : State) : Parts s (Machine.setObj i j v s) :=
  ⟨rfl, rfl, rfl, rfl, ⟨[], by simp⟩, fun _ => rfl, fun _ => rfl, fun c => ⟨c, rfl, rfl⟩⟩

theorem Parts.raiseAlert (b : Nat) (s : State) : Parts s (Machine.raiseAlert b s) :=
  ⟨rfl, rfl, rfl, rfl, ⟨[], (List.append_nil _).symm⟩, fun _ => rfl, fun _ => rfl, fun c => ⟨c, rfl, rfl⟩⟩

/-- Write-backs keep all but the flash side and the tiers, and with no dirty tile those too. -/
theorem Stored.toParts {s t : State} (h : Stored s t) (k : Clean s.tier → t = s) : Parts s t := by
  have e := h.rest
  exact ⟨by rw [e], by rw [e], by rw [e], by rw [e], ⟨[], by rw [e]; simp⟩, fun _ => by rw [e], fun _ => by rw [e],
    fun c => by rw [k c]; exact ⟨c, rfl, rfl⟩⟩

theorem Parts.noteReset (a b : Nat) (s : State) : Parts s (Machine.noteReset a b s) := by
  unfold Machine.noteReset bump bumpBy
  exact (Parts.setObj _ _ _ s).trans ((Parts.setObj _ _ _ _).trans ((Parts.setObj _ _ _ _).trans (Parts.setObj _ _ _ _)))

theorem Parts.basicEntry (c : Nat) (s : State) : Parts s (Machine.basicEntry c s) := by
  obtain ⟨u, v, hu, hv, hc, he⟩ := basicEntry_spec c s
  rw [he]
  exact hu.toParts.trans ((hv.toParts hc).trans ((Parts.setObj _ _ _ _).trans ((Parts.noteReset _ _ _).trans
    ((Ended.logEv _ _).toParts.trans (Parts.raiseAlert _ _)))))

theorem Parts.enterBasic (c : Nat) (s : State) : Parts s (Machine.enterBasic c s) := by
  unfold Machine.enterBasic
  split
  · exact Parts.refl s
  · refine Parts.trans (t := if basicMode s then s else Machine.basicEntry c s) ?_ (Parts.setObj _ _ _ _)
    split
    · exact Parts.refl s
    · exact Parts.basicEntry c s

theorem bitOf_or (x c k : Nat) (h : c < k) : bitOf ((x ||| 2 ^ c) % 2 ^ k) c = true := by
  unfold bitOf
  rw [beq_iff_eq, ← Nat.shiftRight_eq_div_pow]
  have := Nat.testBit_mod_two_pow (x ||| 2 ^ c) k c
  simp only [h, decide_true, Bool.true_and, Nat.testBit_or, Nat.testBit_two_pow_self, Bool.or_true] at this
  simpa [Nat.testBit, Nat.and_one_is_mod] using this

/-- A cause that enters Basic mode stands in DeviceStatus.2. -/
theorem enterBasic_bit (c : Nat) (s : State) (h : c < 32) : bitOf (obj (enterBasic c s) 0x1010 2) c = true := by
  unfold enterBasic
  split
  · assumption
  · simp only [obj_setObj_same]
    exact bitOf_or _ c 32 h

/-- The first cause of Basic mode ends compute readiness, and the entry is recorded as a reset. -/
theorem enterBasic_first (c : Nat) (s : State) (hb : obj s 0x1010 2 = 0) :
    obj (enterBasic c s) 0x1210 2 = 0 ∧ obj (enterBasic c s) 0x1010 5 = 6 := by
  have h0 : bitOf (obj s 0x1010 2) c = false := by
    rw [hb]; unfold bitOf; simp
  have h1 : basicMode s = false := by simp [basicMode, hb]
  obtain ⟨u, v, -, -, -, he⟩ := basicEntry_spec c s
  unfold enterBasic
  rw [h0, h1]
  simp only [Bool.false_eq_true, if_false, he]
  unfold noteReset bump bumpBy
  constructor
  · simp (disch := decide) only [obj_setObj_ne, obj_raiseAlert, obj_logEv, obj_setObj_same]; rfl
  · simp (disch := decide) only [obj_setObj_ne, obj_raiseAlert, obj_logEv, obj_setObj_same]; rfl

/-- Leaving Basic mode keeps DeviceStatus.2 as the cause left it. -/
theorem leaveBasic_spec (s : State) : Parts s (leaveBasic s) ∧ (s.pwr.ps < 3 → obj (leaveBasic s) 0x1010 2 = obj s 0x1010 2) := by
  unfold leaveBasic
  split
  · exact ⟨Parts.refl s, fun _ => rfl⟩
  · extract_lets t u
    have hu : Ended s u := (Ended.modArr _ s).trans (Ended.ite (Ended.announceNode _ _) (Ended.refl _))
    split
    · refine ⟨hu.toParts.trans (Parts.setObj _ _ _ _), fun hp => ?_⟩
      rw [obj_setObj_ne _ _ _ _ _ _ (by decide)]
      exact hu.objs hp _ _ ⟨by decide, by decide, by decide⟩
    · exact ⟨hu.toParts, fun hp => hu.objs hp _ _ ⟨by decide, by decide, by decide⟩⟩

theorem Parts.clearBasic (c : Nat) (s : State) : Parts s (Machine.clearBasic c s) := by
  unfold Machine.clearBasic
  split
  · exact (Parts.setObj _ _ _ s).trans (leaveBasic_spec _).1
  · exact Parts.refl s

theorem Parts.checkFloors (s : State) : Parts s (Machine.checkFloors s) := by
  unfold Machine.checkFloors
  split
  · exact Parts.enterBasic _ s
  · exact Parts.clearBasic _ s

end Sys2Proof.Machine
end

