-- ==== Sys2Proof/Laws/Commands.lean ====
section
/-! SUPPORT. The start of a host command and its completion: a command that may start is in flight, and answering it appends its completion. -/

namespace Sys2Proof.Machine

open Sys2Proof

/-- A command that may start is in flight. -/
theorem startable_inflight {e : Sqe} {opc : Nat} {s : State} {x : Inflight} (h : startable e opc s = some x) :
    (inflight? s e.fn e.sq e.cid).isSome := by
  unfold startable at h
  split at h
  · rename_i y hy; rw [hy]; rfl
  · cases h

/-- Whether a command is in flight rests on the list of those in flight. -/
theorem inflight_congr {s t : State} (fn sq cid : Nat) (h : t.host.inflight = s.host.inflight) : inflight? t fn sq cid = inflight? s fn sq cid := by
  unfold inflight?; rw [h]

/-- Starting a command moves nothing but its own record. -/
theorem startCmd_frame (e : Sqe) (s : State) : ∃ l, startCmd e s = { s with host := { s.host with inflight := l } } := ⟨_, rfl⟩

@[simp] theorem startCmd_dict (e : Sqe) (s : State) : (startCmd e s).dict = s.dict := rfl
@[simp] theorem startCmd_pwr (e : Sqe) (s : State) : (startCmd e s).pwr = s.pwr := rfl
@[simp] theorem startCmd_blk (e : Sqe) (s : State) : (startCmd e s).blk = s.blk := rfl
@[simp] theorem startCmd_nand (e : Sqe) (s : State) : (startCmd e s).nand = s.nand := rfl
@[simp] theorem startCmd_cqes (e : Sqe) (s : State) : (startCmd e s).host.cqes = s.host.cqes := rfl
@[simp] theorem startCmd_dma (e : Sqe) (s : State) : (startCmd e s).host.dma = s.host.dma := rfl
@[simp] theorem startCmd_ctrls (e : Sqe) (s : State) : (startCmd e s).host.ctrls = s.host.ctrls := rfl
@[simp] theorem startCmd_namespaces (e : Sqe) (s : State) : (startCmd e s).host.namespaces = s.host.namespaces := rfl
@[simp] theorem obj_startCmd (e : Sqe) (s : State) (i j : Nat) : obj (startCmd e s) i j = obj s i j := rfl

/-- Answering a command that may start, after changes that keep what is in flight, appends its completion. -/
theorem answer_started {e : Sqe} {opc : Nat} {s u : State} {x : Inflight} (h : startable e opc s = some x)
    (hu : u.host.inflight = (startCmd e s).host.inflight) (st : Status) (d0 d1 : Nat) :
    (answer e st d0 d1 u).host.cqes = u.host.cqes ++ [cqeOf e.fn e.sq e.cid st d0 d1] := by
  unfold answer
  apply post_cqes
  rw [inflight_congr e.fn e.sq e.cid hu, inflight_startCmd]
  exact startable_inflight h

/-- An admin command of a fetched entry with no reserved bit and a PSDT of Table 4-6 runs its body. -/
theorem adminCmd_run {e : Sqe} {opc : Nat} {s : State} {x : Inflight} (body : State → State) (h : startable e opc s = some x)
    (hsq : e.sq = 0) (hr : e.rsvd = false) (hf : e.fuse = 0) (hp : e.psdt < 3) : adminCmd e opc body s = body (startCmd e s) := by
  unfold adminCmd; rw [h]; simp [hsq, hr, hf, Nat.not_le.mpr hp]

/-- A command of the NVM command set on a queue that is no compute queue runs its body while no sanitize is under way. -/
theorem blockCmd_run {e : Sqe} {opc : Nat} {s : State} {x : Inflight} (body : Inflight → State → State) (h : startable e opc s = some x)
    (hc : isCompute s e.fn e.sq = false) (hs : sanitizing s = false) : blockCmd e opc body s = body x (startCmd e s) := by
  unfold blockCmd; rw [h]; simp [hc, hs]

end Sys2Proof.Machine
end

