-- ==== Sys2Proof/Laws/Array.lean ====
section
/-! SUPPORT. The shared steps of array operations: the SRAM after a write, and a run of steps over cells, rows and parts (R336, R345). -/

namespace Sys2Proof.Machine

open Sys2Proof

variable {s t u : State}

theorem objsBut_refl (l : List (Nat × Nat)) (s : State) : objsBut l s s := ⟨rfl, fun _ _ _ _ => rfl⟩

theorem objsBut_trans {l : List (Nat × Nat)} (h : objsBut l s t) (k : objsBut l t u) : objsBut l s u :=
  ⟨by rw [k.1, h.1], fun i j hj hn => (k.2 i j hj hn).trans (h.2 i j hj hn)⟩

theorem objsBut_mono {l m : List (Nat × Nat)} (h : objsBut l s t) (hl : ∀ x ∈ l, x ∈ m) : objsBut m s t :=
  ⟨h.1, fun i j hj hn => h.2 i j hj fun hx => hn (hl _ hx)⟩

/-- A change that keeps the dictionary keeps every subindex. -/
theorem objsBut_of_dict (l : List (Nat × Nat)) (h : t.dict = s.dict) : objsBut l s t :=
  ⟨by rw [h], fun i j _ _ => by unfold obj; rw [h]⟩

theorem objsBut_setObj {l : List (Nat × Nat)} {i j : Nat} (v : Nat) (s : State) (h : (i, j) ∈ l) (hj : j < 256) : objsBut l s (setObj i j v s) := by
  refine ⟨rfl, fun a b hb hn => ?_⟩
  unfold obj setObj
  apply kvGet_kvPut_ne
  unfold objKey
  intro hk
  have h1 : a = i ∧ b = j := by omega
  exact hn (by rw [h1.1, h1.2]; exact h)

theorem objsBut_bumpBy {l : List (Nat × Nat)} {i j : Nat} (n : Nat) (s : State) (h : (i, j) ∈ l) (hj : j < 256) : objsBut l s (bumpBy i j n s) :=
  objsBut_setObj _ _ h hj

/-- What steps that keep a relation do, many of them do. -/
theorem objsBut_foldl {α : Type} {l : List (Nat × Nat)} (f : State → α → State) (h : ∀ s x, objsBut l s (f s x)) (xs : List α) (s : State) :
    objsBut l s (xs.foldl f s) := by
  induction xs generalizing s with
  | nil => exact objsBut_refl _ _
  | cons x xs ih => exact objsBut_trans (h s x) (ih _)

/-- An operation whose body completes completes its command. -/
theorem runOp_done {opc : Nat} {d : Bytes} {j : Job} {body : Job → State → OpRes} (h : issuable opc d s = some j) (hb : body j s = .done u) :
    runOp opc d body s = opDone j u := by
  unfold runOp; rw [h]; simp only [hb, settleOp]

/-- A completed operation that changed the array and the listed counts: what its command says and leaves alone. -/
theorem opDone_frame {l : List (Nat × Nat)} (j : Job) (hu : u = { s with dict := u.dict, arr := u.arr }) (hl : objsBut l s u) (hn : (0x3000, 5) ∉ l) :
    opCompleted j s (keepBoth s (opDone j u)) ∧ opFrame l s (keepBoth s (opDone j u)) ∧ (keepBoth s (opDone j u)).arr = u.arr ∧
    (∀ a b, b < 256 → (a, b) ≠ (0x3000, 5) → obj (keepBoth s (opDone j u)) a b = obj u a b) := by
  have hj : u.jobs = s.jobs := by rw [hu]
  have h5 : obj u 0x3000 5 = obj s 0x3000 5 := hl.2 _ _ (by decide) hn
  have hd : ∀ a b, b < 256 → (a, b) ≠ (0x3000, 5) → obj (keepBoth s (opDone j u)) a b = obj u a b := by
    intro a b hb hne
    rw [obj_keepBoth]; unfold opDone
    exact (objsBut_bumpBy (l := [(0x3000, 5)]) 1 _ (by simp) (by decide)).2 a b hb (by simpa using hne)
  refine ⟨⟨?_, ?_⟩, ⟨?_, ?_, ?_⟩, rfl, hd⟩
  · show ({ u.jobs with jobs := _ } : Jobs) = _
    rw [hj]
  · rw [obj_keepBoth]; unfold opDone bump bumpBy; rw [obj_setObj_same]
    show (obj u 0x3000 5 + 1) % _ = _
    rw [h5]; rfl
  · rw [hu]; rfl
  · show _ = _
    have := hl.1
    unfold opDone bump bumpBy setObj
    simp only [keepBoth_dict]
    show ({ u.dict with vals := _ } : Dict) = _
    rw [this]
  · intro a b hb hne
    simp only [List.mem_cons, not_or] at hne
    rw [hd a b hb hne.1]; exact hl.2 a b hb hne.2

/-! ### Bytes and rows of cell SRAM -/

theorem memRead_length (m : Mem) (a n : Nat) : (memRead m a n).length = n := by
  induction n generalizing a with
  | zero => rfl
  | succ n ih => simp [memRead, ih]

theorem memRead_congr {m m' : Mem} {a n : Nat} (h : ∀ k, a ≤ k → k < a + n → memByte m k = memByte m' k) : memRead m a n = memRead m' a n := by
  induction n generalizing a with
  | zero => rfl
  | succ n ih =>
    simp only [memRead]
    rw [h a (by omega) (by omega), ih fun k h1 h2 => h k (by omega) (by omega)]

theorem memRead_memWrite (m : Mem) (a : Nat) (bs : Bytes) : memRead (memWrite m a bs) a bs.length = bs := by
  induction bs generalizing m a with
  | nil => rfl
  | cons b bs ih =>
    simp only [List.length_cons, memRead, memWrite]
    rw [ih, memByte_memWrite_out _ _ _ _ (by omega)]; simp

theorem memByte_filter_keep (p : Host.Cell → Bool) (k : Nat) (m : Mem) (h : ∀ v, p (k, v) = true) : memByte (m.filter p) k = memByte m k := by
  induction m with
  | nil => rfl
  | cons x m ih =>
    obtain ⟨a, v⟩ := x
    by_cases hk : a = k
    · subst hk; simp [List.filter, h v, memByte]
    · by_cases hp : p (a, v) = true <;> simp [List.filter, hp, memByte, hk, ih]

theorem memByte_memClear_out (m : Mem) (lo hi k : Nat) (h : k < lo ∨ hi ≤ k) : memByte (memClear m lo hi) k = memByte m k := by
  apply memByte_filter_keep
  intro v
  simp only [Bool.not_eq_true', Bool.and_eq_false_imp, decide_eq_true_eq, decide_eq_false_iff_not]
  omega

theorem natLE_length (n v : Nat) : (natLE n v).length = n := by
  induction n generalizing v with
  | zero => rfl
  | succ n ih => simp [natLE, ih]

theorem packNibbles_length (old : Nat) (l : List Nat) : (packNibbles old l).length = (l.length + 1) / 2 := by
  fun_induction packNibbles old l with
  | case1 => rfl
  | case2 => simp
  | case3 a b l ih => simp only [List.length_cons, ih]; omega

theorem flatMap_natLE_length (n : Nat) (l : List Nat) : (l.flatMap (natLE n)).length = n * l.length := by
  induction l with
  | nil => rfl
  | cons a l ih => simp only [List.flatMap_cons, List.length_append, ih, natLE_length, List.length_cons]; rw [Nat.mul_add, Nat.mul_one, Nat.add_comm]

theorem fmtBits_cases (f : Nat) : fmtBits f = 4 ∨ fmtBits f = 8 ∨ fmtBits f = 16 ∨ fmtBits f = 32 := by
  unfold fmtBits; split <;> simp

/-- A packed row takes the bytes its row takes. -/
theorem packRow_length (f old : Nat) (l : List Nat) : (packRow f old l).length = rowBytes f l.length := by
  unfold packRow rowBytes
  rcases fmtBits_cases f with h | h | h | h <;> simp only [h]
  · rw [packNibbles_length]; omega
  · rw [List.length_map]; omega
  · rw [flatMap_natLE_length]; omega
  · rw [flatMap_natLE_length]; omega

theorem packRow_nil (f old : Nat) : packRow f old [] = [] := by unfold packRow; split <;> rfl

/-- Writing SRAM changes no byte outside what it writes. -/
theorem sramPut_byte_out (c off k : Nat) (bs : Bytes) (s : State) (h : ¬inSram c off bs.length k) :
    memByte (sramPut c off bs s).arr.sram k = memByte s.arr.sram k ∧ memByte (sramPut c off bs s).arr.poison k = memByte s.arr.poison k := by
  unfold inSram at h
  exact ⟨memByte_memWrite_out _ _ _ _ (by omega), memByte_memClear_out _ _ _ _ (by omega)⟩

/-- Reading back what was written to SRAM gives it. -/
theorem sramRead_sramPut (c off : Nat) (bs : Bytes) (s : State) : sramRead (sramPut c off bs s) c off bs.length = bs := memRead_memWrite _ _ _

theorem sramBut_refl (p : Nat → Prop) (s : State) : sramBut p s s := ⟨rfl, fun _ _ => ⟨rfl, rfl⟩⟩

theorem sramBut_trans {p : Nat → Prop} (h : sramBut p s t) (k : sramBut p t u) : sramBut p s u :=
  ⟨by rw [k.1, h.1], fun a ha => ⟨(k.2 a ha).1.trans (h.2 a ha).1, (k.2 a ha).2.trans (h.2 a ha).2⟩⟩

theorem sramBut_mono {p q : Nat → Prop} (h : sramBut p s t) (hq : ∀ a, p a → q a) : sramBut q s t :=
  ⟨h.1, fun a ha => h.2 a fun hp => ha (hq a hp)⟩

theorem sramBut_of_arr (p : Nat → Prop) (h : t.arr = s.arr) : sramBut p s t := ⟨by rw [h], fun a _ => ⟨by rw [h], by rw [h]⟩⟩

theorem sramPut_but (c off : Nat) (bs : Bytes) (s : State) : sramBut (inSram c off bs.length) s (sramPut c off bs s) :=
  ⟨rfl, fun a ha => sramPut_byte_out c off a bs s ha⟩

/-- Bytes that a change of SRAM does not touch read as before. -/
theorem sramBut_read {p : Nat → Prop} (h : sramBut p s t) (c off n : Nat) (hp : ∀ k, inSram c off n k → ¬p k) : sramRead t c off n = sramRead s c off n :=
  memRead_congr fun k h1 h2 => (h.2 k (hp k ⟨h1, h2⟩)).1

/-- Row `r` of the destination of an operation with destination format `df`: where it starts and how long it is. -/
def rowTouch (v : Vdesc) (df : Nat) (o : Nat × Nat × List Nat) (a : Nat) : Prop :=
  inSram o.1 (v.dst + 64 * v.stride * o.2.1) (rowBytes df o.2.2.length) a

theorem inSram_last {c off n k : Nat} (hn : 0 < n) (h : inSram c (off + n - 1) 1 k) : inSram c off n k := by
  unfold inSram sramKey at *; generalize c * 2 ^ 21 = x at *; omega

theorem putRow_written (v : Vdesc) (o : Nat × Nat × List Nat) (s : State) :
    sramRead (putRow v o.1 o.2.1 o.2.2 s) o.1 (v.dst + 64 * v.stride * o.2.1) (rowBytes v.df o.2.2.length) =
      packRow v.df (sramNat s o.1 (v.dst + 64 * v.stride * o.2.1 + rowBytes v.df o.2.2.length - 1) 1) o.2.2 ∧
    sramBut (rowTouch v v.df o) s (putRow v o.1 o.2.1 o.2.2 s) := by
  have hl := packRow_length v.df (sramNat s o.1 (v.dst + 64 * v.stride * o.2.1 + rowBytes v.df o.2.2.length - 1) 1) o.2.2
  constructor
  · have := sramRead_sramPut o.1 (v.dst + 64 * v.stride * o.2.1)
      (packRow v.df (sramNat s o.1 (v.dst + 64 * v.stride * o.2.1 + rowBytes v.df o.2.2.length - 1) 1) o.2.2) s
    rw [hl] at this; exact this
  · have := sramPut_but o.1 (v.dst + 64 * v.stride * o.2.1)
      (packRow v.df (sramNat s o.1 (v.dst + 64 * v.stride * o.2.1 + rowBytes v.df o.2.2.length - 1) 1) o.2.2) s
    rw [hl] at this; exact this

/-- Rows that do not overlap, written one after another between changes that keep the SRAM, all stand in the destination. -/
theorem putRows_written {α : Type} (v : Vdesc) (π : α → Nat × Nat × List Nat) (g : α → State → State) (hg : ∀ o s, (g o s).arr = s.arr)
    (outs : List α) (hd : outs.Pairwise fun o p => ∀ a, rowTouch v v.df (π o) a → ¬rowTouch v v.df (π p) a) (s : State) :
    rowsWritten v v.df s (outs.foldl (fun s o => putRow v (π o).1 (π o).2.1 (π o).2.2 (g o s)) s) (outs.map π) := by
  induction outs generalizing s with
  | nil => exact ⟨by simp, sramBut_refl _ _⟩
  | cons o l ih =>
    rw [List.pairwise_cons] at hd
    have hw := putRow_written v (π o) (g o s)
    simp only [List.foldl_cons, List.map_cons]
    generalize putRow v (π o).1 (π o).2.1 (π o).2.2 (g o s) = s1 at hw
    have ih' := ih hd.2 s1
    have hb : sramBut (rowTouch v v.df (π o)) s s1 := sramBut_trans (sramBut_of_arr _ (hg o s)) hw.2
    have ht : sramBut (fun a => ∃ p ∈ l.map π, rowTouch v v.df p a) s1 (l.foldl (fun s o => putRow v (π o).1 (π o).2.1 (π o).2.2 (g o s)) s1) := ih'.2
    have hdis : ∀ p ∈ l.map π, ∀ a, rowTouch v v.df (π o) a → ¬rowTouch v v.df p a := by
      intro p hp; obtain ⟨q, hq, he⟩ := List.mem_map.mp hp; subst he; exact hd.1 q hq
    refine ⟨?_, ?_⟩
    · intro p hp
      rw [List.mem_cons] at hp
      rcases hp with rfl | hp
      · rw [sramBut_read ht _ _ _ fun k hk ⟨q, hq, hqk⟩ => hdis q hq k hk hqk, hw.1]
        congr 1
        unfold sramNat sramRead; rw [hg]
      · rw [ih'.1 p hp]
        by_cases hn : rowBytes v.df p.2.2.length = 0
        · have : p.2.2 = [] := by
            rcases fmtBits_cases v.df with h | h | h | h <;> unfold rowBytes at hn <;> rw [h] at hn <;> exact List.length_eq_zero_iff.mp (by omega)
          rw [this, packRow_nil, packRow_nil]
        · congr 1
          unfold sramNat
          rw [sramBut_read hb]
          intro k hk hko
          exact hdis p hp k hko (inSram_last (by omega) hk)
    · exact sramBut_trans (sramBut_mono hb fun a ha => ⟨π o, by simp, ha⟩)
        (sramBut_mono ht fun a ⟨p, hp, hpa⟩ => ⟨p, List.mem_cons_of_mem _ hp, hpa⟩)

/-! ### The cells of an operand are distinct -/

theorem getLastD_mem_or {α : Type} (l : List α) (d : α) : l.getLastD d = d ∨ l.getLastD d ∈ l := by
  cases l with
  | nil => exact .inl rfl
  | cons a l => right; rw [List.getLastD_cons, ← List.getLast_eq_getLastD (by simp)]; exact List.getLast_mem _

theorem map_add_nodup (k n : Nat) : ((List.range n).map fun p => k + p).Nodup := by
  apply List.Pairwise.map _ _ List.nodup_range
  intro a b h; omega

/-- A drain cell of a shape's partition: the row of the chain row it ends, and its place in it. -/
theorem drainCells_eq (s : State) (shape part : Nat) (h : shape = 2) : drainCells s shape part = [] ∨
    ∃ i ∈ partRows s part, drainCells s shape part = (List.range 8).map fun p => 16 * i + 8 * (part % 2) + p := by
  subst h
  unfold drainCells chainRows
  rcases getLastD_mem_or ((partRows s part).map fun i => (List.range 8).map fun p => 16 * i + 8 * (part % 2) + p) [] with h | h
  · exact .inl h
  · right
    obtain ⟨i, hi, he⟩ := List.mem_map.mp h
    exact ⟨i, hi, he.symm⟩

theorem drainCells_nodup (s : State) (shape part : Nat) : (drainCells s shape part).Nodup := by
  by_cases h2 : shape = 2
  · rcases drainCells_eq s shape part h2 with h | ⟨i, _, h⟩ <;> rw [h]
    · exact List.nodup_nil
    · exact map_add_nodup _ _
  · unfold drainCells
    rcases getLastD_mem_or (chainRows s shape part) [] with h | h
    · rw [h]; exact List.nodup_nil
    · generalize (chainRows s shape part).getLastD [] = r at h ⊢
      unfold chainRows at h
      split at h
      · obtain ⟨q, _, hq⟩ := List.mem_flatMap.mp h
        obtain ⟨i, _, hi⟩ := List.mem_map.mp hq
        subst hi; exact map_add_nodup _ _
      · exact absurd rfl h2
      · obtain ⟨i, _, hi⟩ := List.mem_map.mp h
        subst hi; exact map_add_nodup _ _

/-- Two partitions share no drain cell. -/
theorem drainCells_disjoint (s : State) (p q c : Nat) (_ : p < 4) (_ : q < 4) (h1 : c ∈ drainCells s 2 p) (h2 : c ∈ drainCells s 2 q) : p = q := by
  have key : ∀ r, c ∈ drainCells s 2 r → ∃ i x, x < 8 ∧ c = 16 * i + 8 * (r % 2) + x ∧ (physRows s).getD i 0 / 8 = r / 2 := by
    intro r hr
    rcases drainCells_eq s 2 r rfl with h | ⟨i, hi, h⟩
    · rw [h] at hr; cases hr
    · rw [h] at hr
      obtain ⟨x, hx, he⟩ := List.mem_map.mp hr
      unfold partRows at hi
      exact ⟨i, x, List.mem_range.mp hx, he.symm, by simpa using (List.mem_filter.mp hi).2⟩
  obtain ⟨i, x, hx, he, hr⟩ := key p h1
  obtain ⟨k, y, hy, he', hr'⟩ := key q h2
  have hik : i = k := by omega
  subst hik
  omega

theorem flatten_filter_ne_nil {α : Type} [DecidableEq α] (l : List (List α)) : (l.filter (· != [])).flatten = l.flatten := by
  induction l with
  | nil => rfl
  | cons x l ih => cases x <;> simp [ih]

/-- The cells of a vector operation's groups are distinct. -/
theorem vecGroups_nodup (s : State) (v : Vdesc) : (vecGroups s v).flatten.Nodup := by
  unfold vecGroups
  split
  · unfold drainGroups partsOf
    rw [flatten_filter_ne_nil]
    split
    · rename_i h; rw [beq_iff_eq] at h; rw [h]
      unfold List.Nodup
      rw [List.pairwise_flatten]
      refine ⟨?_, ?_⟩
      · intro l hl; obtain ⟨p, _, hp⟩ := List.mem_map.mp hl; subst hp; exact drainCells_nodup _ _ _
      · rw [List.pairwise_map]
        have : List.Pairwise (fun a b => a < 4 ∧ b < 4 ∧ a ≠ b) [0, 1, 2, 3] := by decide
        refine this.imp ?_
        intro a b ⟨ha, hb, hab⟩ c hc c' hc' he
        subst he
        exact hab (drainCells_disjoint s a b c ha hb hc hc')
    · simpa using drainCells_nodup _ _ _
  · simpa [activeCells] using List.nodup_range

/-- The (cell, row) pairs of an operand are distinct, and each row is one of the operand's. -/
theorem vecRows_pairwise (s : State) (v : Vdesc) : (vecRows s v).Pairwise (· ≠ ·) := by
  unfold vecRows
  have h := vecGroups_nodup s v
  generalize (vecGroups s v).flatten = l at h
  rw [List.pairwise_flatMap]
  refine ⟨?_, ?_⟩
  · intro c _
    apply List.Pairwise.map _ _ List.nodup_range
    intro a b hab he; exact hab (by simpa using he)
  · refine h.imp ?_
    intro a b hab x hx y hy
    obtain ⟨r, _, hr⟩ := List.mem_map.mp hx
    obtain ⟨q, _, hq⟩ := List.mem_map.mp hy
    subst hr; subst hq
    intro he; exact hab (by simpa using congrArg Prod.fst he)

theorem vecRows_row {s : State} {v : Vdesc} {o : Nat × Nat} (h : o ∈ vecRows s v) : o.2 < v.rows := by
  unfold vecRows at h
  obtain ⟨c, _, hc⟩ := List.mem_flatMap.mp h
  obtain ⟨r, hr, he⟩ := List.mem_map.mp hc
  subst he; exact List.mem_range.mp hr

/-- Destination rows that fit do not overlap. -/
theorem rowTouch_disjoint {v : Vdesc} {df n : Nat} {o p : Nat × Nat × List Nat} (hf : rowsFit v df n) (ho : o.2.1 < v.rows) (hp : p.2.1 < v.rows)
    (hol : o.2.2.length = n) (hpl : p.2.2.length = n) (hne : (o.1, o.2.1) ≠ (p.1, p.2.1)) (a : Nat) (h : rowTouch v df o a) : ¬rowTouch v df p a := by
  obtain ⟨c, r, l⟩ := o
  obtain ⟨e, q, m⟩ := p
  simp only [rowTouch, inSram, sramKey, rowsFit] at *
  rw [hol] at h; rw [hpl]
  generalize rowBytes df n = b at *
  have hr : 64 * v.stride * r ≤ 64 * v.stride * (v.rows - 1) := Nat.mul_le_mul_left _ (by omega)
  have hq : 64 * v.stride * q ≤ 64 * v.stride * (v.rows - 1) := Nat.mul_le_mul_left _ (by omega)
  have hm1 : r < q → 64 * v.stride * (r + 1) ≤ 64 * v.stride * q := fun h => Nat.mul_le_mul_left _ h
  have hm2 : q < r → 64 * v.stride * (q + 1) ≤ 64 * v.stride * r := fun h => Nat.mul_le_mul_left _ h
  rw [Nat.mul_add] at hm1 hm2
  have hce : c = e → r ≠ q := fun h1 h2 => hne (by rw [h1, h2])
  generalize 64 * v.stride * r = R at *
  generalize 64 * v.stride * q = Q at *
  generalize 64 * v.stride * (v.rows - 1) = M at *
  generalize 64 * v.stride = w at *
  generalize v.rows = N at *
  have e21 : (2 : Nat) ^ 21 = 2097152 := by decide
  rw [e21] at *
  obtain ⟨hf1, hf2⟩ := hf
  intro hh
  by_cases hc : c = e
  · subst hc
    have := hce rfl
    rcases Nat.lt_or_gt_of_ne this with h1 | h1
    · have := hm1 h1; rcases hf1 with hf1 | hf1 <;> omega
    · have := hm2 h1; rcases hf1 with hf1 | hf1 <;> omega
  · omega

theorem countConv_arr (cs : List Conv) (s : State) : (countConv cs s).arr = s.arr := rfl

theorem countConv_but (cs : List Conv) (s : State) : objsBut [(0x3101, 1), (0x3101, 2)] s (countConv cs s) :=
  objsBut_trans (objsBut_bumpBy _ _ (by simp) (by decide)) (objsBut_bumpBy _ _ (by simp) (by decide))

/-- The rows of conversions that `putConvs` writes. -/
theorem putConvs_written {v : Vdesc} {n : Nat} (hf : rowsFit v v.df n) (outs : List (Nat × Nat × List Conv))
    (hr : ∀ o ∈ outs, o.2.1 < v.rows ∧ o.2.2.length = n) (hp : outs.Pairwise fun o p => (o.1, o.2.1) ≠ (p.1, p.2.1)) (s : State) :
    rowsWritten v v.df s (putConvs v outs s) (outs.map fun o => (o.1, o.2.1, o.2.2.map (·.bits))) := by
  unfold putConvs
  have := putRows_written v (fun o : Nat × Nat × List Conv => (o.1, o.2.1, o.2.2.map (·.bits))) (fun o s => countConv o.2.2 s)
    (fun o s => countConv_arr o.2.2 s) outs ?_ s
  · exact this
  refine hp.imp_of_mem ?_
  intro o p ho hp' hne a
  exact rowTouch_disjoint hf (hr o ho).1 (hr p hp').1 (by simpa using (hr o ho).2) (by simpa using (hr p hp').2) hne a

theorem putRow_dict (v : Vdesc) (c r : Nat) (l : List Nat) (s : State) : (putRow v c r l s).dict = s.dict := rfl

theorem putRow_eq (v : Vdesc) (c r : Nat) (l : List Nat) (s : State) : putRow v c r l s = { s with arr := (putRow v c r l s).arr } := rfl

theorem countConv_eq (cs : List Conv) (s : State) : countConv cs s = { s with dict := (countConv cs s).dict } := rfl

theorem putConvs_frame (v : Vdesc) (outs : List (Nat × Nat × List Conv)) (s : State) :
    putConvs v outs s = { s with dict := (putConvs v outs s).dict, arr := (putConvs v outs s).arr } ∧
    objsBut [(0x3101, 1), (0x3101, 2)] s (putConvs v outs s) := by
  constructor
  · unfold putConvs
    induction outs generalizing s with
    | nil => rfl
    | cons o l ih =>
      rw [List.foldl_cons, ih]
      generalize (l.foldl _ _ : State) = w
      rw [putRow_eq, countConv_eq]
  · unfold putConvs
    refine objsBut_foldl _ (fun s o => ?_) _ _
    have h := countConv_but o.2.2 s
    generalize countConv o.2.2 s = w at h ⊢
    exact objsBut_trans h (objsBut_of_dict _ (putRow_dict _ _ _ _ _))

/-- A completed operation that changed the array and the listed counts completes its command. -/
theorem op_completes {l : List (Nat × Nat)} {c : Instr} {opc : Nat} {d : Bytes} {j : Job} {body : Job → State → OpRes} {s u : State} {P : State → Prop}
    (he : exec c s = finish s (runOp opc d body s)) (h : issuable opc d s = some j) (hb : body j s = .done u)
    (hu : u = { s with dict := u.dict, arr := u.arr }) (hl : objsBut l s u) (hn : (0x3000, 5) ∉ l)
    (hP : ∀ t, t.arr = u.arr → P t) : ∃ t, exec c s = .next t ∧ P t ∧ opCompleted j s t ∧ opFrame l s t := by
  have hf := opDone_frame j hu hl hn
  exact ⟨_, by rw [he, runOp_done h hb]; rfl, hP _ hf.2.2.1, hf.1, hf.2.1⟩

theorem rowsWritten_congr {v : Vdesc} {df : Nat} {s t u : State} {o} (h : t.arr = u.arr) (k : rowsWritten v df s u o) : rowsWritten v df s t o := by
  unfold rowsWritten sramBut sramRead at *; rw [h]; exact k

end Sys2Proof.Machine
end

