-- ==== Sys2Proof/Laws/Baskets.lean ====
section
/-! SUPPORT. The gate of a basket command and its successful end (R50, R66). -/

namespace Sys2Proof.Machine

open Sys2Proof

/-- A basket command that passes its gate runs its body on its started record. -/
theorem basketCmd_run {e : Sqe} {opc : Nat} {dg : Bool} {rg : Option Nat} {x : Inflight} {s : State} (body : Inflight → State → State)
    (h : basketReady e opc dg rg x s) : basketCmd e opc dg rg body s = body (startedRec e x) (startCmd e s) := by
  obtain ⟨h1, h2, h3, h4, h5, h6, h7, h8, h9⟩ := h
  unfold basketCmd
  rw [h1]
  have h0 : (wantsExpress e && obj s (fnIdx e.fn) 3 == 0) = false := by
    cases hw : wantsExpress e with
    | false => rfl
    | true => simpa [hw] using h9 hw
  simp [h2, h3, h4, h5, h6, h7, h8, h0]

/-- A basket command that succeeds posts one completion: no error entry, no freeze. -/
theorem endBasket_success (fn sq cid dw0 job op : Nat) (s : State) : endBasket fn sq cid stSuccess dw0 job op s = post fn sq cid stSuccess dw0 0 s := by
  unfold endBasket
  cases h : inflight? s fn sq cid with
  | none => simp only; rw [post_none _ _ _ _ _ _ _ h]
  | some x => simp [freezing, logsError, stSuccess, stInvalidOpcode, stInvalidField, stDataTransferError, stBasketRefused, stJobFault, stUnknownHandle, stCapacityExhausted, stPoisonedInput, stTierError]

end Sys2Proof.Machine
end

