-- ==== Sys2Proof/Laws/Sends.lean ====
section
/-! SUPPORT. Handing messages to the ports, said once: only port records, sent, waiting and held messages and three counts change (R366, R367, R372). -/

namespace Sys2Proof.Machine

open Sys2Proof

/-! ### Messages handed to the ports -/

theorem messagesSent.refl (s : State) : messagesSent s s := ⟨rfl, rfl, fun _ _ _ _ => rfl⟩

theorem messagesSent.trans {s t u : State} (h : messagesSent s t) (k : messagesSent t u) : messagesSent s u := by
  refine ⟨?_, ?_, fun i j hj hn => ?_⟩
  · rw [k.1, h.1]
  · rw [k.2.1, h.2.1]
  · rw [k.2.2 i j hj hn, h.2.2 i j hj hn]

/-- Sending changes what messagesSent says and nothing else. -/
structure Sent (s t : State) : Prop where
  rest : t = { s with wyv := t.wyv, dict := t.dict }
  sent : messagesSent s t

theorem Sent.refl (s : State) : Sent s s := ⟨rfl, messagesSent.refl s⟩

theorem Sent.trans {s t u : State} (h : Sent s t) (k : Sent t u) : Sent s u := by
  refine ⟨?_, h.sent.trans k.sent⟩
  rw [k.rest, h.rest]

theorem Sent.bump (j : Nat) (hj : j = 1 ∨ j = 3 ∨ j = 4) (s : State) : Sent s (bump 0x4002 j s) := by
  refine ⟨rfl, rfl, rfl, fun i k hk hn => ?_⟩
  apply obj_setObj_ne
  intro h
  simp only [objKey] at h
  have h1 : i = 0x4002 := by omega
  have h2 : k = j := by omega
  subst h1; subst h2
  apply hn
  rcases hj with rfl | rfl | rfl <;> simp

theorem Sent.modWyv (f : Wyvas → Wyvas) (s : State)
    (h : f s.wyv = { s.wyv with ports := (f s.wyv).ports, tx := (f s.wyv).tx, held := (f s.wyv).held, inject := (f s.wyv).inject }) : Sent s (modWyv f s) :=
  ⟨rfl, h, rfl, fun _ _ _ _ => rfl⟩

theorem Sent.emit (p : Nat) (m : Msg) (s : State) : Sent s (emit p m s) := by
  unfold Machine.emit
  extract_lets n u
  split
  · exact ((Sent.modWyv _ s rfl).trans (Sent.modWyv _ _ rfl)).trans (Sent.bump 1 (by simp) _)
  · exact Sent.modWyv _ s rfl

theorem Sent.forward (plane : Nat) (m : Msg) (s : State) : Sent s (forward plane m s) := by
  unfold Machine.forward
  split
  · exact Sent.emit _ _ s
  · split
    · exact (Sent.bump 3 (by simp) s).trans (Sent.emit _ _ _)
    · split
      · exact Sent.refl s
      · split
        · exact (Sent.bump 4 (by simp) s).trans (Sent.emit _ _ _)
        · exact Sent.refl s

theorem Sent.holdInject (b : Bool) (m : Msg) (s : State) : Sent s (holdInject b m s) := Sent.modWyv _ s rfl

theorem Sent.sendMsg (m : Msg) (s : State) : Sent s (sendMsg m s) := by
  unfold Machine.sendMsg Machine.injectOn
  split
  · exact Sent.holdInject _ _ s
  · exact Sent.forward _ m s

theorem Sent.sendTwin (m : Msg) (s : State) : Sent s (sendTwin m s) := by
  unfold Machine.sendTwin
  split
  · exact Sent.holdInject _ _ s
  · split
    · exact Sent.emit _ _ s
    · split
      · exact Sent.emit _ _ s
      · exact Sent.refl s

theorem Sent.foldl {α : Type} (f : State → α → State) (h : ∀ s a, Sent s (f s a)) (l : List α) (s : State) : Sent s (l.foldl f s) := by
  induction l generalizing s with
  | nil => exact Sent.refl s
  | cons a l ih => exact (h s a).trans (ih (f s a))

theorem Sent.announceNode (op : Nat) (s : State) : Sent s (announceNode op s) :=
  (Sent.foldl _ (fun s _ => Sent.emit _ _ s) _ s).trans (Sent.sendTwin _ _)

theorem Sent.spreadNotice (m : Msg) (s : State) : Sent s (spreadNotice m s) := by
  unfold Machine.spreadNotice
  extract_lets copy u
  have h : Sent s u := Sent.foldl _ (fun s _ => Sent.emit _ _ s) _ s
  split
  · exact h
  · exact h.trans (Sent.sendTwin _ _)

/-- Answering a request keeps the Response and sends it. -/
theorem respond_spec (m : Msg) (st : Nat) (data : Bytes) (poison : Nat) (s : State) :
    (∃ r : Msg, (respond m st data poison s).wyv.keptResp = (m.src, m.tag, r) :: s.wyv.keptResp ∧ r.mtype = 8 ∧ r.dst = m.src ∧ r.src = ownNode s ∧
      r.tag = m.tag ∧ r.op = st ∧ r.data = data ∧ r.poisonMask = poison) ∧
    Sent { s with wyv := { s.wyv with keptResp := (respond m st data poison s).wyv.keptResp } } (respond m st data poison s) := by
  unfold respond
  extract_lets r u
  have key : ∀ v, Sent u v → (∃ r : Msg, v.wyv.keptResp = (m.src, m.tag, r) :: s.wyv.keptResp ∧ r.mtype = 8 ∧ r.dst = m.src ∧ r.src = ownNode s ∧
      r.tag = m.tag ∧ r.op = st ∧ r.data = data ∧ r.poisonMask = poison) ∧ Sent { s with wyv := { s.wyv with keptResp := v.wyv.keptResp } } v := by
    intro v hv
    have hk : v.wyv.keptResp = (m.src, m.tag, r) :: s.wyv.keptResp := by rw [hv.sent.1]; rfl
    refine ⟨⟨r, hk, rfl, rfl, rfl, rfl, rfl, rfl, rfl⟩, ?_⟩
    rw [hk]
    exact hv
  split
  · exact key _ (Sent.sendTwin _ _)
  · exact key _ (Sent.sendMsg _ _)

end Sys2Proof.Machine
end

