-- ==== Sys2Proof/Laws/Power.lean ====
section
/-! SUPPORT. The power-loss sequence, the starts, and the evaluation: which parts of the state each can change, and the four things that a command can do
to the throttle ladder (R449). -/

namespace Sys2Proof.Machine

open Sys2Proof

theorem sensor_congr {s t : State} {n : Nat} (h : obj t 0x1310 n = obj s 0x1310 n) : sensor t n = sensor s n := by
  unfold sensor; rw [h]

theorem markBank_frame (b : Bool) (s : State) :
    ∃ p d i, markBank b s = { s with pwr := p, dict := d, integ := i } ∧ p = { s.pwr with bankBad := p.bankBad } := by
  unfold markBank
  split
  · exact ⟨_, _, _, rfl, rfl⟩
  · extract_lets u
    obtain ⟨i, h⟩ := logEv_frame u { source := 10, cls := 9, context := boolNat b }
    rw [h]; exact ⟨_, _, _, rfl, rfl⟩

@[simp] theorem loadStore_pwr (s : State) : (loadStore s).pwr = s.pwr := rfl
@[simp] theorem loadStore_blk (s : State) : (loadStore s).blk = s.blk := rfl
@[simp] theorem reloadReads_pwr (s : State) : (reloadReads s).pwr = s.pwr := rfl
@[simp] theorem reloadReads_blk (s : State) : (reloadReads s).blk = s.blk := rfl
theorem clearHost_blk (s : State) : (clearHost s).blk = s.blk := rfl

theorem clearFabric_blk (s : State) : (clearFabric s).blk = s.blk := rfl

theorem restoreSync_blk (s : State) : (restoreSync s).blk = s.blk := by
  unfold restoreSync; exact foldl_same State.blk _ (by intros; rfl) _ _

theorem clearVolatile_pail (s : State) : (clearVolatile s).blk.pail = s.blk.pail := by
  unfold clearVolatile
  simp only [restoreSync_blk]
  simp only [loseTiles, modTier_blk, modInteg_blk, modNand_blk, modBlk_blk, modFw_blk, modArr_blk, modJobs_blk, modChurn_blk, modRetr_blk]
  exact congrArg _ (foldl_same State.blk _ (by intros; rfl) _ _)

theorem lossSequence_pail (j : Bool) (c : Nat) (s : State) : (lossSequence j c s).blk.pail = [] := by
  unfold lossSequence dumpPail
  simp only [logEv_blk]
  split <;> simp

theorem powerDown_spec (j : Bool) (c : Nat) (s : State) : (powerDown j c s).pwr.mainRails = false ∧ (powerDown j c s).blk.pail = [] ∧
     (powerDown j c s).pwr.railRestart = true ∧ obj (powerDown j c s) 0x1210 1 = 0 ∧ obj (powerDown j c s) 0x1210 2 = 0 := by
  unfold powerDown railsOff
  refine ⟨rfl, ?_, rfl, ?_, ?_⟩
  · simp [clearHost_blk, clearFabric_blk, clearVolatile_pail, lossSequence_pail]
  · simp (disch := decide) only [obj_modPwr, obj_setObj_same]; rfl
  · simp (disch := decide) only [obj_modPwr, obj_setObj_ne, obj_setObj_same]; rfl

theorem restoreSync_pwr (s : State) : (restoreSync s).pwr = s.pwr := by
  unfold restoreSync; exact foldl_same State.pwr _ (by intros; rfl) _ _

theorem clearVolatile_pwr (s : State) : (clearVolatile s).pwr = s.pwr := by
  unfold clearVolatile
  simp only [restoreSync_pwr, loseTiles, modTier_pwr, modInteg_pwr, modNand_pwr, modBlk_pwr, modFw_pwr, modArr_pwr, modJobs_pwr, modChurn_pwr, modRetr_pwr]
  exact foldl_same State.pwr _ (by intros; rfl) _ _

theorem coldReset_pwr (c : Nat) (s : State) : (coldReset c s).pwr.inputPresent = s.pwr.inputPresent ∧ (coldReset c s).pwr.pwrEn = s.pwr.pwrEn ∧
    (coldReset c s).pwr.hoopRail = s.pwr.hoopRail ∧ (coldReset c s).pwr.starting = true := by
  have : ∀ u : State, (reloadLog (clearMgmt (clearHost (clearFabric (clearVolatile u))))).pwr = u.pwr := by
    intro u; simp [reloadLog, clearMgmt, clearHost, clearFabric, clearVolatile_pwr, resetGroups]
  unfold coldReset
  simp [this, resetGroups]

theorem agreeCopies_frame (s : State) : ∃ d n f, agreeCopies (reportStart s) = { s with dict := d, nand := n, fw := f } := by
  unfold agreeCopies reportStart
  simp only
  repeat' split
  all_goals exact ⟨_, _, _, rfl⟩

theorem selectBank_pwr (s : State) : (selectBank s).pwr.inputPresent = s.pwr.inputPresent ∧ (selectBank s).pwr.pwrEn = s.pwr.pwrEn ∧
    (selectBank s).pwr.hoopRail = s.pwr.hoopRail ∧ (selectBank s).pwr.starting = s.pwr.starting := by
  unfold selectBank
  simp only
  split
  · simp
  · rename_i b h
    simp only [setObj_pwr]
    repeat' split
    all_goals simp [appendSecurity]

theorem hoopRom_pwr (s : State) : (hoopRom s).pwr.inputPresent = s.pwr.inputPresent ∧ (hoopRom s).pwr.pwrEn = s.pwr.pwrEn ∧
    (hoopRom s).pwr.hoopRail = s.pwr.hoopRail ∧ (hoopRom s).pwr.starting = s.pwr.starting := by
  obtain ⟨d, n, f, h⟩ := agreeCopies_frame s
  unfold hoopRom
  have := selectBank_pwr (agreeCopies (reportStart s))
  rw [h] at this ⊢
  exact this

theorem startMain_pwr (s : State) : (startMain s).pwr.inputPresent = s.pwr.inputPresent ∧ (startMain s).pwr.pwrEn = s.pwr.pwrEn := by
  unfold startMain
  split
  · simp [hoopRom_pwr, coldReset_pwr]
  · exact ⟨rfl, rfl⟩

theorem recordOverVoltage_pwr (s : State) : (recordOverVoltage s).pwr.inputPresent = s.pwr.inputPresent ∧ (recordOverVoltage s).pwr.hoopRail = s.pwr.hoopRail ∧ (recordOverVoltage s).pwr.starting = s.pwr.starting := by
  unfold recordOverVoltage; split <;> simp

theorem recordOverVoltage_thr (s : State) : (recordOverVoltage s).thr = s.thr := by
  unfold recordOverVoltage; split <;> simp

theorem selectBank_thr (s : State) : (selectBank s).thr = s.thr := by
  unfold selectBank
  simp only
  split
  · simp
  · repeat' split
    all_goals simp [appendSecurity]

theorem hoopRom_thr (s : State) : (hoopRom s).thr = s.thr := by
  obtain ⟨d, n, f, h⟩ := agreeCopies_frame s
  unfold hoopRom
  rw [selectBank_thr, h]

theorem coldReset_thr (c : Nat) (s : State) : (coldReset c s).thr = ladderTop := rfl

theorem takeSensors_frame (e : Evaluation) (s : State) : ∃ d, takeSensors e s = { s with dict := d } := by
  unfold takeSensors
  have : ∀ l : List (Nat × Int), ∃ d, l.foldl (fun s x => if decide (1 ≤ x.1) && decide (x.1 ≤ 0x74) then setObj 0x1310 x.1 (wrapInt 32 x.2) s else s) s = { s with dict := d } := by
    intro l
    induction l generalizing s with
    | nil => exact ⟨_, rfl⟩
    | cons x l ih =>
      simp only [List.foldl_cons]
      split
      · obtain ⟨d, h⟩ := ih (setObj 0x1310 x.1 (wrapInt 32 x.2) s)
        exact ⟨d, h⟩
      · exact ih s
  obtain ⟨d, h⟩ := this e.sensors
  simp only [h]
  exact ⟨_, rfl⟩

/-- What an evaluation judges differs from the state before in time, the power record and what the sensors and events set. -/
theorem sensed_frame (s : State) (e : Evaluation) :
    ∃ p d i, sensed e s = { passMs s with pwr := p, dict := d, integ := i } ∧ p = { (passMs s).pwr with bankBad := p.bankBad } := by
  obtain ⟨d, h⟩ := takeSensors_frame e (passMs s)
  unfold sensed
  simp only [h]
  have key : ∀ i, ∃ p d' i', (if bankHot { passMs s with dict := d, integ := i } then markBank false { passMs s with dict := d, integ := i }
      else { passMs s with dict := d, integ := i }) = { passMs s with pwr := p, dict := d', integ := i' } ∧
      p = { (passMs s).pwr with bankBad := p.bankBad } := by
    intro i
    split
    · obtain ⟨p, d', i', hm, hp⟩ := markBank_frame false { passMs s with dict := d, integ := i }
      exact ⟨p, d', i', hm, hp⟩
    · exact ⟨_, _, _, rfl, rfl⟩
  unfold onlyIf
  by_cases hc : (hot { passMs s with dict := d } && !hot s) = true
  · simp only [hc, if_true]; exact key _
  · simp only [hc]; exact key _

/-- What a command can do to the throttle ladder: nothing, back to its top, one step deeper, or one step back. -/
theorem exec_thr (c : Instr) (s t : State) (h : exec c s = .next t) : t.thr = s.thr ∨ t.thr = ladderTop ∨ t.thr = deepen s.thr ∨ t.thr = relax s.thr := by
  rcases exec_shape c s with ⟨u, k⟩ | ⟨u, k⟩ | ⟨e, -, k⟩ <;> rw [k] at h <;> injection h with h <;> subst h
  · exact .inl rfl
  · simp only [keepOrTop_thr]
    split
    · exact .inr (.inl rfl)
    · exact .inl rfl
  · obtain ⟨p, d, i, hf, -⟩ := sensed_frame s e
    have hs : (sensed e s).thr = s.thr := by rw [hf]; rfl
    have hm : ∀ u : State, (markThrottled u).thr = u.thr := by intro u; unfold markThrottled; split <;> rfl
    have hk : ∀ u t, (setLadder t u).thr = t := by
      intro u t
      unfold setLadder releaseInject
      split
      · rw [hm]; rfl
      · refine (Sent.foldl _ (fun s x => ?_) _ _).rest ▸ ?_
        · split
          · exact Sent.sendTwin _ _
          · exact Sent.sendMsg _ _
        · simp only [modWyv_thr]; rw [hm]; rfl
    simp only [evaluationTickF]
    split
    · left; rfl
    · split
      · left; simp [hs]
      · split
        · simp only [keepQueue_thr, keepOrTop_thr]
          split
          · exact .inr (.inl rfl)
          · left; exact hs
        · simp only [keepQueue_thr, hk]
          unfold nextThrottle
          rw [hs]
          split
          · exact .inr (.inr (.inl rfl))
          · split
            · exact .inr (.inr (.inr rfl))
            · left; rfl

end Sys2Proof.Machine
end

