-- ==== Sys2Proof/WellFormed.lean ====
section
/-! DEFINITION. Which commands can come from outside at all: every field within the width its table gives it. The model answers every command, a
command that is not well formed too; a statement that needs the width of a field takes it as a hypothesis. -/

namespace Sys2Proof

/-- The fields of a submission entry have their widths (Table 3-3 and the published entry). -/
def Sqe.wf (e : Sqe) : Bool :=
  decide (e.fn ≤ 63) && decide (e.sq < 2 ^ 16) && decide (e.cid < 2 ^ 16) && decide (e.psdt < 4) && decide (e.fuse < 4) && decide (e.nsid < 2 ^ 32) &&
  decide (e.handle < 2 ^ 64) && decide (e.cdw4 < 2 ^ 32) && decide (e.cdw10 < 2 ^ 32) && decide (e.cdw11 < 2 ^ 32) && decide (e.cdw12 < 2 ^ 32) &&
  decide (e.cdw13 < 2 ^ 32) && decide (e.cdw14 < 2 ^ 32) && decide (e.cdw15 < 2 ^ 32)

/-- A MAC address has 48 bits, a node id 15. -/
def PduPath.wf (p : PduPath) : Bool := match p with | .bus mac => decide (mac < 2 ^ 48) | .wyvas node => decide (node < 2 ^ 15)

/-- The fields of a PDU have their widths (Table 4-4). -/
def Pdu.wf (p : Pdu) : Bool :=
  p.path.wf && decide (p.dst < 2 ^ 48) && decide (p.version < 256) && decide (p.seq < 2 ^ 16) && decide (p.index < 2 ^ 16) && decide (p.sub < 256) &&
  decide (p.count < 256) && decide (p.vlen < 2 ^ 16) && decide (p.target < 2 ^ 16)

/-- A thread runs on one of 256 cells or 64 channel engines (Table 14-1). -/
def ThreadId.wf (t : ThreadId) : Bool := decide (t.unit < (if t.engine then 64 else 256)) && decide (t.no < 256)

/-- Offsets and numbers of a thread's target have their widths (Table 14-2). -/
def Target.wf (t : Target) : Bool :=
  match t with
  | .sram off => decide (off < 2 ^ 32)
  | .cellSram cell off => decide (cell < 2 ^ 16) && decide (off < 2 ^ 32)
  | .object slot tile off => decide (slot < 2 ^ 16) && decide (tile < 2 ^ 32) && decide (off < 2 ^ 16)
  | .window node off => decide (node < 2 ^ 15) && decide (off < 2 ^ 48)
  | .flash node off => decide (node < 2 ^ 15) && decide (off < 2 ^ 48)

/-- Who asks for a synchronisation operation is named within its widths. -/
def SyncWho.wf (w : SyncWho) : Bool :=
  match w with
  | .thread t => t.wf
  | .remote node tag function => decide (node < 2 ^ 15) && decide (tag < 2 ^ 24) && decide (function ≤ 63)
  | .stream => true

/-- The fields of a candidate have their widths (R292). -/
def Cand.wf (c : Cand) : Bool := decide (c.score < 2 ^ 32) && decide (c.index < 2 ^ 32) && decide (c.node < 2 ^ 16) && decide (c.source < 2 ^ 16)

/-- The fields of a message have their widths, and it carries at most 4,096 bytes (Table 15-4). -/
def Msg.wf (m : Msg) : Bool :=
  decide (m.port ≤ 13) && decide (m.vc < 8) && decide (m.mtype < 256) && decide (m.detours ≤ 2) && decide (m.dataLength ≤ 4096) && decide (m.dst < 2 ^ 15) &&
  decide (m.src < 2 ^ 15) && decide (m.function ≤ 63) && decide (m.tag < 2 ^ 24) && decide (m.op < 2 ^ 16) && decide (m.target < 2 ^ 64) &&
  decide (m.poisonMask < 2 ^ 64) && decide (m.data.length ≤ 4096)

/-- The fields of a link header have their widths (Table 15-2). -/
def FlitHdr.wf (h : FlitHdr) : Bool := decide (h.seq < 2 ^ 16) && decide (h.ackSeq < 2 ^ 16) && decide (h.vc < 8) && decide (h.creditVc < 8) && decide (h.creditCount < 256)

/-- An identity flit carries a serial number of 20 characters and a port of the sender (R386). -/
def Identity.wf (i : Identity) : Bool := decide (i.serial < 2 ^ 160) && decide (i.port ≤ 13)

/-- SEG_ADDR has three straps (R36). -/
def HoopStart.wf (f : HoopStart) : Bool := decide (f.straps < 8)

/-- What start-up finds lies within the module (Table 17-1). -/
def RailStart.wf (f : RailStart) : Bool :=
  f.failedStacks.all (fun k => decide (k < 8)) && f.failedChannels.all (fun c => decide (c < 64)) && f.failedCells.all fun c => decide (c < 272)

/-- A codeword decodes at a step of Table 5-6, or at none. -/
def CwResult.wf (w : CwResult) : Bool := decide (1 ≤ w.step) && decide (w.step ≤ 5)

/-- The fields of an SPDM request have their widths. -/
def Spdm.wf (q : Spdm) : Bool := decide (q.conn ≤ 64) && decide (q.version < 256) && decide (q.slot < 16)

/-- A command whose every operand has the width its table gives it. -/
def Instr.wf (c : Instr) : Bool :=
  match c with
  | .inputRise mv => decide (mv < 2^32)
  | .inputLoss => true
  | .overVoltageDisconnect => true
  | .pwrEnLow => true
  | .pwrEnHigh => true
  | .hoopRailStart f => f.wf
  | .powerGood f => f.wf
  | .drainSequencerTakeover => true
  | .hoopRailStop => true
  | .holdupCharged => true
  | .holdupMeasurement _ => true
  | .evaluationTick _ => true
  | .thermalBasicTimeout => true
  | .overtempClear => true
  | .locateNChange _ => true
  | .plcaBeaconLoss => true
  | .plcaBeaconReturn => true
  | .slotCollision => true
  | .announce => true
  | .readNvmeMiDataStructure dtyp => decide (dtyp < 256)
  | .nvmSubsystemHealthStatusPoll => true
  | .controllerHealthStatusPoll fn => decide (fn ≤ 63)
  | .configurationGet id => decide (id < 256)
  | .configurationSet id value => decide (id < 256) && decide (value < 2^32)
  | .vpdRead off len => decide (off < 2^16) && decide (len < 2^16)
  | .nvmeMiReset => true
  | .miTunnelledAdmin opc e => decide (opc < 256) && e.wf
  | .basicManagementCommand off len => decide (off < 256) && decide (len < 256)
  | .getVersion q => q.wf
  | .getCapabilities q => q.wf
  | .negotiateAlgorithms q => q.wf
  | .getDigests q => q.wf
  | .getCertificate q => q.wf
  | .challenge q => q.wf
  | .getMeasurements q => q.wf
  | .chunkSend q => q.wf
  | .chunkGet q => q.wf
  | .spdmUnsupportedRequest q code => q.wf && decide (code < 256)
  | .securityProtocolList e => e.wf
  | .perstNAssert => true
  | .perstNDeassert => true
  | .hostLinkUp rate width _ => decide (rate < 256) && decide (width < 256)
  | .hostLinkDown => true
  | .functionLevelReset fn => decide (fn ≤ 63)
  | .controllerReset fn => decide (fn ≤ 63)
  | .controllerEnable fn q ams => decide (fn ≤ 63) && decide (q.asqs < 2^16) && decide (q.acqs < 2^16) && decide (ams < 8)
  | .shutdownNotification fn => decide (fn ≤ 63)
  | .nvmSubsystemReset => true
  | .sqTailDoorbell fn sq tail entries => decide (fn ≤ 63) && decide (sq < 2^16) && decide (tail < 2^16) && (entries.all fun y => decide (y.1 < 2^16))
  | .createIoSubmissionQueue e => e.wf
  | .deleteIoSubmissionQueue e => e.wf
  | .createIoCompletionQueue e => e.wf
  | .deleteIoCompletionQueue e => e.wf
  | .identify e => e.wf
  | .getLogPage e => e.wf
  | .computeErrorLogRead e => e.wf
  | .integrityLogPageRead e => e.wf
  | .auditLogRead e => e.wf
  | .setFeatures e => e.wf
  | .volatileWriteCacheSet e => e.wf
  | .getFeatures e => e.wf
  | .enterPs0 e => e.wf
  | .enterPs1 e => e.wf
  | .enterPs2 e => e.wf
  | .enterPs3 e => e.wf
  | .enterPs4 e => e.wf
  | .abort e => e.wf
  | .asynchronousEventRequest e => e.wf
  | .namespaceCreate e nsze ncap format => e.wf && decide (nsze < 2^64) && decide (ncap < 2^64) && decide (format < 16)
  | .namespaceDelete e => e.wf
  | .namespaceAttachment e controllers => e.wf && (controllers.all fun y => decide (y < 2^16))
  | .formatNvm e => e.wf
  | .sanitize e => e.wf
  | .firmwareImageDownload e _ => e.wf
  | .firmwareCommitReplace e _ _ => e.wf
  | .firmwareCommitActivate e _ _ => e.wf
  | .firmwareCommitSelect e => e.wf
  | .virtualizationManagement e => e.wf
  | .setObject e _ => e.wf
  | .getObject e => e.wf
  | .getObjectDescribe e => e.wf
  | .getObjectEnumerate e => e.wf
  | .thawQueue e => e.wf
  | .functionAbort c => c.entry.wf && c.full.all fun x => decide (x.1 < 2^16) && decide (x.2 < 2^16)
  | .adminInvalidOpcode e opc => e.wf && decide (opc < 256)
  | .read e => e.wf
  | .write e _ => e.wf
  | .writeZeroes e => e.wf
  | .flush e => e.wf
  | .datasetManagement e ranges => e.wf && (ranges.all fun y => decide (y.1 < 2^64) && decide (y.2 < 2^32))
  | .ioInvalidOpcode e opc => e.wf && decide (opc < 256)
  | .pailSpaceAvailable => true
  | .loadBasket e _ => e.wf
  | .basketUnload e => e.wf
  | .deferredCommandStart fn sq => decide (fn ≤ 63) && decide (sq < 2^16)
  | .readResult e => e.wf
  | .runJob e _ => e.wf
  | .query e _ => e.wf
  | .ingest e _ => e.wf
  | .update e _ => e.wf
  | .gatherCommand e => e.wf
  | .resultRetentionExpiry handle => decide (handle < 2^64)
  | .requestDeadline fn sq cid tier node => decide (fn ≤ 63) && decide (sq < 2^16) && decide (cid < 2^16) && decide (tier < 4) && decide (node < 2^16)
  | .jobOverrun => true
  | .pduGet p => p.wf
  | .pduSet p => p.wf
  | .pduDescribe p => p.wf
  | .pduEnumerate p => p.wf
  | .pduInvalidOperation p op => p.wf && decide (op < 256)
  | .relayResponse _ status value _ => decide (status < 2^16) && decide (value.length ≤ 1484)
  | .relayTimeout _ => true
  | .replayWindowExpiry path seq => path.wf && decide (seq < 2^16)
  | .valueRefresh block => decide (block < 256)
  | .objectWrite fn index sub count value => decide (fn ≤ 63) && decide (index < 2^16) && decide (sub < 256) && decide (count < 256) && decide (value.length ≤ 1484)
  | .storeRecordCommit _ => true
  | .fwFlashSequencerDone => true
  | .busFault addr => decide (addr < 2^64)
  | .functionQueuesAbort fn => decide (fn ≤ 63)
  | .bootBankSelect bank => decide (bank ≤ 1)
  | .policyGroupSet g values => decide (g < 16) && decide (values.length < 256)
  | .cellRowLimitSet rows => decide (rows < 256)
  | .coherentCreate => true
  | .coherentDelete => true
  | .coherentTakeHome => true
  | .hbmRetirePage => true
  | .hbmRetireBank => true
  | .basicModeCommand => true
  | .basicModeClear => true
  | .arrayTestRequest => true
  | .indexCreate => true
  | .indexDelete => true
  | .indexCommit => true
  | .tableCreate => true
  | .tableDelete => true
  | .syncCreate => true
  | .syncDelete => true
  | .syncSignal => true
  | .nodeDrain => true
  | .nodeEndDrain => true
  | .portIsolate port => decide (port ≤ 13)
  | .portRelease port => decide (port ≤ 13)
  | .deterministicModeSet _ => true
  | .deterministicModeApply => true
  | .auditCommit => true
  | .moduleRestartCommand => true
  | .fabricNodeReset => true
  | .securityVersionRaise => true
  | .hoopWatchdogExpiry => true
  | .pageReadDone phys cws pair => decide (phys < 2^40) && cws.all CwResult.wf && (match pair with | some y => y.1.all CwResult.wf | none => true)
  | .rebuildDone phys bad => decide (phys < 2^40) && bad.all fun b => decide (b.1 < 64) && decide (b.2 < 4)
  | .programDone phys planes other => decide (phys < 2^40) && (planes ++ other).all fun p => decide (p.2 < 2^32)
  | .eraseDone sb _ => decide (sb < 2^32)
  | .dieTimeout channel die => decide (channel < 64) && decide (die < 20)
  | .suspendIssue channel die => decide (channel < 64) && decide (die < 20)
  | .suspendReady channel die => decide (channel < 64) && decide (die < 20)
  | .suspensionLimit channel die => decide (channel < 64) && decide (die < 20)
  | .journalSegmentTimer => true
  | .journalSegmentVerified r => (r.low ++ r.high).all fun p => decide (p.2 < 2^32)
  | .mergeReadDone lpn _ => decide (lpn < 2^40)
  | .checkpointSlice => true
  | .gcStart => true
  | .patrolRead phys cw => decide (phys < 2^40) && cw.wf
  | .mapLineRebuildDone line => decide (line < 2^32)
  | .tileFetchDone object tile _ => decide (object < 2^64) && decide (tile < 2^32)
  | .dirtyTileTimeout object tile => decide (object < 2^64) && decide (tile < 2^32)
  | .placementEvaluation moves => moves.all fun y => decide (y.2.2.1 ≤ 4)
  | .migrationInstallDone object tile _ => decide (object < 2^64) && decide (tile < 2^32)
  | .migrationRelease object tile => decide (object < 2^64) && decide (tile < 2^32)
  | .nodeFence => true
  | .nodeLostDeclare node => decide (node < 2^16)
  | .t3ResponseTimeout tag => decide (tag < 2^24)
  | .tileRecoveryTimeout object tile => decide (object < 2^64) && decide (tile < 2^32)
  | .scrubLine addr outcome symbol _ => decide (addr < 2^64) && decide (outcome ≤ 2) && decide (symbol < 2^16)
  | .hbmControllerFail stack => decide (stack < 8)
  | .channelEngineFail channel => decide (channel < 64)
  | .cellFail cell => decide (cell < 272)
  | .hoopLockstepMismatch pair => decide (pair < 2)
  | .hoopOscillatorLoss => true
  | .moduleReferenceLoss => true
  | .serviceCoreWatchdog core _ => decide (core < 16)
  | .arrayTest _ cells => cells.all fun y => decide (y < 272)
  | .jobStart => true
  | .expressWindowStart window => decide (window < 2^64)
  | .contextSaved => true
  | .jobResume => true
  | .jobEnd => true
  | .mma d => decide (d.op.length = 32) && d.parity.all fun p => decide (p.1 < 256) && decide (p.2.1 + p.2.2 ≤ 2^21)
  | .shape d => decide (d.length = 32)
  | .patternLoad d => decide (d.length = 32)
  | .scaleLoad d => decide (d.length = 32)
  | .rescaleLoad d => decide (d.length = 32)
  | .amax d => decide (d.length = 32)
  | .convert d => decide (d.length = 32)
  | .rescale d => decide (d.length = 32)
  | .vec d => decide (d.length = 32)
  | .vtrans d => decide (d.length = 32)
  | .reduce d => decide (d.length = 32)
  | .skim d => decide (d.length = 32)
  | .merge d => decide (d.length = 32)
  | .gather d => decide (d.length = 32)
  | .churn d => decide (d.length = 32)
  | .tileLoad d => decide (d.length = 32)
  | .tileStore d => decide (d.length = 32)
  | .meshMove d => decide (d.length = 32)
  | .outWrite d => decide (d.length = 32)
  | .waitOperation d => decide (d.length = 32)
  | .signal d => decide (d.length = 32)
  | .threadLoad t tg r => t.wf && tg.wf && decide (r.len ≤ 64)
  | .threadStore t tg data => t.wf && tg.wf && decide (data.length ≤ 64)
  | .threadAtomic t tg op a b => t.wf && tg.wf && decide (op < 2^16) && decide (a < 2^64) && decide (b < 2^64)
  | .threadFence t => t.wf
  | .threadExit t => t.wf
  | .candidateSubmit t pool cands => t.wf && decide (pool < 256) && cands.all Cand.wf
  | .acquire w h n => w.wf && decide (h < 2^32) && decide (n < 2^64)
  | .release w h n => w.wf && decide (h < 2^32) && decide (n < 2^64)
  | .set w h => w.wf && decide (h < 2^32)
  | .clear w h => w.wf && decide (h < 2^32)
  | .wait w h => w.wf && decide (h < 2^32)
  | .arrive w h => w.wf && decide (h < 2^32)
  | .await w h g => w.wf && decide (h < 2^32) && decide (g < 2^64)
  | .add w h v => w.wf && decide (h < 2^32) && decide (v < 2^64)
  | .syncRead w h => w.wf && decide (h < 2^32)
  | .waitGe w h v => w.wf && decide (h < 2^32) && decide (v < 2^64)
  | .cas w h a b => w.wf && decide (h < 2^32) && decide (a < 2^64) && decide (b < 2^64)
  | .syncCancel w h => w.wf && decide (h < 2^32)
  | .barrierReleaseInstant h => decide (h < 2^32)
  | .batchingWindowClose => true
  | .listScanDone index list _ => decide (index ≤ 63) && decide (list < 2^32)
  | .epochCommitTimer index => decide (index ≤ 63)
  | .epochCommitResume index => decide (index ≤ 63)
  | .ingestRecord fn sq cid => decide (fn ≤ 63) && decide (sq < 2^16) && decide (cid < 2^16)
  | .compaction index list => decide (index ≤ 63) && decide (list < 2^32)
  | .churnRecord fn sq r => decide (fn ≤ 63) && decide (sq < 2^16) && decide (r.cid < 2^16) && decide (r.no < 2^32)
  | .dataFlit port h msgs => decide (port ≤ 13) && h.wf && msgs.all Msg.wf
  | .idleFlit port h => decide (port ≤ 13) && h.wf
  | .identityFlit port i => decide (port ≤ 13) && i.wf
  | .coordinateClaim port x y z sentPort => decide (port ≤ 13) && decide (x < 256) && decide (y < 256) && decide (z < 256) && decide (sentPort ≤ 13)
  | .claimAdoption => true
  | .timeExchange port t1 t2 t3 t4 => decide (port ≤ 13) && decide (t1 < 2^64) && decide (t2 < 2^64) && decide (t3 < 2^64) && decide (t4 < 2^64)
  | .timeExchangeTimer => true
  | .timeMismatch => true
  | .isolationFlit port => decide (port ≤ 13)
  | .retrainRequest port => decide (port ≤ 13)
  | .portTrainingDone port lanes d => decide (port ≤ 13) && decide (lanes < 256) && decide (d.delay < 2^32) && decide (d.asym < 2^32)
  | .wyvasLinkDown port => decide (port ≤ 13)
  | .planeLost plane => decide (plane ≤ 1)
  | .wyvasRead m => m.wf
  | .wyvasWrite m => m.wf
  | .wyvasAtomic m => m.wf
  | .delivery m => m.wf
  | .response m => m.wf
  | .nodeUnavailableNotice m => m.wf
  | .nodeAvailableNotice m => m.wf
  | .nodeLostNotice m => m.wf
  | .planeLostNotice m => m.wf
  | .planeRestoredNotice m => m.wf
  | .fenceNotice m => m.wf
  | .reissueTimeout tag => decide (tag < 2^24)
  | .tagRetentionExpiry src tag => decide (src < 2^15) && decide (tag < 2^24)
  | .readyReport node => decide (node < 2^16)
  | .systemReady => true
  | .opticalSignalDetected port => decide (port ≤ 13)
  | .controlFlitInterval port kind => decide (port ≤ 13) && decide (kind ≤ 5)

end Sys2Proof
end

