-- ==== Sys2Proof/Tests/Slice0.lean ====
section
/-! SUPPORT. Tests of the model.
Small states built by helpers; lemmas that put a named premise of a statement into a form that
can be decided; for every clause of every obligation that has hypotheses a witness
`witness_<obligation>_<clause>` that meets all of them together; a term that is not well formed
for each check of WellFormed; and the manual's worked examples. -/

namespace Sys2Proof.Tests
set_option maxRecDepth 100000
set_option Elab.async false
open Sys2Proof Sys2Proof.Machine

/-! ### States and commands the witnesses are built from -/

/-- Set values of the object dictionary. -/
def sets (l : List (Nat × Nat × Nat)) (s : State) : State := l.foldl (fun s x => setObj x.1 x.2.1 x.2.2 s) s

/-- What an optional value holds. -/
def got {α : Type} (o : Option α) (h : o.isSome = true := by decide +kernel) : α := o.get h

/-- A module that has started: its main rails are on, Basic storage and compute are ready. -/
def on : State :=
  sets [(0x1210, 1, 1), (0x1210, 2, 1)] { State.reset with pwr := { State.reset.pwr with mainRails := true, booted := true, starting := false } }

/-- The in-flight record of a fetched command. -/
def fl (fn sq cid opc : Nat) : Inflight :=
  { fn := fn, sq := sq, cid := cid, opc := opc, started := false, held := false, fetched := 0, deadline := 0, lpns := [], reads := [], got := [], entry := none, buf := [], space := false, ranges := [], job := 0 }

/-- A submission queue. -/
def sqOf (fn id : Nat) : Sq := { fn := fn, id := id, cq := id, size := 64, prio := 0, head := 1, tail := 1, waiting := [], frozen := false }

/-- A state with one command fetched on one queue. -/
def inF (fn sq cid opc : Nat) (s : State) : State :=
  { s with host := { s.host with sqs := [sqOf fn sq], inflight := [fl fn sq cid opc] } }

/-- A namespace of 100 blocks of 16 KiB in allocation unit 0, attached to function 0. -/
def ns1 : Ns := { id := 1, block := 16384, nsze := 100, aus := [0], ctrls := [0] }

/-- The module with that namespace. -/
def onNs (s : State) : State := { s with host := { s.host with namespaces := [ns1] } }

/-- A module whose holdup bank is healthy and charged and whose dump set stands: write caching is allowed. -/
def cached : State := { sets [(0x1320, 2, 1), (0x1320, 4, 0)] (onNs on) with blk := { on.blk with dumpSet := [1, 2, 3, 4] } }

/-- An entry of function 0 on I/O queue 1. -/
def ioE : Sqe := { fn := 0, sq := 1, cid := 7, nsid := 1 }

/-- An entry of function 0 on the admin queue. -/
def adE : Sqe := { fn := 0, sq := 0, cid := 7 }

/-- An entry of function 0 on compute queue 2000. -/
def bkE : Sqe := { fn := 0, sq := 2000, cid := 7 }

/-- The module with a fetched command on compute queue 2000. -/
def cq (opc : Nat) (s : State) : State := inF 0 2000 7 opc (sets [(0x5000, 2, 1000)] s)

/-- A tile in T1. -/
def t1 (o i : Nat) : Tile := { newTile on o i with inT1 := true, version := 1 }

/-- A placed object of Standard format, 4 tiles. -/
def ob (id : Nat) : PObj :=
  { id := id, kind := 0, format := 0, group := 0, fn := 64, size := 4, ready := true, degraded := false, commits := 0, commitTime := 0, digest := [], written := true }

theorem adminReady_of {e : Sqe} {opc : Nat} {s : State} (h : (startable e opc s).isSome = true ∧ e.sq = 0 ∧ e.rsvd = false ∧ e.fuse = 0 ∧ e.psdt < 3) :
    adminReady e opc s := ⟨Option.isSome_iff_exists.mp h.1, h.2⟩

/-- Whether a synchronisation operation may be asked, as it is evaluated. -/
def askerOk (w : SyncWho) (h : Nat) (s : State) : Bool :=
  match w with
  | .thread t => match readyThread s t with | some (j, x) => x.stores == 0 && inSyncTable j h | none => false
  | .remote node tag fn => !(s.wyv.keptResp.any fun k => k.1 == node && k.2.1 == tag) &&
      !(s.sync.objs.any fun o => o.waiters.any fun w => w.who == .remote node tag fn) && !selfDown s
  | .stream => false

theorem syncAsker_of {w : SyncWho} {h : Nat} {s : State} (k : askerOk w h s = true) : syncAsker w h s := by
  cases w with
  | stream => exact absurd k Bool.false_ne_true
  | thread t =>
    simp only [askerOk] at k
    split at k
    · rename_i j x e
      simp only [Bool.and_eq_true, beq_iff_eq] at k
      exact ⟨j, x, e, k⟩
    · cases k
  | remote node tag fn =>
    simp only [askerOk, Bool.and_eq_true, Bool.not_eq_true'] at k
    exact ⟨List.find?_eq_none.mpr fun q hq => by simpa using List.any_eq_false.mp k.1.1 q hq, k.1.2, k.2⟩

/-- Whether a synchronisation operation may act on an object, as it is evaluated. -/
def readyOk (w : SyncWho) (h : Nat) (o : SyncObj) (s : State) : Bool :=
  syncHome s h == ownNode s && findSync s (h % 65536) == some o && o.homed && askerOk w h s &&
  match w with | .remote _ _ f => granted o.grants f | _ => true

theorem syncReady_of {w : SyncWho} {h : Nat} {o : SyncObj} {s : State} (k : readyOk w h o s = true) : syncReady w h o s := by
  simp only [readyOk, Bool.and_eq_true, beq_iff_eq] at k
  obtain ⟨⟨⟨⟨a, b⟩, c⟩, d⟩, e⟩ := k
  refine ⟨a, b, c, syncAsker_of d, ?_⟩
  rintro n t f rfl
  exact e

/-- The operands of a synchronisation operation. -/
def syncArgs : Instr → Option (SyncWho × Nat × Nat × Nat × Nat)
  | .acquire w h n => some (w, h, 0, n, 0) | .release w h n => some (w, h, 1, n, 0) | .set w h => some (w, h, 2, 0, 0)
  | .clear w h => some (w, h, 3, 0, 0) | .wait w h => some (w, h, 4, 0, 0) | .arrive w h => some (w, h, 5, 0, 0)
  | .await w h g => some (w, h, 6, g, 0) | .add w h v => some (w, h, 7, v, 0) | .syncRead w h => some (w, h, 8, 0, 0)
  | .waitGe w h v => some (w, h, 9, v, 0) | .cas w h a b => some (w, h, 10, a, b) | _ => none

theorem syncCommand_of {c : Instr} {w : SyncWho} {h : Nat} {x : Nat × Nat × Nat} (k : syncArgs c = some (w, h, x)) : syncCommand c w h x := by
  unfold syncCommand
  cases c <;> simp [syncArgs] at k <;> obtain ⟨rfl, rfl, rfl⟩ := k <;> simp

theorem requestOf_of {c : Instr} {m : Msg} {s : State}
    (k : c = .wyvasRead m ∧ flashHeld s (addrOff m.target) m.dataLength = false ∨ c = .wyvasWrite m ∨ c = .wyvasAtomic m ∨ c = .delivery m) :
    requestOf c m s := k.imp_left fun h => ⟨h.1, fun _ => h.2⟩

theorem pduServed_of {p : Pdu} {s : State} {mac : Nat} (h : p.path = .bus mac) (d : p.dst = obj s 0x1000 7)
    (k : s.pwr.hoopRail = true ∧ s.mgmt.kept = [] ∧ s.mgmt.dups = [] ∧ underWay s p = false ∧ p.version = 1 ∧ 1 ≤ p.count ∧
      p.vlen ≤ 1484 ∧ p.vlen ≤ p.value.length ∧ p.rsvd = false ∧ (p.target = 0xFFFF ∨ p.target < 0x8000) ∧ obj s 0x1410 1 = 0 ∧ s.dict.queue = [] ∧
      s.dict.pendingWrite = none) : pduServed p s := by
  obtain ⟨a, c, e, f⟩ := k
  exact ⟨a, ⟨mac, h⟩, d, by simp [c], by simp [e], f⟩

theorem got_some {α : Type} (o : Option α) (h : o.isSome = true := by decide +kernel) : o = some (got o h) := (Option.some_get h).symm

/-- What a result that is no error holds. -/
def okOf {α ε : Type} (r : Except ε α) (h : r.toOption.isSome = true := by decide +kernel) : α := r.toOption.get h

theorem okOf_ok {α ε : Type} (r : Except ε α) (h : r.toOption.isSome = true := by decide +kernel) : r = .ok (okOf r h) := by
  cases r with
  | error e => exact absurd h Bool.false_ne_true
  | ok a => rfl

/-- A byte string of `n` bytes with little-endian fields (offset, bytes, value). -/
def bytesOf (n : Nat) (l : List (Nat × Nat × Nat)) : Bytes := memRead (l.foldl (fun m x => memPutNat m x.1 x.2.1 x.2.2) []) 0 n

/-- A descriptor of 32 bytes. -/
def dsc (l : List (Nat × Nat × Nat)) : Bytes := bytesOf 32 l

/-- A Standard basket of one operation, with a resident-free slot for placed data and one synchronisation entry for object 3 of this node. -/
def bk (d : Bytes) : Basket :=
  { id := 4, fn := 0, cls := 0, cellThreads := 0, engineThreads := 0, wcet := 1000, scratch := 0, output := 64, ops := [d], size := 160, code := [], rennet := [],
    slots := [bytesOf 16 [(0, 1, 1)]], sync := [bytesOf 8 [(0, 4, 0x7FFF0003)]], digest := [], churnDs := [] }

/-- A running job of that basket. -/
def jb (d : Bytes) : Job :=
  { id := 1, fn := 0, sq := 2000, cid := 7, basket := bk d, express := false, digest := false, resultAddr := 0, objects := [(0, 5)], groups := [], coefs := [],
    params := [], st := 2, pos := 0, admitted := 0, rho := 0, started := 0, resumed := 0, runTime := 0, saveStart := 0, window := 0, throttled := false,
    output := [], outPoison := [], context := none, cells := 16, modeWord := 0, inputDigest := [], versions := [], stage := none, members := [] }

/-- The module, one cell row in service, with that job on the array. -/
def running (d : Bytes) : State :=
  { sets [(0x3000, 4, 1)] on with
    jobs := { on.jobs with jobs := [jb d], owner := some 1, nextJob := 2 }, tier := { on.tier with objects := [ob 5] } }

/-- The same with bytes in the SRAM of cell 0. -/
def runSram (d : Bytes) (l : List (Nat × Bytes)) : State :=
  { running d with arr := { on.arr with sram := l.foldl (fun m x => memWrite m x.1 x.2) [] } }

/-- A synchronisation object. -/
def so (kind value : Nat) : SyncObj :=
  { no := 3, kind := kind, express := false, value := value, gen := 5, parts := 2, grants := 1, release := 0, waiters := [], homed := true, mirrored := true }

/-- The module with that object. -/
def withSync (o : SyncObj) : State := { on with sync := { objs := [o], results := [] } }

theorem memRead_same (m m' : Mem) (a n : Nat) (h : ∀ i < n, memByte m (a + i) = memByte m' (a + i)) : memRead m a n = memRead m' a n := by
  induction n generalizing a with
  | zero => rfl
  | succ n ih =>
    have h0 := h 0 (by omega)
    have h1 := ih (a + 1) fun i hi => by
      have := h (i + 1) (by omega)
      rwa [show a + 1 + i = a + (i + 1) by omega]
    simp only [memRead]
    rw [h1, show memByte m a = memByte m' a from h0]

theorem memRead_memWrite (m : Mem) (a : Nat) (bs : Bytes) : memRead (memWrite m a bs) a bs.length = bs := by
  induction bs generalizing m a with
  | nil => rfl
  | cons b bs ih =>
    simp only [List.length_cons, memRead, memWrite]
    rw [memByte_memWrite_out _ _ _ _ (.inl (by omega)), memByte_memPut_same, ih]

/-- The SRAM of the first `n` cells, each with the same bytes at its start. -/
def eachCell (bs : Bytes) : Nat → Mem
  | 0 => []
  | n + 1 => memWrite (eachCell bs n) (n * 2 ^ 21) bs

theorem eachCell_read (bs : Bytes) (h : bs.length ≤ 2 ^ 21) (n c : Nat) (hc : c < n) : memRead (eachCell bs n) (c * 2 ^ 21) bs.length = bs := by
  induction n with
  | zero => omega
  | succ n ih =>
    by_cases e : c = n
    · rw [e]; exact memRead_memWrite _ _ _
    · exact (memRead_same _ _ _ _ fun i hi => memByte_memWrite_out _ _ _ _ (.inl (by omega))).trans (ih (by omega))

theorem memRead_empty (a n : Nat) : memRead [] a n = List.replicate n 0 := by
  induction n generalizing a with
  | zero => rfl
  | succ n ih => simp [memRead, memByte, ih, List.replicate_succ]

/-- The state a command answers. -/
def nextOf (r : Host.Outcome State Fault Refusal) : State := match r with | .next t => t | _ => on

/-- The cell SRAMs with 64 BF16 scales of 0.747 each. -/
def scaled : State :=
  { running (dsc [(0, 1, 0x23), (1, 1, 3), (12, 4, 0)]) with arr := { on.arr with sram := eachCell (List.replicate 128 0x3F) 16 } }

theorem scales_ok : ∀ c ∈ activeCells scaled, sramBad scaled c (field (dsc [(0, 1, 0x23), (1, 1, 3), (12, 4, 0)]) 12 4 % 2 ^ 21) 128 = false ∧
    ∀ v ∈ scaleVals true (sramRead scaled c (field (dsc [(0, 1, 0x23), (1, 1, 3), (12, 4, 0)]) 12 4 % 2 ^ 21) 128), scaleOk v = true := by
  intro c hc
  rw [show field (dsc [(0, 1, 0x23), (1, 1, 3), (12, 4, 0)]) 12 4 % 2 ^ 21 = 0 by decide +kernel]
  rw [show activeCells scaled = List.range 16 by decide +kernel] at hc
  refine ⟨rfl, ?_⟩
  have r := eachCell_read (List.replicate 128 0x3F) (by decide) 16 c (List.mem_range.mp hc)
  rw [List.length_replicate] at r
  rw [sramRead, sramKey, Nat.add_zero, show scaled.arr.sram = eachCell (List.replicate 128 0x3F) 16 from rfl, r]
  decide +kernel

theorem rescales_ok : ∀ c ∈ activeCells (running (dsc [(0, 1, 0x24), (4, 1, 15), (12, 4, 1024)])),
    sramBad (running (dsc [(0, 1, 0x24), (4, 1, 15), (12, 4, 1024)])) c (field (dsc [(0, 1, 0x24), (4, 1, 15), (12, 4, 1024)]) 12 4 % 2 ^ 21) 1024 = false ∧
    ∀ i < 64, rescaleOk (((sramRead (running (dsc [(0, 1, 0x24), (4, 1, 15), (12, 4, 1024)])) c
      (field (dsc [(0, 1, 0x24), (4, 1, 15), (12, 4, 1024)]) 12 4 % 2 ^ 21) 1024).drop (16 * i)).take 16) = true := by
  intro c _
  refine ⟨rfl, fun i hi => ?_⟩
  rw [show sramRead (running (dsc [(0, 1, 0x24), (4, 1, 15), (12, 4, 1024)])) c
    (field (dsc [(0, 1, 0x24), (4, 1, 15), (12, 4, 1024)]) 12 4 % 2 ^ 21) 1024 = List.replicate 1024 0 from memRead_empty _ _,
    List.drop_replicate, List.take_replicate, show min 16 (1024 - 16 * i) = 16 by omega]
  decide +kernel

/-- A basket of one operation without slots. -/
def bk0 : Basket := { bk (dsc [(0, 1, 0x21)]) with slots := [], sync := [] }

/-- A job of it. -/
def jb0 : Job := { jb (dsc [(0, 1, 0x21)]) with basket := bk0, objects := [] }

/-- The module with that job in it. -/
def jobs (j : Job) (owner preempted : Option Nat) (std express : List Nat) (s : State) : State :=
  { s with jobs := { s.jobs with baskets := [bk0], jobs := [j], stdQ := std, expQ := express, owner := owner, preempted := preempted, nextJob := 2 } }

/-- An image of a basket of one SHAPE operation, in format version `v`. -/
def image (v : Nat) : Bytes :=
  let body := dsc [(0, 1, 0x21), (4, 1, 2)]
  bytesOf 96 [(0, 2, v), (8, 8, 100000), (24, 4, 64), (40, 4, 128), (44, 4, 1)] ++ sha256 body ++ body

/-- A saved context. -/
def ctx : Context :=
  { starting := false, sram := [], sramPoison := [], shape := 2, threads := [], scratch := [], scratchPoison := [], stakeA := [], stakeS := [], stakeAPoison := [], stakeSPoison := [],
    colScale := [], rowScale := [], rescale := [], patterns := [] }

/-- A thread of a cell, and one of a channel engine. -/
def th (engine : Bool) : ThreadId := { engine := engine, unit := 3, no := 0 }

/-- A job whose thread runs, with a coherent region at base 0 homed here. -/
def threaded (engine : Bool) (stores : Nat) (p : Tile) : State :=
  let s := running (dsc [(0, 1, 0x21)])
  { s with
    jobs := { s.jobs with threads := [{ id := th engine, wait := false, stores := stores, result := 0 }] }
    tier := { s.tier with tiles := [p], regions := [{ no := 4, base := 0, len := 2, homed := true, mirrored := false, unprotected := false, single := false }] } }

/-- A Churn table of 16-element rows of 8-bit parameters. -/
def tb : Table := { id := 3, layout := 16, rows := 64, grants := 1, st := 1, groups := [] }

/-- An update record of row 0. -/
def rec0 : Bytes := bytesOf 32 [(10, 2, 0x3F80)]

/-- Its input: one record, no coefficients. -/
def updBuf : Bytes := bytesOf 32 [(0, 1, 1), (2, 2, 16), (4, 4, 9)] ++ rec0

/-- The layout word of an index of family 3: 64 dimensions, 8 subspaces, 64 lists. -/
def lay : Nat := 64 + 8 * 2 ^ 16 + 63 * 2 ^ 24 + 3 * 2 ^ 48

/-- An index of it without items; `closing` is the epoch whose commit waits. -/
def ix (closing : Option Nat) : Index :=
  { id := 2, layout := lay, columns := 0, centroids := 5, codebook := 0, grants := 1, encoder := noHandle, st := 1, committed := 4, opened := 5,
    closing := closing, dirty := true, items := [], nextOrdinal := [], segs := [], commitTime := 0, digests := [] }

/-- The module with that index; policy group 0 reaches every node. -/
def indexed (x : Index) (s : State) : State :=
  { s with retr := { s.retr with indexes := [x] }, tier := { s.tier with objects := [{ ob 5 with size := 1 }] } }

/-- Policy group 0 reaches every node. -/
def wide (s : State) : State := sets [(0x2210, 2, 31), (0x2210, 4, 31), (0x2210, 6, 63)] s

/-- An item record that deletes item 77. -/
def itemDel : Bytes := bytesOf 16 [(0, 8, 77), (8, 1, 1), (12, 2, 16)]

/-- An Ingest of two such records. -/
def ing : Ingest := { no := 1, fn := 0, sq := 2000, cid := 7, index := 2, epoch := 5, records := [itemDel, itemDel], applied := 0, resultAddr := 0, throttled := false }

/-- A query descriptor with 64 bytes of vector input and one probe. -/
def qd : Bytes := bytesOf 96 [(0, 1, 1), (4, 2, 1), (6, 2, 64)]

/-- Pipeline 6 names index 2, no baskets, and any function; function 0 replays epoch `e` of the index where one is given. -/
def piped (replay : List (Nat × Nat × Nat)) : State :=
  indexed (ix none) (cq 0x89 (sets ([(0x3246, 1, 2), (0x3246, 2, noHandle), (0x3246, 3, noHandle), (0x3246, 4, noHandle), (0x3246, 5, 1), (0x3246, 6, 8),
    (0x3246, 7, 1), (0x3246, 16, 64), (0x3246, 17, 1)] ++ replay) on))

/-- The query's entry. -/
def qE : Sqe := { bkE with handle := 6, cdw10 := 96, cdw15 := 260 }

/-- A probe of list 1 that is scanned, and one of list 2 that is not. -/
def prb (list : Nat) (scanning : Bool) : Probe :=
  { list := list, node := 0xFFFF, arrived := true, carried := 0, scanning := scanning, done := false, table := [], bias := 0 }

/-- An admitted query with two probes. -/
def qry : Query :=
  { fn := 0, sq := 2000, cid := 7, pipeline := 6, pipe := pipeValues (piped []) 6, index := 2, k := 4, pool := 4, epoch := 4, express := false,
    digest := false, deadline := 0, admitted := 0, resultAddr := 0, preds := [], terms := [], noWiden := true, nProbe := 2, input := [], tokens := 0, stage := 0, window := 0, vec := [],
    order := [1, 2], probes := [prb 1 true, prb 2 false], pools := [], cands := [], rawSet := [], rounds := 0, detRounds := none, throttled := false,
    modeWord := 0, inputDigest := [], versions := [], pipeDigest := [] }

/-- The module with a coherent region of 128 KiB at base 0 homed here. -/
def reg : State :=
  { on with tier := { on.tier with regions := [{ no := 4, base := 0, len := 2, homed := true, mirrored := false, unprotected := false, single := false }] } }

/-- A message of node 1 with tag 9. -/
def mg : Msg := { dst := 0, src := 1, tag := 9 }

/-- The kept Response to it. -/
def kept (s : State) : State := { s with wyv := { s.wyv with keptResp := [(1, 9, { dst := 1, src := 0, mtype := 10, tag := 9 })] } }

/-- A fenced node. -/
def fencedOn : State := sets [(0x2202, 5, 1)] reg

/-- A request to node 1. -/
def rq (t : Nat) (w : SyncWho) (job : Nat) (tile : Option (Nat × Nat)) (re : Bool) : Request :=
  { tag := 9, dst := 1, msg := { dst := 1, src := 0, mtype := t, tag := 9 }, who := w, job := job, issued := 0, reissued := re, plane := 0, tile := tile,
    off := 0, atomic := false }

/-- A state with that request open. -/
def asked (r : Request) (s : State) : State := { s with wyv := { s.wyv with requests := [r] } }

/-- A Notice about node 5 and plane 0. -/
def nt (op : Nat) (crossed : Bool) : Msg := { dst := 0, src := 1, mtype := 8, op := op, crossed := crossed, data := natLE 2 5 }

/-- The module with port 2 up at full width. -/
def up2 : State := sets [(0x4012, 1, 2)] on

/-- An enabled controller of function 0 that is ready. -/
def ct : Ctrl := { ctrlReset 0 with enabled := true, ready := true }

/-- The module with it. -/
def hosted (s : State) : State := { s with host := { s.host with linkUp := true, ctrls := [ct] } }

/-- A state in which a command is fetched on the admin queue of function 0. -/
def adm (opc : Nat) (s : State) : State := hosted (inF 0 0 7 opc s)

/-- A write of one subindex inside the module. -/
def hw (idx sub : Nat) (v : Bytes) : HoopReq := { origin := .none, op := 2, fn := 0, index := idx, sub := sub, count := 1, value := v }

/-- The value subindex 2104h.1 holds after reset, and another. -/
def same : Bytes := natLE (objSize 0x2104 1) (obj on 0x2104 1)

def other : Bytes := natLE (objSize 0x2104 1) (obj on 0x2104 1 + 1)

/-- A record of that write being programmed, after `n` tries. -/
def swr (n : Nat) : StoreWrite := { origin := .none, fn := 0, index := 0x2104, sub := 1, values := [obj on 0x2104 1 + 1], tries := n }

/-- The module with it. -/
def storing (n : Nat) : State := { on with dict := { on.dict with pendingWrite := some (swr n) } }

/-- A request of the object protocol from the management bus. -/
def pd : Pdu := { path := .bus 5, dst := obj on 0x1000 7, seq := 3, index := 0x1010, sub := 1, count := 1 }

/-- A firmware image of a header alone, staged. -/
def staged (s : State) : State :=
  { s with fw := { s.fw with
      staged := memWrite (memWrite [] 0 (bytesOf 64 [(0, 4, 0x53584647), (4, 4, 8192), (32, 4, 8192), (24, 4, 1)])) 64 (sha256 [])
      stagedBytes := 8192 } }

/-- The module with an SPDM connection negotiated to `stage`, and chunks waiting. -/
def conn (stage : Nat) (out : Bytes) : Conn := { conn := 1, stage := stage, version := 0x13, chunkIn := [], chunkOut := out }

def spd (stage : Nat) (out : Bytes) (s : State) : State := { s with mgmt := { s.mgmt with conns := [conn stage out] } }

/-- A superblock of channel 0, die 0, in a state. -/
def sb (st : Nat) : Superblock :=
  { id := 0, members := [{ ch := 0, die := 0, blocks := [7, 7, 7, 7] }, { ch := 1, die := 0, blocks := [7, 7, 7, 7] }], stream := 0, st := st, birth := 0,
    next := 1, queued := false, refresh := false, early := false, programmedAt := 0, toErase := [] }

/-- A page of the Pail on its way to flash. -/
def pg9 : PailPage := { kind := 0, lpn := 9, seq := 4, data := [], quarters := 15, stream := 0, phase := 1, poison := 0, parts := [] }

/-- A flash page of host data. -/
def page9 : Page := { data := [(0, 0x5A)], cws := [0, 1, 2, 3].map fun k => { tag := 9, seq := 4, index := k, flags := 0, crc := 0 } }

/-- The program unit that carries it. -/
def unit9 : ProgUnit :=
  { phys := physAddr 0 0 0 7 0, sb := 0, wl := 0, ch := 0, die := 0, locked := false, pages := [{ lpn := 9, seq := 4, src := none, page := page9 }],
    parity := false, seg := none, waiting := false, threshold := 100 }

/-- The module with superblocks and pages of the Pail. -/
def flashOn (b : List Superblock) (p : List PailPage) (s : State) : State := { s with blk := { s.blk with sbs := b, pail := p } }

/-- The module with a journal entry in the open buffer. -/
def je9 : JEntry := { kind := 1, count := 1, key := 9, value := 0, extra := 0, desc := [] }

/-- The journal segment being programmed, and its unit. -/
def seg0 : Segment := { seq := 0, commit := none, entries := [je9], unit := some unit9.phys, verified := false }

def segOn : State :=
  let s := flashOn [{ sb 1 with stream := 6 }] [] on
  { s with blk := { s.blk with segs := [seg0], units := [{ unit9 with seg := some 0, locked := true, pages := [] }] } }

/-- A firmware commit under way. -/
def fwj (phase : Nat) (ok : Bool) : FwJob := { fn := 0, sq := 0, cid := 7, bank := 1, action := 1, sig := some 1, readBackOk := ok, phase := phase, pos := 0 }

def fwOn (phase : Nat) (ok : Bool) : State := let s := inF 0 0 7 0x10 on; { s with fw := { s.fw with job := some (fwj phase ok) } }

/-- An update of one record with a coefficient that is not finite. -/
def upd0 : Upd :=
  { fn := 0, sq := 2000, cid := 7, table := 3, step := 0, records := [{ no := 0, bytes := List.replicate 16 0 ++ List.replicate 16 0x7F, coefs := [], waits := false }],
    applied := 0, fetched := 0, resultAddr := 0, admitted := 0, fromJob := false, throttled := false }

/-- A module whose firmware puts it in the read-only state. -/
def readOnlyNow (s : State) : State := sets [(0x2140, 1, 1000000)] s

/-- A module whose Pail admits no write until garbage collection has freed space. -/
def fullPail (s : State) : State := sets [(0x2104, 2, 60000)] s

/-- A read in flight that waits for one die read. -/
def rdX : Inflight := { fl 0 1 7 2 with started := true, entry := some { ioE with cdw10 := 3 }, reads := [(3, unit9.phys)] }

/-- The module with that read, and the page mapped. -/
def reading : State :=
  let s := flashOn [sb 2] [] (onNs (inF 0 1 7 2 on))
  { s with
    host := { s.host with inflight := [rdX] }
    nand := { s.nand with pages := [(unit9.phys, page9)] }
    blk := { s.blk with map := [(3, mapEntry false false 0 unit9.phys)] } }

/-- The module as node 0 of a ready system of two nodes. -/
def sys (s : State) : State := sets [(0x4000, 6, 0)] { s with wyv := { s.wyv with extents := (2, 1, 1), systemReady := true } }

/-- The module as a node of a twinned system whose twin ports are up. -/
def twin (s : State) : State := sets [(0x4000, 6, 0), (0x4000, 9, 1), (0x401C, 1, 2), (0x401D, 1, 2)] s

/-- A running job with one thread whose basket names the handle, and an object. -/
def thSync (h : Nat) (o : SyncObj) : State :=
  let s := running (dsc [(0, 1, 0x21)])
  { s with
    jobs := { s.jobs with
      jobs := [{ jb (dsc [(0, 1, 0x21)]) with basket := { bk (dsc [(0, 1, 0x21)]) with sync := [bytesOf 8 [(0, 4, h)]] } }]
      threads := [{ id := th false, wait := false, stores := 0, result := 0 }] }
    sync := { objs := [o], results := [] } }

/-- A running job at a synchronisation operation of its stream on the handle of its basket. -/
def opSync (h : Nat) (d : Bytes) (o : SyncObj) : State :=
  let s := running d
  { s with
    jobs := { s.jobs with jobs := [{ jb d with basket := { bk d with sync := [bytesOf 8 [(0, 4, h)]] } }] }
    sync := { objs := [o], results := [] } }

theorem ok_of {α ε : Type} [DecidableEq α] {r : Except ε α} {a : α} (h : (match r with | .ok b => decide (b = a) | .error _ => false) = true) :
    r = .ok a := by
  split at h
  · simp_all
  · cases h

theorem mmaPassReady_of {s : State} {j : Job} {x : Mma} {p t : Nat}
    (h : patMissing s x (chainRows s s.arr.shape p) (passK s x s.arr.shape p t) t (if s.arr.shape = 0 then 1024 else x.m) = false ∧
      (passStakes x s.arr.shape t p s).2 = false ∧
      ∀ m < x.m, ∀ q ∈ (mmaSlices s x (chainRows s s.arr.shape p) (passK s x s.arr.shape p t) t m).zipIdx, (q.1.2.all fun a =>
        !sramBad s q.1.1 a.toNat (elemBytes x.af (min (kPerRow x.wf) (passK s x s.arr.shape p t - q.2 * kPerRow x.wf))) &&
        (!streamLoaded j ((x.pat + t) % 64) || !(banksOf (a.toNat, sliceLen x.af)).any (mmaBanks x).contains)) = true) :
    mmaPassReady s j x p t := by
  refine ⟨h.1, h.2.1, fun m hm c a cell e => ?_⟩
  have k := h.2.2 m hm ((cell, some a), c) (List.mem_zipIdx_iff_getElem?.mpr e)
  simp only [Option.all_some, Bool.and_eq_true, Bool.or_eq_true, Bool.not_eq_true'] at k
  exact ⟨k.1, fun l => k.2.resolve_left (by rw [l]; decide)⟩

/-- Whether regions of a cell's SRAM fit, as it is evaluated. -/
def fitsOk (l : List (Nat × Nat)) : Bool :=
  l.all (fun r => decide (r.1 + r.2 ≤ 2 ^ 21)) && decide (l.Pairwise fun a b => a.1 + a.2 ≤ b.1 ∨ b.1 + b.2 ≤ a.1)

theorem regionsFit_of {l : List (Nat × Nat)} (h : fitsOk l = true) : regionsFit l := by
  simp only [fitsOk, Bool.and_eq_true, List.all_eq_true, decide_eq_true_eq] at h
  exact h

theorem mmaApart_of {s : State} {x : Mma} {p : Nat}
    (h : x.n ≤ 64 * (drainCells s s.arr.shape p).length ∧
      ∀ t < mmaPasses s x s.arr.shape p,
        (0 < t ∨ x.load = 1 → fitsOk ((x.wAddr + t * blockLen x.wf, blockLen x.wf) :: mmaOuts x) = true) ∧
        (x.preload = true → fitsOk ((x.pAddr, blockLen x.wf) :: mmaOuts x) = true) ∧
        ∀ m < x.m, ∀ q ∈ mmaSlices s x (chainRows s s.arr.shape p) (passK s x s.arr.shape p t) t m, ∀ a ∈ q.2.toList,
          fitsOk ((a.toNat, sliceLen x.af) :: mmaOuts x) = true) : mmaApart s x p :=
  ⟨h.1, fun t ht => ⟨fun l => regionsFit_of ((h.2 t ht).1 l), fun l => regionsFit_of ((h.2 t ht).2.1 l),
    fun m hm q hq a e => regionsFit_of ((h.2 t ht).2.2 m hm q hq a (by simp [e]))⟩⟩

/-- What a thread's witness state is built from: the module with the running job's threads, and a namespace of its function. -/
def thr (s : State) : State := onNs s

/-- A posted store of the thread that waits for a tier. -/
def stw : TierWait := { thread := th false, job := 1, fn := 0, access := .store (.window 0 0) [1] }

/-- An update of two records of table 3. -/
def upd2 : Upd :=
  { upd0 with step := 9, records := [{ no := 0, bytes := rec0, coefs := List.replicate 8 0, waits := false }, { no := 1, bytes := rec0, coefs := [], waits := false }] }

/-- An item of list 1 of index 2, and the page that holds its segment. -/
def it1 (tomb : Option Nat) : Item := { list := 1, ordinal := 0, epoch := 4, id := 77, seg := 0, pos := 0, row := 0, tomb := tomb, writer := 1, tombBy := 0 }

def pg1 : StorePage := { owner := .segment 2 1 0, kind := 3, size := 0, no := 0, lpn := 9 }

/-- An index of one list. -/
def ix1 (next : Nat) : Index := { ix none with layout := 64 + 8 * 2 ^ 16, nextOrdinal := [(0, next)] }

/-- An item record that inserts item 78 with a vector of 64 bytes. -/
def itemIns : Bytes := bytesOf 80 [(0, 8, 78), (9, 1, 1), (10, 2, 64), (12, 2, 80)]

/-- The module with an Ingest of records of index 2. -/
def ingesting (x : Index) (rs : List Bytes) : State :=
  let s := indexed x on
  { s with retr := { s.retr with ingests := [{ ing with records := rs }] } }

/-- The module with queries of index 2. -/
def asking (x : Index) (qs : List Query) : State := let s := indexed x on; { s with retr := { s.retr with queries := qs } }

/-- Commands of function 0 in flight: an admin command and a compute command. -/
def aborting (opc : Nat) : State :=
  let s := sets [(0x5000, 2, 1000)] on
  { s with host := { s.host with sqs := [sqOf 0 0, sqOf 0 2000], inflight := [fl 0 0 7 opc, fl 0 2000 9 0x85] } }

def inF2 : State := let s := aborting 8; { s with host := { s.host with inflight := [{ fl 0 2000 9 0x85 with deadline := 5 }] } }

/-- A state with the running job's command in flight. -/
def inFl (s : State) : State := { s with host := { s.host with sqs := [sqOf 0 2000], inflight := [{ fl 0 2000 7 0x85 with started := true }] } }

/-- The module with a cable in port 2. -/
def cabledOn : State := { on with wyv := { on.wyv with ports := on.wyv.ports.map fun x => if x.no = 2 then { x with cabled := true } else x } }

/-- A state whose second bank is committed too. -/
def both (s : State) : State := { s with fw := { s.fw with bankB := { s.fw.bankA with commit := some 1 } } }

/-- A state with a response kept for the bus address and sequence number of `pd`. -/
def keptBus : State :=
  { on with mgmt := { on.mgmt with kept := [{ path := .bus 5, op := 0x81, seq := 3, index := 0, sub := 0, count := 0, status := 0, node := 0, stale := false, replayed := false, value := [], trailer := none }] } }

/-- A module of a fabric of 64 nodes. -/
def fourCube : State := let s := sets [(0x4000, 7, 7)] on; { s with wyv := { s.wyv with extents := (4, 4, 4) } }

/-- A state with one request relayed to another node. -/
def relaying : State := { on with mgmt := { on.mgmt with relays := [{ tag := 6, op := 1, pdu := pd }] } }

/-- A state with one frozen compute queue, a completion queue 3 and the admin command `opc` in flight beside `extra`. -/
def queued (opc : Nat) (extra : List Inflight) : State :=
  let s := adm opc (sets [(0x5000, 2, 1000)] on)
  { s with host := { s.host with sqs := s.host.sqs ++ [{ sqOf 0 2000 with frozen := true }], cqs := [{ fn := 0, id := 3, size := 64, vector := 0 }], inflight := s.host.inflight ++ extra } }

/-! ### Witnesses: every clause of every obligation that has hypotheses -/

theorem witness_StepRunsTheFrontCommand_2 : ∃ (s : State), s.pending = [] :=
  ⟨State.reset, by decide +kernel⟩

theorem witness_EveryStepKeepsTheThrottleLadder_1 : ∃ (s : State) (t : State), s.thr.Ok ∧ step s = .next t :=
  ⟨State.reset, (nextOf (step State.reset) : State), ⟨by decide, by decide, by decide, by decide, by decide⟩, rfl⟩

theorem witness_ResetHoldsTheResetValues_1 : ∃ (i : Nat) (j : Nat) (w : ObjRow), i ≠ 0x1000 ∧ (i, j) ≠ (0x5000, 3) ∧ objRow i j = some w :=
  ⟨0x1300, 1, got (objRow 0x1300 1), by decide +kernel, by decide +kernel, by decide +kernel⟩

def r_replayedQueryPinsTheReplayEpoch_1 : Inflight :=
  got (startable qE 0x89 (piped [(0x4260, 1, 2), (0x4260, 2, 9)] : State))

def m_replayedQueryPinsTheReplayEpoch_1 : KV :=
  pipeValues (piped [(0x4260, 1, 2), (0x4260, 2, 9)] : State) qE.handle

def x_replayedQueryPinsTheReplayEpoch_1 : Index :=
  got (indexFor (piped [(0x4260, 1, 2), (0x4260, 2, 9)] : State) qE.fn (pv m_replayedQueryPinsTheReplayEpoch_1 1))

def bs_replayedQueryPinsTheReplayEpoch_1 : List (Option Basket) :=
  got (pipeBaskets (piped [(0x4260, 1, 2), (0x4260, 2, 9)] : State) qE.fn m_replayedQueryPinsTheReplayEpoch_1)

theorem witness_ReplayedQueryPinsTheReplayEpoch_1 : ∃ (s : State) (e : Sqe) (r : Inflight) (buf : Bytes) (k : Nat) (kind : Nat) (m : KV) (x : Index) (bs : List (Option Basket)) (b : Bytes), basketReady e 0x89 true (some (64 + 8 * (e.cdw15 % 128))) r s ∧ k = e.cdw15 % 128 ∧ kind = bitsOf e.cdw15 9 8 ∧ m = pipeValues s e.handle ∧ 1 ≤ k ∧ k ≤ 64 ∧ kind ≤ 1 ∧ e.cdw15 = k + 256 * kind ∧ e.cdw10 ≤ 2 ^ 20 ∧ e.handle ≤ 63 ∧ indexFor s e.fn (pv m 1) = some x ∧ pipeBaskets s e.fn m = some bs ∧ granted (pv m 17) e.fn = true ∧ e.cdw10 ≤ buf.length ∧ b = buf.take e.cdw10 ∧ descOk x m (kind == 0) b e.cdw10 = true ∧ 1 ≤ descProbes m b ∧ obj s (0x4260 + e.fn) 1 = x.id ∧ (x.committed < obj s (0x4260 + e.fn) 2 ∨ obj s (0x4260 + e.fn) 2 < auditFloor s x) :=
  ⟨(piped [(0x4260, 1, 2), (0x4260, 2, 9)] : State), qE, r_replayedQueryPinsTheReplayEpoch_1, qd, (qE.cdw15 % 128 : Nat), (bitsOf qE.cdw15 9 8 : Nat), m_replayedQueryPinsTheReplayEpoch_1, x_replayedQueryPinsTheReplayEpoch_1, bs_replayedQueryPinsTheReplayEpoch_1, (qd.take qE.cdw10 : Bytes), by unfold basketReady; decide +kernel, rfl, rfl, rfl, by decide +kernel, by decide +kernel, by decide +kernel, by decide +kernel, by decide +kernel, by decide +kernel, by decide +kernel, by decide +kernel, by decide +kernel, by decide +kernel, rfl, by decide +kernel, by decide +kernel, by decide +kernel, by decide +kernel⟩

def r_replayedQueryPinsTheReplayEpoch_2 : Inflight :=
  got (startable qE 0x89 (piped [(0x4260, 1, 2), (0x4260, 2, 4)] : State))

def m_replayedQueryPinsTheReplayEpoch_2 : KV :=
  pipeValues (piped [(0x4260, 1, 2), (0x4260, 2, 4)] : State) qE.handle

def x_replayedQueryPinsTheReplayEpoch_2 : Index :=
  got (indexFor (piped [(0x4260, 1, 2), (0x4260, 2, 4)] : State) qE.fn (pv m_replayedQueryPinsTheReplayEpoch_2 1))

def bs_replayedQueryPinsTheReplayEpoch_2 : List (Option Basket) :=
  got (pipeBaskets (piped [(0x4260, 1, 2), (0x4260, 2, 4)] : State) qE.fn m_replayedQueryPinsTheReplayEpoch_2)

theorem witness_ReplayedQueryPinsTheReplayEpoch_2 : ∃ (s : State) (e : Sqe) (r : Inflight) (buf : Bytes) (k : Nat) (kind : Nat) (m : KV) (x : Index) (bs : List (Option Basket)) (b : Bytes), basketReady e 0x89 true (some (64 + 8 * (e.cdw15 % 128))) r s ∧ k = e.cdw15 % 128 ∧ kind = bitsOf e.cdw15 9 8 ∧ m = pipeValues s e.handle ∧ 1 ≤ k ∧ k ≤ 64 ∧ kind ≤ 1 ∧ e.cdw15 = k + 256 * kind ∧ e.cdw10 ≤ 2 ^ 20 ∧ e.handle ≤ 63 ∧ indexFor s e.fn (pv m 1) = some x ∧ pipeBaskets s e.fn m = some bs ∧ granted (pv m 17) e.fn = true ∧ e.cdw10 ≤ buf.length ∧ b = buf.take e.cdw10 ∧ descOk x m (kind == 0) b e.cdw10 = true ∧ 1 ≤ descProbes m b ∧ obj s (0x4260 + e.fn) 1 = x.id ∧ obj s (0x4260 + e.fn) 2 ≤ x.committed ∧ auditFloor s x ≤ obj s (0x4260 + e.fn) 2 :=
  ⟨(piped [(0x4260, 1, 2), (0x4260, 2, 4)] : State), qE, r_replayedQueryPinsTheReplayEpoch_2, qd, (qE.cdw15 % 128 : Nat), (bitsOf qE.cdw15 9 8 : Nat), m_replayedQueryPinsTheReplayEpoch_2, x_replayedQueryPinsTheReplayEpoch_2, bs_replayedQueryPinsTheReplayEpoch_2, (qd.take qE.cdw10 : Bytes), by unfold basketReady; decide +kernel, rfl, rfl, rfl, by decide +kernel, by decide +kernel, by decide +kernel, by decide +kernel, by decide +kernel, by decide +kernel, by decide +kernel, by decide +kernel, by decide +kernel, by decide +kernel, rfl, by decide +kernel, by decide +kernel, by decide +kernel, by decide +kernel, by decide +kernel⟩

def s_nonFiniteRecordWritesNothing_1 : State :=
  { on with churn := { tables := [{ tb with groups := [0] }], updates := [upd0] } }

def u_nonFiniteRecordWritesNothing_1 : Upd :=
  got (s_nonFiniteRecordWritesNothing_1.churn.updates.find? (·.named 0 2000 7))

def r_nonFiniteRecordWritesNothing_1 : URec :=
  got (u_nonFiniteRecordWritesNothing_1.due 0)

def tb_nonFiniteRecordWritesNothing_1 : Table :=
  got (findTable s_nonFiniteRecordWritesNothing_1 u_nonFiniteRecordWritesNothing_1.table)

def xn_nonFiniteRecordWritesNothing_1 : List (Nat × Nat × Nat) × Nat :=
  churnRow s_nonFiniteRecordWritesNothing_1 tb_nonFiniteRecordWritesNothing_1 r_nonFiniteRecordWritesNothing_1.bytes r_nonFiniteRecordWritesNothing_1.coefs

def rest_nonFiniteRecordWritesNothing_1 : List URec :=
  u_nonFiniteRecordWritesNothing_1.records.filter (·.no != 0)

theorem witness_NonFiniteRecordWritesNothing_1 : ∃ (s : State) (fn : Nat) (sq : Nat) (cid : Nat) (no : Nat) (u : Upd) (r : URec) (b : Bytes) (tb : Table) (xn : List (Nat × Nat × Nat) × Nat) (rest : List URec), s.churn.updates.find? (·.named fn sq cid) = some u ∧ u.due no = some r ∧ b = r.bytes ∧ findTable s u.table = some tb ∧ updTurn s u = true ∧ updHeld s u = false ∧ s.thr.fa ≠ 0 ∧ s.pwr.ps < 3 ∧ (∀ p ∈ rowPlaces tb (recRow b), needsFetch (tileOf s p.1 p.2) = false ∧ (tileOf s p.1 p.2).held = false ∧ (tileOf s p.1 p.2).poison = false) ∧ (tb.groups.contains (recRow b / 64) = true ∨ storeFull s (pagesLacking s ((rowPlaces tb (recRow b)).map fun p => tileOf s p.1 p.2)) = false) ∧ xn = churnRow s tb b r.coefs ∧ ((∃ e ∈ xn.1, f32Finite e.1 = false ∨ f32Finite e.2.1 = false ∨ f32Finite e.2.2 = false) ∨ f32Finite xn.2 = false ∨ (∃ i < layoutD tb.layout, isFin (decodeFmt 1 (recGrad b i)) = false)) ∧ rest = u.records.filter (·.no != no) :=
  ⟨s_nonFiniteRecordWritesNothing_1, 0, 2000, 7, 0, u_nonFiniteRecordWritesNothing_1, r_nonFiniteRecordWritesNothing_1, r_nonFiniteRecordWritesNothing_1.bytes, tb_nonFiniteRecordWritesNothing_1, xn_nonFiniteRecordWritesNothing_1, rest_nonFiniteRecordWritesNothing_1, by decide +kernel, by decide +kernel, rfl, by decide +kernel, by decide +kernel, by decide +kernel, by decide +kernel, by decide +kernel, by decide +kernel, by decide +kernel, rfl, by decide +kernel, rfl⟩

theorem witness_UnchangedPersistentWriteAppendsNoRecord_1 : ∃ (s : State) (fn : Nat) (idx : Nat) (sub : Nat) (w : ObjRow) (v : Nat), objRow idx sub = some w ∧ w.grp = .p ∧ v = obj s idx sub ∧ v < 2 ^ (8 * objSize idx sub) ∧ s.pwr.hoopRail = true ∧ s.dict.queue = [] ∧ mustWait { origin := .none, op := 2, fn := fn, index := idx, sub := sub, count := 1, value := natLE (objSize idx sub) v } s = false ∧ (checkSet { origin := .none, op := 2, fn := fn, index := idx, sub := sub, count := 1, value := natLE (objSize idx sub) v } s).1 = 0 :=
  ⟨on, 0, 0x2104, 1, got (objRow 0x2104 1), (obj on 0x2104 1 : Nat), by decide +kernel, by decide +kernel, rfl, by decide +kernel, by decide +kernel, by decide +kernel, by decide +kernel, by decide +kernel⟩

def s_startUpHoldupAndLocate_1 : State :=
  { State.reset with pwr := { State.reset.pwr with inputPresent := false } }

theorem witness_StartUpHoldupAndLocate_1 : ∃ (s : State) (mv : Nat), s.pwr.inputPresent = false ∧ 40000 < mv :=
  ⟨s_startUpHoldupAndLocate_1, 48000, by decide +kernel, by decide +kernel⟩

def s_startUpHoldupAndLocate_2 : State :=
  { State.reset with pwr := { State.reset.pwr with pwrEn := false } }

theorem witness_StartUpHoldupAndLocate_2 : ∃ (s : State), s.pwr.pwrEn = false :=
  ⟨s_startUpHoldupAndLocate_2, by decide +kernel⟩

def s_startUpHoldupAndLocate_3 : State :=
  { State.reset with pwr := { State.reset.pwr with inputPresent := false, hoopPower := true } }

theorem witness_StartUpHoldupAndLocate_3 : ∃ (s : State), s.pwr.hoopPower = true ∧ s.pwr.inputPresent = false ∧ s.pwr.mainRails = false :=
  ⟨s_startUpHoldupAndLocate_3, by decide +kernel, by decide +kernel, by decide +kernel⟩

def s_startUpHoldupAndLocate_4 : State :=
  { State.reset with pwr := { State.reset.pwr with hoopPower := false, hoopRail := false } }

theorem witness_StartUpHoldupAndLocate_4 : ∃ (s : State) (f : HoopStart), s.pwr.hoopPower = false ∧ s.pwr.inputPresent = true ∧ (f.pair0Ok || f.pair1Ok) = true :=
  ⟨s_startUpHoldupAndLocate_4, ({ straps := 3 } : HoopStart), by decide +kernel, by decide +kernel, by decide +kernel⟩

theorem witness_StartUpHoldupAndLocate_5 : ∃ (s : State) (f : RailStart), s.pwr.starting = true ∧ s.pwr.hoopRail = true ∧ s.pwr.inputPresent = true ∧ s.pwr.pwrEn = true ∧ s.pwr.tripped = false ∧ s.pwr.imageOk = true ∧ s.pwr.pufOk = true ∧ f.clocksOk = true ∧ readTables f.unreadableTables s ≠ [] ∧ f.mapOk = true ∧ bitOf f.failedCheckers 1 = false ∧ bitOf f.failedCheckers 5 = false :=
  ⟨State.reset, ({} : RailStart), by decide +kernel, by decide +kernel, by decide +kernel, by decide +kernel, by decide +kernel, by decide +kernel, by decide +kernel, by decide +kernel, by decide +kernel, by decide +kernel, by decide +kernel, by decide +kernel⟩

theorem witness_StartUpHoldupAndLocate_6 : ∃ (s : State), s.pwr.inputPresent = true :=
  ⟨State.reset, by decide +kernel⟩

def h_startUpHoldupAndLocate_8 : Bool :=
  (match (some 46000 : Option Nat) with | some e => decide (45000 ≤ e ∧ sensor State.reset 0x71 < 750 ∧ sensor State.reset 0x72 < 750) | none => false)

theorem witness_StartUpHoldupAndLocate_8 : ∃ (s : State) (mj : Option Nat) (h : Bool), h = (match mj with | some e => decide (45000 ≤ e ∧ sensor s 0x71 < 750 ∧ sensor s 0x72 < 750) | none => false) :=
  ⟨State.reset, (some 46000 : Option Nat), h_startUpHoldupAndLocate_8, rfl⟩

def s_powerLossSequence_1 : State :=
  let s := flashOn [sb 5] [pg9] on; { s with blk := { s.blk with dumpSet := [0] } }

theorem witness_PowerLossSequence_1 : ∃ (s : State) (c : Instr) (cause : Nat), s.pwr.mainRails = true ∧ s.pwr.inputPresent = true ∧ ((c = .inputLoss ∨ c = .overVoltageDisconnect) ∧ s.pwr.pwrLossCause = 0 ∧ s.integ.coresOut.length < 16 ∧ cause = (if c = .inputLoss then 1 else 0) ∨ c = .pwrEnLow ∧ s.pwr.pwrEn = true ∧ s.integ.coresOut.length < 16 ∧ cause = 2 ∨ c = .drainSequencerTakeover ∧ s.pwr.pwrLossCause ≤ 1 ∧ cause = 1) :=
  ⟨s_powerLossSequence_1, .inputLoss, 1, by decide +kernel, by decide +kernel, by decide +kernel⟩

def s_powerLossSequence_2 : State :=
  { on with integ := { on.integ with coresOut := List.range 16 } }

theorem witness_PowerLossSequence_2 : ∃ (s : State) (c : Instr), s.pwr.mainRails = true ∧ s.pwr.inputPresent = true ∧ 16 ≤ s.integ.coresOut.length ∧ s.pwr.pwrLossCause = 0 ∧ (c = .inputLoss ∨ c = .overVoltageDisconnect ∨ c = .pwrEnLow ∧ s.pwr.pwrEn = true) :=
  ⟨s_powerLossSequence_2, .inputLoss, by decide +kernel, by decide +kernel, by decide +kernel, by decide +kernel, by decide +kernel⟩

def s_evaluationTickMovesTheLadder_1 : State :=
  { State.reset with pwr := { State.reset.pwr with hoopRail := false } }

theorem witness_EvaluationTickMovesTheLadder_1 : ∃ (s : State), s.pwr.hoopRail = false :=
  ⟨s_evaluationTickMovesTheLadder_1, by decide +kernel⟩

def e_evaluationTickMovesTheLadder_2 : Evaluation :=
  { sensors := [(1, 500)], power1s := 700000 }

def u_evaluationTickMovesTheLadder_2 : State :=
  sensed e_evaluationTickMovesTheLadder_2 on

theorem witness_EvaluationTickMovesTheLadder_2 : ∃ (s : State) (e : Evaluation) (u : State), s.pwr.hoopRail = true ∧ u = sensed e s ∧ (tripping u = false ∨ u.pwr.tripped = true) ∧ ¬(u.pwr.tripped = true ∧ u.pwr.tripCycled = true ∧ hot u = false) :=
  ⟨on, e_evaluationTickMovesTheLadder_2, u_evaluationTickMovesTheLadder_2, by decide +kernel, rfl, by decide +kernel, by decide +kernel⟩

theorem witness_EvaluationTickMovesTheLadder_3 : ∃ (s : State) (e : Evaluation), s.pwr.hoopRail = true ∧ tripping (sensed e s) = true ∧ s.pwr.tripped = false :=
  ⟨on, ({ sensors := [(1, 1150)] } : Evaluation), by decide +kernel, by decide +kernel, by decide +kernel⟩

def s_evaluationTickMovesTheLadder_4 : State :=
  { on with pwr := { on.pwr with tripped := true, tripCycled := true } }

def u_evaluationTickMovesTheLadder_4 : State :=
  sensed ({} : Evaluation) s_evaluationTickMovesTheLadder_4

theorem witness_EvaluationTickMovesTheLadder_4 : ∃ (s : State) (e : Evaluation) (u : State), s.pwr.hoopRail = true ∧ u = sensed e s ∧ s.pwr.tripped = true ∧ s.pwr.tripCycled = true ∧ hot u = false :=
  ⟨s_evaluationTickMovesTheLadder_4, ({} : Evaluation), u_evaluationTickMovesTheLadder_4, by decide +kernel, rfl, by decide +kernel, by decide +kernel, by decide +kernel⟩

theorem witness_BasicModeCommandsAndHeat_2 : ∃ (s : State), bitOf (obj s 0x1010 2) 3 = true :=
  ⟨(sets [(0x1010, 2, 8)] on : State), by decide +kernel⟩

def s_basicModeCommandsAndHeat_3 : State :=
  { sets [(0x1310, 1, 1000)] on with thr := { fa := 0, prog := 4, fab := 4 } }

theorem witness_BasicModeCommandsAndHeat_3 : ∃ (s : State), hot s = true ∧ atFloor s = true ∧ s.pwr.mainRails = true :=
  ⟨s_basicModeCommandsAndHeat_3, by decide +kernel, by decide +kernel, by decide +kernel⟩

def s_basicModeCommandsAndHeat_4 : State :=
  { sets [(0x1010, 2, 20)] on with pwr := { on.pwr with ps := 2, psBeforeThermal := some 1 } }

theorem witness_BasicModeCommandsAndHeat_4 : ∃ (s : State), cool s = true ∧ bitOf (obj s 0x1010 2) 2 = true :=
  ⟨s_basicModeCommandsAndHeat_4, by decide +kernel, by decide +kernel⟩

def s_tileRecoveryAndHbmFaults_1 : State :=
  { on with tier := { on.tier with objects := [ob 5], tiles := [{ t1 5 0 with fetching := true, inT1 := false }] } }

def u_tileRecoveryAndHbmFaults_1 : Tile :=
  got (findTile s_tileRecoveryAndHbmFaults_1 5 0)

def v_tileRecoveryAndHbmFaults_1 : Tile :=
  framed s_tileRecoveryAndHbmFaults_1 (tileOf s_tileRecoveryAndHbmFaults_1 5 0)

theorem witness_TileRecoveryAndHbmFaults_1 : ∃ (s : State) (o : Nat) (i : Nat) (u : Tile) (v : Tile), findTile s o i = some u ∧ u.fetching = true ∧ fetchRead s u = true ∧ v = framed s (tileOf s o i) ∧ u.inT1 = false ∧ cacheUsed s + tileBytes (tileOf s o i) ≤ cacheMiB s * 2 ^ 20 ∧ s.tier.waits = [] :=
  ⟨s_tileRecoveryAndHbmFaults_1, 5, 0, u_tileRecoveryAndHbmFaults_1, v_tileRecoveryAndHbmFaults_1, by decide +kernel, by decide +kernel, by decide +kernel, rfl, by decide +kernel, by decide +kernel, by decide +kernel⟩

def s_tileRecoveryAndHbmFaults_2 : State :=
  { on with tier := { on.tier with objects := [ob 5], tiles := [{ t1 5 0 with fetching := true, inT1 := false }] } }

def u_tileRecoveryAndHbmFaults_2 : Tile :=
  got (findTile s_tileRecoveryAndHbmFaults_2 5 0)

def v_tileRecoveryAndHbmFaults_2 : Tile :=
  framed s_tileRecoveryAndHbmFaults_2 (tileOf s_tileRecoveryAndHbmFaults_2 5 0)

theorem witness_TileRecoveryAndHbmFaults_2 : ∃ (s : State) (o : Nat) (i : Nat) (u : Tile) (v : Tile), findTile s o i = some u ∧ u.fetching = true ∧ fetchRead s u = true ∧ v = framed s (tileOf s o i) ∧ u.inT1 = false ∧ cacheUsed s + tileBytes (tileOf s o i) ≤ cacheMiB s * 2 ^ 20 ∧ s.tier.waits = [] :=
  ⟨s_tileRecoveryAndHbmFaults_2, 5, 0, u_tileRecoveryAndHbmFaults_2, v_tileRecoveryAndHbmFaults_2, by decide +kernel, by decide +kernel, by decide +kernel, rfl, by decide +kernel, by decide +kernel, by decide +kernel⟩

def s_tileRecoveryAndHbmFaults_3 : State :=
  { on with tier := { on.tier with objects := [ob 5], tiles := [{ t1 5 0 with fetching := true, poison := true }] } }

def u_tileRecoveryAndHbmFaults_3 : Tile :=
  got (findTile s_tileRecoveryAndHbmFaults_3 5 0)

def v_tileRecoveryAndHbmFaults_3 : Tile :=
  framed s_tileRecoveryAndHbmFaults_3 (tileOf s_tileRecoveryAndHbmFaults_3 5 0)

theorem witness_TileRecoveryAndHbmFaults_3 : ∃ (s : State) (o : Nat) (i : Nat) (u : Tile) (v : Tile), findTile s o i = some u ∧ u.fetching = true ∧ fetchRead s u = true ∧ v = framed s (tileOf s o i) ∧ u.inT1 = true ∧ u.poison = true ∧ u.dirty = false :=
  ⟨s_tileRecoveryAndHbmFaults_3, 5, 0, u_tileRecoveryAndHbmFaults_3, v_tileRecoveryAndHbmFaults_3, by decide +kernel, by decide +kernel, by decide +kernel, rfl, by decide +kernel, by decide +kernel, by decide +kernel⟩

def s_tileRecoveryAndHbmFaults_4 : State :=
  { on with tier := { on.tier with objects := [ob 5], tiles := [{ t1 5 0 with fetching := true }] } }

def u_tileRecoveryAndHbmFaults_4 : Tile :=
  got (findTile s_tileRecoveryAndHbmFaults_4 5 0)

def v_tileRecoveryAndHbmFaults_4 : Tile :=
  framed s_tileRecoveryAndHbmFaults_4 (tileOf s_tileRecoveryAndHbmFaults_4 5 0)

theorem witness_TileRecoveryAndHbmFaults_4 : ∃ (s : State) (o : Nat) (i : Nat) (u : Tile) (v : Tile), findTile s o i = some u ∧ u.fetching = true ∧ fetchRead s u = true ∧ v = framed s (tileOf s o i) ∧ u.inT1 = true ∧ (u.poison = false ∨ u.dirty = true) :=
  ⟨s_tileRecoveryAndHbmFaults_4, 5, 0, u_tileRecoveryAndHbmFaults_4, v_tileRecoveryAndHbmFaults_4, by decide +kernel, by decide +kernel, by decide +kernel, rfl, by decide +kernel, by decide +kernel⟩

def s_tileRecoveryAndHbmFaults_5 : State :=
  let s := { on with tier := { on.tier with objects := [ob 5], tiles := [{ t1 5 0 with fetching := true, inT1 := false }] } }; sets [(0x2201, 1, 100)] s

def u_tileRecoveryAndHbmFaults_5 : Tile :=
  got (findTile s_tileRecoveryAndHbmFaults_5 5 0)

def v_tileRecoveryAndHbmFaults_5 : Tile :=
  framed s_tileRecoveryAndHbmFaults_5 (tileOf s_tileRecoveryAndHbmFaults_5 5 0)

theorem witness_TileRecoveryAndHbmFaults_5 : ∃ (s : State) (o : Nat) (i : Nat) (u : Tile) (v : Tile), findTile s o i = some u ∧ u.fetching = true ∧ fetchRead s u = true ∧ v = framed s (tileOf s o i) ∧ u.inT1 = false ∧ v.reserved = false ∧ cacheMiB s * 2 ^ 20 < cacheUsed s + tileBytes v ∧ (∀ x ∈ s.tier.tiles, mayEvict s x = false) :=
  ⟨s_tileRecoveryAndHbmFaults_5, 5, 0, u_tileRecoveryAndHbmFaults_5, v_tileRecoveryAndHbmFaults_5, by decide +kernel, by decide +kernel, by decide +kernel, rfl, by decide +kernel, by decide +kernel, by decide +kernel, by decide +kernel⟩

theorem witness_TileRecoveryAndHbmFaults_9 : ∃ (s : State) (k : Nat), k < 8 ∧ k ∉ s.integ.failedStacks :=
  ⟨on, 7, by decide +kernel, by decide +kernel⟩

theorem witness_SingleFaultsAreContained_1 : ∃ (s : State) (c : Instr) (p : Nat), (c = .hoopLockstepMismatch p ∧ p < 2 ∨ c = .hoopOscillatorLoss ∧ p = s.integ.hoopActive) :=
  ⟨on, (.hoopLockstepMismatch 0 : Instr), 0, by decide +kernel⟩

theorem witness_SingleFaultsAreContained_2 : ∃ (s : State), s.integ.refLost = false :=
  ⟨on, by decide +kernel⟩

theorem witness_SingleFaultsAreContained_3 : ∃ (s : State) (c : _), c < 272 ∧ c ∉ s.integ.failedCells :=
  ⟨on, 271, by decide +kernel, by decide +kernel⟩

def s_singleFaultsAreContained_4 : State :=
  { on with integ := { on.integ with coreExpiries := [(3, 1), (19, 1)] }, time := 10 }

def u_singleFaultsAreContained_4 : State :=
  { s_singleFaultsAreContained_4 with integ := { s_singleFaultsAreContained_4.integ with coreExpiries := kvPut 0 s_singleFaultsAreContained_4.integ.coreExpiries (s_singleFaultsAreContained_4.time * 16 + 3) 1 } }

theorem witness_SingleFaultsAreContained_4 : ∃ (s : State) (u : State) (c : _), c < 16 ∧ c ∉ s.integ.coresOut ∧ s.pwr.ps < 3 ∧ u = { s with integ := { s.integ with coreExpiries := kvPut 0 s.integ.coreExpiries (s.time * 16 + c) 1 } } :=
  ⟨s_singleFaultsAreContained_4, u_singleFaultsAreContained_4, 3, by decide +kernel, by decide +kernel, by decide +kernel, rfl⟩

theorem witness_SingleFaultsAreContained_5 : ∃ (s : State) (c : _), c < 64 ∧ channelFailed s c = false ∧ s.pwr.ps < 3 :=
  ⟨on, 63, by decide +kernel, by decide +kernel, by decide +kernel⟩

theorem witness_ArrayTestAndHbmRetirement_1 : ∃ (s : State), s.jobs.owner = none ∧ (∀ a ∈ s.dict.acting, a.kind ≠ 1) :=
  ⟨on, by decide +kernel, by decide +kernel⟩

def s_arrayTestAndHbmRetirement_2 : State :=
  { on with jobs := { on.jobs with owner := some 1 } }

theorem witness_ArrayTestAndHbmRetirement_2 : ∃ (s : State) (j : Nat), s.jobs.owner = some j :=
  ⟨s_arrayTestAndHbmRetirement_2, 1, by decide +kernel⟩

theorem witness_ArrayTestAndHbmRetirement_4 : ∃ (s : State) (c : Instr) (k : Nat) (p : Nat) (ps : List Nat), obj s 0x2310 1 < 2 ^ 39 ∧ k = obj s 0x2310 1 / 2 ^ 36 ∧ p = obj s 0x2310 1 % 2 ^ 36 / 65536 ∧ (c = .hbmRetirePage ∧ ps = [p].filter (fun q => !(retiredOf s k).contains q) ∨ c = .hbmRetireBank ∧ ps = ((List.range 1024).map fun n => n * 1024 + p % 1024).filter (fun q => !(retiredOf s k).contains q)) ∧ (retiredOf s k).length + ps.length ≤ 4096 :=
  ⟨on, .hbmRetirePage, (obj on 0x2310 1 / 2 ^ 36 : Nat), (obj on 0x2310 1 % 2 ^ 36 / 65536 : Nat), ([0] : List Nat), by decide +kernel, rfl, rfl, by decide +kernel, by decide +kernel⟩

def s_suspensionAndFirmwareFlash_1 : State :=
  { on with nand := { on.nand with dieOps := [{ channel := 63, die := 19, erase := true, sb := 0, unit := 0, susp := 0 }], reads := [physAddr 63 19 0 1 5] } }

def o_suspensionAndFirmwareFlash_1 : DieOp :=
  got (dieOp s_suspensionAndFirmwareFlash_1 63 19)

theorem witness_SuspensionAndFirmwareFlash_1 : ∃ (s : State) (c : Nat) (d : Nat) (o : DieOp), dieOp s c d = some o ∧ o.susp = 0 ∧ readsAt s c d ≠ [] :=
  ⟨s_suspensionAndFirmwareFlash_1, 63, 19, o_suspensionAndFirmwareFlash_1, by decide +kernel, by decide +kernel, by decide +kernel⟩

def s_suspensionAndFirmwareFlash_2 : State :=
  { on with nand := { on.nand with dieOps := [{ channel := 63, die := 19, erase := true, sb := 0, unit := 0, susp := 1 }], reads := [] } }

def o_suspensionAndFirmwareFlash_2 : DieOp :=
  got (dieOp s_suspensionAndFirmwareFlash_2 63 19)

theorem witness_SuspensionAndFirmwareFlash_2 : ∃ (s : State) (c : Nat) (d : Nat) (o : DieOp), dieOp s c d = some o ∧ o.susp = 1 :=
  ⟨s_suspensionAndFirmwareFlash_2, 63, 19, o_suspensionAndFirmwareFlash_2, by decide +kernel, by decide +kernel⟩

def s_suspensionAndFirmwareFlash_3 : State :=
  { on with nand := { on.nand with dieOps := [{ channel := 63, die := 19, erase := true, sb := 0, unit := 0, susp := 2 }], reads := [physAddr 63 19 0 1 5] } }

def o_suspensionAndFirmwareFlash_3 : DieOp :=
  got (dieOp s_suspensionAndFirmwareFlash_3 63 19)

theorem witness_SuspensionAndFirmwareFlash_3 : ∃ (s : State) (c : Nat) (d : Nat) (o : DieOp), dieOp s c d = some o ∧ o.susp = 2 :=
  ⟨s_suspensionAndFirmwareFlash_3, 63, 19, o_suspensionAndFirmwareFlash_3, by decide +kernel, by decide +kernel⟩

theorem witness_SuspensionAndFirmwareFlash_4 : ∃ (s : State) (j : FwJob) (n : Nat), s.fw.job = some j ∧ n = stagedLength s ∧ j.phase = 2 :=
  ⟨(fwOn 2 true : State), got ((fwOn 2 true : State).fw.job), (stagedLength (fwOn 2 true : State) : Nat), by decide +kernel, rfl, by decide +kernel⟩

theorem witness_SuspensionAndFirmwareFlash_5 : ∃ (s : State) (j : FwJob) (n : Nat), s.fw.job = some j ∧ n = stagedLength s ∧ j.phase = 3 ∧ (j.pos + 1 < (n + 255) / 256 ∨ j.readBackOk = true) :=
  ⟨(fwOn 3 true : State), got ((fwOn 3 true : State).fw.job), (stagedLength (fwOn 3 true : State) : Nat), by decide +kernel, rfl, by decide +kernel, by decide +kernel⟩

def x_suspensionAndFirmwareFlash_6 : Inflight :=
  got (inflight? (fwOn 3 false : State) (got ((fwOn 3 false : State).fw.job)).fn (got ((fwOn 3 false : State).fw.job)).sq (got ((fwOn 3 false : State).fw.job)).cid)

theorem witness_SuspensionAndFirmwareFlash_6 : ∃ (s : State) (j : FwJob) (x : Inflight), s.fw.job = some j ∧ j.phase = 3 ∧ (stagedLength s + 255) / 256 ≤ j.pos + 1 ∧ j.readBackOk = false ∧ inflight? s j.fn j.sq j.cid = some x :=
  ⟨(fwOn 3 false : State), got ((fwOn 3 false : State).fw.job), x_suspensionAndFirmwareFlash_6, by decide +kernel, by decide +kernel, by decide +kernel, by decide +kernel, by decide +kernel⟩

def x_suspensionAndFirmwareFlash_7 : Inflight :=
  got (inflight? (fwOn 0 true : State) (got ((fwOn 0 true : State).fw.job)).fn (got ((fwOn 0 true : State).fw.job)).sq (got ((fwOn 0 true : State).fw.job)).cid)

def k_suspensionAndFirmwareFlash_7 : Bank :=
  ({ header := memRead (fwOn 0 true : State).fw.staged 0 128, digest := sha256 (memRead (fwOn 0 true : State).fw.staged 0 (stagedLength (fwOn 0 true : State))), sig := (got ((fwOn 0 true : State).fw.job)).sig, commit := some (1 + max ((fwOn 0 true : State).fw.bankA.commit.getD 0) ((fwOn 0 true : State).fw.bankB.commit.getD 0)) } : Bank)

theorem witness_SuspensionAndFirmwareFlash_7 : ∃ (s : State) (j : FwJob) (x : Inflight) (k : Bank), s.fw.job = some j ∧ j.phase ≠ 2 ∧ j.phase ≠ 3 ∧ inflight? s j.fn j.sq j.cid = some x ∧ k = ({ header := memRead s.fw.staged 0 128, digest := sha256 (memRead s.fw.staged 0 (stagedLength s)), sig := j.sig, commit := some (1 + max (s.fw.bankA.commit.getD 0) (s.fw.bankB.commit.getD 0)) } : Bank) :=
  ⟨(fwOn 0 true : State), got ((fwOn 0 true : State).fw.job), x_suspensionAndFirmwareFlash_7, k_suspensionAndFirmwareFlash_7, by decide +kernel, by decide +kernel, by decide +kernel, by decide +kernel, rfl⟩

theorem witness_SuspensionAndFirmwareFlash_8 : ∃ (s : State), s.fw.job = none :=
  ⟨on, by decide +kernel⟩

theorem witness_SuspensionAndFirmwareFlash_9 : ∃ (s : State) (a : Nat), sequencerBusy s = true ∧ a / 2 ^ 26 % 2 ≠ s.fw.active :=
  ⟨(fwOn 2 true : State), (2 ^ 26 : Nat), by decide +kernel, by decide +kernel⟩

theorem witness_SuspensionAndFirmwareFlash_10 : ∃ (s : State) (a : Nat), (sequencerBusy s = false ∨ a / 2 ^ 26 % 2 = s.fw.active) :=
  ⟨on, 0, by decide +kernel⟩

def s_journalAndPrograms_1 : State :=
  { on with blk := { on.blk with jbuf := [je9] } }

theorem witness_JournalAndPrograms_1 : ∃ (s : State), s.blk.segs.all (·.verified) = true ∧ (s.blk.jbuf ≠ [] ∨ ∃ g ∈ s.blk.segs, g.entries ≠ []) :=
  ⟨s_journalAndPrograms_1, by decide +kernel, by decide +kernel⟩

theorem witness_JournalAndPrograms_2 : ∃ (s : State), ¬(s.blk.segs.all (·.verified) = true ∧ (s.blk.jbuf ≠ [] ∨ ∃ g ∈ s.blk.segs, g.entries ≠ [])) :=
  ⟨on, by decide +kernel⟩

def u_journalAndPrograms_3 : ProgUnit :=
  got ((segOn.blk.units.find? fun u => u.seg == some (got (segOn.blk.segs.getLast?)).seq && (got (segOn.blk.segs.getLast?)).unit == some u.phys))

def b_journalAndPrograms_3 : Superblock :=
  got (findSb segOn u_journalAndPrograms_3.sb)

theorem witness_JournalAndPrograms_3 : ∃ (s : State) (g : Segment) (u : ProgUnit) (b : Superblock) (low : List (Bool × Nat)) (high : List (Bool × Nat)), s.blk.segs.getLast? = some g ∧ g.verified = false ∧ (s.blk.units.find? fun u => u.seg == some g.seq && g.unit == some u.phys) = some u ∧ findSb s u.sb = some b ∧ u.waiting = false ∧ unitSuspended s u = false ∧ (failedPlanes u.threshold low = [] ∨ failedPlanes u.threshold high = []) :=
  ⟨segOn, got (segOn.blk.segs.getLast?), u_journalAndPrograms_3, b_journalAndPrograms_3, ([] : List (Bool × Nat)), ([(false, 0)] : List (Bool × Nat)), by decide +kernel, by decide +kernel, by decide +kernel, by decide +kernel, by decide +kernel, by decide +kernel, by decide +kernel⟩

def u_journalAndPrograms_4 : ProgUnit :=
  got ((segOn.blk.units.find? fun u => u.seg == some (got (segOn.blk.segs.getLast?)).seq && (got (segOn.blk.segs.getLast?)).unit == some u.phys))

def b_journalAndPrograms_4 : Superblock :=
  got (findSb segOn u_journalAndPrograms_4.sb)

def m_journalAndPrograms_4 : Member :=
  got (b_journalAndPrograms_4.member u_journalAndPrograms_4.ch)

theorem witness_JournalAndPrograms_4 : ∃ (s : State) (g : Segment) (u : ProgUnit) (b : Superblock) (m : Member) (low : List (Bool × Nat)) (high : List (Bool × Nat)), s.blk.segs.getLast? = some g ∧ g.verified = false ∧ (s.blk.units.find? fun u => u.seg == some g.seq && g.unit == some u.phys) = some u ∧ findSb s u.sb = some b ∧ u.waiting = false ∧ unitSuspended s u = false ∧ b.member u.ch = some m ∧ failedPlanes u.threshold low ≠ [] ∧ failedPlanes u.threshold high ≠ [] :=
  ⟨segOn, got (segOn.blk.segs.getLast?), u_journalAndPrograms_4, b_journalAndPrograms_4, m_journalAndPrograms_4, ([(true, 101)] : List (Bool × Nat)), ([(false, 0)] : List (Bool × Nat)), by decide +kernel, by decide +kernel, by decide +kernel, by decide +kernel, by decide +kernel, by decide +kernel, by decide +kernel, by decide +kernel, by decide +kernel⟩

theorem witness_JournalAndPrograms_5 : ∃ (s : State) (k : Nat), s.blk.ckptNew = none ∧ k = (obj s 0x2100 3 + 1) % 80 ∧ (takeMeta 64 sliceUnits s).isSome = true :=
  ⟨on, ((obj on 0x2100 3 + 1) % 80 : Nat), by decide +kernel, rfl, by decide +kernel⟩

def s_journalAndPrograms_6 : State :=
  { on with blk := { on.blk with ckptNew := some { slice := 1, seq := 0, sbs := [], first := 0, data := [], counts := [], floor := 0 } } }

theorem witness_JournalAndPrograms_6 : ∃ (s : State), s.blk.ckptNew.isSome = true :=
  ⟨s_journalAndPrograms_6, by decide +kernel⟩

def s_journalAndPrograms_7 : State :=
  let s := flashOn [sb 1] [pg9] on; { s with blk := { s.blk with units := [unit9], map := [(9, 0)] } }

def u_journalAndPrograms_7 : ProgUnit :=
  got ((s_journalAndPrograms_7.blk.units.find? fun u => u.phys == unit9.phys && !s_journalAndPrograms_7.blk.segs.any fun g => !g.verified && g.unit == some unit9.phys))

def b_journalAndPrograms_7 : Superblock :=
  got (findSb s_journalAndPrograms_7 u_journalAndPrograms_7.sb)

def m_journalAndPrograms_7 : Member :=
  got (b_journalAndPrograms_7.member u_journalAndPrograms_7.ch)

theorem witness_JournalAndPrograms_7 : ∃ (s : State) (phys : Nat) (u : ProgUnit) (b : Superblock) (m : Member) (planes : List (Bool × Nat)) (other : List (Bool × Nat)), (s.blk.units.find? fun u => u.phys == phys && !s.blk.segs.any fun g => !g.verified && g.unit == some phys) = some u ∧ findSb s u.sb = some b ∧ b.member u.ch = some m ∧ u.waiting = false ∧ unitSuspended s u = false ∧ u.parity = false ∧ u.seg = none ∧ failedPlanes u.threshold planes = [] ∧ (u.locked = true → failedPlanes u.threshold other = []) ∧ (u.pages.map (·.lpn)).Nodup ∧ (∀ q ∈ s.blk.pail, q.group = none) :=
  ⟨s_journalAndPrograms_7, unit9.phys, u_journalAndPrograms_7, b_journalAndPrograms_7, m_journalAndPrograms_7, ([] : List (Bool × Nat)), ([] : List (Bool × Nat)), by decide +kernel, by decide +kernel, by decide +kernel, by decide +kernel, by decide +kernel, by decide +kernel, by decide +kernel, by decide +kernel, by decide +kernel, by decide +kernel, by decide +kernel⟩

def s_journalAndPrograms_8 : State :=
  let s := flashOn [sb 1] [pg9] on; { s with blk := { s.blk with units := [unit9], map := [(9, 0)] } }

def u_journalAndPrograms_8 : ProgUnit :=
  got ((s_journalAndPrograms_8.blk.units.find? fun u => u.phys == unit9.phys && !s_journalAndPrograms_8.blk.segs.any fun g => !g.verified && g.unit == some unit9.phys))

def b_journalAndPrograms_8 : Superblock :=
  got (findSb s_journalAndPrograms_8 u_journalAndPrograms_8.sb)

def m_journalAndPrograms_8 : Member :=
  got (b_journalAndPrograms_8.member u_journalAndPrograms_8.ch)

theorem witness_JournalAndPrograms_8 : ∃ (s : State) (phys : Nat) (u : ProgUnit) (b : Superblock) (m : Member) (planes : List (Bool × Nat)) (other : List (Bool × Nat)), (s.blk.units.find? fun u => u.phys == phys && !s.blk.segs.any fun g => !g.verified && g.unit == some phys) = some u ∧ findSb s u.sb = some b ∧ b.member u.ch = some m ∧ u.waiting = false ∧ unitSuspended s u = false ∧ (failedPlanes u.threshold planes ≠ [] ∨ u.locked = true ∧ failedPlanes u.threshold other ≠ []) :=
  ⟨s_journalAndPrograms_8, unit9.phys, u_journalAndPrograms_8, b_journalAndPrograms_8, m_journalAndPrograms_8, ([(false, 0)] : List (Bool × Nat)), ([] : List (Bool × Nat)), by decide +kernel, by decide +kernel, by decide +kernel, by decide +kernel, by decide +kernel, by decide +kernel⟩

def s_mergeReadsAndHousekeeping_1 : State :=
  let s := flashOn [sb 2] [{ pg9 with quarters := 3 }] on; { s with blk := { s.blk with merges := [9] } }

def p_mergeReadsAndHousekeeping_1 : PailPage :=
  got (s_mergeReadsAndHousekeeping_1.blk.pail.find? (·.lpn == 9))

theorem witness_MergeReadsAndHousekeeping_1 : ∃ (s : State) (l : Nat) (p : PailPage), s.blk.merges.contains l = true ∧ lineWaits s l = false ∧ s.blk.pail.find? (·.lpn == l) = some p :=
  ⟨s_mergeReadsAndHousekeeping_1, 9, p_mergeReadsAndHousekeeping_1, by decide +kernel, by decide +kernel, by decide +kernel⟩

def s_mergeReadsAndHousekeeping_2 : State :=
  { on with blk := { on.blk with merges := [9], badLines := [0] } }

theorem witness_MergeReadsAndHousekeeping_2 : ∃ (s : State) (l : Nat), s.blk.merges.contains l = true ∧ lineWaits s l = true :=
  ⟨s_mergeReadsAndHousekeeping_2, 9, by decide +kernel, by decide +kernel⟩

def s_mergeReadsAndHousekeeping_3 : State :=
  flashOn [sb 2] [] (sets [(0x2104, 1, 60000)] on)

theorem witness_MergeReadsAndHousekeeping_3 : ∃ (s : State) (b : Superblock), s.blk.gcReads = [] ∧ s.blk.gcBuf = [] ∧ s.blk.urgent = [] ∧ s.blk.victim = none ∧ findSb s b.id = some b ∧ b.st = 2 ∧ (if freeCount s < obj s 0x2104 1 ∨ ∃ q ∈ s.blk.sbs, (q.queued = true ∨ q.refresh = true) ∧ mayEmpty s q = true then pickVictim s s.blk.sbs = some b else 300 < wearSpread s ∧ wearVictim s.blk.sbs = some b) :=
  ⟨s_mergeReadsAndHousekeeping_3, (sb 2 : Superblock), by decide +kernel, by decide +kernel, by decide +kernel, by decide +kernel, by decide +kernel, by decide +kernel, by decide +kernel⟩

def s_mergeReadsAndHousekeeping_4 : State :=
  { on with blk := { on.blk with urgent := [3] } }

theorem witness_MergeReadsAndHousekeeping_4 : ∃ (s : State), s.blk.gcReads = [] ∧ s.blk.gcBuf = [] ∧ s.blk.urgent ≠ [] :=
  ⟨s_mergeReadsAndHousekeeping_4, by decide +kernel, by decide +kernel, by decide +kernel⟩

def s_mergeReadsAndHousekeeping_5 : State :=
  let s := flashOn [sb 4] [] on; { s with nand := { s.nand with dieOps := [{ channel := 0, die := 0, erase := true, sb := 0, unit := 0, susp := 0 }] } }

def b_mergeReadsAndHousekeeping_5 : Superblock :=
  got (findSb s_mergeReadsAndHousekeeping_5 0)

def chs_mergeReadsAndHousekeeping_5 : List Nat :=
  ((s_mergeReadsAndHousekeeping_5.nand.dieOps.filter fun o => o.erase && o.sb == 0 && o.susp != 2).map (·.channel))

def us_mergeReadsAndHousekeeping_5 : List (Nat × Nat) :=
  (((b_mergeReadsAndHousekeeping_5.members.filter fun m => chs_mergeReadsAndHousekeeping_5.contains m.ch).flatMap Member.units).filter fun u => !blockBad s_mergeReadsAndHousekeeping_5 u.1 u.2)

theorem witness_MergeReadsAndHousekeeping_5 : ∃ (s : State) (k : Nat) (b : Superblock) (chs : List Nat) (us : List (Nat × Nat)), findSb s k = some b ∧ b.st = 4 ∧ chs = ((s.nand.dieOps.filter fun o => o.erase && o.sb == k && o.susp != 2).map (·.channel)) ∧ chs ≠ [] ∧ us = (((b.members.filter fun m => chs.contains m.ch).flatMap Member.units).filter fun u => !blockBad s u.1 u.2) :=
  ⟨s_mergeReadsAndHousekeeping_5, 0, b_mergeReadsAndHousekeeping_5, chs_mergeReadsAndHousekeeping_5, us_mergeReadsAndHousekeeping_5, by decide +kernel, by decide +kernel, rfl, by decide +kernel, rfl⟩

theorem witness_MergeReadsAndHousekeeping_6 : ∃ (s : State) (c : Nat) (d : Nat), c < 64 ∧ d < 20 ∧ dieFailed s c d = false :=
  ⟨(flashOn [sb 2] [] on : State), 0, 0, by decide +kernel, by decide +kernel, by decide +kernel⟩

def s_mergeReadsAndHousekeeping_7 : State :=
  let s := flashOn [sb 2] [] on; { s with nand := { s.nand with pages := [(unit9.phys, page9)] } }

def b_mergeReadsAndHousekeeping_7 : Superblock :=
  got (sbAt s_mergeReadsAndHousekeeping_7 unit9.phys)

theorem witness_MergeReadsAndHousekeeping_7 : ∃ (s : State) (a : Nat) (b : Superblock), sbAt s a = some b ∧ (b.st = 1 ∨ b.st = 2 ∨ b.st = 5) ∧ (pageAt s a).isSome ∧ blockBad s (physUnit a) (physBlock a) = false :=
  ⟨s_mergeReadsAndHousekeeping_7, unit9.phys, b_mergeReadsAndHousekeeping_7, by decide +kernel, by decide +kernel, by decide +kernel, by decide +kernel⟩

def s_mergeReadsAndHousekeeping_8 : State :=
  let s := flashOn [sb 4] [] on; { s with nand := { s.nand with pages := [(unit9.phys, page9)] } }

def b_mergeReadsAndHousekeeping_8 : Superblock :=
  got (sbAt s_mergeReadsAndHousekeeping_8 unit9.phys)

theorem witness_MergeReadsAndHousekeeping_8 : ∃ (s : State) (a : Nat) (b : Superblock), sbAt s a = some b ∧ b.st ≠ 1 ∧ b.st ≠ 2 ∧ b.st ≠ 5 ∧ a ≠ physAddr 63 19 3 2729 1535 :=
  ⟨s_mergeReadsAndHousekeeping_8, unit9.phys, b_mergeReadsAndHousekeeping_8, by decide +kernel, by decide +kernel, by decide +kernel, by decide +kernel, by decide +kernel⟩

def x_readsAndDieReads_1 : Inflight :=
  got (startable ({ ioE with cdw10 := 99 } : Sqe) 2 (onNs (inF 0 1 7 2 on) : State))

def n_readsAndDieReads_1 : Ns :=
  okOf (ioCheck (onNs (inF 0 1 7 2 on) : State) ({ ioE with cdw10 := 99 } : Sqe) (slba ({ ioE with cdw10 := 99 } : Sqe)) (nlb ({ ioE with cdw10 := 99 } : Sqe)))

def ps_readsAndDieReads_1 : List (Nat × Nat × Nat) :=
  piecesOf n_readsAndDieReads_1 (slba ({ ioE with cdw10 := 99 } : Sqe) * n_readsAndDieReads_1.block) (nlb ({ ioE with cdw10 := 99 } : Sqe) * n_readsAndDieReads_1.block)

theorem witness_ReadsAndDieReads_1 : ∃ (s : State) (e : Sqe) (x : Inflight) (n : Ns) (ps : List (Nat × Nat × Nat)), startable e 2 s = some x ∧ x.got = [] ∧ isCompute s e.fn e.sq = false ∧ s.blk.sanitize = none ∧ ioCheck s e (slba e) (nlb e) = .ok n ∧ nlb e * n.block ≤ mdts ∧ ps = piecesOf n (slba e * n.block) (nlb e * n.block) ∧ (ps.all fun p => !lineWaits s p.1 && (needsDie s p.1).isNone) = true :=
  ⟨(onNs (inF 0 1 7 2 on) : State), ({ ioE with cdw10 := 99 } : Sqe), x_readsAndDieReads_1, n_readsAndDieReads_1, ps_readsAndDieReads_1, by decide +kernel, by decide +kernel, by decide +kernel, by decide +kernel, okOf_ok _, by decide +kernel, rfl, by decide +kernel⟩

def s_readsAndDieReads_2 : State :=
  let s := onNs (inF 0 1 7 2 on); { s with blk := { s.blk with map := [(3, mapEntry false false 0 unit9.phys)] }, nand := { s.nand with pages := [(unit9.phys, page9)] } }

def x_readsAndDieReads_2 : Inflight :=
  got (startable ({ ioE with cdw10 := 3 } : Sqe) 2 s_readsAndDieReads_2)

def n_readsAndDieReads_2 : Ns :=
  okOf (ioCheck s_readsAndDieReads_2 ({ ioE with cdw10 := 3 } : Sqe) (slba ({ ioE with cdw10 := 3 } : Sqe)) (nlb ({ ioE with cdw10 := 3 } : Sqe)))

def ps_readsAndDieReads_2 : List (Nat × Nat × Nat) :=
  piecesOf n_readsAndDieReads_2 (slba ({ ioE with cdw10 := 3 } : Sqe) * n_readsAndDieReads_2.block) (nlb ({ ioE with cdw10 := 3 } : Sqe) * n_readsAndDieReads_2.block)

theorem witness_ReadsAndDieReads_2 : ∃ (s : State) (e : Sqe) (x : Inflight) (n : Ns) (ps : List (Nat × Nat × Nat)), startable e 2 s = some x ∧ isCompute s e.fn e.sq = false ∧ s.blk.sanitize = none ∧ ioCheck s e (slba e) (nlb e) = .ok n ∧ nlb e * n.block ≤ mdts ∧ ps = piecesOf n (slba e * n.block) (nlb e * n.block) ∧ (∃ p ∈ ps, lineWaits s p.1 = true ∨ (needsDie s p.1).isSome) :=
  ⟨s_readsAndDieReads_2, ({ ioE with cdw10 := 3 } : Sqe), x_readsAndDieReads_2, n_readsAndDieReads_2, ps_readsAndDieReads_2, by decide +kernel, by decide +kernel, by decide +kernel, okOf_ok _, by decide +kernel, rfl, by decide +kernel⟩

def w_readsAndDieReads_3 : List CwResult :=
  [{ step := 1 }, { step := 2 }, { step := 1 }, { step := 1 }]

theorem witness_ReadsAndDieReads_3 : ∃ (s : State) (a : Nat) (w : List CwResult) (b : Superblock) (pg : Page), pageAt s a = some pg ∧ sbAt s a = some b ∧ b.stream ≠ 6 ∧ dieServes s (physChannel a) (physDie a) a = true ∧ inErase b a = false ∧ w.any (·.parity) = false :=
  ⟨reading, unit9.phys, w_readsAndDieReads_3, got (sbAt reading unit9.phys), got (pageAt reading unit9.phys), by decide +kernel, by decide +kernel, by decide +kernel, by decide +kernel, by decide +kernel, by decide +kernel⟩

def s_readsAndDieReads_4 : State :=
  let s := let s := flashOn [sb 2] [] on; { s with nand := { s.nand with pages := [(unit9.phys, page9)] } }; { s with nand := { s.nand with rebuilds := [{ phys := unit9.phys, cws := [1] }] } }

def r_readsAndDieReads_4 : Rebuild :=
  got (s_readsAndDieReads_4.nand.rebuilds.find? (·.phys == unit9.phys))

def b_readsAndDieReads_4 : Superblock :=
  got (sbAt s_readsAndDieReads_4 unit9.phys)

theorem witness_ReadsAndDieReads_4 : ∃ (s : State) (a : Nat) (r : Rebuild) (b : Superblock), s.nand.rebuilds.find? (·.phys == a) = some r ∧ sbAt s a = some b ∧ dieLost s (physChannel a) (physDie a) = false ∧ (∀ x ∈ stripeMates s b a, blockKey x ≠ blockKey a) :=
  ⟨s_readsAndDieReads_4, unit9.phys, r_readsAndDieReads_4, b_readsAndDieReads_4, by decide +kernel, by decide +kernel, by decide +kernel, by decide +kernel⟩

def s_readsAndDieReads_5 : State :=
  { on with blk := { on.blk with badLines := [5] } }

theorem witness_ReadsAndDieReads_5 : ∃ (s : State) (l : Nat), s.blk.badLines.contains l = true :=
  ⟨s_readsAndDieReads_5, 5, by decide +kernel⟩

def x_writesEnterThePail_1 : Inflight :=
  got (startable ({ ioE with cdw10 := 99 } : Sqe) 1 (inF 0 1 7 1 cached : State))

def n_writesEnterThePail_1 : Ns :=
  okOf (ioCheck (inF 0 1 7 1 cached : State) ({ ioE with cdw10 := 99 } : Sqe) (slba ({ ioE with cdw10 := 99 } : Sqe)) (nlb ({ ioE with cdw10 := 99 } : Sqe)))

def ps_writesEnterThePail_1 : List (Nat × Nat × Nat) :=
  piecesOf n_writesEnterThePail_1 (slba ({ ioE with cdw10 := 99 } : Sqe) * n_writesEnterThePail_1.block) (nlb ({ ioE with cdw10 := 99 } : Sqe) * n_writesEnterThePail_1.block)

def w_writesEnterThePail_1 : Bytes :=
  slice ([1] : Bytes) 0 (nlb ({ ioE with cdw10 := 99 } : Sqe) * n_writesEnterThePail_1.block)

theorem witness_WritesEnterThePail_1 : ∃ (s : State) (e : Sqe) (x : Inflight) (n : Ns) (buf : Bytes) (ps : List (Nat × Nat × Nat)) (w : Bytes), startable e 1 s = some x ∧ isCompute s e.fn e.sq = false ∧ s.blk.sanitize = none ∧ ioCheck s e (slba e) (nlb e) = .ok n ∧ nlb e * n.block ≤ mdts ∧ dtype e = 0 ∧ readOnly s = false ∧ writeRoom n e s = true ∧ ps = piecesOf n (slba e * n.block) (nlb e * n.block) ∧ w = slice buf 0 (nlb e * n.block) :=
  ⟨(inF 0 1 7 1 cached : State), ({ ioE with cdw10 := 99 } : Sqe), x_writesEnterThePail_1, n_writesEnterThePail_1, ([1] : Bytes), ps_writesEnterThePail_1, w_writesEnterThePail_1, by decide +kernel, by decide +kernel, by decide +kernel, okOf_ok _, by decide +kernel, by decide +kernel, by decide +kernel, by decide +kernel, rfl, rfl⟩

def x_writesEnterThePail_2 : Inflight :=
  got (startable ({ ioE with cdw10 := 99 } : Sqe) 1 (fullPail (inF 0 1 7 1 cached) : State))

def n_writesEnterThePail_2 : Ns :=
  okOf (ioCheck (fullPail (inF 0 1 7 1 cached) : State) ({ ioE with cdw10 := 99 } : Sqe) (slba ({ ioE with cdw10 := 99 } : Sqe)) (nlb ({ ioE with cdw10 := 99 } : Sqe)))

theorem witness_WritesEnterThePail_2 : ∃ (s : State) (e : Sqe) (x : Inflight) (n : Ns), startable e 1 s = some x ∧ isCompute s e.fn e.sq = false ∧ s.blk.sanitize = none ∧ ioCheck s e (slba e) (nlb e) = .ok n ∧ nlb e * n.block ≤ mdts ∧ dtype e = 0 ∧ readOnly s = false ∧ writeRoom n e s = false :=
  ⟨(fullPail (inF 0 1 7 1 cached) : State), ({ ioE with cdw10 := 99 } : Sqe), x_writesEnterThePail_2, n_writesEnterThePail_2, by decide +kernel, by decide +kernel, by decide +kernel, okOf_ok _, by decide +kernel, by decide +kernel, by decide +kernel, by decide +kernel⟩

def s_writesEnterThePail_3 : State :=
  { cached with host := { cached.host with inflight := [{ fl 0 1 7 1 with started := true, space := true, buf := [1], ranges := [(0, 4096)], entry := some { ioE with cdw10 := 99 } }] } }

def x_writesEnterThePail_3 : Inflight :=
  got ((s_writesEnterThePail_3.host.inflight.find? fun x => x.started && (x.space || x.tiles != []) && !isCompute s_writesEnterThePail_3 x.fn x.sq))

def n_writesEnterThePail_3 : Ns :=
  got (nsOf s_writesEnterThePail_3 (got (x_writesEnterThePail_3.entry)).fn (got (x_writesEnterThePail_3.entry)).nsid)

def ps_writesEnterThePail_3 : List (Nat × Nat × Nat) :=
  piecesOf n_writesEnterThePail_3 (slba (got (x_writesEnterThePail_3.entry)) * n_writesEnterThePail_3.block) (nlb (got (x_writesEnterThePail_3.entry)) * n_writesEnterThePail_3.block)

theorem witness_WritesEnterThePail_3 : ∃ (s : State) (x : Inflight) (e : Sqe) (n : Ns) (ps : List (Nat × Nat × Nat)), (s.host.inflight.find? fun x => x.started && (x.space || x.tiles != []) && !isCompute s x.fn x.sq) = some x ∧ x.tiles = [] ∧ x.entry = some e ∧ nsOf s e.fn e.nsid = some n ∧ readOnly s = false ∧ x.opc = 1 ∧ writeRoom n e s = true ∧ ps = piecesOf n (slba e * n.block) (nlb e * n.block) :=
  ⟨s_writesEnterThePail_3, x_writesEnterThePail_3, got (x_writesEnterThePail_3.entry), n_writesEnterThePail_3, ps_writesEnterThePail_3, by decide +kernel, by decide +kernel, by decide +kernel, by decide +kernel, by decide +kernel, by decide +kernel, by decide +kernel, rfl⟩

def s_writesEnterThePail_4 : State :=
  { cached with host := { cached.host with inflight := [{ fl 0 1 7 8 with started := true, space := true, buf := [1], ranges := [(0, 4096)], entry := some { ioE with cdw10 := 99 } }] } }

def x_writesEnterThePail_4 : Inflight :=
  got ((s_writesEnterThePail_4.host.inflight.find? fun x => x.started && (x.space || x.tiles != []) && !isCompute s_writesEnterThePail_4 x.fn x.sq))

def n_writesEnterThePail_4 : Ns :=
  got (nsOf s_writesEnterThePail_4 (got (x_writesEnterThePail_4.entry)).fn (got (x_writesEnterThePail_4.entry)).nsid)

theorem witness_WritesEnterThePail_4 : ∃ (s : State) (x : Inflight) (e : Sqe) (n : Ns), (s.host.inflight.find? fun x => x.started && (x.space || x.tiles != []) && !isCompute s x.fn x.sq) = some x ∧ x.tiles = [] ∧ x.entry = some e ∧ nsOf s e.fn e.nsid = some n ∧ readOnly s = false ∧ x.opc ≠ 1 ∧ deallocRoom n x.ranges s = true :=
  ⟨s_writesEnterThePail_4, x_writesEnterThePail_4, got (x_writesEnterThePail_4.entry), n_writesEnterThePail_4, by decide +kernel, by decide +kernel, by decide +kernel, by decide +kernel, by decide +kernel, by decide +kernel, by decide +kernel⟩

def s_writesEnterThePail_5 : State :=
  let s := { cached with host := { cached.host with inflight := [{ fl 0 1 7 1 with started := true, space := true, buf := [1], ranges := [(0, 4096)], entry := some { ioE with cdw10 := 99 } }] } }; readOnlyNow s

def x_writesEnterThePail_5 : Inflight :=
  got ((s_writesEnterThePail_5.host.inflight.find? fun x => x.started && (x.space || x.tiles != []) && !isCompute s_writesEnterThePail_5 x.fn x.sq))

def n_writesEnterThePail_5 : Ns :=
  got (nsOf s_writesEnterThePail_5 (got (x_writesEnterThePail_5.entry)).fn (got (x_writesEnterThePail_5.entry)).nsid)

theorem witness_WritesEnterThePail_5 : ∃ (s : State) (x : Inflight) (e : Sqe) (n : Ns), (s.host.inflight.find? fun x => x.started && (x.space || x.tiles != []) && !isCompute s x.fn x.sq) = some x ∧ x.tiles = [] ∧ x.entry = some e ∧ nsOf s e.fn e.nsid = some n ∧ readOnly s = true ∧ inflight? s e.fn e.sq e.cid = some x :=
  ⟨s_writesEnterThePail_5, x_writesEnterThePail_5, got (x_writesEnterThePail_5.entry), n_writesEnterThePail_5, by decide +kernel, by decide +kernel, by decide +kernel, by decide +kernel, by decide +kernel, by decide +kernel⟩

def x_deallocationFlushAndWrongSet_1 : Inflight :=
  got (startable ({ ioE with cdw10 := 99 } : Sqe) 8 (inF 0 1 7 8 cached : State))

def n_deallocationFlushAndWrongSet_1 : Ns :=
  okOf (ioCheck (inF 0 1 7 8 cached : State) ({ ioE with cdw10 := 99 } : Sqe) (slba ({ ioE with cdw10 := 99 } : Sqe)) (nlb ({ ioE with cdw10 := 99 } : Sqe)))

theorem witness_DeallocationFlushAndWrongSet_1 : ∃ (s : State) (e : Sqe) (x : Inflight) (n : Ns), startable e 8 s = some x ∧ isCompute s e.fn e.sq = false ∧ s.blk.sanitize = none ∧ ioCheck s e (slba e) (nlb e) = .ok n ∧ readOnly s = false ∧ deallocRoom n [(slba e * n.block, nlb e * n.block)] s = true :=
  ⟨(inF 0 1 7 8 cached : State), ({ ioE with cdw10 := 99 } : Sqe), x_deallocationFlushAndWrongSet_1, n_deallocationFlushAndWrongSet_1, by decide +kernel, by decide +kernel, by decide +kernel, okOf_ok _, by decide +kernel, by decide +kernel⟩

def x_deallocationFlushAndWrongSet_2 : Inflight :=
  got (startable ioE 9 (inF 0 1 7 9 cached : State))

def n_deallocationFlushAndWrongSet_2 : Ns :=
  okOf (ioCheck (inF 0 1 7 9 cached : State) ioE 0 0)

theorem witness_DeallocationFlushAndWrongSet_2 : ∃ (s : State) (e : Sqe) (x : Inflight) (n : Ns), startable e 9 s = some x ∧ isCompute s e.fn e.sq = false ∧ s.blk.sanitize = none ∧ ioCheck s e 0 0 = .ok n ∧ bitOf e.cdw11 2 = false :=
  ⟨(inF 0 1 7 9 cached : State), ioE, x_deallocationFlushAndWrongSet_2, n_deallocationFlushAndWrongSet_2, by decide +kernel, by decide +kernel, by decide +kernel, okOf_ok _, by decide +kernel⟩

def x_deallocationFlushAndWrongSet_3 : Inflight :=
  got (startable ({ ioE with cdw11 := 4 } : Sqe) 9 (inF 0 1 7 9 cached : State))

def n_deallocationFlushAndWrongSet_3 : Ns :=
  okOf (ioCheck (inF 0 1 7 9 cached : State) ({ ioE with cdw11 := 4 } : Sqe) 0 0)

def bs_deallocationFlushAndWrongSet_3 : List (Nat × Nat) :=
  ((([(0, 100)] : List (Nat × Nat)).filter (·.2 != 0)).map fun r => (r.1 * n_deallocationFlushAndWrongSet_3.block, r.2 * n_deallocationFlushAndWrongSet_3.block))

theorem witness_DeallocationFlushAndWrongSet_3 : ∃ (s : State) (e : Sqe) (x : Inflight) (n : Ns) (rs : List (Nat × Nat)) (bs : List (Nat × Nat)), startable e 9 s = some x ∧ isCompute s e.fn e.sq = false ∧ s.blk.sanitize = none ∧ ioCheck s e 0 0 = .ok n ∧ bitOf e.cdw11 2 = true ∧ rs.all (fun r => decide (r.1 + r.2 ≤ n.nsze)) = true ∧ readOnly s = false ∧ bs = ((rs.filter (·.2 != 0)).map fun r => (r.1 * n.block, r.2 * n.block)) ∧ deallocRoom n bs s = true :=
  ⟨(inF 0 1 7 9 cached : State), ({ ioE with cdw11 := 4 } : Sqe), x_deallocationFlushAndWrongSet_3, n_deallocationFlushAndWrongSet_3, ([(0, 100)] : List (Nat × Nat)), bs_deallocationFlushAndWrongSet_3, by decide +kernel, by decide +kernel, by decide +kernel, okOf_ok _, by decide +kernel, by decide +kernel, by decide +kernel, rfl, by decide +kernel⟩

def x_deallocationFlushAndWrongSet_4 : Inflight :=
  got (startable ioE 0 (inF 0 1 7 0 cached : State))

def ns_deallocationFlushAndWrongSet_4 : List Ns :=
  ((inF 0 1 7 0 cached : State).host.namespaces.filter fun n => n.ctrls.contains ioE.fn && (ioE.nsid == 0xFFFFFFFF || n.id == ioE.nsid))

def rs_deallocationFlushAndWrongSet_4 : List (Nat × Nat) :=
  ((pendingChanges (inF 0 1 7 0 cached : State).blk).filter fun r => (ns_deallocationFlushAndWrongSet_4.flatMap (·.aus)).any fun a => decide (r.1 < a * 65536 + 65536) && decide (a * 65536 < r.1 + r.2))

theorem witness_DeallocationFlushAndWrongSet_4 : ∃ (s : State) (e : Sqe) (x : Inflight) (ns : List Ns) (rs : List (Nat × Nat)), startable e 0 s = some x ∧ flushHeld e s = false ∧ isCompute s e.fn e.sq = false ∧ s.blk.sanitize = none ∧ e.rsvd = false ∧ e.fuse = 0 ∧ e.psdt ≠ 3 ∧ ns = (s.host.namespaces.filter fun n => n.ctrls.contains e.fn && (e.nsid == 0xFFFFFFFF || n.id == e.nsid)) ∧ (ns ≠ [] ∨ e.nsid = 0xFFFFFFFF) ∧ (e.nsid = 0xFFFFFFFF → tilesToFlush s e.fn = []) ∧ rs = ((pendingChanges s.blk).filter fun r => (ns.flatMap (·.aus)).any fun a => decide (r.1 < a * 65536 + 65536) && decide (a * 65536 < r.1 + r.2)) :=
  ⟨(inF 0 1 7 0 cached : State), ioE, x_deallocationFlushAndWrongSet_4, ns_deallocationFlushAndWrongSet_4, rs_deallocationFlushAndWrongSet_4, by decide +kernel, by decide +kernel, by decide +kernel, by decide +kernel, by decide +kernel, by decide +kernel, by decide +kernel, rfl, by decide +kernel, by decide +kernel, rfl⟩

def x_deallocationFlushAndWrongSet_5 : Inflight :=
  got (startable ioE 3 (inF 0 1 7 3 on : State))

theorem witness_DeallocationFlushAndWrongSet_5 : ∃ (s : State) (e : Sqe) (x : Inflight) (opc : Nat), startable e opc s = some x ∧ isCompute s e.fn e.sq = false ∧ e.sq ≠ 0 ∧ opc ∉ [0, 1, 2, 8, 9] :=
  ⟨(inF 0 1 7 3 on : State), ioE, x_deallocationFlushAndWrongSet_5, 3, by decide +kernel, by decide +kernel, by decide +kernel, by decide +kernel⟩

def q_deallocationFlushAndWrongSet_6 : Sq :=
  got (findSq (cq 0 on : State) bkE.fn bkE.sq)

theorem witness_DeallocationFlushAndWrongSet_6 : ∃ (s : State) (e : Sqe) (x : Inflight) (q : Sq) (opc : Nat), startable e opc s = some x ∧ isCompute s e.fn e.sq = true ∧ opc ∉ [0x81, 0x82, 0x85, 0x89, 0x8D, 0x91, 0x94] ∧ findSq s e.fn e.sq = some q :=
  ⟨(cq 0 on : State), bkE, got (startable bkE 0 (cq 0 on : State)), q_deallocationFlushAndWrongSet_6, 0, by decide +kernel, by decide +kernel, by decide +kernel, by decide +kernel⟩

def j_arrayLoadOperations_1 : Job :=
  got (issuable 0x21 (dsc [(0, 1, 0x21), (4, 1, 2)] : Bytes) (running (dsc [(0, 1, 0x21), (4, 1, 2)]) : State))

theorem witness_ArrayLoadOperations_1 : ∃ (s : State) (d : Bytes) (j : Job), issuable 0x21 d s = some j :=
  ⟨(running (dsc [(0, 1, 0x21), (4, 1, 2)]) : State), (dsc [(0, 1, 0x21), (4, 1, 2)] : Bytes), j_arrayLoadOperations_1, by decide +kernel⟩

def s_arrayLoadOperations_2 : State :=
  runSram (dsc [(0, 1, 0x22), (4, 1, 63), (12, 4, 4032)]) [(63 * 64, bytesOf 40 [(0, 2, 1), (2, 2, 1), (4, 2, 1)])]

def d_arrayLoadOperations_2 : Bytes :=
  dsc [(0, 1, 0x22), (4, 1, 63), (12, 4, 4032)]

def j_arrayLoadOperations_2 : Job :=
  got (issuable 0x22 d_arrayLoadOperations_2 s_arrayLoadOperations_2)

theorem witness_ArrayLoadOperations_2 : ∃ (s : State) (d : Bytes) (j : Job), issuable 0x22 d s = some j ∧ (∀ c ∈ leftCells s s.arr.shape, sramBad s c (field d 12 4 % 2 ^ 21) 40 = false ∧ patOk (sramRead s c (field d 12 4 % 2 ^ 21) 40) = true ∧ (sramRead s c (field d 12 4 % 2 ^ 21) 40).take 28 = (sramRead s ((leftCells s s.arr.shape).headD 0) (field d 12 4 % 2 ^ 21) 40).take 28) :=
  ⟨s_arrayLoadOperations_2, d_arrayLoadOperations_2, j_arrayLoadOperations_2, by decide +kernel, by decide +kernel⟩

def d_arrayLoadOperations_3 : Bytes :=
  dsc [(0, 1, 0x23), (1, 1, 3), (12, 4, 0)]

def j_arrayLoadOperations_3 : Job :=
  got (issuable 0x23 d_arrayLoadOperations_3 scaled)

def bf_arrayLoadOperations_3 : Bool :=
  bitOf (field d_arrayLoadOperations_3 1 1) 1

def n_arrayLoadOperations_3 : Nat :=
  (if bf_arrayLoadOperations_3 then 128 else 256)

theorem witness_ArrayLoadOperations_3 : ∃ (s : State) (d : Bytes) (j : Job) (kind : Nat) (bf : Bool) (n : Nat), issuable 0x23 d s = some j ∧ kind = field d 1 1 % 2 ∧ bf = bitOf (field d 1 1) 1 ∧ n = (if bf then 128 else 256) ∧ (∀ c ∈ activeCells s, sramBad s c (field d 12 4 % 2 ^ 21) n = false ∧ ∀ v ∈ scaleVals bf (sramRead s c (field d 12 4 % 2 ^ 21) n), scaleOk v = true) :=
  ⟨scaled, d_arrayLoadOperations_3, j_arrayLoadOperations_3, (field d_arrayLoadOperations_3 1 1 % 2 : Nat), bf_arrayLoadOperations_3, n_arrayLoadOperations_3, by decide +kernel, rfl, rfl, rfl, scales_ok⟩

def s_arrayLoadOperations_4 : State :=
  running (dsc [(0, 1, 0x24), (4, 1, 15), (12, 4, 1024)])

def d_arrayLoadOperations_4 : Bytes :=
  dsc [(0, 1, 0x24), (4, 1, 15), (12, 4, 1024)]

def j_arrayLoadOperations_4 : Job :=
  got (issuable 0x24 d_arrayLoadOperations_4 s_arrayLoadOperations_4)

theorem witness_ArrayLoadOperations_4 : ∃ (s : State) (d : Bytes) (j : Job), issuable 0x24 d s = some j ∧ (∀ c ∈ activeCells s, sramBad s c (field d 12 4 % 2 ^ 21) 1024 = false ∧ ∀ i < 64, rescaleOk (((sramRead s c (field d 12 4 % 2 ^ 21) 1024).drop (16 * i)).take 16) = true) :=
  ⟨s_arrayLoadOperations_4, d_arrayLoadOperations_4, j_arrayLoadOperations_4, by decide +kernel, rescales_ok⟩

def s_vectorUnitOperations_1 : State :=
  runSram (dsc [(0, 1, 0x41), (2, 1, 0x10), (3, 1, 0x10), (4, 2, 1), (6, 2, 4), (8, 2, 1), (12, 4, 0), (20, 4, 64)]) [(0, bytesOf 16 [(0, 4, 0x3F800000), (4, 4, 0x40000000)])]

def d_vectorUnitOperations_1 : Bytes :=
  dsc [(0, 1, 0x41), (2, 1, 0x10), (3, 1, 0x10), (4, 2, 1), (6, 2, 4), (8, 2, 1), (12, 4, 0), (20, 4, 64)]

def j_vectorUnitOperations_1 : Job :=
  got (issuable 0x41 d_vectorUnitOperations_1 s_vectorUnitOperations_1)

theorem witness_VectorUnitOperations_1 : ∃ (s : State) (d : Bytes) (j : Job) (v : Vdesc), issuable 0x41 d s = some j ∧ v = parseVec d ∧ sumBad s v = false :=
  ⟨s_vectorUnitOperations_1, d_vectorUnitOperations_1, j_vectorUnitOperations_1, (parseVec d_vectorUnitOperations_1 : Vdesc), by decide +kernel, rfl, by decide +kernel⟩

def s_vectorUnitOperations_2 : State :=
  runSram (dsc [(0, 1, 0x42), (2, 1, 0x10), (3, 1, 0x10), (4, 2, 1), (6, 2, 4), (8, 2, 1), (12, 4, 0), (20, 4, 64)]) [(0, bytesOf 16 [(0, 4, 0x3F800000), (4, 4, 0x40000000)])]

def d_vectorUnitOperations_2 : Bytes :=
  dsc [(0, 1, 0x42), (2, 1, 0x10), (3, 1, 0x10), (4, 2, 1), (6, 2, 4), (8, 2, 1), (12, 4, 0), (20, 4, 64)]

def j_vectorUnitOperations_2 : Job :=
  got (issuable 0x42 d_vectorUnitOperations_2 s_vectorUnitOperations_2)

theorem witness_VectorUnitOperations_2 : ∃ (s : State) (d : Bytes) (j : Job) (v : Vdesc), issuable 0x42 d s = some j ∧ v = parseVec d ∧ sumBad s v = false :=
  ⟨s_vectorUnitOperations_2, d_vectorUnitOperations_2, j_vectorUnitOperations_2, (parseVec d_vectorUnitOperations_2 : Vdesc), by decide +kernel, rfl, by decide +kernel⟩

def s_vectorUnitOperations_3 : State :=
  runSram (dsc [(0, 1, 0x43), (2, 1, 0x10), (3, 1, 0x10), (4, 2, 1), (6, 2, 4), (8, 2, 1), (12, 4, 0), (20, 4, 64), (1, 1, 0)]) [(0, bytesOf 16 [(0, 4, 0x3F800000), (4, 4, 0x40000000)])]

def d_vectorUnitOperations_3 : Bytes :=
  dsc [(0, 1, 0x43), (2, 1, 0x10), (3, 1, 0x10), (4, 2, 1), (6, 2, 4), (8, 2, 1), (12, 4, 0), (20, 4, 64), (1, 1, 0)]

def j_vectorUnitOperations_3 : Job :=
  got (issuable 0x43 d_vectorUnitOperations_3 s_vectorUnitOperations_3)

def op_vectorUnitOperations_3 : Nat :=
  (parseVec d_vectorUnitOperations_3 : Vdesc).func % 16

def scalar_vectorUnitOperations_3 : Bool :=
  bitOf (parseVec d_vectorUnitOperations_3 : Vdesc).func 7

theorem witness_VectorUnitOperations_3 : ∃ (s : State) (d : Bytes) (j : Job) (v : Vdesc) (op : Nat) (scalar : Bool), issuable 0x43 d s = some j ∧ v = parseVec d ∧ op = v.func % 16 ∧ scalar = bitOf v.func 7 ∧ operandBad s v v.sf v.src = false ∧ (scalar = false → operandBad s v v.sf v.src2 = false) ∧ (op = 2 → operandBad s v v.df v.dst = false) :=
  ⟨s_vectorUnitOperations_3, d_vectorUnitOperations_3, j_vectorUnitOperations_3, (parseVec d_vectorUnitOperations_3 : Vdesc), op_vectorUnitOperations_3, scalar_vectorUnitOperations_3, by decide +kernel, rfl, rfl, rfl, by decide +kernel, by decide +kernel, by decide +kernel⟩

def s_vectorUnitOperations_4 : State :=
  runSram (dsc [(0, 1, 0x44), (2, 1, 0x10), (3, 1, 0x10), (4, 2, 1), (6, 2, 4), (8, 2, 1), (12, 4, 0), (20, 4, 64)]) [(0, bytesOf 16 [(0, 4, 0x3F800000), (4, 4, 0x40000000)])]

def d_vectorUnitOperations_4 : Bytes :=
  dsc [(0, 1, 0x44), (2, 1, 0x10), (3, 1, 0x10), (4, 2, 1), (6, 2, 4), (8, 2, 1), (12, 4, 0), (20, 4, 64)]

def j_vectorUnitOperations_4 : Job :=
  got (issuable 0x44 d_vectorUnitOperations_4 s_vectorUnitOperations_4)

theorem witness_VectorUnitOperations_4 : ∃ (s : State) (d : Bytes) (j : Job) (v : Vdesc), issuable 0x44 d s = some j ∧ v = parseVec d ∧ operandBad s v v.sf v.src = false :=
  ⟨s_vectorUnitOperations_4, d_vectorUnitOperations_4, j_vectorUnitOperations_4, (parseVec d_vectorUnitOperations_4 : Vdesc), by decide +kernel, rfl, by decide +kernel⟩

def s_vectorUnitOperations_5 : State :=
  runSram (dsc [(0, 1, 0x45), (2, 1, 0x10), (3, 1, 0x10), (4, 2, 1), (6, 2, 4), (8, 2, 1), (12, 4, 0), (20, 4, 64)]) [(0, bytesOf 16 [(0, 4, 0x3F800000), (4, 4, 0x40000000)])]

def d_vectorUnitOperations_5 : Bytes :=
  dsc [(0, 1, 0x45), (2, 1, 0x10), (3, 1, 0x10), (4, 2, 1), (6, 2, 4), (8, 2, 1), (12, 4, 0), (20, 4, 64)]

def j_vectorUnitOperations_5 : Job :=
  got (issuable 0x45 d_vectorUnitOperations_5 s_vectorUnitOperations_5)

theorem witness_VectorUnitOperations_5 : ∃ (s : State) (d : Bytes) (j : Job) (v : Vdesc), issuable 0x45 d s = some j ∧ v = parseVec d ∧ operandBad s v v.sf v.src = false :=
  ⟨s_vectorUnitOperations_5, d_vectorUnitOperations_5, j_vectorUnitOperations_5, (parseVec d_vectorUnitOperations_5 : Vdesc), by decide +kernel, rfl, by decide +kernel⟩

def s_vectorUnitOperations_6 : State :=
  runSram (dsc [(0, 1, 0x40), (2, 1, 0x10), (3, 1, 0x10), (4, 2, 1), (6, 2, 4), (8, 2, 1), (12, 4, 0), (20, 4, 64), (1, 1, 1)]) [(0, bytesOf 16 [(0, 4, 0x3F800000), (4, 4, 0x40000000)])]

def d_vectorUnitOperations_6 : Bytes :=
  dsc [(0, 1, 0x40), (2, 1, 0x10), (3, 1, 0x10), (4, 2, 1), (6, 2, 4), (8, 2, 1), (12, 4, 0), (20, 4, 64), (1, 1, 1)]

def j_vectorUnitOperations_6 : Job :=
  got (issuable 0x40 d_vectorUnitOperations_6 s_vectorUnitOperations_6)

def kind_vectorUnitOperations_6 : Nat :=
  bitsOf (parseVec d_vectorUnitOperations_6 : Vdesc).func 4 4

def axis_vectorUnitOperations_6 : Nat :=
  (parseVec d_vectorUnitOperations_6 : Vdesc).func % 4

def chans_vectorUnitOperations_6 : Nat :=
  (if axis_vectorUnitOperations_6 = 0 then (parseVec d_vectorUnitOperations_6 : Vdesc).rows else if axis_vectorUnitOperations_6 = 1 then (parseVec d_vectorUnitOperations_6 : Vdesc).cols else 1)

theorem witness_VectorUnitOperations_6 : ∃ (s : State) (d : Bytes) (j : Job) (v : Vdesc) (kind : Nat) (axis : Nat) (chans : Nat), issuable 0x40 d s = some j ∧ v = parseVec d ∧ kind = bitsOf v.func 4 4 ∧ axis = v.func % 4 ∧ chans = (if axis = 0 then v.rows else if axis = 1 then v.cols else 1) ∧ operandBad s v v.sf v.src = false :=
  ⟨s_vectorUnitOperations_6, d_vectorUnitOperations_6, j_vectorUnitOperations_6, (parseVec d_vectorUnitOperations_6 : Vdesc), kind_vectorUnitOperations_6, axis_vectorUnitOperations_6, chans_vectorUnitOperations_6, by decide +kernel, rfl, rfl, rfl, rfl, by decide +kernel⟩

def s_matrixMultiply_1 : State :=
  { running (dsc [(0, 1, 0x20), (2, 1, 0), (3, 1, 0), (4, 2, 1), (6, 2, 1), (8, 2, 1), (24, 4, 4096), (20, 4, 8192)]) with arr := { on.arr with patterns := memWrite [] 0 (bytesOf 40 [(0, 2, 1024), (2, 2, 1), (4, 2, 1)]) } }

def d_matrixMultiply_1 : Bytes :=
  dsc [(0, 1, 0x20), (2, 1, 0), (3, 1, 0), (4, 2, 1), (6, 2, 1), (8, 2, 1), (24, 4, 4096), (20, 4, 8192)]

def j_matrixMultiply_1 : Job :=
  got (issuable 0x20 d_matrixMultiply_1 s_matrixMultiply_1)

def u_matrixMultiply_1 : State :=
  parityHits ([] : List (Nat × Nat × Nat)) s_matrixMultiply_1

theorem witness_MatrixMultiply_1 : ∃ (s : State) (u : State) (d : Bytes) (parity : List (Nat × Nat × Nat)) (j : Job) (x : Mma) (k : Nat), issuable 0x20 d s = some j ∧ x = parseMma d ∧ u = parityHits parity s ∧ k = u.arr.shape ∧ (∀ p ∈ mmaParts u k x, ∀ i < mmaPasses u x k p, mmaPassReady u j x p i) ∧ (x.acc = true → ∀ p ∈ mmaParts u k x, ∀ m < x.m, ∀ n < x.n, ∀ c, c = (drainCells u k p).getD (n / 64) 0 → sramBad u c (wordAt x.sAddr m n) 4 = false ∧ (x.whey = true → sramBad u c (wordAt x.yAddr m n) 4 = false)) ∧ (∀ p ∈ mmaParts u k x, mmaApart u x p) ∧ regionsFit (mmaOuts x) :=
  ⟨s_matrixMultiply_1, u_matrixMultiply_1, d_matrixMultiply_1, ([] : List (Nat × Nat × Nat)), j_matrixMultiply_1, (parseMma d_matrixMultiply_1 : Mma), u_matrixMultiply_1.arr.shape, by decide +kernel, rfl, rfl, rfl, by
    intro p hp i hi; apply mmaPassReady_of; revert hi; revert i; revert hp; revert p; decide +kernel, by
    intro _ p hp m hm n hn c hc; subst hc; revert hn; revert n; revert hm; revert m; revert hp; revert p; decide +kernel, by
    intro p hp; apply mmaApart_of; revert hp; revert p; decide +kernel, regionsFit_of (by decide +kernel)⟩

def s_selectionOperations_1 : State :=
  runSram (dsc [(0, 1, 0x30), (1, 1, 0), (2, 1, 2), (4, 2, 1), (6, 2, 4), (8, 2, 1), (12, 4, 0), (16, 4, 4096), (20, 4, 8192), (24, 4, 16384)]) [(0, bytesOf 16 [(0, 4, 0x3F800000), (4, 4, 0x40000000)])]

def d_selectionOperations_1 : Bytes :=
  dsc [(0, 1, 0x30), (1, 1, 0), (2, 1, 2), (4, 2, 1), (6, 2, 4), (8, 2, 1), (12, 4, 0), (16, 4, 4096), (20, 4, 8192), (24, 4, 16384)]

def j_selectionOperations_1 : Job :=
  got (issuable 0x30 d_selectionOperations_1 s_selectionOperations_1)

def ty_selectionOperations_1 : Nat :=
  bitsOf (field d_selectionOperations_1 1 1 : Nat) 3 2

def src_selectionOperations_1 : Nat :=
  field d_selectionOperations_1 12 4 % 2 ^ 21

def idx_selectionOperations_1 : Nat :=
  field d_selectionOperations_1 16 4 % 2 ^ 21

def cnt_selectionOperations_1 : Nat :=
  field d_selectionOperations_1 20 4 % 2 ^ 21

def recs_selectionOperations_1 : Nat :=
  field d_selectionOperations_1 24 4 % 2 ^ 21

def groups_selectionOperations_1 : List (List Nat) :=
  skimGroups s_selectionOperations_1 (bitOf (field d_selectionOperations_1 1 1 : Nat) 5)

def cand_selectionOperations_1 : List Nat → Nat → List Cand :=
  (fun (g : List Nat) r => (g.mapIdx fun p c => skimCands s_selectionOperations_1 ty_selectionOperations_1 src_selectionOperations_1 (field d_selectionOperations_1 8 2) (field d_selectionOperations_1 6 2 : Nat) c ((field d_selectionOperations_1 6 2 : Nat) * p) r).flatten)

theorem witness_SelectionOperations_1 : ∃ (s : State) (d : Bytes) (j : Job) (f : Nat) (ty : Nat) (rows : Nat) (n : Nat) (k : Nat) (src : Nat) (idx : Nat) (cnt : Nat) (recs : Nat) (groups : List (List Nat)) (cand : List Nat → Nat → List Cand), issuable 0x30 d s = some j ∧ f = field d 1 1 ∧ ty = bitsOf f 3 2 ∧ k = field d 2 1 ∧ rows = field d 4 2 ∧ n = field d 6 2 ∧ src = field d 12 4 % 2 ^ 21 ∧ idx = field d 16 4 % 2 ^ 21 ∧ cnt = field d 20 4 % 2 ^ 21 ∧ recs = field d 24 4 % 2 ^ 21 ∧ groups = skimGroups s (bitOf f 5) ∧ cand = (fun (g : List Nat) r => (g.mapIdx fun p c => skimCands s ty src (field d 8 2) n c (n * p) r).flatten) ∧ (∀ g ∈ groups, ∀ c ∈ g, ∀ r < rows, sramBad s c (src + 64 * field d 8 2 * r) (scoreBytes ty * n) = false) :=
  ⟨s_selectionOperations_1, d_selectionOperations_1, j_selectionOperations_1, (field d_selectionOperations_1 1 1 : Nat), ty_selectionOperations_1, (field d_selectionOperations_1 4 2 : Nat), (field d_selectionOperations_1 6 2 : Nat), (field d_selectionOperations_1 2 1 : Nat), src_selectionOperations_1, idx_selectionOperations_1, cnt_selectionOperations_1, recs_selectionOperations_1, groups_selectionOperations_1, cand_selectionOperations_1, by decide +kernel, rfl, rfl, rfl, rfl, rfl, rfl, rfl, rfl, rfl, rfl, rfl, by decide +kernel⟩

def s_selectionOperations_2 : State :=
  runSram (dsc [(0, 1, 0x31), (1, 1, 0), (2, 1, 4), (3, 1, 1), (4, 1, 0), (8, 4, 0), (12, 4, 4096), (16, 4, 8192)]) [(0, natLE 4 64), (64, candList false 0 [{ score := 0x3F800000, index := 7, node := 0, source := 64, position := 0 }])]

def d_selectionOperations_2 : Bytes :=
  dsc [(0, 1, 0x31), (1, 1, 0), (2, 1, 4), (3, 1, 1), (4, 1, 0), (8, 4, 0), (12, 4, 4096), (16, 4, 8192)]

def lists_selectionOperations_2 : List (List Cand) :=
  [[{ score := 0x3F800000, index := 7, node := 0, source := 64, position := 0 }]]

def j_selectionOperations_2 : Job :=
  got (issuable 0x31 d_selectionOperations_2 s_selectionOperations_2)

def ty_selectionOperations_2 : Nat :=
  bitsOf (field d_selectionOperations_2 1 1 : Nat) 3 2

def smaller_selectionOperations_2 : Bool :=
  bitOf (field d_selectionOperations_2 1 1 : Nat) 1

def tab_selectionOperations_2 : Nat :=
  field d_selectionOperations_2 8 4 % 2 ^ 21

def offs_selectionOperations_2 : List Nat :=
  (List.range (field d_selectionOperations_2 3 1 : Nat)).map (fun i => sramNat s_selectionOperations_2 (field d_selectionOperations_2 4 1 : Nat) (tab_selectionOperations_2 + 4 * i) 4)

def lens_selectionOperations_2 : List Nat :=
  offs_selectionOperations_2.map (fun o => 64 + 32 * min 64 (sramNat s_selectionOperations_2 (field d_selectionOperations_2 4 1 : Nat) o 2))

theorem witness_SelectionOperations_2 : ∃ (s : State) (d : Bytes) (j : Job) (f : Nat) (ty : Nat) (smaller : Bool) (cell : Nat) (tab : Nat) (nl : Nat) (offs : List Nat) (lens : List Nat) (lists : List (List Cand)), issuable 0x31 d s = some j ∧ f = field d 1 1 ∧ ty = bitsOf f 3 2 ∧ smaller = bitOf f 1 ∧ cell = field d 4 1 ∧ cellIn s cell = true ∧ tab = field d 8 4 % 2 ^ 21 ∧ nl = field d 3 1 ∧ sramBad s cell tab (4 * nl) = false ∧ offs = (List.range nl).map (fun i => sramNat s cell (tab + 4 * i) 4) ∧ lens = offs.map (fun o => 64 + 32 * min 64 (sramNat s cell o 2)) ∧ (∀ o ∈ offs, o % 64 = 0 ∧ inArea s j.basket.cls o 64 = true ∧ sramBad s cell o 64 = false) ∧ (∀ x ∈ offs.zip lens, inArea s j.basket.cls x.1 x.2 = true ∧ sramBad s cell x.1 x.2 = false) ∧ (offs.zip lens).map (fun x => parseList smaller ty (sramRead s cell x.1 x.2)) = lists.map some :=
  ⟨s_selectionOperations_2, d_selectionOperations_2, j_selectionOperations_2, (field d_selectionOperations_2 1 1 : Nat), ty_selectionOperations_2, smaller_selectionOperations_2, (field d_selectionOperations_2 4 1 : Nat), tab_selectionOperations_2, (field d_selectionOperations_2 3 1 : Nat), offs_selectionOperations_2, lens_selectionOperations_2, lists_selectionOperations_2, by decide +kernel, rfl, rfl, rfl, rfl, by decide +kernel, rfl, rfl, by decide +kernel, rfl, rfl, by decide +kernel, by decide +kernel, by decide +kernel⟩

def s_selectionOperations_3 : State :=
  running (dsc [(0, 1, 0x32), (1, 1, 0), (2, 1, 1), (4, 2, 1), (6, 2, 1), (12, 4, 0), (16, 4, 4096), (20, 4, 8192)])

def d_selectionOperations_3 : Bytes :=
  dsc [(0, 1, 0x32), (1, 1, 0), (2, 1, 1), (4, 2, 1), (6, 2, 1), (12, 4, 0), (16, 4, 4096), (20, 4, 8192)]

def j_selectionOperations_3 : Job :=
  got (issuable 0x32 d_selectionOperations_3 s_selectionOperations_3)

def idx_selectionOperations_3 : Nat :=
  field d_selectionOperations_3 12 4 % 2 ^ 21

def src_selectionOperations_3 : Nat :=
  field d_selectionOperations_3 16 4 % 2 ^ 21

def dst_selectionOperations_3 : Nat :=
  field d_selectionOperations_3 20 4 % 2 ^ 21

def groups_selectionOperations_3 : List (List Nat) :=
  skimGroups s_selectionOperations_3 (bitOf (field d_selectionOperations_3 1 1) 0)

theorem witness_SelectionOperations_3 : ∃ (s : State) (d : Bytes) (j : Job) (k : Nat) (rows : Nat) (n : Nat) (idx : Nat) (src : Nat) (dst : Nat) (groups : List (List Nat)), issuable 0x32 d s = some j ∧ k = field d 2 1 ∧ rows = field d 4 2 ∧ n = field d 6 2 ∧ idx = field d 12 4 % 2 ^ 21 ∧ src = field d 16 4 % 2 ^ 21 ∧ dst = field d 20 4 % 2 ^ 21 ∧ groups = skimGroups s (bitOf (field d 1 1) 0) ∧ k ≤ 64 ∧ regionsFit [(idx, 256 * rows), (dst, 256 * rows)] ∧ (∀ g ∈ groups, ∀ r < rows, sramBad s (g.headD 0) (idx + 256 * r) (4 * k) = false ∧ ∀ i < k, sramNat s (g.headD 0) (idx + 256 * r + 4 * i) 4 = 0xFFFFFFFF ∨ sramNat s (g.headD 0) (idx + 256 * r + 4 * i) 4 < n * g.length) :=
  ⟨s_selectionOperations_3, d_selectionOperations_3, j_selectionOperations_3, (field d_selectionOperations_3 2 1 : Nat), (field d_selectionOperations_3 4 2 : Nat), (field d_selectionOperations_3 6 2 : Nat), idx_selectionOperations_3, src_selectionOperations_3, dst_selectionOperations_3, groups_selectionOperations_3, by decide +kernel, rfl, rfl, rfl, rfl, rfl, rfl, rfl, by decide +kernel, regionsFit_of (by decide +kernel), by decide +kernel⟩

def s_tileAndMeshMovesOperations_1 : State :=
  running (dsc [(0, 1, 0x50), (1, 1, 0), (2, 2, 1), (4, 4, 3), (8, 1, 0), (12, 4, 0)])

def d_tileAndMeshMovesOperations_1 : Bytes :=
  dsc [(0, 1, 0x50), (1, 1, 0), (2, 2, 1), (4, 4, 3), (8, 1, 0), (12, 4, 0)]

def j_tileAndMeshMovesOperations_1 : Job :=
  got (issuable 0x50 d_tileAndMeshMovesOperations_1 s_tileAndMeshMovesOperations_1)

def o_tileAndMeshMovesOperations_1 : PObj :=
  got (tileTarget s_tileAndMeshMovesOperations_1 j_tileAndMeshMovesOperations_1 d_tileAndMeshMovesOperations_1)

def mv_tileAndMeshMovesOperations_1 : List (Nat × Nat) :=
  tileMoves s_tileAndMeshMovesOperations_1 d_tileAndMeshMovesOperations_1

def addr_tileAndMeshMovesOperations_1 : Nat :=
  field d_tileAndMeshMovesOperations_1 12 4 % 2 ^ 21

theorem witness_TileAndMeshMovesOperations_1 : ∃ (s : State) (d : Bytes) (j : Job) (o : PObj) (mv : List (Nat × Nat)) (n : Nat) (addr : Nat), issuable 0x50 d s = some j ∧ tileTarget s j d = some o ∧ mv = tileMoves s d ∧ n = field d 2 2 ∧ addr = field d 12 4 % 2 ^ 21 ∧ (∀ m ∈ mv, cellIn s m.1 = true ∧ m.2 + n ≤ o.size) ∧ (∀ m ∈ mv, ∀ i < n, tileAway s (tileOf s o.id (m.2 + i)) = false ∧ needsFetch (tileOf s o.id (m.2 + i)) = false ∧ ((tileOf s o.id (m.2 + i)).poison = false ∨ isMx (tileOf s o.id (m.2 + i)).format = false)) :=
  ⟨s_tileAndMeshMovesOperations_1, d_tileAndMeshMovesOperations_1, j_tileAndMeshMovesOperations_1, o_tileAndMeshMovesOperations_1, mv_tileAndMeshMovesOperations_1, (field d_tileAndMeshMovesOperations_1 2 2 : Nat), addr_tileAndMeshMovesOperations_1, by decide +kernel, by decide +kernel, rfl, rfl, rfl, by decide +kernel, by decide +kernel⟩

def s_tileAndMeshMovesOperations_2 : State :=
  runSram (dsc [(0, 1, 0x51), (1, 1, 0), (2, 2, 1), (4, 4, 3), (8, 1, 0), (12, 4, 0)]) [(12, [0, 64, 64, 0])]

def d_tileAndMeshMovesOperations_2 : Bytes :=
  dsc [(0, 1, 0x51), (1, 1, 0), (2, 2, 1), (4, 4, 3), (8, 1, 0), (12, 4, 0)]

def j_tileAndMeshMovesOperations_2 : Job :=
  got (issuable 0x51 d_tileAndMeshMovesOperations_2 s_tileAndMeshMovesOperations_2)

def o_tileAndMeshMovesOperations_2 : PObj :=
  got (tileTarget s_tileAndMeshMovesOperations_2 j_tileAndMeshMovesOperations_2 d_tileAndMeshMovesOperations_2)

def mv_tileAndMeshMovesOperations_2 : List (Nat × Nat) :=
  tileMoves s_tileAndMeshMovesOperations_2 d_tileAndMeshMovesOperations_2

def addr_tileAndMeshMovesOperations_2 : Nat :=
  field d_tileAndMeshMovesOperations_2 12 4 % 2 ^ 21

def fl_tileAndMeshMovesOperations_2 : Nat :=
  frameLen o_tileAndMeshMovesOperations_2.format

theorem witness_TileAndMeshMovesOperations_2 : ∃ (s : State) (d : Bytes) (j : Job) (o : PObj) (mv : List (Nat × Nat)) (n : Nat) (addr : Nat) (fl : Nat), issuable 0x51 d s = some j ∧ tileTarget s j d = some o ∧ mv = tileMoves s d ∧ n = field d 2 2 ∧ addr = field d 12 4 % 2 ^ 21 ∧ fl = frameLen o.format ∧ (∀ m ∈ mv, cellIn s m.1 = true ∧ m.2 + n ≤ o.size) ∧ auditHeld s j.id 0 o.id = false ∧ (∀ m ∈ mv, ∀ i < n, (tileOf s o.id (m.2 + i)).node = ownNode s ∧ (tileOf s o.id (m.2 + i)).held = false ∧ needsFetch (tileOf s o.id (m.2 + i)) = false ∧ sramBad s m.1 (addr + i * fl + 12) 4 = false ∧ frameOk o (sramRead s m.1 (addr + i * fl + 12) 4) = true) :=
  ⟨s_tileAndMeshMovesOperations_2, d_tileAndMeshMovesOperations_2, j_tileAndMeshMovesOperations_2, o_tileAndMeshMovesOperations_2, mv_tileAndMeshMovesOperations_2, (field d_tileAndMeshMovesOperations_2 2 2 : Nat), addr_tileAndMeshMovesOperations_2, fl_tileAndMeshMovesOperations_2, by decide +kernel, by decide +kernel, rfl, rfl, rfl, rfl, by decide +kernel, by decide +kernel, by decide +kernel⟩

def s_tileAndMeshMovesOperations_3 : State :=
  runSram (dsc [(0, 1, 0x52), (8, 1, 0), (9, 1, 15), (12, 4, 4096), (16, 4, 0), (20, 4, 64)]) [(0, [1, 2, 3])]

def d_tileAndMeshMovesOperations_3 : Bytes :=
  dsc [(0, 1, 0x52), (8, 1, 0), (9, 1, 15), (12, 4, 4096), (16, 4, 0), (20, 4, 64)]

def j_tileAndMeshMovesOperations_3 : Job :=
  got (issuable 0x52 d_tileAndMeshMovesOperations_3 s_tileAndMeshMovesOperations_3)

def off_tileAndMeshMovesOperations_3 : Nat :=
  field d_tileAndMeshMovesOperations_3 16 4 % 2 ^ 21

def dst_tileAndMeshMovesOperations_3 : Nat :=
  field d_tileAndMeshMovesOperations_3 12 4 % 2 ^ 21

def n_tileAndMeshMovesOperations_3 : Nat :=
  field d_tileAndMeshMovesOperations_3 20 4

theorem witness_TileAndMeshMovesOperations_3 : ∃ (s : State) (d : Bytes) (j : Job) (a : Nat) (b : Nat) (off : Nat) (dst : Nat) (n : Nat), issuable 0x52 d s = some j ∧ a = field d 8 1 ∧ b = field d 9 1 ∧ off = field d 16 4 % 2 ^ 21 ∧ dst = field d 12 4 % 2 ^ 21 ∧ n = field d 20 4 ∧ cellIn s a = true ∧ cellIn s b = true :=
  ⟨s_tileAndMeshMovesOperations_3, d_tileAndMeshMovesOperations_3, j_tileAndMeshMovesOperations_3, (field d_tileAndMeshMovesOperations_3 8 1 : Nat), (field d_tileAndMeshMovesOperations_3 9 1 : Nat), off_tileAndMeshMovesOperations_3, dst_tileAndMeshMovesOperations_3, n_tileAndMeshMovesOperations_3, by decide +kernel, rfl, rfl, rfl, rfl, rfl, by decide +kernel, by decide +kernel⟩

def s_tileAndMeshMovesOperations_4 : State :=
  running (dsc [(0, 1, 0x58), (8, 1, 15), (12, 4, 0), (20, 4, 64)])

def d_tileAndMeshMovesOperations_4 : Bytes :=
  dsc [(0, 1, 0x58), (8, 1, 15), (12, 4, 0), (20, 4, 64)]

def j_tileAndMeshMovesOperations_4 : Job :=
  got (issuable 0x58 d_tileAndMeshMovesOperations_4 s_tileAndMeshMovesOperations_4)

def off_tileAndMeshMovesOperations_4 : Nat :=
  field d_tileAndMeshMovesOperations_4 12 4 % 2 ^ 21

def n_tileAndMeshMovesOperations_4 : Nat :=
  field d_tileAndMeshMovesOperations_4 20 4

theorem witness_TileAndMeshMovesOperations_4 : ∃ (s : State) (d : Bytes) (j : Job) (c : Nat) (off : Nat) (n : Nat), issuable 0x58 d s = some j ∧ c = field d 8 1 ∧ off = field d 12 4 % 2 ^ 21 ∧ n = field d 20 4 ∧ cellIn s c = true :=
  ⟨s_tileAndMeshMovesOperations_4, d_tileAndMeshMovesOperations_4, j_tileAndMeshMovesOperations_4, (field d_tileAndMeshMovesOperations_4 8 1 : Nat), off_tileAndMeshMovesOperations_4, n_tileAndMeshMovesOperations_4, by decide +kernel, rfl, rfl, rfl, by decide +kernel⟩

theorem witness_SynchronisationOperations_1 : ∃ (s : State) (w : SyncWho) (h : Nat) (n : Nat) (o : SyncObj), syncReady w h o s ∧ o.kind = 0 ∧ 1 ≤ n ∧ n ≤ 65535 ∧ o.waiters = [] ∧ n ≤ o.value :=
  ⟨(withSync (so 0 5) : State), (.remote 1 2 0 : SyncWho), 0x7FFF0003, 5, (so 0 5 : SyncObj), syncReady_of (by decide +kernel), by decide +kernel, by decide +kernel, by decide +kernel, by decide +kernel, by decide +kernel⟩

theorem witness_SynchronisationOperations_2 : ∃ (s : State) (w : SyncWho) (h : Nat) (n : Nat) (o : SyncObj), syncReady w h o s ∧ o.kind = 0 ∧ 1 ≤ n ∧ n ≤ 65535 ∧ (o.waiters ≠ [] ∨ o.value < n) :=
  ⟨(withSync (so 0 4) : State), (.remote 1 2 0 : SyncWho), 0x7FFF0003, 5, (so 0 4 : SyncObj), syncReady_of (by decide +kernel), by decide +kernel, by decide +kernel, by decide +kernel, by decide +kernel⟩

theorem witness_SynchronisationOperations_3 : ∃ (s : State) (w : SyncWho) (h : Nat) (n : Nat) (o : SyncObj), syncReady w h o s ∧ o.kind = 0 ∧ 1 ≤ n ∧ n ≤ 65535 ∧ o.value + n < 2 ^ 32 :=
  ⟨(withSync (so 0 4) : State), (.remote 1 2 0 : SyncWho), 0x7FFF0003, 65535, (so 0 4 : SyncObj), syncReady_of (by decide +kernel), by decide +kernel, by decide +kernel, by decide +kernel, by decide +kernel⟩

theorem witness_SynchronisationOperations_4 : ∃ (s : State) (w : SyncWho) (h : Nat) (o : SyncObj), syncReady w h o s ∧ o.kind = 1 :=
  ⟨(withSync (so 1 0) : State), (.remote 1 2 0 : SyncWho), 0x7FFF0003, (so 1 0 : SyncObj), syncReady_of (by decide +kernel), by decide +kernel⟩

theorem witness_SynchronisationOperations_5 : ∃ (s : State) (w : SyncWho) (h : Nat) (o : SyncObj), syncReady w h o s ∧ o.kind = 1 :=
  ⟨(withSync (so 1 1) : State), (.remote 1 2 0 : SyncWho), 0x7FFF0003, (so 1 1 : SyncObj), syncReady_of (by decide +kernel), by decide +kernel⟩

theorem witness_SynchronisationOperations_6 : ∃ (s : State) (w : SyncWho) (h : Nat) (o : SyncObj), syncReady w h o s ∧ o.kind = 1 ∧ o.value = 1 :=
  ⟨(withSync (so 1 1) : State), (.remote 1 2 0 : SyncWho), 0x7FFF0003, (so 1 1 : SyncObj), syncReady_of (by decide +kernel), by decide +kernel, by decide +kernel⟩

theorem witness_SynchronisationOperations_7 : ∃ (s : State) (w : SyncWho) (h : Nat) (o : SyncObj), syncReady w h o s ∧ o.kind = 1 ∧ o.value ≠ 1 :=
  ⟨(withSync (so 1 0) : State), (.remote 1 2 0 : SyncWho), 0x7FFF0003, (so 1 0 : SyncObj), syncReady_of (by decide +kernel), by decide +kernel, by decide +kernel⟩

theorem witness_SynchronisationOperations_8 : ∃ (s : State) (w : SyncWho) (h : Nat) (o : SyncObj), syncReady w h o s ∧ o.kind = 2 :=
  ⟨(withSync (so 2 0) : State), (.remote 1 2 0 : SyncWho), 0x7FFF0003, (so 2 0 : SyncObj), syncReady_of (by decide +kernel), by decide +kernel⟩

theorem witness_SynchronisationOperations_9 : ∃ (s : State) (w : SyncWho) (h : Nat) (o : SyncObj) (g : Nat), syncReady w h o s ∧ o.kind = 2 ∧ o.gen ≠ g :=
  ⟨(withSync (so 2 1) : State), (.remote 1 2 0 : SyncWho), 0x7FFF0003, (so 2 1 : SyncObj), 4, syncReady_of (by decide +kernel), by decide +kernel, by decide +kernel⟩

theorem witness_SynchronisationOperations_10 : ∃ (s : State) (w : SyncWho) (h : Nat) (o : SyncObj), syncReady w h o s ∧ o.kind = 2 :=
  ⟨(withSync (so 2 1) : State), (.remote 1 2 0 : SyncWho), 0x7FFF0003, (so 2 1 : SyncObj), syncReady_of (by decide +kernel), by decide +kernel⟩

theorem witness_SynchronisationOperations_11 : ∃ (s : State) (w : SyncWho) (h : Nat) (o : SyncObj), syncReady w h o s ∧ o.kind = 3 :=
  ⟨(withSync (so 3 4) : State), (.remote 1 2 0 : SyncWho), 0x7FFF0003, (so 3 4 : SyncObj), syncReady_of (by decide +kernel), by decide +kernel⟩

theorem witness_SynchronisationOperations_12 : ∃ (s : State) (w : SyncWho) (h : Nat) (o : SyncObj), syncReady w h o s ∧ o.kind = 3 :=
  ⟨(withSync (so 3 4) : State), (.remote 1 2 0 : SyncWho), 0x7FFF0003, (so 3 4 : SyncObj), syncReady_of (by decide +kernel), by decide +kernel⟩

theorem witness_SynchronisationOperations_13 : ∃ (s : State) (w : SyncWho) (h : Nat) (o : SyncObj) (v : Nat), syncReady w h o s ∧ o.kind = 3 ∧ v ≤ o.value :=
  ⟨(withSync (so 3 4) : State), (.remote 1 2 0 : SyncWho), 0x7FFF0003, (so 3 4 : SyncObj), 4, syncReady_of (by decide +kernel), by decide +kernel, by decide +kernel⟩

theorem witness_SynchronisationOperations_14 : ∃ (s : State) (w : SyncWho) (h : Nat) (o : SyncObj) (v : Nat), syncReady w h o s ∧ o.kind = 3 ∧ o.value < v :=
  ⟨(withSync (so 3 4) : State), (.remote 1 2 0 : SyncWho), 0x7FFF0003, (so 3 4 : SyncObj), 5, syncReady_of (by decide +kernel), by decide +kernel, by decide +kernel⟩

theorem witness_SynchronisationOperations_15 : ∃ (s : State) (w : SyncWho) (h : Nat) (o : SyncObj), syncReady w h o s ∧ o.kind = 3 :=
  ⟨(withSync (so 3 4) : State), (.remote 1 2 0 : SyncWho), 0x7FFF0003, (so 3 4 : SyncObj), syncReady_of (by decide +kernel), by decide +kernel⟩

theorem witness_SynchronisationOperations_16 : ∃ (s : State) (c : Instr) (node : Nat) (tag : Nat) (fn : Nat) (h : Nat) (x : Nat × Nat × Nat), syncCommand c (.remote node tag fn) h x ∧ syncHome s h = ownNode s ∧ syncAsker (.remote node tag fn) h s ∧ findSync s (h % 65536) = none :=
  ⟨on, (.acquire (.remote 1 2 0) 0x7FFF0003 1 : Instr), 1, 2, 0, 0x7FFF0003, ((0, 1, 0) : Nat × Nat × Nat), syncCommand_of (by decide +kernel), by decide +kernel, syncAsker_of (by decide +kernel), by decide +kernel⟩

def o_synchronisationOperations_17 : SyncObj :=
  got (findSync (withSync { so 0 4 with grants := 0 } : State) (0x7FFF0003 % 65536))

theorem witness_SynchronisationOperations_17 : ∃ (s : State) (c : Instr) (node : Nat) (tag : Nat) (fn : Nat) (h : Nat) (x : Nat × Nat × Nat) (o : SyncObj), syncCommand c (.remote node tag fn) h x ∧ syncHome s h = ownNode s ∧ syncAsker (.remote node tag fn) h s ∧ findSync s (h % 65536) = some o ∧ o.homed = true ∧ granted o.grants fn = false :=
  ⟨(withSync { so 0 4 with grants := 0 } : State), (.acquire (.remote 1 2 0) 0x7FFF0003 1 : Instr), 1, 2, 0, 0x7FFF0003, ((0, 1, 0) : Nat × Nat × Nat), o_synchronisationOperations_17, syncCommand_of (by decide +kernel), by decide +kernel, syncAsker_of (by decide +kernel), by decide +kernel, by decide +kernel, by decide +kernel⟩

def o_synchronisationOperations_18 : SyncObj :=
  got (findSync (withSync (so 0 4) : State) (0x7FFF0003 % 65536))

theorem witness_SynchronisationOperations_18 : ∃ (s : State) (c : Instr) (node : Nat) (tag : Nat) (fn : Nat) (h : Nat) (x : Nat × Nat × Nat) (o : SyncObj), syncCommand c (.remote node tag fn) h x ∧ syncHome s h = ownNode s ∧ syncAsker (.remote node tag fn) h s ∧ findSync s (h % 65536) = some o ∧ o.homed = true ∧ granted o.grants fn = true ∧ (o.kind ≠ syncKind x.1 ∨ x.1 ≤ 1 ∧ (x.2.1 = 0 ∨ 65535 < x.2.1)) :=
  ⟨(withSync (so 0 4) : State), (.acquire (.remote 1 2 0) 0x7FFF0003 0 : Instr), 1, 2, 0, 0x7FFF0003, ((0, 0, 0) : Nat × Nat × Nat), o_synchronisationOperations_18, syncCommand_of (by decide +kernel), by decide +kernel, syncAsker_of (by decide +kernel), by decide +kernel, by decide +kernel, by decide +kernel, by decide +kernel⟩

def s_synchronisationOperations_19 : State :=
  twin (withSync { so 0 4 with homed := false })

def o_synchronisationOperations_19 : SyncObj :=
  got (findSync s_synchronisationOperations_19 (0x7FFF0003 % 65536))

theorem witness_SynchronisationOperations_19 : ∃ (s : State) (c : Instr) (node : Nat) (tag : Nat) (fn : Nat) (h : Nat) (x : Nat × Nat × Nat) (o : SyncObj), syncCommand c (.remote node tag fn) h x ∧ syncHome s h = ownNode s ∧ syncAsker (.remote node tag fn) h s ∧ findSync s (h % 65536) = some o ∧ o.homed = false ∧ node = ownNode s :=
  ⟨s_synchronisationOperations_19, (.acquire (.remote 0 2 0) 0x7FFF0003 1 : Instr), 0, 2, 0, 0x7FFF0003, ((0, 1, 0) : Nat × Nat × Nat), o_synchronisationOperations_19, syncCommand_of (by decide +kernel), by decide +kernel, syncAsker_of (by decide +kernel), by decide +kernel, by decide +kernel, by decide +kernel⟩

def s_synchronisationOperations_20 : State :=
  twin (withSync { so 0 4 with homed := false })

def o_synchronisationOperations_20 : SyncObj :=
  got (findSync s_synchronisationOperations_20 (0x7FFF0003 % 65536))

theorem witness_SynchronisationOperations_20 : ∃ (s : State) (c : Instr) (node : Nat) (tag : Nat) (fn : Nat) (h : Nat) (x : Nat × Nat × Nat) (o : SyncObj), syncCommand c (.remote node tag fn) h x ∧ syncHome s h = ownNode s ∧ syncAsker (.remote node tag fn) h s ∧ findSync s (h % 65536) = some o ∧ o.homed = false ∧ node ≠ ownNode s :=
  ⟨s_synchronisationOperations_20, (.acquire (.remote 1 2 0) 0x7FFF0003 1 : Instr), 1, 2, 0, 0x7FFF0003, ((0, 1, 0) : Nat × Nat × Nat), o_synchronisationOperations_20, syncCommand_of (by decide +kernel), by decide +kernel, syncAsker_of (by decide +kernel), by decide +kernel, by decide +kernel, by decide +kernel⟩

def s_syncControlStreamAndCancel_1 : State :=
  sets [(0x3601, 1, 9), (0x3601, 2, 2), (0x3601, 3, 0), (0x3601, 4, 2)] (on)

def no_syncControlStreamAndCancel_1 : Nat :=
  obj s_syncControlStreamAndCancel_1 0x3601 1

def kind_syncControlStreamAndCancel_1 : Nat :=
  obj s_syncControlStreamAndCancel_1 0x3601 2

def cls_syncControlStreamAndCancel_1 : Nat :=
  obj s_syncControlStreamAndCancel_1 0x3601 3

def v_syncControlStreamAndCancel_1 : Nat :=
  obj s_syncControlStreamAndCancel_1 0x3601 4

theorem witness_SyncControlStreamAndCancel_1 : ∃ (s : State) (no : Nat) (kind : Nat) (cls : Nat) (v : Nat), no = obj s 0x3601 1 ∧ kind = obj s 0x3601 2 ∧ cls = obj s 0x3601 3 ∧ v = obj s 0x3601 4 ∧ kind ≤ 3 ∧ cls ≤ 1 ∧ (kind = 0 → v < 2 ^ 32) ∧ (kind = 1 → v ≤ 1) ∧ (kind = 2 → 1 ≤ v ∧ v ≤ 65535) ∧ findSync s no = none :=
  ⟨s_syncControlStreamAndCancel_1, no_syncControlStreamAndCancel_1, kind_syncControlStreamAndCancel_1, cls_syncControlStreamAndCancel_1, v_syncControlStreamAndCancel_1, rfl, rfl, rfl, rfl, by decide +kernel, by decide +kernel, by decide +kernel, by decide +kernel, by decide +kernel, by decide +kernel⟩

def s_syncControlStreamAndCancel_2 : State :=
  sets [(0x3601, 1, 3), (0x3601, 2, 2), (0x3601, 3, 0), (0x3601, 4, 2)] (withSync (so 2 0))

def no_syncControlStreamAndCancel_2 : Nat :=
  obj s_syncControlStreamAndCancel_2 0x3601 1

def kind_syncControlStreamAndCancel_2 : Nat :=
  obj s_syncControlStreamAndCancel_2 0x3601 2

def cls_syncControlStreamAndCancel_2 : Nat :=
  obj s_syncControlStreamAndCancel_2 0x3601 3

def v_syncControlStreamAndCancel_2 : Nat :=
  obj s_syncControlStreamAndCancel_2 0x3601 4

theorem witness_SyncControlStreamAndCancel_2 : ∃ (s : State) (no : Nat) (kind : Nat) (cls : Nat) (v : Nat), no = obj s 0x3601 1 ∧ kind = obj s 0x3601 2 ∧ cls = obj s 0x3601 3 ∧ v = obj s 0x3601 4 ∧ kind ≤ 3 ∧ cls ≤ 1 ∧ (kind = 0 → v < 2 ^ 32) ∧ (kind = 1 → v ≤ 1) ∧ (kind = 2 → 1 ≤ v ∧ v ≤ 65535) ∧ (findSync s no).isSome = true :=
  ⟨s_syncControlStreamAndCancel_2, no_syncControlStreamAndCancel_2, kind_syncControlStreamAndCancel_2, cls_syncControlStreamAndCancel_2, v_syncControlStreamAndCancel_2, rfl, rfl, rfl, rfl, by decide +kernel, by decide +kernel, by decide +kernel, by decide +kernel, by decide +kernel, by decide +kernel⟩

def s_syncControlStreamAndCancel_3 : State :=
  sets [(0x3601, 1, 9), (0x3601, 2, 4), (0x3601, 3, 0), (0x3601, 4, 0)] (on)

def kind_syncControlStreamAndCancel_3 : Nat :=
  obj s_syncControlStreamAndCancel_3 0x3601 2

def cls_syncControlStreamAndCancel_3 : Nat :=
  obj s_syncControlStreamAndCancel_3 0x3601 3

def v_syncControlStreamAndCancel_3 : Nat :=
  obj s_syncControlStreamAndCancel_3 0x3601 4

theorem witness_SyncControlStreamAndCancel_3 : ∃ (s : State) (kind : Nat) (cls : Nat) (v : Nat), kind = obj s 0x3601 2 ∧ cls = obj s 0x3601 3 ∧ v = obj s 0x3601 4 ∧ 3 < kind :=
  ⟨s_syncControlStreamAndCancel_3, kind_syncControlStreamAndCancel_3, cls_syncControlStreamAndCancel_3, v_syncControlStreamAndCancel_3, rfl, rfl, rfl, by decide +kernel⟩

def s_syncControlStreamAndCancel_4 : State :=
  sets [(0x3601, 1, 9), (0x3601, 2, 0), (0x3601, 3, 2), (0x3601, 4, 0)] (on)

def kind_syncControlStreamAndCancel_4 : Nat :=
  obj s_syncControlStreamAndCancel_4 0x3601 2

def cls_syncControlStreamAndCancel_4 : Nat :=
  obj s_syncControlStreamAndCancel_4 0x3601 3

def v_syncControlStreamAndCancel_4 : Nat :=
  obj s_syncControlStreamAndCancel_4 0x3601 4

theorem witness_SyncControlStreamAndCancel_4 : ∃ (s : State) (kind : Nat) (cls : Nat) (v : Nat), kind = obj s 0x3601 2 ∧ cls = obj s 0x3601 3 ∧ v = obj s 0x3601 4 ∧ kind ≤ 3 ∧ 1 < cls :=
  ⟨s_syncControlStreamAndCancel_4, kind_syncControlStreamAndCancel_4, cls_syncControlStreamAndCancel_4, v_syncControlStreamAndCancel_4, rfl, rfl, rfl, by decide +kernel, by decide +kernel⟩

def s_syncControlStreamAndCancel_5 : State :=
  sets [(0x3601, 1, 9), (0x3601, 2, 2), (0x3601, 3, 0), (0x3601, 4, 0)] (on)

def kind_syncControlStreamAndCancel_5 : Nat :=
  obj s_syncControlStreamAndCancel_5 0x3601 2

def cls_syncControlStreamAndCancel_5 : Nat :=
  obj s_syncControlStreamAndCancel_5 0x3601 3

def v_syncControlStreamAndCancel_5 : Nat :=
  obj s_syncControlStreamAndCancel_5 0x3601 4

theorem witness_SyncControlStreamAndCancel_5 : ∃ (s : State) (kind : Nat) (cls : Nat) (v : Nat), kind = obj s 0x3601 2 ∧ cls = obj s 0x3601 3 ∧ v = obj s 0x3601 4 ∧ cls ≤ 1 ∧ (kind = 0 ∧ 2 ^ 32 ≤ v ∨ kind = 1 ∧ 1 < v ∨ kind = 2 ∧ (v = 0 ∨ 65535 < v)) :=
  ⟨s_syncControlStreamAndCancel_5, kind_syncControlStreamAndCancel_5, cls_syncControlStreamAndCancel_5, v_syncControlStreamAndCancel_5, rfl, rfl, rfl, by decide +kernel, by decide +kernel⟩

def s_syncControlStreamAndCancel_6 : State :=
  sets [(0x3601, 1, 3), (0x3601, 2, 0), (0x3601, 3, 0), (0x3601, 4, 0)] (withSync (so 0 4))

def o_syncControlStreamAndCancel_6 : SyncObj :=
  got (findSync s_syncControlStreamAndCancel_6 (obj s_syncControlStreamAndCancel_6 0x3601 1))

theorem witness_SyncControlStreamAndCancel_6 : ∃ (s : State) (o : SyncObj), findSync s (obj s 0x3601 1) = some o ∧ o.homed = true :=
  ⟨s_syncControlStreamAndCancel_6, o_syncControlStreamAndCancel_6, by decide +kernel, by decide +kernel⟩

def s_syncControlStreamAndCancel_7 : State :=
  sets [(0x3601, 1, 3), (0x3601, 2, 0), (0x3601, 3, 0), (0x3601, 4, 0)] (on)

theorem witness_SyncControlStreamAndCancel_7 : ∃ (s : State) (c : Instr), (c = .syncDelete ∨ c = .syncSignal) ∧ (∀ o, findSync s (obj s 0x3601 1) = some o → o.homed = false) :=
  ⟨s_syncControlStreamAndCancel_7, .syncDelete, by decide +kernel, by decide +kernel⟩

def s_syncControlStreamAndCancel_8 : State :=
  sets [(0x3601, 1, 3), (0x3601, 2, 0), (0x3601, 3, 0), (0x3601, 4, 2)] (withSync (so 0 4))

def o_syncControlStreamAndCancel_8 : SyncObj :=
  got (findSync s_syncControlStreamAndCancel_8 (obj s_syncControlStreamAndCancel_8 0x3601 1))

def v_syncControlStreamAndCancel_8 : Nat :=
  obj s_syncControlStreamAndCancel_8 0x3601 4

theorem witness_SyncControlStreamAndCancel_8 : ∃ (s : State) (o : SyncObj) (v : Nat), findSync s (obj s 0x3601 1) = some o ∧ o.homed = true ∧ v = obj s 0x3601 4 ∧ o.kind ≤ 3 ∧ (o.kind = 0 → 1 ≤ v ∧ v ≤ 65535 ∧ o.value + v < 2 ^ 32) :=
  ⟨s_syncControlStreamAndCancel_8, o_syncControlStreamAndCancel_8, v_syncControlStreamAndCancel_8, by decide +kernel, by decide +kernel, rfl, by decide +kernel, by decide +kernel⟩

def s_syncControlStreamAndCancel_9 : State :=
  sets [(0x3601, 1, 3), (0x3601, 2, 0), (0x3601, 3, 0), (0x3601, 4, 0)] (withSync (so 0 4))

def o_syncControlStreamAndCancel_9 : SyncObj :=
  got (findSync s_syncControlStreamAndCancel_9 (obj s_syncControlStreamAndCancel_9 0x3601 1))

def v_syncControlStreamAndCancel_9 : Nat :=
  obj s_syncControlStreamAndCancel_9 0x3601 4

theorem witness_SyncControlStreamAndCancel_9 : ∃ (s : State) (o : SyncObj) (v : Nat), findSync s (obj s 0x3601 1) = some o ∧ o.homed = true ∧ v = obj s 0x3601 4 ∧ o.kind ≤ 3 ∧ o.kind = 0 ∧ (v = 0 ∨ 65535 < v) :=
  ⟨s_syncControlStreamAndCancel_9, o_syncControlStreamAndCancel_9, v_syncControlStreamAndCancel_9, by decide +kernel, by decide +kernel, rfl, by decide +kernel, by decide +kernel, by decide +kernel⟩

def s_syncControlStreamAndCancel_10 : State :=
  sets [(0x3601, 1, 3), (0x3601, 2, 0), (0x3601, 3, 0), (0x3601, 4, 1)] (withSync (so 0 0xFFFFFFFF))

def o_syncControlStreamAndCancel_10 : SyncObj :=
  got (findSync s_syncControlStreamAndCancel_10 (obj s_syncControlStreamAndCancel_10 0x3601 1))

def v_syncControlStreamAndCancel_10 : Nat :=
  obj s_syncControlStreamAndCancel_10 0x3601 4

theorem witness_SyncControlStreamAndCancel_10 : ∃ (s : State) (o : SyncObj) (v : Nat), findSync s (obj s 0x3601 1) = some o ∧ o.homed = true ∧ v = obj s 0x3601 4 ∧ o.kind ≤ 3 ∧ o.kind = 0 ∧ 1 ≤ v ∧ v ≤ 65535 ∧ 2 ^ 32 ≤ o.value + v :=
  ⟨s_syncControlStreamAndCancel_10, o_syncControlStreamAndCancel_10, v_syncControlStreamAndCancel_10, by decide +kernel, by decide +kernel, rfl, by decide +kernel, by decide +kernel, by decide +kernel, by decide +kernel, by decide +kernel⟩

def s_syncControlStreamAndCancel_11 : State :=
  opSync 0x7FFF0003 (dsc [(0, 1, 0x61), (1, 1, 1), (16, 8, 2)]) (so 0 4)

def d_syncControlStreamAndCancel_11 : Bytes :=
  dsc [(0, 1, 0x61), (1, 1, 1), (16, 8, 2)]

def j_syncControlStreamAndCancel_11 : Job :=
  got (issuable 0x61 d_syncControlStreamAndCancel_11 s_syncControlStreamAndCancel_11)

def e_syncControlStreamAndCancel_11 : Nat :=
  field (j_syncControlStreamAndCancel_11.basket.sync.getD (field d_syncControlStreamAndCancel_11 2 2) []) 0 4

def o_syncControlStreamAndCancel_11 : SyncObj :=
  got (findSync s_syncControlStreamAndCancel_11 (e_syncControlStreamAndCancel_11 % 65536))

theorem witness_SyncControlStreamAndCancel_11 : ∃ (s : State) (c : Instr) (opc : Nat) (d : Bytes) (j : Job) (e : Nat) (o : SyncObj) (o' : SyncObj) (v : Nat), (c = .waitOperation d ∧ opc = 0x60 ∨ c = .signal d ∧ opc = 0x61) ∧ issuable opc d s = some j ∧ e = field (j.basket.sync.getD (field d 2 2) []) 0 4 ∧ syncHome s e = ownNode s ∧ findSync s (e % 65536) = some o ∧ o.homed = true ∧ o.kind = syncKind (field d 1 1) ∧ syncOperandOk (field d 1 1) (field d 16 8) = true ∧ applySync s.time (field d 1 1) (field d 16 8) (field d 24 8) o = .ok (some (o', v)) :=
  ⟨s_syncControlStreamAndCancel_11, (.signal (dsc [(0, 1, 0x61), (1, 1, 1), (16, 8, 2)]) : Instr), 0x61, d_syncControlStreamAndCancel_11, j_syncControlStreamAndCancel_11, e_syncControlStreamAndCancel_11, o_syncControlStreamAndCancel_11, ({ so 0 4 with value := 6 } : SyncObj), 0, by decide +kernel, by decide +kernel, rfl, by decide +kernel, by decide +kernel, by decide +kernel, by decide +kernel, by decide +kernel, ok_of (by decide +kernel)⟩

def s_syncControlStreamAndCancel_12 : State :=
  opSync 0x7FFF0003 (dsc [(0, 1, 0x60), (1, 1, 4)]) (so 1 0)

def j_syncControlStreamAndCancel_12 : Job :=
  got (issuable 0x60 (dsc [(0, 1, 0x60), (1, 1, 4)] : Bytes) s_syncControlStreamAndCancel_12)

def e_syncControlStreamAndCancel_12 : Nat :=
  field (j_syncControlStreamAndCancel_12.basket.sync.getD (field (dsc [(0, 1, 0x60), (1, 1, 4)] : Bytes) 2 2) []) 0 4

def o_syncControlStreamAndCancel_12 : SyncObj :=
  got (findSync s_syncControlStreamAndCancel_12 (e_syncControlStreamAndCancel_12 % 65536))

theorem witness_SyncControlStreamAndCancel_12 : ∃ (s : State) (c : Instr) (opc : Nat) (d : Bytes) (j : Job) (e : Nat) (o : SyncObj), (c = .waitOperation d ∧ opc = 0x60 ∨ c = .signal d ∧ opc = 0x61) ∧ issuable opc d s = some j ∧ e = field (j.basket.sync.getD (field d 2 2) []) 0 4 ∧ syncHome s e = ownNode s ∧ findSync s (e % 65536) = some o ∧ o.homed = true ∧ o.kind = syncKind (field d 1 1) ∧ syncOperandOk (field d 1 1) (field d 16 8) = true ∧ applySync s.time (field d 1 1) (field d 16 8) (field d 24 8) o = .ok none :=
  ⟨s_syncControlStreamAndCancel_12, (.waitOperation (dsc [(0, 1, 0x60), (1, 1, 4)]) : Instr), 0x60, (dsc [(0, 1, 0x60), (1, 1, 4)] : Bytes), j_syncControlStreamAndCancel_12, e_syncControlStreamAndCancel_12, o_syncControlStreamAndCancel_12, by decide +kernel, by decide +kernel, rfl, by decide +kernel, by decide +kernel, by decide +kernel, by decide +kernel, by decide +kernel, ok_of (by decide +kernel)⟩

def s_syncControlStreamAndCancel_13 : State :=
  twin (opSync 0x7FFF0003 (dsc [(0, 1, 0x61), (1, 1, 1), (16, 8, 2)]) { so 0 4 with homed := false })

def d_syncControlStreamAndCancel_13 : Bytes :=
  dsc [(0, 1, 0x61), (1, 1, 1), (16, 8, 2)]

def j_syncControlStreamAndCancel_13 : Job :=
  got (issuable 0x61 d_syncControlStreamAndCancel_13 s_syncControlStreamAndCancel_13)

def e_syncControlStreamAndCancel_13 : Nat :=
  field (j_syncControlStreamAndCancel_13.basket.sync.getD (field d_syncControlStreamAndCancel_13 2 2) []) 0 4

def o_syncControlStreamAndCancel_13 : SyncObj :=
  got (findSync s_syncControlStreamAndCancel_13 (e_syncControlStreamAndCancel_13 % 65536))

theorem witness_SyncControlStreamAndCancel_13 : ∃ (s : State) (c : Instr) (opc : Nat) (d : Bytes) (j : Job) (e : Nat) (o : SyncObj), (c = .waitOperation d ∧ opc = 0x60 ∨ c = .signal d ∧ opc = 0x61) ∧ issuable opc d s = some j ∧ e = field (j.basket.sync.getD (field d 2 2) []) 0 4 ∧ syncHome s e = ownNode s ∧ findSync s (e % 65536) = some o ∧ o.homed = false :=
  ⟨s_syncControlStreamAndCancel_13, (.signal (dsc [(0, 1, 0x61), (1, 1, 1), (16, 8, 2)]) : Instr), 0x61, d_syncControlStreamAndCancel_13, j_syncControlStreamAndCancel_13, e_syncControlStreamAndCancel_13, o_syncControlStreamAndCancel_13, by decide +kernel, by decide +kernel, rfl, by decide +kernel, by decide +kernel, by decide +kernel⟩

def s_syncControlStreamAndCancel_14 : State :=
  sys (opSync 0x10003 (dsc [(0, 1, 0x61), (1, 1, 1), (16, 8, 2)]) (so 0 4))

def d_syncControlStreamAndCancel_14 : Bytes :=
  dsc [(0, 1, 0x61), (1, 1, 1), (16, 8, 2)]

def j_syncControlStreamAndCancel_14 : Job :=
  got (issuable 0x61 d_syncControlStreamAndCancel_14 s_syncControlStreamAndCancel_14)

def e_syncControlStreamAndCancel_14 : Nat :=
  field (j_syncControlStreamAndCancel_14.basket.sync.getD (field d_syncControlStreamAndCancel_14 2 2) []) 0 4

theorem witness_SyncControlStreamAndCancel_14 : ∃ (s : State) (c : Instr) (opc : Nat) (d : Bytes) (j : Job) (e : Nat), (c = .waitOperation d ∧ opc = 0x60 ∨ c = .signal d ∧ opc = 0x61) ∧ issuable opc d s = some j ∧ e = field (j.basket.sync.getD (field d 2 2) []) 0 4 ∧ syncHome s e ≠ ownNode s ∧ nodeNamed s (syncHome s e) = true ∧ t3Open s (syncHome s e) = true :=
  ⟨s_syncControlStreamAndCancel_14, (.signal (dsc [(0, 1, 0x61), (1, 1, 1), (16, 8, 2)]) : Instr), 0x61, d_syncControlStreamAndCancel_14, j_syncControlStreamAndCancel_14, e_syncControlStreamAndCancel_14, by decide +kernel, by decide +kernel, rfl, by decide +kernel, by decide +kernel, by decide +kernel⟩

def y_syncControlStreamAndCancel_15 : Nat :=
  syncHome (sys (thSync 0x10003 (so 0 4)) : State) 0x10003

theorem witness_SyncControlStreamAndCancel_15 : ∃ (s : State) (c : Instr) (k : ThreadId) (h : Nat) (x : Nat × Nat × Nat) (y : Nat), syncCommand c (.thread k) h x ∧ syncAsker (.thread k) h s ∧ y = syncHome s h ∧ y ≠ ownNode s ∧ nodeNamed s y = true ∧ t3Open s y = true :=
  ⟨(sys (thSync 0x10003 (so 0 4)) : State), (.acquire (.thread (th false)) 0x10003 1 : Instr), (th false : ThreadId), 0x10003, ((0, 1, 0) : Nat × Nat × Nat), y_syncControlStreamAndCancel_15, syncCommand_of (by decide +kernel), syncAsker_of (by decide +kernel), rfl, by decide +kernel, by decide +kernel, by decide +kernel⟩

def s_syncControlStreamAndCancel_16 : State :=
  twin (thSync 0x7FFF0003 { so 0 4 with homed := false })

def y_syncControlStreamAndCancel_16 : Nat :=
  syncHome s_syncControlStreamAndCancel_16 0x7FFF0003

def o_syncControlStreamAndCancel_16 : SyncObj :=
  got (findSync s_syncControlStreamAndCancel_16 (0x7FFF0003 % 65536))

theorem witness_SyncControlStreamAndCancel_16 : ∃ (s : State) (c : Instr) (k : ThreadId) (h : Nat) (x : Nat × Nat × Nat) (y : Nat) (o : SyncObj), syncCommand c (.thread k) h x ∧ syncAsker (.thread k) h s ∧ y = syncHome s h ∧ y = ownNode s ∧ findSync s (h % 65536) = some o ∧ o.homed = false :=
  ⟨s_syncControlStreamAndCancel_16, (.acquire (.thread (th false)) 0x7FFF0003 1 : Instr), (th false : ThreadId), 0x7FFF0003, ((0, 1, 0) : Nat × Nat × Nat), y_syncControlStreamAndCancel_16, o_syncControlStreamAndCancel_16, syncCommand_of (by decide +kernel), syncAsker_of (by decide +kernel), rfl, by decide +kernel, by decide +kernel, by decide +kernel⟩

def s_syncControlStreamAndCancel_17 : State :=
  withSync { so 0 0 with waiters := [{ who := .thread (th false), op := 0, n := 9 }] }

def o_syncControlStreamAndCancel_17 : SyncObj :=
  got (findSync s_syncControlStreamAndCancel_17 (0x7FFF0003 % 65536))

theorem witness_SyncControlStreamAndCancel_17 : ∃ (s : State) (w : SyncWho) (h : Nat) (o : SyncObj), syncHome s h = ownNode s ∧ findSync s (h % 65536) = some o ∧ o.homed = true ∧ (o.waiters.any (·.who == w)) = true :=
  ⟨s_syncControlStreamAndCancel_17, (.thread (th false) : SyncWho), 0x7FFF0003, o_syncControlStreamAndCancel_17, by decide +kernel, by decide +kernel, by decide +kernel, by decide +kernel⟩

def o_syncControlStreamAndCancel_18 : SyncObj :=
  got (findSync (withSync (so 0 0) : State) (0x7FFF0003 % 65536))

theorem witness_SyncControlStreamAndCancel_18 : ∃ (s : State) (w : SyncWho) (h : Nat) (o : SyncObj), syncHome s h = ownNode s ∧ findSync s (h % 65536) = some o ∧ (o.waiters.any (·.who == w)) = false ∧ twinned s = false :=
  ⟨(withSync (so 0 0) : State), (.thread (th false) : SyncWho), 0x7FFF0003, o_syncControlStreamAndCancel_18, by decide +kernel, by decide +kernel, by decide +kernel, by decide +kernel⟩

def o_syncControlStreamAndCancel_19 : SyncObj :=
  got (findSync (withSync (so 2 2) : State) (0x7FFF0003 % 65536))

theorem witness_SyncControlStreamAndCancel_19 : ∃ (s : State) (h : Nat) (o : SyncObj), syncHome s h = ownNode s ∧ findSync s (h % 65536) = some o ∧ o.homed = true ∧ o.kind = 2 :=
  ⟨(withSync (so 2 2) : State), 0x7FFF0003, o_syncControlStreamAndCancel_19, by decide +kernel, by decide +kernel, by decide +kernel, by decide +kernel⟩

def s_placementOfTiles_1 : State :=
  { on with tier := { on.tier with objects := [ob 5], tiles := [t1 5 0] } }

def v_placementOfTiles_1 : State :=
  takeTilePages (got (findTile s_placementOfTiles_1 5 0)) s_placementOfTiles_1

theorem witness_PlacementOfTiles_1 : ∃ (s : State) (o : Nat) (i : Nat) (u : Tile) (v : State), findTile s o i = some u ∧ v = takeTilePages u s ∧ (u.dirty = false ∨ u.node ≠ ownNode s) :=
  ⟨s_placementOfTiles_1, 5, 0, got (findTile s_placementOfTiles_1 5 0), v_placementOfTiles_1, by decide +kernel, rfl, by decide +kernel⟩

def s_placementOfTiles_2 : State :=
  fullPail (let s := { on with tier := { on.tier with objects := [ob 5], tiles := [{ t1 5 0 with dirty := true }] } }; { s with tier := { s.tier with storeAus := [7] } })

def v_placementOfTiles_2 : State :=
  takeTilePages (got (findTile s_placementOfTiles_2 5 0)) s_placementOfTiles_2

def b_placementOfTiles_2 : Nat :=
  got (bodyLpn v_placementOfTiles_2 (got (findTile s_placementOfTiles_2 5 0)))

theorem witness_PlacementOfTiles_2 : ∃ (s : State) (o : Nat) (i : Nat) (u : Tile) (v : State) (b : Nat), findTile s o i = some u ∧ v = takeTilePages u s ∧ u.dirty = true ∧ u.node = ownNode s ∧ bodyLpn v u = some b ∧ pailHasRoom v 2 2 = false :=
  ⟨s_placementOfTiles_2, 5, 0, got (findTile s_placementOfTiles_2 5 0), v_placementOfTiles_2, b_placementOfTiles_2, by decide +kernel, rfl, by decide +kernel, by decide +kernel, by decide +kernel, by decide +kernel⟩

def s_placementOfTiles_3 : State :=
  let s := { on with tier := { on.tier with objects := [ob 5], tiles := [{ t1 5 0 with dirty := true }] } }; { s with tier := { s.tier with storeAus := [7] } }

def v_placementOfTiles_3 : State :=
  takeTilePages (got (findTile s_placementOfTiles_3 5 0)) s_placementOfTiles_3

def b_placementOfTiles_3 : Nat :=
  got (bodyLpn v_placementOfTiles_3 (got (findTile s_placementOfTiles_3 5 0)))

theorem witness_PlacementOfTiles_3 : ∃ (s : State) (o : Nat) (i : Nat) (u : Tile) (v : State) (b : Nat), findTile s o i = some u ∧ v = takeTilePages u s ∧ u.dirty = true ∧ u.node = ownNode s ∧ bodyLpn v u = some b ∧ pailHasRoom v 2 2 = true :=
  ⟨s_placementOfTiles_3, 5, 0, got (findTile s_placementOfTiles_3 5 0), v_placementOfTiles_3, b_placementOfTiles_3, by decide +kernel, rfl, by decide +kernel, by decide +kernel, by decide +kernel, by decide +kernel⟩

def s_placementOfTiles_4 : State :=
  { on with tier := { on.tier with objects := [ob 5], tiles := [{ t1 5 0 with pinned := true }] } }

theorem witness_PlacementOfTiles_4 : ∃ (s : State) (o : Nat) (i : Nat) (u : Tile) (ob : PObj), findTile s o i = some u ∧ findObj s o = some ob ∧ (basicMode s = true ∨ computeReady s = false ∨ u.migration ≠ none ∨ u.pinned = true ∨ u.node ≠ ownNode s ∨ nodeDown s u.node = true ∨ obj s 0x4200 3 = 1 ∧ namedByJob s o = true) :=
  ⟨s_placementOfTiles_4, 5, 0, got (findTile s_placementOfTiles_4 5 0), got (findObj s_placementOfTiles_4 5), by decide +kernel, by decide +kernel, by decide +kernel⟩

def s_placementOfTiles_5 : State :=
  { on with tier := { on.tier with objects := [ob 5], tiles := [t1 5 0] } }

theorem witness_PlacementOfTiles_5 : ∃ (s : State) (o : Nat) (i : Nat) (tier : Nat) (node : Nat) (u : Tile) (ob : PObj), findTile s o i = some u ∧ findObj s o = some ob ∧ basicMode s = false ∧ computeReady s = true ∧ u.migration = none ∧ u.pinned = false ∧ u.node = ownNode s ∧ nodeDown s (ownNode s) = false ∧ (obj s 0x4200 3 = 1 → namedByJob s o = false) ∧ (tier = 1 ∨ tier = 2 ∧ u.dirty = false ∧ u.inT1 = true ∨ tier = 3 ∧ o < 2 ^ 63 ∧ inExtent s ob.group node = true ∧ nodeDown s node = false ∨ tier = 4 ∧ ob.written = false ∧ o < 2 ^ 63 ∧ inExtent s ob.group node = true ∧ nodeDown s node = false ∧ u.replicas.length + 1 < obj s (0x2210 + ob.group) 7) :=
  ⟨s_placementOfTiles_5, 5, 0, 1, 0, got (findTile s_placementOfTiles_5 5 0), got (findObj s_placementOfTiles_5 5), by decide +kernel, by decide +kernel, by decide +kernel, by decide +kernel, by decide +kernel, by decide +kernel, by decide +kernel, by decide +kernel, by decide +kernel, by decide +kernel⟩

def s_placementOfTiles_6 : State :=
  let s := { on with tier := { on.tier with objects := [ob 5], tiles := [{ t1 5 0 with dirty := true }] } }; { s with tier := { s.tier with storeAus := [7] } }

theorem witness_PlacementOfTiles_6 : ∃ (s : State) (o : Nat) (i : Nat) (tier : Nat) (u : Tile) (ob : PObj), findTile s o i = some u ∧ findObj s o = some ob ∧ basicMode s = false ∧ computeReady s = true ∧ u.migration = none ∧ u.pinned = false ∧ u.node = ownNode s ∧ nodeDown s (ownNode s) = false ∧ (obj s 0x4200 3 = 1 → namedByJob s o = false) ∧ tier = 2 ∧ u.dirty = true ∧ bodyLpn (takeTilePages u s) u ≠ none ∧ pailHasRoom (takeTilePages u s) 2 2 = true :=
  ⟨s_placementOfTiles_6, 5, 0, 2, got (findTile s_placementOfTiles_6 5 0), got (findObj s_placementOfTiles_6 5), by decide +kernel, by decide +kernel, by decide +kernel, by decide +kernel, by decide +kernel, by decide +kernel, by decide +kernel, by decide +kernel, by decide +kernel, by decide +kernel, by decide +kernel, by decide +kernel, by decide +kernel⟩

def t_placementOfTiles_7 : State :=
  nextOf (exec (.placementEvaluation [((5, 0, 1, 0) : Nat × Nat × Nat × Nat)]) on)

theorem witness_PlacementOfTiles_7 : ∃ (s : State) (t : State) (m : Nat × Nat × Nat × Nat), exec (.placementEvaluation [m]) s = .next t :=
  ⟨on, t_placementOfTiles_7, ((5, 0, 1, 0) : Nat × Nat × Nat × Nat), rfl⟩

def s_placementOfTiles_8 : State :=
  { on with tier := { on.tier with objects := [ob 5], tiles := [{ t1 5 0 with migration := some { tier := 1, node := 0, step := 1, version := 1 } }] } }

def m_placementOfTiles_8 : Migration :=
  got ((got (findTile s_placementOfTiles_8 5 0)).migration)

def v_placementOfTiles_8 : Tile :=
  (if m_placementOfTiles_8.tier = 1 then framed s_placementOfTiles_8 (tileOf s_placementOfTiles_8 5 0) else { (got (findTile s_placementOfTiles_8 5 0)) with inT1 := false })

theorem witness_PlacementOfTiles_8 : ∃ (s : State) (o : Nat) (i : Nat) (u : Tile) (m : Migration) (v : Tile), findTile s o i = some u ∧ u.migration = some m ∧ v = (if m.tier = 1 then framed s (tileOf s o i) else { u with inT1 := false }) ∧ m.step < 3 :=
  ⟨s_placementOfTiles_8, 5, 0, got (findTile s_placementOfTiles_8 5 0), m_placementOfTiles_8, v_placementOfTiles_8, by decide +kernel, by decide +kernel, rfl, by decide +kernel⟩

def s_placementOfTiles_9 : State :=
  { on with tier := { on.tier with objects := [ob 5], tiles := [{ t1 5 0 with migration := some { tier := 1, node := 0, step := 1, version := 1 } }] } }

def m_placementOfTiles_9 : Migration :=
  got ((got (findTile s_placementOfTiles_9 5 0)).migration)

def v_placementOfTiles_9 : Tile :=
  (if m_placementOfTiles_9.tier = 1 then framed s_placementOfTiles_9 (tileOf s_placementOfTiles_9 5 0) else { (got (findTile s_placementOfTiles_9 5 0)) with inT1 := false })

theorem witness_PlacementOfTiles_9 : ∃ (s : State) (o : Nat) (i : Nat) (u : Tile) (m : Migration) (v : Tile), findTile s o i = some u ∧ u.migration = some m ∧ v = (if m.tier = 1 then framed s (tileOf s o i) else { u with inT1 := false }) ∧ s.tier.waits = [] :=
  ⟨s_placementOfTiles_9, 5, 0, got (findTile s_placementOfTiles_9 5 0), m_placementOfTiles_9, v_placementOfTiles_9, by decide +kernel, by decide +kernel, rfl, by decide +kernel⟩

def s_placementOfTiles_10 : State :=
  { on with tier := { on.tier with objects := [ob 5], tiles := [{ t1 5 0 with migration := some { tier := 1, node := 0, step := 1, version := 1 } }] } }

def m_placementOfTiles_10 : Migration :=
  got ((got (findTile s_placementOfTiles_10 5 0)).migration)

theorem witness_PlacementOfTiles_10 : ∃ (s : State) (o : Nat) (i : Nat) (u : Tile) (m : Migration), findTile s o i = some u ∧ u.migration = some m ∧ m.step ≠ 3 :=
  ⟨s_placementOfTiles_10, 5, 0, got (findTile s_placementOfTiles_10 5 0), m_placementOfTiles_10, by decide +kernel, by decide +kernel, by decide +kernel⟩

def s_placementOfTiles_11 : State :=
  { on with tier := { on.tier with objects := [ob 5], tiles := [{ t1 5 0 with migration := some { tier := 1, node := 0, step := 3, version := 1 } }] } }

def m_placementOfTiles_11 : Migration :=
  got ((got (findTile s_placementOfTiles_11 5 0)).migration)

theorem witness_PlacementOfTiles_11 : ∃ (s : State) (o : Nat) (i : Nat) (u : Tile) (m : Migration), findTile s o i = some u ∧ u.migration = some m ∧ m.step = 3 ∧ m.tier ≠ 3 :=
  ⟨s_placementOfTiles_11, 5, 0, got (findTile s_placementOfTiles_11 5 0), m_placementOfTiles_11, by decide +kernel, by decide +kernel, by decide +kernel, by decide +kernel⟩

def s_placementOfTiles_12 : State :=
  { on with tier := { on.tier with objects := [ob 5], tiles := [{ t1 5 0 with migration := some { tier := 3, node := 1, step := 3, version := 1 } }] } }

def m_placementOfTiles_12 : Migration :=
  got ((got (findTile s_placementOfTiles_12 5 0)).migration)

theorem witness_PlacementOfTiles_12 : ∃ (s : State) (o : Nat) (i : Nat) (u : Tile) (m : Migration), findTile s o i = some u ∧ u.migration = some m ∧ m.step = 3 ∧ m.tier = 3 :=
  ⟨s_placementOfTiles_12, 5, 0, got (findTile s_placementOfTiles_12 5 0), m_placementOfTiles_12, by decide +kernel, by decide +kernel, by decide +kernel, by decide +kernel⟩

def rs_coherentRegionsControl_1 : List Region :=
  [{ no := 4, base := 0, len := 4, homed := true, mirrored := false, unprotected := false, single := false }]

def b_coherentRegionsControl_1 : Nat :=
  got (lowestBase rs_coherentRegionsControl_1 4)

theorem witness_CoherentRegionsControl_1 : ∃ (rs : List Region) (len : Nat) (b : Nat) (c : Nat), lowestBase rs len = some b ∧ c < b :=
  ⟨rs_coherentRegionsControl_1, 4, b_coherentRegionsControl_1, 0, by decide +kernel, by decide +kernel⟩

def rs_coherentRegionsControl_2 : List Region :=
  [{ no := 4, base := 0, len := 4, homed := true, mirrored := false, unprotected := false, single := false }]

def b_coherentRegionsControl_2 : Nat :=
  got (lowestBase rs_coherentRegionsControl_2 4)

theorem witness_CoherentRegionsControl_2 : ∃ (rs : List Region) (len : Nat) (b : Nat), lowestBase rs len = some b :=
  ⟨rs_coherentRegionsControl_2, 4, b_coherentRegionsControl_2, by decide +kernel⟩

def s_coherentRegionsControl_3 : State :=
  sets [(0x2230, 1, 4), (0x2230, 2, 2)] (on)

def b_coherentRegionsControl_3 : Nat :=
  got (lowestBase s_coherentRegionsControl_3.tier.regions (obj s_coherentRegionsControl_3 0x2230 2 : Nat))

theorem witness_CoherentRegionsControl_3 : ∃ (s : State) (no : Nat) (len : Nat) (b : Nat), no = obj s 0x2230 1 ∧ len = obj s 0x2230 2 ∧ no ≤ 254 ∧ 1 ≤ len ∧ len ≤ 262144 ∧ (s.tier.regions.any (·.no == no)) = false ∧ ¬(no = 254 ∧ twinned s = true ∧ ownNode s = 0) ∧ s.tier.regions.length < 256 ∧ lowestBase s.tier.regions len = some b ∧ (twinned s = true → portUp s 12 = true ∧ portUp s 13 = true) :=
  ⟨s_coherentRegionsControl_3, (obj s_coherentRegionsControl_3 0x2230 1 : Nat), (obj s_coherentRegionsControl_3 0x2230 2 : Nat), b_coherentRegionsControl_3, rfl, rfl, by decide +kernel, by decide +kernel, by decide +kernel, by decide +kernel, by decide +kernel, by decide +kernel, by decide +kernel, by decide +kernel⟩

def s_coherentRegionsControl_4 : State :=
  sets [(0x2230, 1, 255), (0x2230, 2, 2)] (on)

theorem witness_CoherentRegionsControl_4 : ∃ (s : State) (no : Nat) (len : Nat) (c : Instr), no = obj s 0x2230 1 ∧ len = obj s 0x2230 2 ∧ 254 < no ∧ (c = .coherentCreate ∨ c = .coherentDelete ∨ c = .coherentTakeHome) :=
  ⟨s_coherentRegionsControl_4, (obj s_coherentRegionsControl_4 0x2230 1 : Nat), (obj s_coherentRegionsControl_4 0x2230 2 : Nat), .coherentCreate, rfl, rfl, by decide +kernel, by decide +kernel⟩

def s_coherentRegionsControl_5 : State :=
  sets [(0x2230, 1, 4), (0x2230, 2, 0)] (on)

theorem witness_CoherentRegionsControl_5 : ∃ (s : State) (no : Nat) (len : Nat), no = obj s 0x2230 1 ∧ len = obj s 0x2230 2 ∧ no ≤ 254 ∧ (len = 0 ∨ 262144 < len) :=
  ⟨s_coherentRegionsControl_5, (obj s_coherentRegionsControl_5 0x2230 1 : Nat), (obj s_coherentRegionsControl_5 0x2230 2 : Nat), rfl, rfl, by decide +kernel, by decide +kernel⟩

def s_coherentRegionsControl_6 : State :=
  sets [(0x2230, 1, 4), (0x2230, 2, 2)] ({ on with tier := { on.tier with regions := [{ no := 4, base := 16, len := 2, homed := true, mirrored := false, unprotected := false, single := false }] } })

theorem witness_CoherentRegionsControl_6 : ∃ (s : State) (no : Nat) (len : Nat), no = obj s 0x2230 1 ∧ len = obj s 0x2230 2 ∧ no ≤ 254 ∧ 1 ≤ len ∧ len ≤ 262144 ∧ ((s.tier.regions.any (·.no == no)) = true ∨ 256 ≤ s.tier.regions.length ∨ lowestBase s.tier.regions len = none ∨ twinned s = true ∧ (portUp s 12 = false ∨ portUp s 13 = false ∨ no = 254 ∧ ownNode s = 0)) :=
  ⟨s_coherentRegionsControl_6, (obj s_coherentRegionsControl_6 0x2230 1 : Nat), (obj s_coherentRegionsControl_6 0x2230 2 : Nat), rfl, rfl, by decide +kernel, by decide +kernel, by decide +kernel, by decide +kernel⟩

def s_coherentRegionsControl_7 : State :=
  sets [(0x2230, 1, 4), (0x2230, 2, 2)] (on)

theorem witness_CoherentRegionsControl_7 : ∃ (s : State) (no : Nat) (len : Nat), no = obj s 0x2230 1 ∧ len = obj s 0x2230 2 ∧ no ≤ 254 ∧ ((s.tier.regions.any fun r => r.no == no && r.homed) = false ∨ no = 254 ∧ twinned s = true ∧ ownNode s = 0) :=
  ⟨s_coherentRegionsControl_7, (obj s_coherentRegionsControl_7 0x2230 1 : Nat), (obj s_coherentRegionsControl_7 0x2230 2 : Nat), rfl, rfl, by decide +kernel, by decide +kernel⟩

def s_coherentRegionsControl_8 : State :=
  sets [(0x2230, 1, 4), (0x2230, 2, 2)] (on)

theorem witness_CoherentRegionsControl_8 : ∃ (s : State) (no : Nat) (len : Nat), no = obj s 0x2230 1 ∧ len = obj s 0x2230 2 ∧ no ≤ 254 ∧ ((s.tier.regions.any fun r => r.no == no && !r.homed) = false ∨ twinned s = false ∨ portUp s 12 = false ∨ portUp s 13 = false) :=
  ⟨s_coherentRegionsControl_8, (obj s_coherentRegionsControl_8 0x2230 1 : Nat), (obj s_coherentRegionsControl_8 0x2230 2 : Nat), rfl, rfl, by decide +kernel, by decide +kernel⟩

def s_coherentRegionsControl_9 : State :=
  sets [(0x2230, 1, 4), (0x2230, 2, 2)] ({ on with tier := { on.tier with regions := [{ no := 4, base := 16, len := 2, homed := true, mirrored := false, unprotected := false, single := false }] } })

def r_coherentRegionsControl_9 : Region :=
  got (s_coherentRegionsControl_9.tier.regions.find? (·.no == (obj s_coherentRegionsControl_9 0x2230 1 : Nat)))

theorem witness_CoherentRegionsControl_9 : ∃ (s : State) (no : Nat) (r : Region), no = obj s 0x2230 1 ∧ no ≤ 254 ∧ s.tier.regions.find? (·.no == no) = some r ∧ r.homed = true ∧ ¬(no = 254 ∧ twinned s = true ∧ ownNode s = 0) :=
  ⟨s_coherentRegionsControl_9, (obj s_coherentRegionsControl_9 0x2230 1 : Nat), r_coherentRegionsControl_9, rfl, by decide +kernel, by decide +kernel, by decide +kernel, by decide +kernel⟩

def s_coherentRegionsControl_10 : State :=
  sets [(0x2230, 1, 4), (0x2230, 2, 2)] (twin ({ on with tier := { on.tier with regions := [{ no := 4, base := 16, len := 2, homed := false, mirrored := false, unprotected := false, single := false }] } }))

def r_coherentRegionsControl_10 : Region :=
  got ((s_coherentRegionsControl_10.tier.regions).head?)

theorem witness_CoherentRegionsControl_10 : ∃ (s : State) (no : Nat) (r : Region), no = obj s 0x2230 1 ∧ no ≤ 254 ∧ r ∈ s.tier.regions ∧ r.no = no ∧ r.homed = false ∧ twinned s = true ∧ portUp s 12 = true ∧ portUp s 13 = true :=
  ⟨s_coherentRegionsControl_10, (obj s_coherentRegionsControl_10 0x2230 1 : Nat), r_coherentRegionsControl_10, rfl, by decide +kernel, by decide +kernel, by decide +kernel, by decide +kernel, by decide +kernel, by decide +kernel, by decide +kernel⟩

def x_basketStoreCommands_1 : Inflight :=
  got (startable ({ bkE with handle := 9, cdw10 := 160 } : Sqe) 0x81 (cq 0x81 on : State))

def b_basketStoreCommands_1 : Basket :=
  parseBasket (cq 0x81 on : State) ({ bkE with handle := 9, cdw10 := 160 } : Sqe).fn ({ bkE with handle := 9, cdw10 := 160 } : Sqe).handle ({ bkE with handle := 9, cdw10 := 160 } : Sqe).cdw10 ((image 0 : Bytes).take ({ bkE with handle := 9, cdw10 := 160 } : Sqe).cdw10)

def r_basketStoreCommands_1 : Nat :=
  got (loadReason (cq 0x81 on : State) b_basketStoreCommands_1 ((image 0 : Bytes).take ({ bkE with handle := 9, cdw10 := 160 } : Sqe).cdw10))

theorem witness_BasketStoreCommands_1 : ∃ (s : State) (e : Sqe) (x : Inflight) (img : Bytes) (b : Basket) (r : Nat), basketReady e 0x81 false (some 64) x s ∧ e.cdw10 ≤ 2 ^ 28 ∧ e.cdw15 ≤ 1 ∧ e.handle ≠ noHandle ∧ 1 ≤ e.cdw10 ∧ e.cdw10 ≤ img.length ∧ (findBasket s e.fn e.handle = none ∨ e.cdw15 = 1) ∧ b = parseBasket s e.fn e.handle e.cdw10 (img.take e.cdw10) ∧ loadReason s b (img.take e.cdw10) = some r :=
  ⟨(cq 0x81 on : State), ({ bkE with handle := 9, cdw10 := 160 } : Sqe), x_basketStoreCommands_1, (image 0 : Bytes), b_basketStoreCommands_1, r_basketStoreCommands_1, by unfold basketReady; decide +kernel, by decide +kernel, by decide +kernel, by decide +kernel, by decide +kernel, by decide +kernel, by decide +kernel, rfl, by decide +kernel⟩

def x_basketStoreCommands_2 : Inflight :=
  got (startable ({ bkE with handle := 9, cdw10 := 160 } : Sqe) 0x81 (cq 0x81 (fullPail on) : State))

def b_basketStoreCommands_2 : Basket :=
  parseBasket (cq 0x81 (fullPail on) : State) ({ bkE with handle := 9, cdw10 := 160 } : Sqe).fn ({ bkE with handle := 9, cdw10 := 160 } : Sqe).handle ({ bkE with handle := 9, cdw10 := 160 } : Sqe).cdw10 ((image 1 : Bytes).take ({ bkE with handle := 9, cdw10 := 160 } : Sqe).cdw10)

theorem witness_BasketStoreCommands_2 : ∃ (s : State) (e : Sqe) (x : Inflight) (img : Bytes) (b : Basket), basketReady e 0x81 false (some 64) x s ∧ e.cdw10 ≤ 2 ^ 28 ∧ e.cdw15 ≤ 1 ∧ e.handle ≠ noHandle ∧ 1 ≤ e.cdw10 ∧ e.cdw10 ≤ img.length ∧ (findBasket s e.fn e.handle = none ∨ e.cdw15 = 1) ∧ b = parseBasket s e.fn e.handle e.cdw10 (img.take e.cdw10) ∧ loadReason s b (img.take e.cdw10) = none ∧ (s.jobs.baskets.filter fun k => k.fn == e.fn && k.id != e.handle).length < 1024 ∧ storeFull (dropBasket e.fn e.handle s) (pagesOf e.cdw10) = false ∧ pailHasRoom s (pagesOf e.cdw10) 0 = false :=
  ⟨(cq 0x81 (fullPail on) : State), ({ bkE with handle := 9, cdw10 := 160 } : Sqe), x_basketStoreCommands_2, (image 1 : Bytes), b_basketStoreCommands_2, by unfold basketReady; decide +kernel, by decide +kernel, by decide +kernel, by decide +kernel, by decide +kernel, by decide +kernel, by decide +kernel, rfl, by decide +kernel, by decide +kernel, by decide +kernel, by decide +kernel⟩

def x_basketStoreCommands_3 : Inflight :=
  got (startable ({ bkE with handle := 9, cdw10 := 160 } : Sqe) 0x81 (cq 0x81 on : State))

def b_basketStoreCommands_3 : Basket :=
  parseBasket (cq 0x81 on : State) ({ bkE with handle := 9, cdw10 := 160 } : Sqe).fn ({ bkE with handle := 9, cdw10 := 160 } : Sqe).handle ({ bkE with handle := 9, cdw10 := 160 } : Sqe).cdw10 ((image 1 : Bytes).take ({ bkE with handle := 9, cdw10 := 160 } : Sqe).cdw10)

theorem witness_BasketStoreCommands_3 : ∃ (s : State) (e : Sqe) (x : Inflight) (img : Bytes) (b : Basket), basketReady e 0x81 false (some 64) x s ∧ e.cdw10 ≤ 2 ^ 28 ∧ e.cdw15 ≤ 1 ∧ e.handle ≠ noHandle ∧ 1 ≤ e.cdw10 ∧ e.cdw10 ≤ img.length ∧ (findBasket s e.fn e.handle = none ∨ e.cdw15 = 1) ∧ b = parseBasket s e.fn e.handle e.cdw10 (img.take e.cdw10) ∧ loadReason s b (img.take e.cdw10) = none ∧ (s.jobs.baskets.filter fun k => k.fn == e.fn && k.id != e.handle).length < 1024 ∧ storeFull (dropBasket e.fn e.handle s) (pagesOf e.cdw10) = false ∧ pailHasRoom s (pagesOf e.cdw10) 0 = true :=
  ⟨(cq 0x81 on : State), ({ bkE with handle := 9, cdw10 := 160 } : Sqe), x_basketStoreCommands_3, (image 1 : Bytes), b_basketStoreCommands_3, by unfold basketReady; decide +kernel, by decide +kernel, by decide +kernel, by decide +kernel, by decide +kernel, by decide +kernel, by decide +kernel, rfl, by decide +kernel, by decide +kernel, by decide +kernel, by decide +kernel⟩

def s_basketStoreCommands_4 : State :=
  { cq 0x81 on with jobs := { on.jobs with baskets := [bk0] } }

def x_basketStoreCommands_4 : Inflight :=
  got (startable ({ bkE with handle := 4, cdw15 := 1 } : Sqe) 0x81 s_basketStoreCommands_4)

def bk_basketStoreCommands_4 : Basket :=
  got (findBasket s_basketStoreCommands_4 ({ bkE with handle := 4, cdw15 := 1 } : Sqe).fn ({ bkE with handle := 4, cdw15 := 1 } : Sqe).handle)

theorem witness_BasketStoreCommands_4 : ∃ (s : State) (e : Sqe) (x : Inflight) (bk : Basket), basketReady e 0x81 false (some 64) x s ∧ e.cdw15 = 1 ∧ e.cdw10 = 0 ∧ e.handle ≠ noHandle ∧ findBasket s e.fn e.handle = some bk :=
  ⟨s_basketStoreCommands_4, ({ bkE with handle := 4, cdw15 := 1 } : Sqe), x_basketStoreCommands_4, bk_basketStoreCommands_4, by unfold basketReady; decide +kernel, by decide +kernel, by decide +kernel, by decide +kernel, by decide +kernel⟩

def e_jobAdmissionAndStart_1 : Sqe :=
  { bkE with handle := 4, cdw10 := 16, cdw14 := 0 }

def x_jobAdmissionAndStart_1 : Inflight :=
  got (startable e_jobAdmissionAndStart_1 0x85 (jobs jb0 none none [] [] (cq 0x85 on) : State))

def bk_jobAdmissionAndStart_1 : Basket :=
  got (findBasket (jobs jb0 none none [] [] (cq 0x85 on) : State) e_jobAdmissionAndStart_1.fn e_jobAdmissionAndStart_1.handle)

def objects_jobAdmissionAndStart_1 : List (Nat × Nat) :=
  ((bk_jobAdmissionAndStart_1.slots.zip (jobArgs (bytesOf 16 [(0, 1, 1)] : Bytes) : List (Nat × Nat × Bool))).map fun y => (slotKind y.1, y.2.1))

def slots_jobAdmissionAndStart_1 : List (Bytes × Nat) :=
  bk_jobAdmissionAndStart_1.slots.zip (objects_jobAdmissionAndStart_1.map (·.2))

def win_jobAdmissionAndStart_1 : Option Nat :=
  (if wantsExpress e_jobAdmissionAndStart_1 then admitExpress (jobs jb0 none none [] [] (cq 0x85 on) : State) (admitTime (jobs jb0 none none [] [] (cq 0x85 on) : State) bk_jobAdmissionAndStart_1) (rhoOf (jobs jb0 none none [] [] (cq 0x85 on) : State) slots_jobAdmissionAndStart_1) (timeLeft (jobs jb0 none none [] [] (cq 0x85 on) : State) (startedRec e_jobAdmissionAndStart_1 x_jobAdmissionAndStart_1).deadline) else if admitStandard (jobs jb0 none none [] [] (cq 0x85 on) : State) (admitTime (jobs jb0 none none [] [] (cq 0x85 on) : State) bk_jobAdmissionAndStart_1) (rhoOf (jobs jb0 none none [] [] (cq 0x85 on) : State) slots_jobAdmissionAndStart_1) (timeLeft (jobs jb0 none none [] [] (cq 0x85 on) : State) (startedRec e_jobAdmissionAndStart_1 x_jobAdmissionAndStart_1).deadline) then some 0 else none)

theorem witness_JobAdmissionAndStart_1 : ∃ (s : State) (e : Sqe) (x : Inflight) (args : Bytes) (bk : Basket) (a : List (Nat × Nat × Bool)) (objects : List (Nat × Nat)) (slots : List (Bytes × Nat)) (win : Option Nat), basketReady e 0x85 true (some 64) x s ∧ findBasket s e.fn e.handle = some bk ∧ a = jobArgs args ∧ objects = ((bk.slots.zip a).map fun y => (slotKind y.1, y.2.1)) ∧ slots = bk.slots.zip (objects.map (·.2)) ∧ e.cdw10 ≤ args.length ∧ e.cdw10 ≤ 2 ^ 20 ∧ e.cdw15 = 0 ∧ (bk.cls = 0 → wantsExpress e = false) ∧ (bk.cls = 1 → wantsExpress e = true) ∧ argsOk bk args e.cdw10 = true ∧ (wantsDigest e = true → (jobReads bk objects).length ≤ 16) ∧ handlesOk s e.fn bk a = true ∧ win = (if wantsExpress e then admitExpress s (admitTime s bk) (rhoOf s slots) (timeLeft s (startedRec e x).deadline) else if admitStandard s (admitTime s bk) (rhoOf s slots) (timeLeft s (startedRec e x).deadline) then some 0 else none) ∧ win.isSome = true ∧ pinnedBytes s + residentNew s slots ≤ cacheMiB s * 2 ^ 20 :=
  ⟨(jobs jb0 none none [] [] (cq 0x85 on) : State), e_jobAdmissionAndStart_1, x_jobAdmissionAndStart_1, (bytesOf 16 [(0, 1, 1)] : Bytes), bk_jobAdmissionAndStart_1, (jobArgs (bytesOf 16 [(0, 1, 1)] : Bytes) : List (Nat × Nat × Bool)), objects_jobAdmissionAndStart_1, slots_jobAdmissionAndStart_1, win_jobAdmissionAndStart_1, by unfold basketReady; decide +kernel, by decide +kernel, rfl, rfl, rfl, by decide +kernel, by decide +kernel, by decide +kernel, by decide +kernel, by decide +kernel, by decide +kernel, by decide +kernel, by decide +kernel, rfl, by decide +kernel⟩

def e_jobAdmissionAndStart_2 : Sqe :=
  { bkE with handle := 4, cdw10 := 16, cdw14 := 1 }

def x_jobAdmissionAndStart_2 : Inflight :=
  got (startable e_jobAdmissionAndStart_2 0x85 (jobs jb0 none none [] [] (cq 0x85 on) : State))

def bk_jobAdmissionAndStart_2 : Basket :=
  got (findBasket (jobs jb0 none none [] [] (cq 0x85 on) : State) e_jobAdmissionAndStart_2.fn e_jobAdmissionAndStart_2.handle)

def objects_jobAdmissionAndStart_2 : List (Nat × Nat) :=
  ((bk_jobAdmissionAndStart_2.slots.zip (jobArgs (bytesOf 16 [(0, 1, 1)] : Bytes) : List (Nat × Nat × Bool))).map fun y => (slotKind y.1, y.2.1))

def slots_jobAdmissionAndStart_2 : List (Bytes × Nat) :=
  bk_jobAdmissionAndStart_2.slots.zip (objects_jobAdmissionAndStart_2.map (·.2))

def win_jobAdmissionAndStart_2 : Option Nat :=
  (if wantsExpress e_jobAdmissionAndStart_2 then admitExpress (jobs jb0 none none [] [] (cq 0x85 on) : State) (admitTime (jobs jb0 none none [] [] (cq 0x85 on) : State) bk_jobAdmissionAndStart_2) (rhoOf (jobs jb0 none none [] [] (cq 0x85 on) : State) slots_jobAdmissionAndStart_2) (timeLeft (jobs jb0 none none [] [] (cq 0x85 on) : State) (startedRec e_jobAdmissionAndStart_2 x_jobAdmissionAndStart_2).deadline) else if admitStandard (jobs jb0 none none [] [] (cq 0x85 on) : State) (admitTime (jobs jb0 none none [] [] (cq 0x85 on) : State) bk_jobAdmissionAndStart_2) (rhoOf (jobs jb0 none none [] [] (cq 0x85 on) : State) slots_jobAdmissionAndStart_2) (timeLeft (jobs jb0 none none [] [] (cq 0x85 on) : State) (startedRec e_jobAdmissionAndStart_2 x_jobAdmissionAndStart_2).deadline) then some 0 else none)

theorem witness_JobAdmissionAndStart_2 : ∃ (s : State) (e : Sqe) (x : Inflight) (args : Bytes) (bk : Basket) (a : List (Nat × Nat × Bool)) (objects : List (Nat × Nat)) (slots : List (Bytes × Nat)) (win : Option Nat), basketReady e 0x85 true (some 64) x s ∧ findBasket s e.fn e.handle = some bk ∧ a = jobArgs args ∧ objects = ((bk.slots.zip a).map fun y => (slotKind y.1, y.2.1)) ∧ slots = bk.slots.zip (objects.map (·.2)) ∧ e.cdw10 ≤ args.length ∧ e.cdw10 ≤ 2 ^ 20 ∧ e.cdw15 = 0 ∧ (bk.cls = 0 → wantsExpress e = false) ∧ (bk.cls = 1 → wantsExpress e = true) ∧ argsOk bk args e.cdw10 = true ∧ (wantsDigest e = true → (jobReads bk objects).length ≤ 16) ∧ handlesOk s e.fn bk a = true ∧ win = (if wantsExpress e then admitExpress s (admitTime s bk) (rhoOf s slots) (timeLeft s (startedRec e x).deadline) else if admitStandard s (admitTime s bk) (rhoOf s slots) (timeLeft s (startedRec e x).deadline) then some 0 else none) ∧ (win = none ∨ cacheMiB s * 2 ^ 20 < pinnedBytes s + residentNew s slots) :=
  ⟨(jobs jb0 none none [] [] (cq 0x85 on) : State), e_jobAdmissionAndStart_2, x_jobAdmissionAndStart_2, (bytesOf 16 [(0, 1, 1)] : Bytes), bk_jobAdmissionAndStart_2, (jobArgs (bytesOf 16 [(0, 1, 1)] : Bytes) : List (Nat × Nat × Bool)), objects_jobAdmissionAndStart_2, slots_jobAdmissionAndStart_2, win_jobAdmissionAndStart_2, by unfold basketReady; decide +kernel, by decide +kernel, rfl, rfl, rfl, by decide +kernel, by decide +kernel, by decide +kernel, by decide +kernel, by decide +kernel, by decide +kernel, by decide +kernel, by decide +kernel, rfl, by decide +kernel⟩

def s_jobAdmissionAndStart_3 : State :=
  jobs { jb0 with st := 0 } none none [1] [] on

theorem witness_JobAdmissionAndStart_3 : ∃ (s : State) (j : Job), ownerJob s = none ∧ s.arr.testDue = false ∧ s.arr.testAsked = false ∧ s.thr.fa ≠ 0 ∧ nextJob s = some j :=
  ⟨s_jobAdmissionAndStart_3, ({ jb0 with st := 0 } : Job), by decide +kernel, by decide +kernel, by decide +kernel, by decide +kernel, by decide +kernel⟩

def s_jobAdmissionAndStart_4 : State :=
  { on with thr := { fa := 0, prog := 0, fab := 0 } }

theorem witness_JobAdmissionAndStart_4 : ∃ (s : State), ownerJob s = none ∧ s.thr.fa = 0 :=
  ⟨s_jobAdmissionAndStart_4, by decide +kernel, by decide +kernel⟩

def s_jobAdmissionAndStart_5 : State :=
  jobs { jb0 with st := 1 } (some 1) none [] [] on

theorem witness_JobAdmissionAndStart_5 : ∃ (s : State) (j : Job), ownerJob s = some j ∧ j.st = 1 ∧ s.jobs.preemptAsked = false ∧ residentIn s j = true :=
  ⟨s_jobAdmissionAndStart_5, got (ownerJob s_jobAdmissionAndStart_5), by decide +kernel, by decide +kernel, by decide +kernel, by decide +kernel⟩

def s_jobAdmissionAndStart_6 : State :=
  jobs { jb0 with st := 0 } none none [1] [] on

theorem witness_JobAdmissionAndStart_6 : ∃ (s : State) (j : Job), ownerJob s = none ∧ s.arr.testDue = false ∧ s.arr.testAsked = false ∧ s.thr.fa ≠ 0 ∧ nextJob s = some j ∧ j.basket.rennet = [] :=
  ⟨s_jobAdmissionAndStart_6, ({ jb0 with st := 0 } : Job), by decide +kernel, by decide +kernel, by decide +kernel, by decide +kernel, by decide +kernel, by decide +kernel⟩

def s_preemptionAndResume_2 : State :=
  let s := jobs jb0 (some 1) none [] [] on; { s with jobs := { s.jobs with preemptAsked := true } }

theorem witness_PreemptionAndResume_2 : ∃ (s : State) (j : Job), ownerJob s = some j ∧ s.jobs.preemptAsked = true ∧ (s.churn.updates.any (·.fromJob)) = false ∧ (∀ k, (queuedJobs s true).head? = some k → k.basket.rennet = [] ∧ k.id ≠ j.id) :=
  ⟨s_preemptionAndResume_2, jb0, by decide +kernel, by decide +kernel, by decide +kernel, by decide +kernel⟩

def s_preemptionAndResume_3 : State :=
  jobs { jb0 with st := 3, context := some ctx } none (some 1) [] [] on

def j_preemptionAndResume_3 : Job :=
  { jb0 with st := 3, context := some ctx }

theorem witness_PreemptionAndResume_3 : ∃ (s : State) (j : Job) (c : Context), s.jobs.owner = none ∧ s.jobs.preempted = some j.id ∧ findJob s j.id = some j ∧ expressReady s = none ∧ j.context = some c :=
  ⟨s_preemptionAndResume_3, j_preemptionAndResume_3, got (j_preemptionAndResume_3.context), by decide +kernel, by decide +kernel, by decide +kernel, by decide +kernel, by decide +kernel⟩

def s_jobEndsAndReadResult_1 : State :=
  jobs { jb0 with pos := 1 } (some 1) none [] [] { on with host := { on.host with sqs := [sqOf 0 2000], inflight := [{ fl 0 2000 7 0x85 with started := true }] }, time := 5000 }

def x_jobEndsAndReadResult_1 : Inflight :=
  got (inflight? s_jobEndsAndReadResult_1 (got (ownerJob s_jobEndsAndReadResult_1)).fn (got (ownerJob s_jobEndsAndReadResult_1)).sq (got (ownerJob s_jobEndsAndReadResult_1)).cid)

theorem witness_JobEndsAndReadResult_1 : ∃ (s : State) (j : Job) (x : Inflight), ownerJob s = some j ∧ j.st = 2 ∧ j.stage = none ∧ s.pwr.ps < 3 ∧ j.basket.ops.length ≤ j.pos ∧ s.jobs.threads = [] ∧ streamBusy s = false ∧ inflight? s j.fn j.sq j.cid = some x :=
  ⟨s_jobEndsAndReadResult_1, got (ownerJob s_jobEndsAndReadResult_1), x_jobEndsAndReadResult_1, by decide +kernel, by decide +kernel, by decide +kernel, by decide +kernel, by decide +kernel, by decide +kernel, by decide +kernel, by decide +kernel⟩

def s_jobEndsAndReadResult_2 : State :=
  jobs jb0 (some 1) none [] [] { on with host := { on.host with sqs := [sqOf 0 2000], inflight := [{ fl 0 2000 7 0x85 with started := true }] }, time := 5000 }

def x_jobEndsAndReadResult_2 : Inflight :=
  got (inflight? s_jobEndsAndReadResult_2 (got (ownerJob s_jobEndsAndReadResult_2)).fn (got (ownerJob s_jobEndsAndReadResult_2)).sq (got (ownerJob s_jobEndsAndReadResult_2)).cid)

theorem witness_JobEndsAndReadResult_2 : ∃ (s : State) (j : Job) (x : Inflight), ownerJob s = some j ∧ (j.st = 1 ∨ j.st = 2) ∧ j.stage = none ∧ 16 * j.basket.wcet ≤ runTimeOf s j * s.thr.fa ∧ inflight? s j.fn j.sq j.cid = some x :=
  ⟨s_jobEndsAndReadResult_2, got (ownerJob s_jobEndsAndReadResult_2), x_jobEndsAndReadResult_2, by decide +kernel, by decide +kernel, by decide +kernel, by decide +kernel, by decide +kernel⟩

def s_jobEndsAndReadResult_3 : State :=
  let s := cq 0x82 on; { s with jobs := { s.jobs with outputs := [{ job := 4, fn := 0, len := 64, data := [(40, 7)], poison := [] }] } }

def e_jobEndsAndReadResult_3 : Sqe :=
  { bkE with handle := 4, cdw10 := 128, cdw12 := 32, cdw15 := 1 }

def x_jobEndsAndReadResult_3 : Inflight :=
  got (startable e_jobEndsAndReadResult_3 0x82 s_jobEndsAndReadResult_3)

def o_jobEndsAndReadResult_3 : Output :=
  got ((s_jobEndsAndReadResult_3.jobs.outputs.find? fun o => o.job == e_jobEndsAndReadResult_3.handle && o.fn == e_jobEndsAndReadResult_3.fn))

def off_jobEndsAndReadResult_3 : Nat :=
  e_jobEndsAndReadResult_3.cdw12 + e_jobEndsAndReadResult_3.cdw13 * 2 ^ 32

def n_jobEndsAndReadResult_3 : Nat :=
  min e_jobEndsAndReadResult_3.cdw10 (o_jobEndsAndReadResult_3.len - off_jobEndsAndReadResult_3)

theorem witness_JobEndsAndReadResult_3 : ∃ (s : State) (e : Sqe) (x : Inflight) (o : Output) (n : Nat) (off : Nat), basketReady e 0x82 false none x s ∧ e.cdw10 ≤ 2 ^ 21 ∧ e.cdw15 ≤ 1 ∧ (s.jobs.outputs.find? fun o => o.job == e.handle && o.fn == e.fn) = some o ∧ off = e.cdw12 + e.cdw13 * 2 ^ 32 ∧ n = min e.cdw10 (o.len - off) ∧ memAny o.poison off n = false :=
  ⟨s_jobEndsAndReadResult_3, e_jobEndsAndReadResult_3, x_jobEndsAndReadResult_3, o_jobEndsAndReadResult_3, n_jobEndsAndReadResult_3, off_jobEndsAndReadResult_3, by unfold basketReady; decide +kernel, by decide +kernel, by decide +kernel, by decide +kernel, rfl, rfl, by decide +kernel⟩

def j_threadAccessesAndCandidates_1 : Job :=
  got (((readyThread (threaded false 0 (t1 5 0) : State) (th false : ThreadId)).map (Prod.fst)))

def x_threadAccessesAndCandidates_1 : Thread :=
  got (((readyThread (threaded false 0 (t1 5 0) : State) (th false : ThreadId)).map (Prod.snd)))

def c_threadAccessesAndCandidates_1 : Nat :=
  got (((sramTarget (threaded false 0 (t1 5 0) : State) j_threadAccessesAndCandidates_1 (th false : ThreadId) (.cellSram 15 64 : Target) 64).map (Prod.fst)))

def off_threadAccessesAndCandidates_1 : Nat :=
  got (((sramTarget (threaded false 0 (t1 5 0) : State) j_threadAccessesAndCandidates_1 (th false : ThreadId) (.cellSram 15 64 : Target) 64).map (Prod.snd)))

theorem witness_ThreadAccessesAndCandidates_1 : ∃ (s : State) (k : ThreadId) (j : Job) (x : Thread) (tg : Target) (len : Nat) (c : Nat) (off : Nat), readyThread s k = some (j, x) ∧ (∃ o, tg = .sram o ∨ ∃ e, tg = .cellSram e o) ∧ sramTarget s j k tg len = some (c, off) ∧ sramBad s c off len = false :=
  ⟨(threaded false 0 (t1 5 0) : State), (th false : ThreadId), j_threadAccessesAndCandidates_1, x_threadAccessesAndCandidates_1, (.cellSram 15 64 : Target), 64, c_threadAccessesAndCandidates_1, off_threadAccessesAndCandidates_1, by decide +kernel, ⟨64, .inr ⟨15, rfl⟩⟩, by decide +kernel, by decide +kernel⟩

def s_threadAccessesAndCandidates_2 : State :=
  let s := threaded false 0 (t1 5 0); { s with arr := { s.arr with poison := [(3 * 2 ^ 21 + 64, 1)] } }

def j_threadAccessesAndCandidates_2 : Job :=
  got (((readyThread s_threadAccessesAndCandidates_2 (th false : ThreadId)).map (Prod.fst)))

def x_threadAccessesAndCandidates_2 : Thread :=
  got (((readyThread s_threadAccessesAndCandidates_2 (th false : ThreadId)).map (Prod.snd)))

def c_threadAccessesAndCandidates_2 : Nat :=
  got (((sramTarget s_threadAccessesAndCandidates_2 j_threadAccessesAndCandidates_2 (th false : ThreadId) (.sram 64 : Target) 2).map (Prod.fst)))

def off_threadAccessesAndCandidates_2 : Nat :=
  got (((sramTarget s_threadAccessesAndCandidates_2 j_threadAccessesAndCandidates_2 (th false : ThreadId) (.sram 64 : Target) 2).map (Prod.snd)))

theorem witness_ThreadAccessesAndCandidates_2 : ∃ (s : State) (k : ThreadId) (j : Job) (x : Thread) (tg : Target) (len : Nat) (c : Nat) (off : Nat), readyThread s k = some (j, x) ∧ (∃ o, tg = .sram o ∨ ∃ e, tg = .cellSram e o) ∧ sramTarget s j k tg len = some (c, off) ∧ sramBad s c off len = true :=
  ⟨s_threadAccessesAndCandidates_2, (th false : ThreadId), j_threadAccessesAndCandidates_2, x_threadAccessesAndCandidates_2, (.sram 64 : Target), 2, c_threadAccessesAndCandidates_2, off_threadAccessesAndCandidates_2, by decide +kernel, ⟨64, .inl rfl⟩, by decide +kernel, by decide +kernel⟩

def j_threadAccessesAndCandidates_3 : Job :=
  got (((readyThread (threaded false 0 (t1 5 0) : State) (th false : ThreadId)).map (Prod.fst)))

def x_threadAccessesAndCandidates_3 : Thread :=
  got (((readyThread (threaded false 0 (t1 5 0) : State) (th false : ThreadId)).map (Prod.snd)))

def c_threadAccessesAndCandidates_3 : Nat :=
  got (((sramTarget (threaded false 0 (t1 5 0) : State) j_threadAccessesAndCandidates_3 (th false : ThreadId) (.sram 64 : Target) 2).map (Prod.fst)))

def off_threadAccessesAndCandidates_3 : Nat :=
  got (((sramTarget (threaded false 0 (t1 5 0) : State) j_threadAccessesAndCandidates_3 (th false : ThreadId) (.sram 64 : Target) 2).map (Prod.snd)))

theorem witness_ThreadAccessesAndCandidates_3 : ∃ (s : State) (k : ThreadId) (j : Job) (x : Thread) (tg : Target) (len : Nat) (c : Nat) (off : Nat), readyThread s k = some (j, x) ∧ (∃ o, tg = .sram o ∨ ∃ e, tg = .cellSram e o) ∧ sramTarget s j k tg len = some (c, off) :=
  ⟨(threaded false 0 (t1 5 0) : State), (th false : ThreadId), j_threadAccessesAndCandidates_3, x_threadAccessesAndCandidates_3, (.sram 64 : Target), 2, c_threadAccessesAndCandidates_3, off_threadAccessesAndCandidates_3, by decide +kernel, ⟨64, .inl rfl⟩, by decide +kernel⟩

def j_threadAccessesAndCandidates_4 : Job :=
  got (((readyThread (threaded false 0 (t1 5 0) : State) (th false : ThreadId)).map (Prod.fst)))

def x_threadAccessesAndCandidates_4 : Thread :=
  got (((readyThread (threaded false 0 (t1 5 0) : State) (th false : ThreadId)).map (Prod.snd)))

def c_threadAccessesAndCandidates_4 : Nat :=
  got (((sramTarget (threaded false 0 (t1 5 0) : State) j_threadAccessesAndCandidates_4 (th false : ThreadId) (.sram 64 : Target) 2).map (Prod.fst)))

def off_threadAccessesAndCandidates_4 : Nat :=
  got (((sramTarget (threaded false 0 (t1 5 0) : State) j_threadAccessesAndCandidates_4 (th false : ThreadId) (.sram 64 : Target) 2).map (Prod.snd)))

theorem witness_ThreadAccessesAndCandidates_4 : ∃ (s : State) (k : ThreadId) (j : Job) (x : Thread) (tg : Target) (len : Nat) (c : Nat) (off : Nat) (data : Bytes), readyThread s k = some (j, x) ∧ (∃ o, tg = .sram o ∨ ∃ e, tg = .cellSram e o) ∧ sramTarget s j k tg len = some (c, off) ∧ data.length = len ∧ x.stores < 16 :=
  ⟨(threaded false 0 (t1 5 0) : State), (th false : ThreadId), j_threadAccessesAndCandidates_4, x_threadAccessesAndCandidates_4, (.sram 64 : Target), 2, c_threadAccessesAndCandidates_4, off_threadAccessesAndCandidates_4, ([1, 2] : Bytes), by decide +kernel, ⟨64, .inl rfl⟩, by decide +kernel, by decide +kernel, by decide +kernel⟩

def j_threadAccessesAndCandidates_5 : Job :=
  got (((readyThread (threaded false 0 (t1 5 0) : State) (th false : ThreadId)).map (Prod.fst)))

def x_threadAccessesAndCandidates_5 : Thread :=
  got (((readyThread (threaded false 0 (t1 5 0) : State) (th false : ThreadId)).map (Prod.snd)))

theorem witness_ThreadAccessesAndCandidates_5 : ∃ (s : State) (k : ThreadId) (j : Job) (x : Thread) (tg : Target) (len : Nat), readyThread s k = some (j, x) ∧ (∃ o, tg = .sram o ∨ ∃ e, tg = .cellSram e o) ∧ sramTarget s j k tg len = none :=
  ⟨(threaded false 0 (t1 5 0) : State), (th false : ThreadId), j_threadAccessesAndCandidates_5, x_threadAccessesAndCandidates_5, (.sram 64 : Target), 65, by decide +kernel, ⟨64, .inl rfl⟩, by decide +kernel⟩

def j_threadAccessesAndCandidates_6 : Job :=
  got (((readyThread (threaded false 0 (t1 5 0) : State) (th false : ThreadId)).map (Prod.fst)))

def x_threadAccessesAndCandidates_6 : Thread :=
  got (((readyThread (threaded false 0 (t1 5 0) : State) (th false : ThreadId)).map (Prod.snd)))

theorem witness_ThreadAccessesAndCandidates_6 : ∃ (s : State) (k : ThreadId) (j : Job) (x : Thread) (tg : Target) (len : Nat) (data : Bytes), readyThread s k = some (j, x) ∧ (∃ o, tg = .sram o ∨ ∃ e, tg = .cellSram e o) ∧ sramTarget s j k tg len = none ∧ data.length = len ∧ x.stores < 16 :=
  ⟨(threaded false 0 (t1 5 0) : State), (th false : ThreadId), j_threadAccessesAndCandidates_6, x_threadAccessesAndCandidates_6, (.sram 64 : Target), 0, ([] : Bytes), by decide +kernel, ⟨64, .inl rfl⟩, by decide +kernel, by decide +kernel, by decide +kernel⟩

def j_threadAccessesAndCandidates_7 : Job :=
  got (((readyThread (threaded false 0 (t1 5 0) : State) (th false : ThreadId)).map (Prod.fst)))

def x_threadAccessesAndCandidates_7 : Thread :=
  got (((readyThread (threaded false 0 (t1 5 0) : State) (th false : ThreadId)).map (Prod.snd)))

theorem witness_ThreadAccessesAndCandidates_7 : ∃ (s : State) (k : ThreadId) (j : Job) (x : Thread) (slot : Nat) (tile : Nat) (off : Nat) (len : Nat), readyThread s k = some (j, x) ∧ objectTarget s j slot tile off len = none :=
  ⟨(threaded false 0 (t1 5 0) : State), (th false : ThreadId), j_threadAccessesAndCandidates_7, x_threadAccessesAndCandidates_7, 5, 0, 0, 8, by decide +kernel, by decide +kernel⟩

def j_threadAccessesAndCandidates_8 : Job :=
  got (((readyThread (threaded false 0 (t1 5 0) : State) (th false : ThreadId)).map (Prod.fst)))

def x_threadAccessesAndCandidates_8 : Thread :=
  got (((readyThread (threaded false 0 (t1 5 0) : State) (th false : ThreadId)).map (Prod.snd)))

theorem witness_ThreadAccessesAndCandidates_8 : ∃ (s : State) (k : ThreadId) (j : Job) (x : Thread) (slot : Nat) (tile : Nat) (off : Nat) (len : Nat) (data : Bytes), readyThread s k = some (j, x) ∧ objectTarget s j slot tile off len = none ∧ data.length = len ∧ x.stores < 16 :=
  ⟨(threaded false 0 (t1 5 0) : State), (th false : ThreadId), j_threadAccessesAndCandidates_8, x_threadAccessesAndCandidates_8, 5, 0, 0, 2, ([1, 2] : Bytes), by decide +kernel, by decide +kernel, by decide +kernel, by decide +kernel⟩

def j_threadAccessesAndCandidates_9 : Job :=
  got (((readyThread (threaded false 0 (t1 5 0) : State) (th false : ThreadId)).map (Prod.fst)))

def x_threadAccessesAndCandidates_9 : Thread :=
  got (((readyThread (threaded false 0 (t1 5 0) : State) (th false : ThreadId)).map (Prod.snd)))

def sl_threadAccessesAndCandidates_9 : Bytes :=
  got (((objectTarget (threaded false 0 (t1 5 0) : State) j_threadAccessesAndCandidates_9 0 0 16 8).map (Prod.fst)))

def o_threadAccessesAndCandidates_9 : PObj :=
  got (((objectTarget (threaded false 0 (t1 5 0) : State) j_threadAccessesAndCandidates_9 0 0 16 8).map (Prod.snd)))

def u_threadAccessesAndCandidates_9 : Tile :=
  tileOf (threaded false 0 (t1 5 0) : State) o_threadAccessesAndCandidates_9.id 0

theorem witness_ThreadAccessesAndCandidates_9 : ∃ (s : State) (k : ThreadId) (j : Job) (x : Thread) (slot : Nat) (tile : Nat) (off : Nat) (len : Nat) (sl : Bytes) (o : PObj) (u : Tile), readyThread s k = some (j, x) ∧ objectTarget s j slot tile off len = some (sl, o) ∧ u = tileOf s o.id tile ∧ storeAhead s k j = false ∧ tileAway s u = false ∧ needsFetch u = false ∧ u.poison = false :=
  ⟨(threaded false 0 (t1 5 0) : State), (th false : ThreadId), j_threadAccessesAndCandidates_9, x_threadAccessesAndCandidates_9, 0, 0, 16, 8, sl_threadAccessesAndCandidates_9, o_threadAccessesAndCandidates_9, u_threadAccessesAndCandidates_9, by decide +kernel, by decide +kernel, rfl, by decide +kernel, by decide +kernel, by decide +kernel, by decide +kernel⟩

def s_threadAccessesAndCandidates_10 : State :=
  threaded false 0 ({ t1 5 0 with poison := true })

def j_threadAccessesAndCandidates_10 : Job :=
  got (((readyThread s_threadAccessesAndCandidates_10 (th false : ThreadId)).map (Prod.fst)))

def x_threadAccessesAndCandidates_10 : Thread :=
  got (((readyThread s_threadAccessesAndCandidates_10 (th false : ThreadId)).map (Prod.snd)))

def sl_threadAccessesAndCandidates_10 : Bytes :=
  got (((objectTarget s_threadAccessesAndCandidates_10 j_threadAccessesAndCandidates_10 0 0 16 8).map (Prod.fst)))

def o_threadAccessesAndCandidates_10 : PObj :=
  got (((objectTarget s_threadAccessesAndCandidates_10 j_threadAccessesAndCandidates_10 0 0 16 8).map (Prod.snd)))

def u_threadAccessesAndCandidates_10 : Tile :=
  tileOf s_threadAccessesAndCandidates_10 o_threadAccessesAndCandidates_10.id 0

theorem witness_ThreadAccessesAndCandidates_10 : ∃ (s : State) (k : ThreadId) (j : Job) (x : Thread) (slot : Nat) (tile : Nat) (off : Nat) (len : Nat) (sl : Bytes) (o : PObj) (u : Tile), readyThread s k = some (j, x) ∧ objectTarget s j slot tile off len = some (sl, o) ∧ u = tileOf s o.id tile ∧ storeAhead s k j = false ∧ tileAway s u = false ∧ needsFetch u = false ∧ u.poison = true :=
  ⟨s_threadAccessesAndCandidates_10, (th false : ThreadId), j_threadAccessesAndCandidates_10, x_threadAccessesAndCandidates_10, 0, 0, 16, 8, sl_threadAccessesAndCandidates_10, o_threadAccessesAndCandidates_10, u_threadAccessesAndCandidates_10, by decide +kernel, by decide +kernel, rfl, by decide +kernel, by decide +kernel, by decide +kernel, by decide +kernel⟩

def s_threadAccessesAndCandidates_11 : State :=
  threaded false 0 ({ t1 5 0 with inT1 := false })

def j_threadAccessesAndCandidates_11 : Job :=
  got (((readyThread s_threadAccessesAndCandidates_11 (th false : ThreadId)).map (Prod.fst)))

def x_threadAccessesAndCandidates_11 : Thread :=
  got (((readyThread s_threadAccessesAndCandidates_11 (th false : ThreadId)).map (Prod.snd)))

def sl_threadAccessesAndCandidates_11 : Bytes :=
  got (((objectTarget s_threadAccessesAndCandidates_11 j_threadAccessesAndCandidates_11 0 0 16 8).map (Prod.fst)))

def o_threadAccessesAndCandidates_11 : PObj :=
  got (((objectTarget s_threadAccessesAndCandidates_11 j_threadAccessesAndCandidates_11 0 0 16 8).map (Prod.snd)))

def u_threadAccessesAndCandidates_11 : Tile :=
  tileOf s_threadAccessesAndCandidates_11 o_threadAccessesAndCandidates_11.id 0

theorem witness_ThreadAccessesAndCandidates_11 : ∃ (s : State) (k : ThreadId) (j : Job) (x : Thread) (slot : Nat) (tile : Nat) (off : Nat) (len : Nat) (sl : Bytes) (o : PObj) (u : Tile), readyThread s k = some (j, x) ∧ objectTarget s j slot tile off len = some (sl, o) ∧ u = tileOf s o.id tile ∧ storeAhead s k j = false ∧ tileAway s u = false ∧ needsFetch u = true :=
  ⟨s_threadAccessesAndCandidates_11, (th false : ThreadId), j_threadAccessesAndCandidates_11, x_threadAccessesAndCandidates_11, 0, 0, 16, 8, sl_threadAccessesAndCandidates_11, o_threadAccessesAndCandidates_11, u_threadAccessesAndCandidates_11, by decide +kernel, by decide +kernel, rfl, by decide +kernel, by decide +kernel, by decide +kernel⟩

def s_threadAccessesAndCandidates_12 : State :=
  sys (threaded false 0 ({ t1 5 0 with inT1 := false, node := 1 }))

def j_threadAccessesAndCandidates_12 : Job :=
  got (((readyThread s_threadAccessesAndCandidates_12 (th false : ThreadId)).map (Prod.fst)))

def x_threadAccessesAndCandidates_12 : Thread :=
  got (((readyThread s_threadAccessesAndCandidates_12 (th false : ThreadId)).map (Prod.snd)))

def sl_threadAccessesAndCandidates_12 : Bytes :=
  got (((objectTarget s_threadAccessesAndCandidates_12 j_threadAccessesAndCandidates_12 0 0 16 8).map (Prod.fst)))

def o_threadAccessesAndCandidates_12 : PObj :=
  got (((objectTarget s_threadAccessesAndCandidates_12 j_threadAccessesAndCandidates_12 0 0 16 8).map (Prod.snd)))

def u_threadAccessesAndCandidates_12 : Tile :=
  tileOf s_threadAccessesAndCandidates_12 o_threadAccessesAndCandidates_12.id 0

theorem witness_ThreadAccessesAndCandidates_12 : ∃ (s : State) (k : ThreadId) (j : Job) (x : Thread) (slot : Nat) (tile : Nat) (off : Nat) (len : Nat) (sl : Bytes) (o : PObj) (u : Tile), readyThread s k = some (j, x) ∧ objectTarget s j slot tile off len = some (sl, o) ∧ u = tileOf s o.id tile ∧ storeAhead s k j = false ∧ tileAway s u = true ∧ nodeNamed s u.node = true ∧ t3Open s u.node = true :=
  ⟨s_threadAccessesAndCandidates_12, (th false : ThreadId), j_threadAccessesAndCandidates_12, x_threadAccessesAndCandidates_12, 0, 0, 16, 8, sl_threadAccessesAndCandidates_12, o_threadAccessesAndCandidates_12, u_threadAccessesAndCandidates_12, by decide +kernel, by decide +kernel, rfl, by decide +kernel, by decide +kernel, by decide +kernel, by decide +kernel⟩

def s_threadAccessesAndCandidates_13 : State :=
  let s := threaded false 0 (t1 5 0); { s with jobs := { s.jobs with jobs := [{ jb (dsc [(0, 1, 0x21)]) with basket := { bk (dsc [(0, 1, 0x21)]) with slots := [bytesOf 16 []] } }] } }

def j_threadAccessesAndCandidates_13 : Job :=
  got (((readyThread s_threadAccessesAndCandidates_13 (th false : ThreadId)).map (Prod.fst)))

def x_threadAccessesAndCandidates_13 : Thread :=
  got (((readyThread s_threadAccessesAndCandidates_13 (th false : ThreadId)).map (Prod.snd)))

def sl_threadAccessesAndCandidates_13 : Bytes :=
  got (((objectTarget s_threadAccessesAndCandidates_13 j_threadAccessesAndCandidates_13 0 0 16 2).map (Prod.fst)))

def o_threadAccessesAndCandidates_13 : PObj :=
  got (((objectTarget s_threadAccessesAndCandidates_13 j_threadAccessesAndCandidates_13 0 0 16 2).map (Prod.snd)))

def u_threadAccessesAndCandidates_13 : Tile :=
  tileOf s_threadAccessesAndCandidates_13 o_threadAccessesAndCandidates_13.id 0

theorem witness_ThreadAccessesAndCandidates_13 : ∃ (s : State) (k : ThreadId) (j : Job) (x : Thread) (slot : Nat) (tile : Nat) (off : Nat) (len : Nat) (sl : Bytes) (o : PObj) (u : Tile) (data : Bytes), readyThread s k = some (j, x) ∧ objectTarget s j slot tile off len = some (sl, o) ∧ u = tileOf s o.id tile ∧ storeAhead s k j = false ∧ data.length = len ∧ x.stores < 16 ∧ slotAccess sl = 0 :=
  ⟨s_threadAccessesAndCandidates_13, (th false : ThreadId), j_threadAccessesAndCandidates_13, x_threadAccessesAndCandidates_13, 0, 0, 16, 2, sl_threadAccessesAndCandidates_13, o_threadAccessesAndCandidates_13, u_threadAccessesAndCandidates_13, ([1, 2] : Bytes), by decide +kernel, by decide +kernel, rfl, by decide +kernel, by decide +kernel, by decide +kernel, by decide +kernel⟩

def j_threadAccessesAndCandidates_14 : Job :=
  got (((readyThread (threaded false 0 (t1 5 0) : State) (th false : ThreadId)).map (Prod.fst)))

def x_threadAccessesAndCandidates_14 : Thread :=
  got (((readyThread (threaded false 0 (t1 5 0) : State) (th false : ThreadId)).map (Prod.snd)))

def sl_threadAccessesAndCandidates_14 : Bytes :=
  got (((objectTarget (threaded false 0 (t1 5 0) : State) j_threadAccessesAndCandidates_14 0 0 16 2).map (Prod.fst)))

def o_threadAccessesAndCandidates_14 : PObj :=
  got (((objectTarget (threaded false 0 (t1 5 0) : State) j_threadAccessesAndCandidates_14 0 0 16 2).map (Prod.snd)))

def u_threadAccessesAndCandidates_14 : Tile :=
  tileOf (threaded false 0 (t1 5 0) : State) o_threadAccessesAndCandidates_14.id 0

theorem witness_ThreadAccessesAndCandidates_14 : ∃ (s : State) (k : ThreadId) (j : Job) (x : Thread) (slot : Nat) (tile : Nat) (off : Nat) (len : Nat) (sl : Bytes) (o : PObj) (u : Tile) (data : Bytes), readyThread s k = some (j, x) ∧ objectTarget s j slot tile off len = some (sl, o) ∧ u = tileOf s o.id tile ∧ storeAhead s k j = false ∧ data.length = len ∧ x.stores < 16 ∧ slotAccess sl ≠ 0 ∧ u.node = ownNode s ∧ auditHeld s j.id (auditName s o.id).1 (auditName s o.id).2 = false ∧ u.held = false ∧ needsFetch u = false :=
  ⟨(threaded false 0 (t1 5 0) : State), (th false : ThreadId), j_threadAccessesAndCandidates_14, x_threadAccessesAndCandidates_14, 0, 0, 16, 2, sl_threadAccessesAndCandidates_14, o_threadAccessesAndCandidates_14, u_threadAccessesAndCandidates_14, ([1, 2] : Bytes), by decide +kernel, by decide +kernel, rfl, by decide +kernel, by decide +kernel, by decide +kernel, by decide +kernel, by decide +kernel, by decide +kernel, by decide +kernel, by decide +kernel⟩

def s_threadAccessesAndCandidates_15 : State :=
  threaded false 0 ({ t1 5 0 with inT1 := false })

def j_threadAccessesAndCandidates_15 : Job :=
  got (((readyThread s_threadAccessesAndCandidates_15 (th false : ThreadId)).map (Prod.fst)))

def x_threadAccessesAndCandidates_15 : Thread :=
  got (((readyThread s_threadAccessesAndCandidates_15 (th false : ThreadId)).map (Prod.snd)))

def sl_threadAccessesAndCandidates_15 : Bytes :=
  got (((objectTarget s_threadAccessesAndCandidates_15 j_threadAccessesAndCandidates_15 0 0 16 2).map (Prod.fst)))

def o_threadAccessesAndCandidates_15 : PObj :=
  got (((objectTarget s_threadAccessesAndCandidates_15 j_threadAccessesAndCandidates_15 0 0 16 2).map (Prod.snd)))

def u_threadAccessesAndCandidates_15 : Tile :=
  tileOf s_threadAccessesAndCandidates_15 o_threadAccessesAndCandidates_15.id 0

theorem witness_ThreadAccessesAndCandidates_15 : ∃ (s : State) (k : ThreadId) (j : Job) (x : Thread) (slot : Nat) (tile : Nat) (off : Nat) (len : Nat) (sl : Bytes) (o : PObj) (u : Tile) (data : Bytes), readyThread s k = some (j, x) ∧ objectTarget s j slot tile off len = some (sl, o) ∧ u = tileOf s o.id tile ∧ storeAhead s k j = false ∧ data.length = len ∧ x.stores < 16 ∧ slotAccess sl ≠ 0 ∧ u.node = ownNode s ∧ (auditHeld s j.id (auditName s o.id).1 (auditName s o.id).2 = true ∨ u.held = true ∨ needsFetch u = true) :=
  ⟨s_threadAccessesAndCandidates_15, (th false : ThreadId), j_threadAccessesAndCandidates_15, x_threadAccessesAndCandidates_15, 0, 0, 16, 2, sl_threadAccessesAndCandidates_15, o_threadAccessesAndCandidates_15, u_threadAccessesAndCandidates_15, ([1, 2] : Bytes), by decide +kernel, by decide +kernel, rfl, by decide +kernel, by decide +kernel, by decide +kernel, by decide +kernel, by decide +kernel, by decide +kernel⟩

def s_threadAccessesAndCandidates_16 : State :=
  sys (threaded false 0 ({ t1 5 0 with inT1 := false, node := 1 }))

def j_threadAccessesAndCandidates_16 : Job :=
  got (((readyThread s_threadAccessesAndCandidates_16 (th false : ThreadId)).map (Prod.fst)))

def x_threadAccessesAndCandidates_16 : Thread :=
  got (((readyThread s_threadAccessesAndCandidates_16 (th false : ThreadId)).map (Prod.snd)))

def sl_threadAccessesAndCandidates_16 : Bytes :=
  got (((objectTarget s_threadAccessesAndCandidates_16 j_threadAccessesAndCandidates_16 0 0 16 2).map (Prod.fst)))

def o_threadAccessesAndCandidates_16 : PObj :=
  got (((objectTarget s_threadAccessesAndCandidates_16 j_threadAccessesAndCandidates_16 0 0 16 2).map (Prod.snd)))

def u_threadAccessesAndCandidates_16 : Tile :=
  tileOf s_threadAccessesAndCandidates_16 o_threadAccessesAndCandidates_16.id 0

theorem witness_ThreadAccessesAndCandidates_16 : ∃ (s : State) (k : ThreadId) (j : Job) (x : Thread) (slot : Nat) (tile : Nat) (off : Nat) (len : Nat) (sl : Bytes) (o : PObj) (u : Tile) (data : Bytes), readyThread s k = some (j, x) ∧ objectTarget s j slot tile off len = some (sl, o) ∧ u = tileOf s o.id tile ∧ storeAhead s k j = false ∧ data.length = len ∧ x.stores < 16 ∧ slotAccess sl ≠ 0 ∧ u.node ≠ ownNode s ∧ nodeNamed s u.node = true ∧ t3Open s u.node = true :=
  ⟨s_threadAccessesAndCandidates_16, (th false : ThreadId), j_threadAccessesAndCandidates_16, x_threadAccessesAndCandidates_16, 0, 0, 16, 2, sl_threadAccessesAndCandidates_16, o_threadAccessesAndCandidates_16, u_threadAccessesAndCandidates_16, ([1, 2] : Bytes), by decide +kernel, by decide +kernel, rfl, by decide +kernel, by decide +kernel, by decide +kernel, by decide +kernel, by decide +kernel, by decide +kernel, by decide +kernel⟩

def j_threadAccessesAndCandidates_17 : Job :=
  got (((readyThread (threaded false 0 (t1 5 0) : State) (th false : ThreadId)).map (Prod.fst)))

def x_threadAccessesAndCandidates_17 : Thread :=
  got (((readyThread (threaded false 0 (t1 5 0) : State) (th false : ThreadId)).map (Prod.snd)))

def u_threadAccessesAndCandidates_17 : State :=
  (if inCoherent 64 64 then healCoherent 64 64 (threaded false 0 (t1 5 0) : State) else (threaded false 0 (t1 5 0) : State))

theorem witness_ThreadAccessesAndCandidates_17 : ∃ (s : State) (k : ThreadId) (j : Job) (x : Thread) (off : Nat) (len : Nat) (u : State), readyThread s k = some (j, x) ∧ storeAhead s k j = false ∧ u = (if inCoherent off len then healCoherent off len s else s) ∧ windowCheck s j.fn off len = 0 ∧ homedAway s off len = false ∧ (windowRead u off len).2 = 0 :=
  ⟨(threaded false 0 (t1 5 0) : State), (th false : ThreadId), j_threadAccessesAndCandidates_17, x_threadAccessesAndCandidates_17, 64, 64, u_threadAccessesAndCandidates_17, by decide +kernel, by decide +kernel, rfl, by decide +kernel, by decide +kernel, by decide +kernel⟩

def s_threadAccessesAndCandidates_18 : State :=
  let s := threaded false 0 (t1 5 0); { s with tier := { s.tier with windowPoison := [(64, 1)] } }

def j_threadAccessesAndCandidates_18 : Job :=
  got (((readyThread s_threadAccessesAndCandidates_18 (th false : ThreadId)).map (Prod.fst)))

def x_threadAccessesAndCandidates_18 : Thread :=
  got (((readyThread s_threadAccessesAndCandidates_18 (th false : ThreadId)).map (Prod.snd)))

def u_threadAccessesAndCandidates_18 : State :=
  (if inCoherent 64 64 then healCoherent 64 64 s_threadAccessesAndCandidates_18 else s_threadAccessesAndCandidates_18)

theorem witness_ThreadAccessesAndCandidates_18 : ∃ (s : State) (k : ThreadId) (j : Job) (x : Thread) (off : Nat) (len : Nat) (u : State), readyThread s k = some (j, x) ∧ storeAhead s k j = false ∧ u = (if inCoherent off len then healCoherent off len s else s) ∧ windowCheck s j.fn off len = 0 ∧ homedAway s off len = false ∧ (windowRead u off len).2 ≠ 0 :=
  ⟨s_threadAccessesAndCandidates_18, (th false : ThreadId), j_threadAccessesAndCandidates_18, x_threadAccessesAndCandidates_18, 64, 64, u_threadAccessesAndCandidates_18, by decide +kernel, by decide +kernel, rfl, by decide +kernel, by decide +kernel, by decide +kernel⟩

def j_threadAccessesAndCandidates_19 : Job :=
  got (((readyThread (threaded false 0 (t1 5 0) : State) (th false : ThreadId)).map (Prod.fst)))

def x_threadAccessesAndCandidates_19 : Thread :=
  got (((readyThread (threaded false 0 (t1 5 0) : State) (th false : ThreadId)).map (Prod.snd)))

def u_threadAccessesAndCandidates_19 : State :=
  (if inCoherent 64 2 then healCoherent 64 2 (threaded false 0 (t1 5 0) : State) else (threaded false 0 (t1 5 0) : State))

theorem witness_ThreadAccessesAndCandidates_19 : ∃ (s : State) (k : ThreadId) (j : Job) (x : Thread) (off : Nat) (len : Nat) (u : State) (data : Bytes), readyThread s k = some (j, x) ∧ storeAhead s k j = false ∧ u = (if inCoherent off len then healCoherent off len s else s) ∧ windowCheck s j.fn off len = 0 ∧ homedAway s off len = false ∧ data.length = len ∧ x.stores < 16 ∧ (inCoherent off len = true → coherentRoom s off len = true) :=
  ⟨(threaded false 0 (t1 5 0) : State), (th false : ThreadId), j_threadAccessesAndCandidates_19, x_threadAccessesAndCandidates_19, 64, 2, u_threadAccessesAndCandidates_19, ([1, 2] : Bytes), by decide +kernel, by decide +kernel, rfl, by decide +kernel, by decide +kernel, by decide +kernel, by decide +kernel, by decide +kernel⟩

def j_threadAccessesAndCandidates_20 : Job :=
  got (((readyThread (fullPail (threaded false 0 (t1 5 0)) : State) (th false : ThreadId)).map (Prod.fst)))

def x_threadAccessesAndCandidates_20 : Thread :=
  got (((readyThread (fullPail (threaded false 0 (t1 5 0)) : State) (th false : ThreadId)).map (Prod.snd)))

def u_threadAccessesAndCandidates_20 : State :=
  (if inCoherent 64 2 then healCoherent 64 2 (fullPail (threaded false 0 (t1 5 0)) : State) else (fullPail (threaded false 0 (t1 5 0)) : State))

theorem witness_ThreadAccessesAndCandidates_20 : ∃ (s : State) (k : ThreadId) (j : Job) (x : Thread) (off : Nat) (len : Nat) (u : State) (data : Bytes), readyThread s k = some (j, x) ∧ storeAhead s k j = false ∧ u = (if inCoherent off len then healCoherent off len s else s) ∧ windowCheck s j.fn off len = 0 ∧ homedAway s off len = false ∧ data.length = len ∧ x.stores < 16 ∧ inCoherent off len = true ∧ coherentRoom s off len = false :=
  ⟨(fullPail (threaded false 0 (t1 5 0)) : State), (th false : ThreadId), j_threadAccessesAndCandidates_20, x_threadAccessesAndCandidates_20, 64, 2, u_threadAccessesAndCandidates_20, ([1, 2] : Bytes), by decide +kernel, by decide +kernel, rfl, by decide +kernel, by decide +kernel, by decide +kernel, by decide +kernel, by decide +kernel, by decide +kernel⟩

def s_threadAccessesAndCandidates_21 : State :=
  twin (let s := threaded false 0 (t1 5 0); { s with tier := { s.tier with regions := s.tier.regions.map fun r => { r with homed := false } } })

def j_threadAccessesAndCandidates_21 : Job :=
  got (((readyThread s_threadAccessesAndCandidates_21 (th false : ThreadId)).map (Prod.fst)))

def x_threadAccessesAndCandidates_21 : Thread :=
  got (((readyThread s_threadAccessesAndCandidates_21 (th false : ThreadId)).map (Prod.snd)))

def u_threadAccessesAndCandidates_21 : State :=
  (if inCoherent 64 2 then healCoherent 64 2 s_threadAccessesAndCandidates_21 else s_threadAccessesAndCandidates_21)

theorem witness_ThreadAccessesAndCandidates_21 : ∃ (s : State) (k : ThreadId) (j : Job) (x : Thread) (off : Nat) (len : Nat) (u : State), readyThread s k = some (j, x) ∧ storeAhead s k j = false ∧ u = (if inCoherent off len then healCoherent off len s else s) ∧ windowCheck s j.fn off len = 0 ∧ homedAway s off len = true :=
  ⟨s_threadAccessesAndCandidates_21, (th false : ThreadId), j_threadAccessesAndCandidates_21, x_threadAccessesAndCandidates_21, 64, 2, u_threadAccessesAndCandidates_21, by decide +kernel, by decide +kernel, rfl, by decide +kernel, by decide +kernel⟩

def s_threadAccessesAndCandidates_22 : State :=
  twin (let s := threaded false 0 (t1 5 0); { s with tier := { s.tier with regions := s.tier.regions.map fun r => { r with homed := false } } })

def j_threadAccessesAndCandidates_22 : Job :=
  got (((readyThread s_threadAccessesAndCandidates_22 (th false : ThreadId)).map (Prod.fst)))

def x_threadAccessesAndCandidates_22 : Thread :=
  got (((readyThread s_threadAccessesAndCandidates_22 (th false : ThreadId)).map (Prod.snd)))

def u_threadAccessesAndCandidates_22 : State :=
  (if inCoherent 64 2 then healCoherent 64 2 s_threadAccessesAndCandidates_22 else s_threadAccessesAndCandidates_22)

theorem witness_ThreadAccessesAndCandidates_22 : ∃ (s : State) (k : ThreadId) (j : Job) (x : Thread) (off : Nat) (len : Nat) (u : State) (data : Bytes), readyThread s k = some (j, x) ∧ storeAhead s k j = false ∧ u = (if inCoherent off len then healCoherent off len s else s) ∧ windowCheck s j.fn off len = 0 ∧ homedAway s off len = true ∧ data.length = len ∧ x.stores < 16 :=
  ⟨s_threadAccessesAndCandidates_22, (th false : ThreadId), j_threadAccessesAndCandidates_22, x_threadAccessesAndCandidates_22, 64, 2, u_threadAccessesAndCandidates_22, ([1, 2] : Bytes), by decide +kernel, by decide +kernel, rfl, by decide +kernel, by decide +kernel, by decide +kernel, by decide +kernel⟩

def v_threadAccessesAndCandidates_23 : Status × Nat :=
  (stJobFault, jobOp (jb (dsc [(0, 1, 0x21)])))

def j_threadAccessesAndCandidates_23 : Job :=
  got (((readyThread (threaded false 0 (t1 5 0) : State) (th false : ThreadId)).map (Prod.fst)))

def x_threadAccessesAndCandidates_23 : Thread :=
  got (((readyThread (threaded false 0 (t1 5 0) : State) (th false : ThreadId)).map (Prod.snd)))

def u_threadAccessesAndCandidates_23 : State :=
  (if inCoherent 131072 2 then healCoherent 131072 2 (threaded false 0 (t1 5 0) : State) else (threaded false 0 (t1 5 0) : State))

theorem witness_ThreadAccessesAndCandidates_23 : ∃ (s : State) (k : ThreadId) (j : Job) (x : Thread) (off : Nat) (len : Nat) (u : State) (v : Status × Nat), readyThread s k = some (j, x) ∧ storeAhead s k j = false ∧ u = (if inCoherent off len then healCoherent off len s else s) ∧ (windowCheck s j.fn off len ∈ [1, 2] ∧ v = (stJobFault, jobOp j) ∨ windowCheck s j.fn off len = 6 ∧ v = (stTierError, 1)) :=
  ⟨(threaded false 0 (t1 5 0) : State), (th false : ThreadId), j_threadAccessesAndCandidates_23, x_threadAccessesAndCandidates_23, 131072, 2, u_threadAccessesAndCandidates_23, v_threadAccessesAndCandidates_23, by decide +kernel, by decide +kernel, rfl, by decide +kernel⟩

def v_threadAccessesAndCandidates_24 : Status × Nat :=
  (stJobFault, jobOp (jb (dsc [(0, 1, 0x21)])))

def j_threadAccessesAndCandidates_24 : Job :=
  got (((readyThread (threaded false 0 (t1 5 0) : State) (th false : ThreadId)).map (Prod.fst)))

def x_threadAccessesAndCandidates_24 : Thread :=
  got (((readyThread (threaded false 0 (t1 5 0) : State) (th false : ThreadId)).map (Prod.snd)))

def u_threadAccessesAndCandidates_24 : State :=
  (if inCoherent 131072 2 then healCoherent 131072 2 (threaded false 0 (t1 5 0) : State) else (threaded false 0 (t1 5 0) : State))

theorem witness_ThreadAccessesAndCandidates_24 : ∃ (s : State) (k : ThreadId) (j : Job) (x : Thread) (off : Nat) (len : Nat) (u : State) (v : Status × Nat) (data : Bytes), readyThread s k = some (j, x) ∧ storeAhead s k j = false ∧ u = (if inCoherent off len then healCoherent off len s else s) ∧ (windowCheck s j.fn off len ∈ [1, 2] ∧ v = (stJobFault, jobOp j) ∨ windowCheck s j.fn off len = 6 ∧ v = (stTierError, 1)) ∧ data.length = len ∧ x.stores < 16 :=
  ⟨(threaded false 0 (t1 5 0) : State), (th false : ThreadId), j_threadAccessesAndCandidates_24, x_threadAccessesAndCandidates_24, 131072, 2, u_threadAccessesAndCandidates_24, v_threadAccessesAndCandidates_24, ([1, 2] : Bytes), by decide +kernel, by decide +kernel, rfl, by decide +kernel, by decide +kernel, by decide +kernel⟩

def j_threadAccessesAndCandidates_25 : Job :=
  got (((readyThread (onNs (threaded false 0 (t1 5 0)) : State) (th false : ThreadId)).map (Prod.fst)))

def x_threadAccessesAndCandidates_25 : Thread :=
  got (((readyThread (onNs (threaded false 0 (t1 5 0)) : State) (th false : ThreadId)).map (Prod.snd)))

theorem witness_ThreadAccessesAndCandidates_25 : ∃ (s : State) (k : ThreadId) (j : Job) (x : Thread) (off : Nat) (len : Nat), readyThread s k = some (j, x) ∧ storeAhead s k j = false ∧ flashCheck s j.fn false off len = 0 ∧ flashHeld s off len = false ∧ (flashRead s off len).2 = 0 :=
  ⟨(onNs (threaded false 0 (t1 5 0)) : State), (th false : ThreadId), j_threadAccessesAndCandidates_25, x_threadAccessesAndCandidates_25, 64, 2, by decide +kernel, by decide +kernel, by decide +kernel, by decide +kernel, by decide +kernel⟩

def s_threadAccessesAndCandidates_26 : State :=
  let s := onNs (threaded false 0 (t1 5 0)); { s with blk := { s.blk with map := [(0, mapEntry true false 0 0)] } }

def j_threadAccessesAndCandidates_26 : Job :=
  got (((readyThread s_threadAccessesAndCandidates_26 (th false : ThreadId)).map (Prod.fst)))

def x_threadAccessesAndCandidates_26 : Thread :=
  got (((readyThread s_threadAccessesAndCandidates_26 (th false : ThreadId)).map (Prod.snd)))

theorem witness_ThreadAccessesAndCandidates_26 : ∃ (s : State) (k : ThreadId) (j : Job) (x : Thread) (off : Nat) (len : Nat), readyThread s k = some (j, x) ∧ storeAhead s k j = false ∧ flashCheck s j.fn false off len = 0 ∧ flashHeld s off len = false ∧ (flashRead s off len).2 ≠ 0 :=
  ⟨s_threadAccessesAndCandidates_26, (th false : ThreadId), j_threadAccessesAndCandidates_26, x_threadAccessesAndCandidates_26, 64, 2, by decide +kernel, by decide +kernel, by decide +kernel, by decide +kernel, by decide +kernel⟩

def s_threadAccessesAndCandidates_27 : State :=
  let s := onNs (threaded false 0 (t1 5 0)); { s with blk := { s.blk with badLines := [0] } }

def j_threadAccessesAndCandidates_27 : Job :=
  got (((readyThread s_threadAccessesAndCandidates_27 (th false : ThreadId)).map (Prod.fst)))

def x_threadAccessesAndCandidates_27 : Thread :=
  got (((readyThread s_threadAccessesAndCandidates_27 (th false : ThreadId)).map (Prod.snd)))

theorem witness_ThreadAccessesAndCandidates_27 : ∃ (s : State) (k : ThreadId) (j : Job) (x : Thread) (off : Nat) (len : Nat), readyThread s k = some (j, x) ∧ storeAhead s k j = false ∧ flashCheck s j.fn false off len = 0 ∧ flashHeld s off len = true :=
  ⟨s_threadAccessesAndCandidates_27, (th false : ThreadId), j_threadAccessesAndCandidates_27, x_threadAccessesAndCandidates_27, 64, 2, by decide +kernel, by decide +kernel, by decide +kernel, by decide +kernel⟩

def j_threadAccessesAndCandidates_28 : Job :=
  got (((readyThread (onNs (threaded false 0 (t1 5 0)) : State) (th false : ThreadId)).map (Prod.fst)))

def x_threadAccessesAndCandidates_28 : Thread :=
  got (((readyThread (onNs (threaded false 0 (t1 5 0)) : State) (th false : ThreadId)).map (Prod.snd)))

theorem witness_ThreadAccessesAndCandidates_28 : ∃ (s : State) (k : ThreadId) (j : Job) (x : Thread) (off : Nat) (len : Nat), readyThread s k = some (j, x) ∧ storeAhead s k j = false ∧ flashCheck s j.fn false off len ≠ 0 :=
  ⟨(onNs (threaded false 0 (t1 5 0)) : State), (th false : ThreadId), j_threadAccessesAndCandidates_28, x_threadAccessesAndCandidates_28, (70000 * 16384 : Nat), 2, by decide +kernel, by decide +kernel, by decide +kernel⟩

def j_threadAccessesAndCandidates_29 : Job :=
  got (((readyThread (onNs (threaded false 0 (t1 5 0)) : State) (th false : ThreadId)).map (Prod.fst)))

def x_threadAccessesAndCandidates_29 : Thread :=
  got (((readyThread (onNs (threaded false 0 (t1 5 0)) : State) (th false : ThreadId)).map (Prod.snd)))

theorem witness_ThreadAccessesAndCandidates_29 : ∃ (s : State) (k : ThreadId) (j : Job) (x : Thread) (off : Nat) (len : Nat) (data : Bytes), readyThread s k = some (j, x) ∧ storeAhead s k j = false ∧ data.length = len ∧ x.stores < 16 ∧ flashCheck s j.fn true off len ≠ 0 :=
  ⟨(onNs (threaded false 0 (t1 5 0)) : State), (th false : ThreadId), j_threadAccessesAndCandidates_29, x_threadAccessesAndCandidates_29, (70000 * 16384 : Nat), 2, ([1, 2] : Bytes), by decide +kernel, by decide +kernel, by decide +kernel, by decide +kernel, by decide +kernel⟩

def j_threadAccessesAndCandidates_30 : Job :=
  got (((readyThread (onNs (threaded false 0 (t1 5 0)) : State) (th false : ThreadId)).map (Prod.fst)))

def x_threadAccessesAndCandidates_30 : Thread :=
  got (((readyThread (onNs (threaded false 0 (t1 5 0)) : State) (th false : ThreadId)).map (Prod.snd)))

theorem witness_ThreadAccessesAndCandidates_30 : ∃ (s : State) (k : ThreadId) (j : Job) (x : Thread) (off : Nat) (len : Nat) (data : Bytes), readyThread s k = some (j, x) ∧ storeAhead s k j = false ∧ data.length = len ∧ x.stores < 16 ∧ flashCheck s j.fn true off len = 0 ∧ (∀ l ∈ rangePages off len, pageOwner s l = none ∧ lineWaits s l = false) ∧ pailHasRoom s (rangePages off len).length (rangePages off len).length = true :=
  ⟨(onNs (threaded false 0 (t1 5 0)) : State), (th false : ThreadId), j_threadAccessesAndCandidates_30, x_threadAccessesAndCandidates_30, 64, 2, ([1, 2] : Bytes), by decide +kernel, by decide +kernel, by decide +kernel, by decide +kernel, by decide +kernel, by decide +kernel, by decide +kernel⟩

def s_threadAccessesAndCandidates_31 : State :=
  let s := onNs (threaded false 0 (t1 5 0)); { s with blk := { s.blk with badLines := [0] } }

def j_threadAccessesAndCandidates_31 : Job :=
  got (((readyThread s_threadAccessesAndCandidates_31 (th false : ThreadId)).map (Prod.fst)))

def x_threadAccessesAndCandidates_31 : Thread :=
  got (((readyThread s_threadAccessesAndCandidates_31 (th false : ThreadId)).map (Prod.snd)))

theorem witness_ThreadAccessesAndCandidates_31 : ∃ (s : State) (k : ThreadId) (j : Job) (x : Thread) (off : Nat) (len : Nat) (data : Bytes), readyThread s k = some (j, x) ∧ storeAhead s k j = false ∧ data.length = len ∧ x.stores < 16 ∧ 0 < len ∧ flashCheck s j.fn true off len = 0 ∧ flashHeld s off len = true :=
  ⟨s_threadAccessesAndCandidates_31, (th false : ThreadId), j_threadAccessesAndCandidates_31, x_threadAccessesAndCandidates_31, 64, 2, ([1, 2] : Bytes), by decide +kernel, by decide +kernel, by decide +kernel, by decide +kernel, by decide +kernel, by decide +kernel, by decide +kernel⟩

def j_threadAccessesAndCandidates_32 : Job :=
  got (((readyThread (threaded false 0 (t1 5 0) : State) (th false : ThreadId)).map (Prod.fst)))

def x_threadAccessesAndCandidates_32 : Thread :=
  got (((readyThread (threaded false 0 (t1 5 0) : State) (th false : ThreadId)).map (Prod.snd)))

theorem witness_ThreadAccessesAndCandidates_32 : ∃ (s : State) (k : ThreadId) (j : Job) (x : Thread) (off : Nat) (op : Nat), readyThread s k = some (j, x) ∧ off % 8 = 0 ∧ op ≤ 2 ∧ storeAhead s k j = false ∧ windowCheck s j.fn off 8 = 0 ∧ homedAway s off 8 = false ∧ (inCoherent off 8 = true → coherentRoom s off 8 = true) ∧ memAny s.tier.windowPoison off 8 = false :=
  ⟨(threaded false 0 (t1 5 0) : State), (th false : ThreadId), j_threadAccessesAndCandidates_32, x_threadAccessesAndCandidates_32, 64, 2, by decide +kernel, by decide +kernel, by decide +kernel, by decide +kernel, by decide +kernel, by decide +kernel, by decide +kernel, by decide +kernel⟩

def s_threadAccessesAndCandidates_33 : State :=
  twin (let s := threaded false 0 (t1 5 0); { s with tier := { s.tier with regions := s.tier.regions.map fun r => { r with homed := false } } })

def j_threadAccessesAndCandidates_33 : Job :=
  got (((readyThread s_threadAccessesAndCandidates_33 (th false : ThreadId)).map (Prod.fst)))

def x_threadAccessesAndCandidates_33 : Thread :=
  got (((readyThread s_threadAccessesAndCandidates_33 (th false : ThreadId)).map (Prod.snd)))

theorem witness_ThreadAccessesAndCandidates_33 : ∃ (s : State) (k : ThreadId) (j : Job) (x : Thread) (off : Nat) (op : Nat), readyThread s k = some (j, x) ∧ off % 8 = 0 ∧ op ≤ 2 ∧ storeAhead s k j = false ∧ windowCheck s j.fn off 8 = 0 ∧ homedAway s off 8 = true :=
  ⟨s_threadAccessesAndCandidates_33, (th false : ThreadId), j_threadAccessesAndCandidates_33, x_threadAccessesAndCandidates_33, 64, 2, by decide +kernel, by decide +kernel, by decide +kernel, by decide +kernel, by decide +kernel, by decide +kernel⟩

def v_threadAccessesAndCandidates_34 : Status × Nat :=
  (stJobFault, jobOp (jb (dsc [(0, 1, 0x21)])))

def j_threadAccessesAndCandidates_34 : Job :=
  got (((readyThread (threaded false 0 (t1 5 0) : State) (th false : ThreadId)).map (Prod.fst)))

def x_threadAccessesAndCandidates_34 : Thread :=
  got (((readyThread (threaded false 0 (t1 5 0) : State) (th false : ThreadId)).map (Prod.snd)))

theorem witness_ThreadAccessesAndCandidates_34 : ∃ (s : State) (k : ThreadId) (j : Job) (x : Thread) (off : Nat) (op : Nat) (v : Status × Nat), readyThread s k = some (j, x) ∧ off % 8 = 0 ∧ op ≤ 2 ∧ storeAhead s k j = false ∧ (windowCheck s j.fn off 8 ∈ [1, 2] ∧ v = (stJobFault, jobOp j) ∨ windowCheck s j.fn off 8 = 6 ∧ v = (stTierError, 1)) :=
  ⟨(threaded false 0 (t1 5 0) : State), (th false : ThreadId), j_threadAccessesAndCandidates_34, x_threadAccessesAndCandidates_34, 131072, 0, v_threadAccessesAndCandidates_34, by decide +kernel, by decide +kernel, by decide +kernel, by decide +kernel, by decide +kernel⟩

def j_threadAccessesAndCandidates_35 : Job :=
  got (((readyThread (threaded false 0 (t1 5 0) : State) (th false : ThreadId)).map (Prod.fst)))

def x_threadAccessesAndCandidates_35 : Thread :=
  got (((readyThread (threaded false 0 (t1 5 0) : State) (th false : ThreadId)).map (Prod.snd)))

theorem witness_ThreadAccessesAndCandidates_35 : ∃ (s : State) (k : ThreadId) (j : Job) (x : Thread) (tg : Target) (op : Nat), readyThread s k = some (j, x) ∧ (∀ node off, tg = .window node off → off % 8 ≠ 0 ∨ 2 < op) :=
  ⟨(threaded false 0 (t1 5 0) : State), (th false : ThreadId), j_threadAccessesAndCandidates_35, x_threadAccessesAndCandidates_35, (.window 0 65 : Target), 0, by decide +kernel, fun _ _ h => by cases h; decide⟩

def j_threadAccessesAndCandidates_36 : Job :=
  got (((readyThread (sys (threaded false 0 (t1 5 0)) : State) (th false : ThreadId)).map (Prod.fst)))

def x_threadAccessesAndCandidates_36 : Thread :=
  got (((readyThread (sys (threaded false 0 (t1 5 0)) : State) (th false : ThreadId)).map (Prod.snd)))

theorem witness_ThreadAccessesAndCandidates_36 : ∃ (s : State) (k : ThreadId) (j : Job) (x : Thread) (node : Nat) (off : Nat) (tg : Target) (space : Nat), readyThread s k = some (j, x) ∧ node ≠ ownNode s ∧ (tg = .window node off ∧ space = 0 ∨ tg = .flash node off ∧ space = 1) ∧ lineBusy s k node (wyvasAddr node space off) = false ∧ nodeNamed s node = true ∧ t3Open s node = true :=
  ⟨(sys (threaded false 0 (t1 5 0)) : State), (th false : ThreadId), j_threadAccessesAndCandidates_36, x_threadAccessesAndCandidates_36, 1, 64, (.window 1 64 : Target), 0, by decide +kernel, by decide +kernel, by decide +kernel, by decide +kernel, by decide +kernel, by decide +kernel⟩

def j_threadAccessesAndCandidates_37 : Job :=
  got (((readyThread (sys (threaded false 0 (t1 5 0)) : State) (th false : ThreadId)).map (Prod.fst)))

def x_threadAccessesAndCandidates_37 : Thread :=
  got (((readyThread (sys (threaded false 0 (t1 5 0)) : State) (th false : ThreadId)).map (Prod.snd)))

theorem witness_ThreadAccessesAndCandidates_37 : ∃ (s : State) (k : ThreadId) (j : Job) (x : Thread) (node : Nat) (off : Nat) (len : Nat) (tg : Target) (space : Nat) (data : Bytes), readyThread s k = some (j, x) ∧ node ≠ ownNode s ∧ (tg = .window node off ∧ space = 0 ∨ tg = .flash node off ∧ space = 1) ∧ lineBusy s k node (wyvasAddr node space off) = false ∧ nodeNamed s node = true ∧ t3Open s node = true ∧ data.length = len ∧ x.stores < 16 :=
  ⟨(sys (threaded false 0 (t1 5 0)) : State), (th false : ThreadId), j_threadAccessesAndCandidates_37, x_threadAccessesAndCandidates_37, 1, 64, 2, (.window 1 64 : Target), 0, ([1, 2] : Bytes), by decide +kernel, by decide +kernel, by decide +kernel, by decide +kernel, by decide +kernel, by decide +kernel, by decide +kernel, by decide +kernel⟩

def j_threadAccessesAndCandidates_38 : Job :=
  got (((readyThread (sys (threaded false 0 (t1 5 0)) : State) (th false : ThreadId)).map (Prod.fst)))

def x_threadAccessesAndCandidates_38 : Thread :=
  got (((readyThread (sys (threaded false 0 (t1 5 0)) : State) (th false : ThreadId)).map (Prod.snd)))

theorem witness_ThreadAccessesAndCandidates_38 : ∃ (s : State) (k : ThreadId) (j : Job) (x : Thread) (node : Nat) (off : Nat) (tg : Target) (space : Nat) (op : Nat), readyThread s k = some (j, x) ∧ node ≠ ownNode s ∧ (tg = .window node off ∧ space = 0 ∨ tg = .flash node off ∧ space = 1) ∧ lineBusy s k node (wyvasAddr node space off) = false ∧ nodeNamed s node = true ∧ t3Open s node = true ∧ space = 0 ∧ off % 8 = 0 ∧ op ≤ 2 :=
  ⟨(sys (threaded false 0 (t1 5 0)) : State), (th false : ThreadId), j_threadAccessesAndCandidates_38, x_threadAccessesAndCandidates_38, 1, 64, (.window 1 64 : Target), 0, 0, by decide +kernel, by decide +kernel, by decide +kernel, by decide +kernel, by decide +kernel, by decide +kernel, by decide +kernel, by decide +kernel, by decide +kernel⟩

def j_threadAccessesAndCandidates_39 : Job :=
  got (((readyThread (threaded false 0 (t1 5 0) : State) (th false : ThreadId)).map (Prod.fst)))

def x_threadAccessesAndCandidates_39 : Thread :=
  got (((readyThread (threaded false 0 (t1 5 0) : State) (th false : ThreadId)).map (Prod.snd)))

theorem witness_ThreadAccessesAndCandidates_39 : ∃ (s : State) (k : ThreadId) (j : Job) (x : Thread) (node : Nat) (off : Nat) (tg : Target) (space : Nat), readyThread s k = some (j, x) ∧ node ≠ ownNode s ∧ (tg = .window node off ∧ space = 0 ∨ tg = .flash node off ∧ space = 1) ∧ lineBusy s k node (wyvasAddr node space off) = false ∧ nodeNamed s node = false :=
  ⟨(threaded false 0 (t1 5 0) : State), (th false : ThreadId), j_threadAccessesAndCandidates_39, x_threadAccessesAndCandidates_39, 1, 64, (.flash 1 64 : Target), 1, by decide +kernel, by decide +kernel, by decide +kernel, by decide +kernel, by decide +kernel⟩

def j_threadAccessesAndCandidates_40 : Job :=
  got (((readyThread (threaded false 0 (t1 5 0) : State) (th false : ThreadId)).map (Prod.fst)))

def x_threadAccessesAndCandidates_40 : Thread :=
  got (((readyThread (threaded false 0 (t1 5 0) : State) (th false : ThreadId)).map (Prod.snd)))

theorem witness_ThreadAccessesAndCandidates_40 : ∃ (s : State) (k : ThreadId) (j : Job) (x : Thread) (node : Nat) (off : Nat) (tg : Target) (space : Nat), readyThread s k = some (j, x) ∧ node ≠ ownNode s ∧ (tg = .window node off ∧ space = 0 ∨ tg = .flash node off ∧ space = 1) ∧ lineBusy s k node (wyvasAddr node space off) = false ∧ nodeNamed s node = false ∧ x.stores < 16 :=
  ⟨(threaded false 0 (t1 5 0) : State), (th false : ThreadId), j_threadAccessesAndCandidates_40, x_threadAccessesAndCandidates_40, 1, 64, (.flash 1 64 : Target), 1, by decide +kernel, by decide +kernel, by decide +kernel, by decide +kernel, by decide +kernel, by decide +kernel⟩

def s_threadAccessesAndCandidates_41 : State :=
  let s := sys (threaded false 0 (t1 5 0)); { s with wyv := { s.wyv with systemReady := false } }

def j_threadAccessesAndCandidates_41 : Job :=
  got (((readyThread s_threadAccessesAndCandidates_41 (th false : ThreadId)).map (Prod.fst)))

def x_threadAccessesAndCandidates_41 : Thread :=
  got (((readyThread s_threadAccessesAndCandidates_41 (th false : ThreadId)).map (Prod.snd)))

theorem witness_ThreadAccessesAndCandidates_41 : ∃ (s : State) (k : ThreadId) (j : Job) (x : Thread) (node : Nat) (off : Nat) (tg : Target) (space : Nat), readyThread s k = some (j, x) ∧ node ≠ ownNode s ∧ (tg = .window node off ∧ space = 0 ∨ tg = .flash node off ∧ space = 1) ∧ lineBusy s k node (wyvasAddr node space off) = false ∧ nodeNamed s node = true ∧ t3Open s node = false :=
  ⟨s_threadAccessesAndCandidates_41, (th false : ThreadId), j_threadAccessesAndCandidates_41, x_threadAccessesAndCandidates_41, 1, 64, (.flash 1 64 : Target), 1, by decide +kernel, by decide +kernel, by decide +kernel, by decide +kernel, by decide +kernel, by decide +kernel⟩

def s_threadAccessesAndCandidates_42 : State :=
  let s := sys (threaded false 0 (t1 5 0)); { s with wyv := { s.wyv with systemReady := false } }

def j_threadAccessesAndCandidates_42 : Job :=
  got (((readyThread s_threadAccessesAndCandidates_42 (th false : ThreadId)).map (Prod.fst)))

def x_threadAccessesAndCandidates_42 : Thread :=
  got (((readyThread s_threadAccessesAndCandidates_42 (th false : ThreadId)).map (Prod.snd)))

theorem witness_ThreadAccessesAndCandidates_42 : ∃ (s : State) (k : ThreadId) (j : Job) (x : Thread) (node : Nat) (off : Nat) (tg : Target) (space : Nat), readyThread s k = some (j, x) ∧ node ≠ ownNode s ∧ (tg = .window node off ∧ space = 0 ∨ tg = .flash node off ∧ space = 1) ∧ lineBusy s k node (wyvasAddr node space off) = false ∧ nodeNamed s node = true ∧ t3Open s node = false ∧ x.stores < 16 :=
  ⟨s_threadAccessesAndCandidates_42, (th false : ThreadId), j_threadAccessesAndCandidates_42, x_threadAccessesAndCandidates_42, 1, 64, (.flash 1 64 : Target), 1, by decide +kernel, by decide +kernel, by decide +kernel, by decide +kernel, by decide +kernel, by decide +kernel, by decide +kernel⟩

def s_threadAccessesAndCandidates_43 : State :=
  let s := sys (threaded false 0 (t1 5 0)); { s with tier := { s.tier with waits := [stw] } }

def j_threadAccessesAndCandidates_43 : Job :=
  got (((readyThread s_threadAccessesAndCandidates_43 (th false : ThreadId)).map (Prod.fst)))

def x_threadAccessesAndCandidates_43 : Thread :=
  got (((readyThread s_threadAccessesAndCandidates_43 (th false : ThreadId)).map (Prod.snd)))

theorem witness_ThreadAccessesAndCandidates_43 : ∃ (s : State) (k : ThreadId) (j : Job) (x : Thread) (a : Access) (tg : Target) (len : Nat), readyThread s k = some (j, x) ∧ storeAhead s k j = true ∧ (∃ off, tg = .window (ownNode s) off ∨ tg = .flash (ownNode s) off) ∧ a = .load tg len :=
  ⟨s_threadAccessesAndCandidates_43, (th false : ThreadId), j_threadAccessesAndCandidates_43, x_threadAccessesAndCandidates_43, (.load (.window 0 64 : Target) 2 : Access), (.window 0 64 : Target), 2, by decide +kernel, by decide +kernel, ⟨64, by decide +kernel⟩, rfl⟩

def s_threadAccessesAndCandidates_44 : State :=
  let s := sys (threaded false 0 (t1 5 0)); { s with tier := { s.tier with waits := [stw] } }

def j_threadAccessesAndCandidates_44 : Job :=
  got (((readyThread s_threadAccessesAndCandidates_44 (th false : ThreadId)).map (Prod.fst)))

def x_threadAccessesAndCandidates_44 : Thread :=
  got (((readyThread s_threadAccessesAndCandidates_44 (th false : ThreadId)).map (Prod.snd)))

def a_threadAccessesAndCandidates_44 : Access :=
  .store (.window 0 64 : Target) ([1, 2] : Bytes)

theorem witness_ThreadAccessesAndCandidates_44 : ∃ (s : State) (k : ThreadId) (j : Job) (x : Thread) (a : Access) (tg : Target) (data : Bytes), readyThread s k = some (j, x) ∧ storeAhead s k j = true ∧ (∃ off, tg = .window (ownNode s) off ∨ tg = .flash (ownNode s) off) ∧ a = .store tg data ∧ x.stores < 16 :=
  ⟨s_threadAccessesAndCandidates_44, (th false : ThreadId), j_threadAccessesAndCandidates_44, x_threadAccessesAndCandidates_44, a_threadAccessesAndCandidates_44, (.window 0 64 : Target), ([1, 2] : Bytes), by decide +kernel, by decide +kernel, ⟨64, by decide +kernel⟩, rfl, by decide +kernel⟩

def j_threadAccessesAndCandidates_45 : Job :=
  got (((readyThread (threaded false 0 (t1 5 0) : State) (th false : ThreadId)).map (Prod.fst)))

def x_threadAccessesAndCandidates_45 : Thread :=
  got (((readyThread (threaded false 0 (t1 5 0) : State) (th false : ThreadId)).map (Prod.snd)))

theorem witness_ThreadAccessesAndCandidates_45 : ∃ (s : State) (k : ThreadId) (j : Job) (x : Thread), readyThread s k = some (j, x) ∧ x.stores = 0 :=
  ⟨(threaded false 0 (t1 5 0) : State), (th false : ThreadId), j_threadAccessesAndCandidates_45, x_threadAccessesAndCandidates_45, by decide +kernel, by decide +kernel⟩

def j_threadAccessesAndCandidates_46 : Job :=
  got (((readyThread (threaded false 1 (t1 5 0) : State) (th false : ThreadId)).map (Prod.fst)))

def x_threadAccessesAndCandidates_46 : Thread :=
  got (((readyThread (threaded false 1 (t1 5 0) : State) (th false : ThreadId)).map (Prod.snd)))

theorem witness_ThreadAccessesAndCandidates_46 : ∃ (s : State) (k : ThreadId) (j : Job) (x : Thread), readyThread s k = some (j, x) ∧ x.stores ≠ 0 :=
  ⟨(threaded false 1 (t1 5 0) : State), (th false : ThreadId), j_threadAccessesAndCandidates_46, x_threadAccessesAndCandidates_46, by decide +kernel, by decide +kernel⟩

def j_threadAccessesAndCandidates_47 : Job :=
  got (((readyThread (threaded false 0 (t1 5 0) : State) (th false : ThreadId)).map (Prod.fst)))

def x_threadAccessesAndCandidates_47 : Thread :=
  got (((readyThread (threaded false 0 (t1 5 0) : State) (th false : ThreadId)).map (Prod.snd)))

theorem witness_ThreadAccessesAndCandidates_47 : ∃ (s : State) (k : ThreadId) (j : Job) (x : Thread), readyThread s k = some (j, x) :=
  ⟨(threaded false 0 (t1 5 0) : State), (th false : ThreadId), j_threadAccessesAndCandidates_47, x_threadAccessesAndCandidates_47, by decide +kernel⟩

def cands_threadAccessesAndCandidates_48 : List Cand :=
  [{ score := 1, index := 2, node := 0, source := 0, position := 0 }]

def j_threadAccessesAndCandidates_48 : Job :=
  got (((readyThread (threaded true 0 (t1 5 0) : State) (th true : ThreadId)).map (Prod.fst)))

def x_threadAccessesAndCandidates_48 : Thread :=
  got (((readyThread (threaded true 0 (t1 5 0) : State) (th true : ThreadId)).map (Prod.snd)))

def mine_threadAccessesAndCandidates_48 : List Cand :=
  cands_threadAccessesAndCandidates_48.map (fun c : Cand => { c with node := keyNode (threaded true 0 (t1 5 0) : State), source := (th true : ThreadId).unit })

theorem witness_ThreadAccessesAndCandidates_48 : ∃ (s : State) (k : ThreadId) (j : Job) (x : Thread) (pool : Nat) (cands : List Cand) (mine : List Cand), readyThread s k = some (j, x) ∧ mine = cands.map (fun c : Cand => { c with node := keyNode s, source := k.unit }) ∧ k.engine = true ∧ pool < 256 :=
  ⟨(threaded true 0 (t1 5 0) : State), (th true : ThreadId), j_threadAccessesAndCandidates_48, x_threadAccessesAndCandidates_48, 255, cands_threadAccessesAndCandidates_48, mine_threadAccessesAndCandidates_48, by decide +kernel, rfl, by decide +kernel, by decide +kernel⟩

def cands_threadAccessesAndCandidates_49 : List Cand :=
  [{ score := 1, index := 2, node := 0, source := 0, position := 0 }]

def j_threadAccessesAndCandidates_49 : Job :=
  got (((readyThread (threaded true 0 (t1 5 0) : State) (th true : ThreadId)).map (Prod.fst)))

def x_threadAccessesAndCandidates_49 : Thread :=
  got (((readyThread (threaded true 0 (t1 5 0) : State) (th true : ThreadId)).map (Prod.snd)))

def mine_threadAccessesAndCandidates_49 : List Cand :=
  cands_threadAccessesAndCandidates_49.map (fun c : Cand => { c with node := keyNode (threaded true 0 (t1 5 0) : State), source := (th true : ThreadId).unit })

theorem witness_ThreadAccessesAndCandidates_49 : ∃ (s : State) (k : ThreadId) (j : Job) (x : Thread) (pool : Nat) (cands : List Cand) (mine : List Cand), readyThread s k = some (j, x) ∧ mine = cands.map (fun c : Cand => { c with node := keyNode s, source := k.unit }) ∧ (k.engine = false ∨ 256 ≤ pool) :=
  ⟨(threaded true 0 (t1 5 0) : State), (th true : ThreadId), j_threadAccessesAndCandidates_49, x_threadAccessesAndCandidates_49, 256, cands_threadAccessesAndCandidates_49, mine_threadAccessesAndCandidates_49, by decide +kernel, rfl, by decide +kernel⟩

def s_churnRecordUpdatesItsRow_1 : State :=
  { on with churn := { tables := [tb], updates := [upd2] } }

def u_churnRecordUpdatesItsRow_1 : Upd :=
  got (s_churnRecordUpdatesItsRow_1.churn.updates.find? (·.named 0 2000 7))

def b_churnRecordUpdatesItsRow_1 : Bytes :=
  (got (u_churnRecordUpdatesItsRow_1.due 0)).bytes

def tb_churnRecordUpdatesItsRow_1 : Table :=
  got (findTable s_churnRecordUpdatesItsRow_1 u_churnRecordUpdatesItsRow_1.table)

def xn_churnRecordUpdatesItsRow_1 : List (Nat × Nat × Nat) × Nat :=
  churnRow s_churnRecordUpdatesItsRow_1 tb_churnRecordUpdatesItsRow_1 b_churnRecordUpdatesItsRow_1 (got (u_churnRecordUpdatesItsRow_1.due 0)).coefs

def bad_churnRecordUpdatesItsRow_1 : Bool :=
  (gradBad (layoutD tb_churnRecordUpdatesItsRow_1.layout) b_churnRecordUpdatesItsRow_1 || !f32Finite xn_churnRecordUpdatesItsRow_1.2 || !xn_churnRecordUpdatesItsRow_1.1.all (fun x => f32Finite x.1 && f32Finite x.2.1 && f32Finite x.2.2))

def rest_churnRecordUpdatesItsRow_1 : List URec :=
  u_churnRecordUpdatesItsRow_1.records.filter (·.no != 0)

theorem witness_ChurnRecordUpdatesItsRow_1 : ∃ (s : State) (fn : Nat) (sq : Nat) (cid : Nat) (no : Nat) (u : Upd) (r : URec) (b : Bytes) (tb : Table) (xn : List (Nat × Nat × Nat) × Nat) (bad : Bool) (rest : List URec), s.churn.updates.find? (·.named fn sq cid) = some u ∧ u.due no = some r ∧ b = r.bytes ∧ findTable s u.table = some tb ∧ layoutOk tb.layout = true ∧ recRow b < tb.rows ∧ updTurn s u = true ∧ updHeld s u = false ∧ s.thr.fa ≠ 0 ∧ s.pwr.ps < 3 ∧ (∀ p ∈ rowPlaces tb (recRow b), ∀ y z : Tile, y = tileOf s p.1 p.2 → z = newTile s p.1 p.2 → needsFetch y = false ∧ y.held = false ∧ y.poison = false ∧ y.rows = z.rows ∧ y.cols = z.cols ∧ y.format = z.format) ∧ (tb.groups.contains (recRow b / 64) = true ∨ storeFull s (pagesLacking s ((rowPlaces tb (recRow b)).map fun p => tileOf s p.1 p.2)) = false) ∧ xn = churnRow s tb b r.coefs ∧ bad = (gradBad (layoutD tb.layout) b || !f32Finite xn.2 || !xn.1.all (fun x => f32Finite x.1 && f32Finite x.2.1 && f32Finite x.2.2)) ∧ rest = u.records.filter (·.no != no) :=
  ⟨s_churnRecordUpdatesItsRow_1, 0, 2000, 7, 0, u_churnRecordUpdatesItsRow_1, got (u_churnRecordUpdatesItsRow_1.due 0), b_churnRecordUpdatesItsRow_1, tb_churnRecordUpdatesItsRow_1, xn_churnRecordUpdatesItsRow_1, bad_churnRecordUpdatesItsRow_1, rest_churnRecordUpdatesItsRow_1, by decide +kernel, by decide +kernel, rfl, by decide +kernel, by decide +kernel, by decide +kernel, by decide +kernel, by decide +kernel, by decide +kernel, by decide +kernel, by
    intro p hp y z hy hz; subst hy hz; revert hp; revert p; decide +kernel, by decide +kernel, rfl, rfl, rfl⟩

def s_churnTablesAndUpdates_1 : State :=
  wide (sets [(0x3402, 1, 3), (0x3402, 2, 16), (0x3402, 3, 64)] on)

theorem witness_ChurnTablesAndUpdates_1 : ∃ (s : State) (id : Nat) (w : Nat) (rows : Nat), id = obj s 0x3402 1 ∧ w = obj s 0x3402 2 ∧ rows = obj s 0x3402 3 ∧ id ≤ 63 ∧ findTable s id = none ∧ layoutOk w = true ∧ 64 ≤ rows ∧ rows ≤ 2 ^ 32 ∧ ceilDiv rows 64 * layoutPlanes w * layoutBlocks w ≤ 2 ^ 32 ∧ inExtent s (bitsOf w 59 56) (ownNode s) = true :=
  ⟨s_churnTablesAndUpdates_1, (obj s_churnTablesAndUpdates_1 0x3402 1 : Nat), (obj s_churnTablesAndUpdates_1 0x3402 2 : Nat), (obj s_churnTablesAndUpdates_1 0x3402 3 : Nat), rfl, rfl, rfl, by decide +kernel, by decide +kernel, by decide +kernel, by decide +kernel, by decide +kernel, by decide +kernel, by decide +kernel⟩

def s_churnTablesAndUpdates_2 : State :=
  { sets [(0x3402, 1, 3)] on with churn := { tables := [tb], updates := [] } }

def tb_churnTablesAndUpdates_2 : Table :=
  got (findTable s_churnTablesAndUpdates_2 (obj s_churnTablesAndUpdates_2 0x3402 1 : Nat))

theorem witness_ChurnTablesAndUpdates_2 : ∃ (s : State) (id : Nat) (tb : Table), id = obj s 0x3402 1 ∧ id ≤ 63 ∧ findTable s id = some tb ∧ (s.churn.updates.any (·.table == id)) = false ∧ jobNamesTable s id = false :=
  ⟨s_churnTablesAndUpdates_2, (obj s_churnTablesAndUpdates_2 0x3402 1 : Nat), tb_churnTablesAndUpdates_2, rfl, by decide +kernel, by decide +kernel, by decide +kernel, by decide +kernel⟩

def s_churnTablesAndUpdates_3 : State :=
  { cq 0x91 on with churn := { tables := [tb], updates := [] } }

def e_churnTablesAndUpdates_3 : Sqe :=
  { bkE with handle := 3, cdw10 := 64, cdw15 := 1 }

def x_churnTablesAndUpdates_3 : Inflight :=
  got (startable e_churnTablesAndUpdates_3 0x91 s_churnTablesAndUpdates_3)

def tb_churnTablesAndUpdates_3 : Table :=
  got (tableFor s_churnTablesAndUpdates_3 e_churnTablesAndUpdates_3.fn e_churnTablesAndUpdates_3.handle)

def d_churnTablesAndUpdates_3 : Nat :=
  layoutD tb_churnTablesAndUpdates_3.layout

theorem witness_ChurnTablesAndUpdates_3 : ∃ (s : State) (e : Sqe) (x : Inflight) (buf : Bytes) (tb : Table) (d : Nat), basketReady e 0x91 false (some 64) x s ∧ tableFor s e.fn e.handle = some tb ∧ d = layoutD tb.layout ∧ e.cdw10 ≤ buf.length ∧ e.cdw10 ≤ 2 ^ 26 ∧ updInputOk tb buf e.cdw10 e.cdw15 = true ∧ readOnly s = false ∧ fitsDeadline s (updTime s d e.cdw10 e.cdw15) (timeLeft s (startedRec e x).deadline) = true ∧ 1 ≤ e.cdw15 :=
  ⟨s_churnTablesAndUpdates_3, e_churnTablesAndUpdates_3, x_churnTablesAndUpdates_3, updBuf, tb_churnTablesAndUpdates_3, d_churnTablesAndUpdates_3, by unfold basketReady; decide +kernel, by decide +kernel, rfl, by decide +kernel, by decide +kernel, by decide +kernel, by decide +kernel, by decide +kernel, by decide +kernel⟩

def s_churnTablesAndUpdates_4 : State :=
  { cq 0x91 on with churn := { tables := [tb], updates := [] } }

def e_churnTablesAndUpdates_4 : Sqe :=
  { bkE with handle := 3, cdw10 := 32, cdw15 := 0 }

def buf_churnTablesAndUpdates_4 : Bytes :=
  bytesOf 32 [(0, 1, 1), (2, 2, 16), (4, 4, 9)]

def x_churnTablesAndUpdates_4 : Inflight :=
  got (startable e_churnTablesAndUpdates_4 0x91 s_churnTablesAndUpdates_4)

def tb_churnTablesAndUpdates_4 : Table :=
  got (tableFor s_churnTablesAndUpdates_4 e_churnTablesAndUpdates_4.fn e_churnTablesAndUpdates_4.handle)

def d_churnTablesAndUpdates_4 : Nat :=
  layoutD tb_churnTablesAndUpdates_4.layout

theorem witness_ChurnTablesAndUpdates_4 : ∃ (s : State) (e : Sqe) (x : Inflight) (buf : Bytes) (tb : Table) (d : Nat), basketReady e 0x91 false (some 64) x s ∧ tableFor s e.fn e.handle = some tb ∧ d = layoutD tb.layout ∧ e.cdw10 ≤ buf.length ∧ e.cdw10 ≤ 2 ^ 26 ∧ updInputOk tb buf e.cdw10 e.cdw15 = true ∧ readOnly s = false ∧ fitsDeadline s (updTime s d e.cdw10 e.cdw15) (timeLeft s (startedRec e x).deadline) = true ∧ e.cdw15 = 0 :=
  ⟨s_churnTablesAndUpdates_4, e_churnTablesAndUpdates_4, x_churnTablesAndUpdates_4, buf_churnTablesAndUpdates_4, tb_churnTablesAndUpdates_4, d_churnTablesAndUpdates_4, by unfold basketReady; decide +kernel, by decide +kernel, rfl, by decide +kernel, by decide +kernel, by decide +kernel, by decide +kernel, by decide +kernel, by decide +kernel⟩

def s_churnTablesAndUpdates_5 : State :=
  { running (dsc [(0, 1, 0x38), (1, 1, 3), (4, 2, 4), (8, 4, 9), (12, 4, 0), (16, 4, 4096)]) with churn := { tables := [tb], updates := [] }, arr := { on.arr with sram := memWrite (memWrite [] 4096 (natLE 2 1)) 0 rec0 } }

def d_churnTablesAndUpdates_5 : Bytes :=
  dsc [(0, 1, 0x38), (1, 1, 3), (4, 2, 4), (8, 4, 9), (12, 4, 0), (16, 4, 4096)]

def j_churnTablesAndUpdates_5 : Job :=
  got (issuable 0x38 d_churnTablesAndUpdates_5 s_churnTablesAndUpdates_5)

def tb_churnTablesAndUpdates_5 : Table :=
  got (tableFor s_churnTablesAndUpdates_5 j_churnTablesAndUpdates_5.fn (field d_churnTablesAndUpdates_5 1 1 % 64))

def rs_churnTablesAndUpdates_5 : List Bytes :=
  okOf (gatherRecords tb_churnTablesAndUpdates_5 d_churnTablesAndUpdates_5 s_churnTablesAndUpdates_5 (activeCells s_churnTablesAndUpdates_5))

theorem witness_ChurnTablesAndUpdates_5 : ∃ (s : State) (d : Bytes) (j : Job) (tb : Table) (rs : List Bytes), issuable 0x38 d s = some j ∧ tableFor s j.fn (field d 1 1 % 64) = some tb ∧ gatherRecords tb d s (activeCells s) = .ok rs ∧ rs ≠ [] :=
  ⟨s_churnTablesAndUpdates_5, d_churnTablesAndUpdates_5, j_churnTablesAndUpdates_5, tb_churnTablesAndUpdates_5, rs_churnTablesAndUpdates_5, by decide +kernel, by decide +kernel, okOf_ok _, by decide +kernel⟩

def s_churnTablesAndUpdates_6 : State :=
  { running (dsc [(0, 1, 0x38), (1, 1, 3), (4, 2, 4), (8, 4, 9), (12, 4, 0), (16, 4, 4096)]) with churn := { tables := [tb], updates := [] }, arr := { on.arr with sram := memWrite (memWrite [] 4096 (natLE 2 0)) 0 rec0 } }

def d_churnTablesAndUpdates_6 : Bytes :=
  dsc [(0, 1, 0x38), (1, 1, 3), (4, 2, 4), (8, 4, 9), (12, 4, 0), (16, 4, 4096)]

def j_churnTablesAndUpdates_6 : Job :=
  got (issuable 0x38 d_churnTablesAndUpdates_6 s_churnTablesAndUpdates_6)

def tb_churnTablesAndUpdates_6 : Table :=
  got (tableFor s_churnTablesAndUpdates_6 j_churnTablesAndUpdates_6.fn (field d_churnTablesAndUpdates_6 1 1 % 64))

def rs_churnTablesAndUpdates_6 : List Bytes :=
  okOf (gatherRecords tb_churnTablesAndUpdates_6 d_churnTablesAndUpdates_6 s_churnTablesAndUpdates_6 (activeCells s_churnTablesAndUpdates_6))

theorem witness_ChurnTablesAndUpdates_6 : ∃ (s : State) (d : Bytes) (j : Job) (tb : Table) (rs : List Bytes), issuable 0x38 d s = some j ∧ tableFor s j.fn (field d 1 1 % 64) = some tb ∧ gatherRecords tb d s (activeCells s) = .ok rs ∧ rs = [] :=
  ⟨s_churnTablesAndUpdates_6, d_churnTablesAndUpdates_6, j_churnTablesAndUpdates_6, tb_churnTablesAndUpdates_6, rs_churnTablesAndUpdates_6, by decide +kernel, by decide +kernel, okOf_ok _, by decide +kernel⟩

def s_indexesAndEpochs_1 : State :=
  wide { sets [(0x3210, 1, 2), (0x3210, 2, lay), (0x3210, 4, 5), (0x3210, 5, 0)] on with tier := { on.tier with objects := [{ ob 5 with size := 1 }] } }

theorem witness_IndexesAndEpochs_1 : ∃ (s : State) (id : Nat) (w : Nat) (cols : Nat), id = obj s 0x3210 1 ∧ w = obj s 0x3210 2 ∧ cols = obj s 0x3210 3 ∧ id ≤ 63 ∧ (∀ c < 16, colType cols c ≤ 5) ∧ findIndex s id = none ∧ idxLayoutOk w = true ∧ inExtent s (idxGroup w) (ownNode s) = true ∧ objShape s (obj s 0x3210 4) (idxLists w) (idxD w) = true ∧ (idxFamily w = 3 → obj s 0x3210 5 = 0) ∧ (idxFamily w ≠ 3 → objShape s (obj s 0x3210 5) (256 * idxM w) (idxD w / idxM w) = true) :=
  ⟨s_indexesAndEpochs_1, (obj s_indexesAndEpochs_1 0x3210 1 : Nat), (obj s_indexesAndEpochs_1 0x3210 2 : Nat), (obj s_indexesAndEpochs_1 0x3210 3 : Nat), rfl, rfl, rfl, by decide +kernel, by decide +kernel, by decide +kernel, by decide +kernel, by decide +kernel, by decide +kernel, by decide +kernel, by decide +kernel⟩

def id_indexesAndEpochs_2 : Nat :=
  obj (sets [(0x3210, 1, 64)] on : State) 0x3210 1

theorem witness_IndexesAndEpochs_2 : ∃ (s : State) (id : Nat) (c : Instr), id = obj s 0x3210 1 ∧ 63 < id ∧ (c = .indexCreate ∨ c = .indexDelete ∨ c = .indexCommit) :=
  ⟨(sets [(0x3210, 1, 64)] on : State), id_indexesAndEpochs_2, .indexCreate, rfl, by decide +kernel, by decide +kernel⟩

def id_indexesAndEpochs_3 : Nat :=
  obj (sets [(0x3210, 3, 6)] on : State) 0x3210 1

theorem witness_IndexesAndEpochs_3 : ∃ (s : State) (id : Nat), id = obj s 0x3210 1 ∧ id ≤ 63 ∧ (∃ c < 16, 5 < colType (obj s 0x3210 3) c) :=
  ⟨(sets [(0x3210, 3, 6)] on : State), id_indexesAndEpochs_3, rfl, by decide +kernel, by decide +kernel⟩

def s_indexesAndEpochs_4 : State :=
  indexed (ix none) (sets [(0x3210, 1, 2)] on)

theorem witness_IndexesAndEpochs_4 : ∃ (s : State) (id : Nat), id = obj s 0x3210 1 ∧ id ≤ 63 ∧ (∀ c < 16, colType (obj s 0x3210 3) c ≤ 5) ∧ ((findIndex s id).isSome = true ∨ idxLayoutOk (obj s 0x3210 2) = false ∨ objShape s (obj s 0x3210 4) (idxLists (obj s 0x3210 2)) (idxD (obj s 0x3210 2)) = false) :=
  ⟨s_indexesAndEpochs_4, (obj s_indexesAndEpochs_4 0x3210 1 : Nat), rfl, by decide +kernel, by decide +kernel, by decide +kernel⟩

theorem witness_IndexesAndEpochs_5 : ∃ (s : State) (id : Nat), id = obj s 0x3210 1 ∧ id ≤ 63 ∧ (findIndex s id = none ∨ (s.retr.ingests.any (·.index == id)) = true) :=
  ⟨on, (obj on 0x3210 1 : Nat), rfl, by decide +kernel, by decide +kernel⟩

theorem witness_IndexesAndEpochs_6 : ∃ (s : State) (id : Nat), id = obj s 0x3210 1 ∧ id ≤ 63 ∧ (∀ x, findIndex s id = some x → x.st ≠ 1 ∨ x.closing ≠ none) :=
  ⟨on, (obj on 0x3210 1 : Nat), rfl, by decide +kernel, fun x h => by
    rw [show findIndex on (obj on 0x3210 1) = none by decide +kernel] at h; cases h⟩

def s_indexesAndEpochs_7 : State :=
  indexed (ix none) (sets [(0x3210, 1, 2)] on)

def x_indexesAndEpochs_7 : Index :=
  got (findIndex s_indexesAndEpochs_7 (obj s_indexesAndEpochs_7 0x3210 1 : Nat))

theorem witness_IndexesAndEpochs_7 : ∃ (s : State) (id : Nat) (x : Index), id = obj s 0x3210 1 ∧ id ≤ 63 ∧ findIndex s id = some x ∧ (s.retr.ingests.any (·.index == id)) = false :=
  ⟨s_indexesAndEpochs_7, (obj s_indexesAndEpochs_7 0x3210 1 : Nat), x_indexesAndEpochs_7, rfl, by decide +kernel, by decide +kernel, by decide +kernel⟩

def x_indexesAndEpochs_8 : Index :=
  got (findIndex (indexed (ix none) on : State) 2)

theorem witness_IndexesAndEpochs_8 : ∃ (s : State) (c : Instr) (id : Nat) (x : Index), (c = .indexCommit ∧ id = obj s 0x3210 1 ∧ id ≤ 63 ∨ c = .epochCommitTimer id ∧ x.dirty = true) ∧ findIndex s id = some x ∧ x.st = 1 ∧ x.closing = none :=
  ⟨(indexed (ix none) on : State), (.epochCommitTimer 2 : Instr), 2, x_indexesAndEpochs_8, by decide +kernel, by decide +kernel, by decide +kernel, by decide +kernel⟩

def s_indexesAndEpochs_9 : State :=
  indexed { ix none with dirty := false } on

theorem witness_IndexesAndEpochs_9 : ∃ (s : State) (id : Nat) (x : Index), findIndex s id = some x ∧ (x.dirty = false ∨ x.st ≠ 1) :=
  ⟨s_indexesAndEpochs_9, 2, got (findIndex s_indexesAndEpochs_9 2), by decide +kernel, by decide +kernel⟩

def s_indexesAndEpochs_10 : State :=
  let s := indexed (ix (some 4)) on; { s with retr := { s.retr with ingests := [{ ing with epoch := 4 }] } }

def e_indexesAndEpochs_10 : Nat :=
  got ((got (findIndex s_indexesAndEpochs_10 2)).closing)

theorem witness_IndexesAndEpochs_10 : ∃ (s : State) (id : Nat) (x : Index) (e : Nat), findIndex s id = some x ∧ x.closing = some e ∧ (s.retr.ingests.any fun g => g.index == id && g.epoch == e) = true :=
  ⟨s_indexesAndEpochs_10, 2, got (findIndex s_indexesAndEpochs_10 2), e_indexesAndEpochs_10, by decide +kernel, by decide +kernel, by decide +kernel⟩

def s_indexesAndEpochs_11 : State :=
  let s := indexed (ix (some 4)) on; { s with tier := { s.tier with pages := [pg1] }, blk := { s.blk with pail := [pg9] } }

def e_indexesAndEpochs_11 : Nat :=
  got ((got (findIndex s_indexesAndEpochs_11 2)).closing)

theorem witness_IndexesAndEpochs_11 : ∃ (s : State) (id : Nat) (x : Index) (e : Nat), findIndex s id = some x ∧ x.closing = some e ∧ (s.retr.ingests.any fun g => g.index == id && g.epoch == e) = false ∧ indexDurable s id = false :=
  ⟨s_indexesAndEpochs_11, 2, got (findIndex s_indexesAndEpochs_11 2), e_indexesAndEpochs_11, by decide +kernel, by decide +kernel, by decide +kernel, by decide +kernel⟩

def x_indexesAndEpochs_12 : Index :=
  got (findIndex (indexed (ix (some 4)) on : State) 2)

theorem witness_IndexesAndEpochs_12 : ∃ (s : State) (id : Nat) (x : Index) (e : Nat), findIndex s id = some x ∧ x.closing = some e ∧ (s.retr.ingests.any fun g => g.index == id && g.epoch == e) = false ∧ indexDurable s id = true :=
  ⟨(indexed (ix (some 4)) on : State), 2, x_indexesAndEpochs_12, got (x_indexesAndEpochs_12.closing), by decide +kernel, by decide +kernel, by decide +kernel, by decide +kernel⟩

def x_indexesAndEpochs_13 : Index :=
  got (findIndex (indexed (ix none) on : State) 2)

def old_indexesAndEpochs_13 : Nat :=
  oldestPinned (indexed (ix none) on : State) x_indexesAndEpochs_13

theorem witness_IndexesAndEpochs_13 : ∃ (s : State) (id : Nat) (list : Nat) (x : Index) (old : Nat), findIndex s id = some x ∧ old = oldestPinned s x ∧ (x.items.find? fun i => i.list == list && goneBy old i) = none :=
  ⟨(indexed (ix none) on : State), 2, 1, x_indexesAndEpochs_13, old_indexesAndEpochs_13, by decide +kernel, rfl, by decide +kernel⟩

def s_indexesAndEpochs_14 : State :=
  let s := fullPail (indexed { ix none with items := [it1 (some 3)] } on); { s with tier := { s.tier with pages := [pg1] } }

def old_indexesAndEpochs_14 : Nat :=
  oldestPinned s_indexesAndEpochs_14 (got (findIndex s_indexesAndEpochs_14 2))

def it_indexesAndEpochs_14 : Item :=
  got (((got (findIndex s_indexesAndEpochs_14 2)).items.find? fun i => i.list == 1 && goneBy old_indexesAndEpochs_14 i))

def n_indexesAndEpochs_14 : Nat :=
  (s_indexesAndEpochs_14.tier.pages.filter fun p => p.owner == segOf (got (findIndex s_indexesAndEpochs_14 2)) it_indexesAndEpochs_14).length

theorem witness_IndexesAndEpochs_14 : ∃ (s : State) (id : Nat) (list : Nat) (x : Index) (old : Nat) (it : Item) (n : Nat), findIndex s id = some x ∧ old = oldestPinned s x ∧ (x.items.find? fun i => i.list == list && goneBy old i) = some it ∧ n = (s.tier.pages.filter fun p => p.owner == segOf x it).length ∧ pailHasRoom s n 0 = false :=
  ⟨s_indexesAndEpochs_14, 2, 1, got (findIndex s_indexesAndEpochs_14 2), old_indexesAndEpochs_14, it_indexesAndEpochs_14, n_indexesAndEpochs_14, by decide +kernel, rfl, by decide +kernel, rfl, by decide +kernel⟩

def s_indexesAndEpochs_15 : State :=
  indexed { ix none with items := [it1 (some 3)] } on

def old_indexesAndEpochs_15 : Nat :=
  oldestPinned s_indexesAndEpochs_15 (got (findIndex s_indexesAndEpochs_15 2))

def it_indexesAndEpochs_15 : Item :=
  got (((got (findIndex s_indexesAndEpochs_15 2)).items.find? fun i => i.list == 1 && goneBy old_indexesAndEpochs_15 i))

def n_indexesAndEpochs_15 : Nat :=
  (s_indexesAndEpochs_15.tier.pages.filter fun p => p.owner == segOf (got (findIndex s_indexesAndEpochs_15 2)) it_indexesAndEpochs_15).length

theorem witness_IndexesAndEpochs_15 : ∃ (s : State) (id : Nat) (list : Nat) (x : Index) (old : Nat) (it : Item) (n : Nat), findIndex s id = some x ∧ old = oldestPinned s x ∧ (x.items.find? fun i => i.list == list && goneBy old i) = some it ∧ n = (s.tier.pages.filter fun p => p.owner == segOf x it).length ∧ pailHasRoom s n 0 = true ∧ ((segItems x list it.seg).map (·.ordinal)).Nodup :=
  ⟨s_indexesAndEpochs_15, 2, 1, got (findIndex s_indexesAndEpochs_15 2), old_indexesAndEpochs_15, it_indexesAndEpochs_15, n_indexesAndEpochs_15, by decide +kernel, rfl, by decide +kernel, rfl, by decide +kernel, by decide +kernel⟩

def e_ingestIntoTheOpenEpoch_1 : Sqe :=
  { bkE with handle := 2, cdw10 := 32, cdw15 := 2 }

def q_ingestIntoTheOpenEpoch_1 : Inflight :=
  got (startable e_ingestIntoTheOpenEpoch_1 0x8D (indexed (ix none) (cq 0x8D on) : State))

def x_ingestIntoTheOpenEpoch_1 : Index :=
  got (indexFor (indexed (ix none) (cq 0x8D on) : State) e_ingestIntoTheOpenEpoch_1.fn e_ingestIntoTheOpenEpoch_1.handle)

def rs_ingestIntoTheOpenEpoch_1 : List Bytes :=
  got (cutItems e_ingestIntoTheOpenEpoch_1.cdw15 ((itemDel ++ itemDel : Bytes).take e_ingestIntoTheOpenEpoch_1.cdw10))

theorem witness_IngestIntoTheOpenEpoch_1 : ∃ (s : State) (e : Sqe) (q : Inflight) (buf : Bytes) (x : Index) (rs : List Bytes), basketReady e 0x8D false (some 64) q s ∧ indexFor s e.fn e.handle = some x ∧ e.cdw10 ≤ buf.length ∧ e.cdw10 ≤ 2 ^ 26 ∧ cutItems e.cdw15 (buf.take e.cdw10) = some rs ∧ rs.all (itemOk x) = true ∧ ((rs.any fun b => !itemDelete b && field b 9 1 == 0) = true → x.encoder ≠ noHandle ∧ namedBasket s e.fn x.encoder ≠ none) ∧ readOnly s = false ∧ storeFull s (pagesOf (ingestBytes x rs)) = false :=
  ⟨(indexed (ix none) (cq 0x8D on) : State), e_ingestIntoTheOpenEpoch_1, q_ingestIntoTheOpenEpoch_1, (itemDel ++ itemDel : Bytes), x_ingestIntoTheOpenEpoch_1, rs_ingestIntoTheOpenEpoch_1, by unfold basketReady; decide +kernel, by decide +kernel, by decide +kernel, by decide +kernel, by decide +kernel, by decide +kernel, by decide +kernel, by decide +kernel, by decide +kernel⟩

def g_ingestIntoTheOpenEpoch_2 : Ingest :=
  got (((ingesting (ix1 0) [itemIns] : State).retr.ingests.find? fun g => g.fn == 0 && g.sq == 2000 && g.cid == 7))

def b_ingestIntoTheOpenEpoch_2 : Bytes :=
  got ((g_ingestIntoTheOpenEpoch_2.records).head?)

def rest_ingestIntoTheOpenEpoch_2 : List Bytes :=
  (g_ingestIntoTheOpenEpoch_2.records).tail

def x_ingestIntoTheOpenEpoch_2 : Index :=
  got (findIndex (ingesting (ix1 0) [itemIns] : State) g_ingestIntoTheOpenEpoch_2.index)

theorem witness_IngestIntoTheOpenEpoch_2 : ∃ (s : State) (fn : Nat) (sq : Nat) (cid : Nat) (g : Ingest) (b : Bytes) (rest : List Bytes) (x : Index) (h : Ingest), (s.retr.ingests.find? fun g => g.fn == fn && g.sq == sq && g.cid == cid) = some g ∧ g.records = b :: rest ∧ findIndex s g.index = some x ∧ (s.retr.ingests.find? fun k => k.no == g.no) = some g ∧ (itemDelete b = true → h = { g with records := rest, applied := g.applied + boolNat (hasItem x (itemId b)) }) ∧ (itemDelete b = false → h = { g with records := rest, applied := g.applied + 1 } ∧ insertWaits s g x = false ∧ poisonedOf s (assignObjects x) = none ∧ ∃ i, i = newItem g b x (listFor s x (famVec x (itemVec s g.fn x b))) ∧ i.ordinal < 2 ^ 32 ∧ (tombstone g.no i.id g.epoch x).heldItems < 2 ^ 40 ∧ itemLacks s x i ≤ storeLeft s) :=
  ⟨(ingesting (ix1 0) [itemIns] : State), 0, 2000, 7, g_ingestIntoTheOpenEpoch_2, b_ingestIntoTheOpenEpoch_2, rest_ingestIntoTheOpenEpoch_2, x_ingestIntoTheOpenEpoch_2, ({ ing with records := [], applied := 1 } : Ingest), by decide +kernel, by decide +kernel, by decide +kernel, by decide +kernel, fun h => absurd h (by decide +kernel), fun _ => ⟨by decide +kernel, by decide +kernel, by decide +kernel, _, rfl, by decide +kernel, by decide +kernel⟩⟩

def s_ingestIntoTheOpenEpoch_3 : State :=
  let s := ingesting (ix1 0) [itemIns]; { s with jobs := { s.jobs with owner := some 1 } }

def g_ingestIntoTheOpenEpoch_3 : Ingest :=
  got ((s_ingestIntoTheOpenEpoch_3.retr.ingests.find? fun g => g.fn == 0 && g.sq == 2000 && g.cid == 7))

def b_ingestIntoTheOpenEpoch_3 : Bytes :=
  got ((g_ingestIntoTheOpenEpoch_3.records).head?)

def rest_ingestIntoTheOpenEpoch_3 : List Bytes :=
  (g_ingestIntoTheOpenEpoch_3.records).tail

def x_ingestIntoTheOpenEpoch_3 : Index :=
  got (findIndex s_ingestIntoTheOpenEpoch_3 g_ingestIntoTheOpenEpoch_3.index)

def i_ingestIntoTheOpenEpoch_3 : Item :=
  newItem g_ingestIntoTheOpenEpoch_3 b_ingestIntoTheOpenEpoch_3 x_ingestIntoTheOpenEpoch_3 (listFor s_ingestIntoTheOpenEpoch_3 x_ingestIntoTheOpenEpoch_3 (famVec x_ingestIntoTheOpenEpoch_3 (itemVec s_ingestIntoTheOpenEpoch_3 g_ingestIntoTheOpenEpoch_3.fn x_ingestIntoTheOpenEpoch_3 b_ingestIntoTheOpenEpoch_3)))

theorem witness_IngestIntoTheOpenEpoch_3 : ∃ (s : State) (fn : Nat) (sq : Nat) (cid : Nat) (g : Ingest) (b : Bytes) (rest : List Bytes) (x : Index) (i : Item), (s.retr.ingests.find? fun g => g.fn == fn && g.sq == sq && g.cid == cid) = some g ∧ g.records = b :: rest ∧ findIndex s g.index = some x ∧ itemDelete b = false ∧ i = newItem g b x (listFor s x (famVec x (itemVec s g.fn x b))) ∧ insertWaits s g x = true :=
  ⟨s_ingestIntoTheOpenEpoch_3, 0, 2000, 7, g_ingestIntoTheOpenEpoch_3, b_ingestIntoTheOpenEpoch_3, rest_ingestIntoTheOpenEpoch_3, x_ingestIntoTheOpenEpoch_3, i_ingestIntoTheOpenEpoch_3, by decide +kernel, by decide +kernel, by decide +kernel, by decide +kernel, rfl, by decide +kernel⟩

def s_ingestIntoTheOpenEpoch_4 : State :=
  let s := ingesting (ix1 0) [itemIns]; { s with tier := { s.tier with tiles := [{ t1 5 0 with poison := true }] } }

def g_ingestIntoTheOpenEpoch_4 : Ingest :=
  got ((s_ingestIntoTheOpenEpoch_4.retr.ingests.find? fun g => g.fn == 0 && g.sq == 2000 && g.cid == 7))

def b_ingestIntoTheOpenEpoch_4 : Bytes :=
  got ((g_ingestIntoTheOpenEpoch_4.records).head?)

def rest_ingestIntoTheOpenEpoch_4 : List Bytes :=
  (g_ingestIntoTheOpenEpoch_4.records).tail

def x_ingestIntoTheOpenEpoch_4 : Index :=
  got (findIndex s_ingestIntoTheOpenEpoch_4 g_ingestIntoTheOpenEpoch_4.index)

def i_ingestIntoTheOpenEpoch_4 : Item :=
  newItem g_ingestIntoTheOpenEpoch_4 b_ingestIntoTheOpenEpoch_4 x_ingestIntoTheOpenEpoch_4 (listFor s_ingestIntoTheOpenEpoch_4 x_ingestIntoTheOpenEpoch_4 (famVec x_ingestIntoTheOpenEpoch_4 (itemVec s_ingestIntoTheOpenEpoch_4 g_ingestIntoTheOpenEpoch_4.fn x_ingestIntoTheOpenEpoch_4 b_ingestIntoTheOpenEpoch_4)))

def o_ingestIntoTheOpenEpoch_4 : Nat :=
  got (((poisonedOf s_ingestIntoTheOpenEpoch_4 (assignObjects x_ingestIntoTheOpenEpoch_4)).map (Prod.fst)))

def k_ingestIntoTheOpenEpoch_4 : Nat :=
  got (((poisonedOf s_ingestIntoTheOpenEpoch_4 (assignObjects x_ingestIntoTheOpenEpoch_4)).map (Prod.fst ∘ Prod.snd)))

def tier_ingestIntoTheOpenEpoch_4 : Nat :=
  got (((poisonedOf s_ingestIntoTheOpenEpoch_4 (assignObjects x_ingestIntoTheOpenEpoch_4)).map (Prod.snd ∘ Prod.snd)))

theorem witness_IngestIntoTheOpenEpoch_4 : ∃ (s : State) (fn : Nat) (sq : Nat) (cid : Nat) (g : Ingest) (b : Bytes) (rest : List Bytes) (x : Index) (i : Item) (o : Nat) (k : Nat) (tier : Nat), (s.retr.ingests.find? fun g => g.fn == fn && g.sq == sq && g.cid == cid) = some g ∧ g.records = b :: rest ∧ findIndex s g.index = some x ∧ itemDelete b = false ∧ i = newItem g b x (listFor s x (famVec x (itemVec s g.fn x b))) ∧ insertWaits s g x = false ∧ poisonedOf s (assignObjects x) = some (o, k, tier) :=
  ⟨s_ingestIntoTheOpenEpoch_4, 0, 2000, 7, g_ingestIntoTheOpenEpoch_4, b_ingestIntoTheOpenEpoch_4, rest_ingestIntoTheOpenEpoch_4, x_ingestIntoTheOpenEpoch_4, i_ingestIntoTheOpenEpoch_4, o_ingestIntoTheOpenEpoch_4, k_ingestIntoTheOpenEpoch_4, tier_ingestIntoTheOpenEpoch_4, by decide +kernel, by decide +kernel, by decide +kernel, by decide +kernel, rfl, by decide +kernel, by decide +kernel⟩

def g_ingestIntoTheOpenEpoch_5 : Ingest :=
  got (((ingesting (ix1 (2 ^ 32)) [itemIns] : State).retr.ingests.find? fun g => g.fn == 0 && g.sq == 2000 && g.cid == 7))

def b_ingestIntoTheOpenEpoch_5 : Bytes :=
  got ((g_ingestIntoTheOpenEpoch_5.records).head?)

def rest_ingestIntoTheOpenEpoch_5 : List Bytes :=
  (g_ingestIntoTheOpenEpoch_5.records).tail

def x_ingestIntoTheOpenEpoch_5 : Index :=
  got (findIndex (ingesting (ix1 (2 ^ 32)) [itemIns] : State) g_ingestIntoTheOpenEpoch_5.index)

def i_ingestIntoTheOpenEpoch_5 : Item :=
  newItem g_ingestIntoTheOpenEpoch_5 b_ingestIntoTheOpenEpoch_5 x_ingestIntoTheOpenEpoch_5 (listFor (ingesting (ix1 (2 ^ 32)) [itemIns] : State) x_ingestIntoTheOpenEpoch_5 (famVec x_ingestIntoTheOpenEpoch_5 (itemVec (ingesting (ix1 (2 ^ 32)) [itemIns] : State) g_ingestIntoTheOpenEpoch_5.fn x_ingestIntoTheOpenEpoch_5 b_ingestIntoTheOpenEpoch_5)))

theorem witness_IngestIntoTheOpenEpoch_5 : ∃ (s : State) (fn : Nat) (sq : Nat) (cid : Nat) (g : Ingest) (b : Bytes) (rest : List Bytes) (x : Index) (i : Item), (s.retr.ingests.find? fun g => g.fn == fn && g.sq == sq && g.cid == cid) = some g ∧ g.records = b :: rest ∧ findIndex s g.index = some x ∧ itemDelete b = false ∧ i = newItem g b x (listFor s x (famVec x (itemVec s g.fn x b))) ∧ insertWaits s g x = false ∧ poisonedOf s (assignObjects x) = none ∧ (2 ^ 32 ≤ i.ordinal ∨ 2 ^ 40 ≤ (tombstone g.no i.id g.epoch x).heldItems ∨ storeLeft s < itemLacks s x i) :=
  ⟨(ingesting (ix1 (2 ^ 32)) [itemIns] : State), 0, 2000, 7, g_ingestIntoTheOpenEpoch_5, b_ingestIntoTheOpenEpoch_5, rest_ingestIntoTheOpenEpoch_5, x_ingestIntoTheOpenEpoch_5, i_ingestIntoTheOpenEpoch_5, by decide +kernel, by decide +kernel, by decide +kernel, by decide +kernel, rfl, by decide +kernel, by decide +kernel, by decide +kernel⟩

def r_queriesAndScans_1 : Inflight :=
  got (startable qE 0x89 (piped [] : State))

def x_queriesAndScans_1 : Index :=
  got (indexFor (piped [] : State) qE.fn (pv (pipeValues (piped [] : State) qE.handle : KV) 1))

def bs_queriesAndScans_1 : List (Option Basket) :=
  got (pipeBaskets (piped [] : State) qE.fn (pipeValues (piped [] : State) qE.handle : KV))

def epoch_queriesAndScans_1 : Nat :=
  got (pinEpoch (piped [] : State) qE.fn x_queriesAndScans_1)

def c_queriesAndScans_1 : Nat :=
  queryTime (piped [] : State) qE.fn x_queriesAndScans_1 (pipeValues (piped [] : State) qE.handle : KV) ((bitsOf qE.cdw15 9 8 : Nat) == 0) (wantsExpress qE) (descProbes (pipeValues (piped [] : State) qE.handle : KV) (qd.take qE.cdw10 : Bytes)) (poolOf (pipeValues (piped [] : State) qE.handle : KV) (qE.cdw15 % 128 : Nat))

def win_queriesAndScans_1 : Option Nat :=
  (if wantsExpress qE then admitExpress (piped [] : State) c_queriesAndScans_1 0 (timeLeft (piped [] : State) (startedRec qE r_queriesAndScans_1).deadline) else if admitQueryStd (piped [] : State) c_queriesAndScans_1 (timeLeft (piped [] : State) (startedRec qE r_queriesAndScans_1).deadline) then some 0 else none)

theorem witness_QueriesAndScans_1 : ∃ (s : State) (e : Sqe) (r : Inflight) (buf : Bytes) (k : Nat) (kind : Nat) (m : KV) (x : Index) (bs : List (Option Basket)) (b : Bytes) (epoch : Nat) (c : Nat) (win : Option Nat), basketReady e 0x89 true (some (64 + 8 * (e.cdw15 % 128))) r s ∧ k = e.cdw15 % 128 ∧ kind = bitsOf e.cdw15 9 8 ∧ m = pipeValues s e.handle ∧ 1 ≤ k ∧ k ≤ 64 ∧ kind ≤ 1 ∧ e.cdw15 = k + 256 * kind ∧ e.cdw10 ≤ 2 ^ 20 ∧ e.handle ≤ 63 ∧ indexFor s e.fn (pv m 1) = some x ∧ pipeBaskets s e.fn m = some bs ∧ granted (pv m 17) e.fn = true ∧ e.cdw10 ≤ buf.length ∧ b = buf.take e.cdw10 ∧ descOk x m (kind == 0) b e.cdw10 = true ∧ pinEpoch s e.fn x = some epoch ∧ c = queryTime s e.fn x m (kind == 0) (wantsExpress e) (descProbes m b) (poolOf m k) ∧ win = (if wantsExpress e then admitExpress s c 0 (timeLeft s (startedRec e r).deadline) else if admitQueryStd s c (timeLeft s (startedRec e r).deadline) then some 0 else none) ∧ win.isSome = true :=
  ⟨(piped [] : State), qE, r_queriesAndScans_1, qd, (qE.cdw15 % 128 : Nat), (bitsOf qE.cdw15 9 8 : Nat), (pipeValues (piped [] : State) qE.handle : KV), x_queriesAndScans_1, bs_queriesAndScans_1, (qd.take qE.cdw10 : Bytes), epoch_queriesAndScans_1, c_queriesAndScans_1, win_queriesAndScans_1, by unfold basketReady; decide +kernel, rfl, rfl, rfl, by decide +kernel, by decide +kernel, by decide +kernel, by decide +kernel, by decide +kernel, by decide +kernel, by decide +kernel, by decide +kernel, by decide +kernel, by decide +kernel, rfl, by decide +kernel, by decide +kernel, rfl, rfl, by decide +kernel⟩

def s_queriesAndScans_2 : State :=
  { piped [] with thr := { fa := 0, prog := 0, fab := 0 } }

def r_queriesAndScans_2 : Inflight :=
  got (startable ({ qE with cdw14 := 5 } : Sqe) 0x89 s_queriesAndScans_2)

def k_queriesAndScans_2 : Nat :=
  ({ qE with cdw14 := 5 } : Sqe).cdw15 % 128

def kind_queriesAndScans_2 : Nat :=
  bitsOf ({ qE with cdw14 := 5 } : Sqe).cdw15 9 8

def m_queriesAndScans_2 : KV :=
  pipeValues s_queriesAndScans_2 ({ qE with cdw14 := 5 } : Sqe).handle

def x_queriesAndScans_2 : Index :=
  got (indexFor s_queriesAndScans_2 ({ qE with cdw14 := 5 } : Sqe).fn (pv m_queriesAndScans_2 1))

def bs_queriesAndScans_2 : List (Option Basket) :=
  got (pipeBaskets s_queriesAndScans_2 ({ qE with cdw14 := 5 } : Sqe).fn m_queriesAndScans_2)

def b_queriesAndScans_2 : Bytes :=
  qd.take ({ qE with cdw14 := 5 } : Sqe).cdw10

def epoch_queriesAndScans_2 : Nat :=
  got (pinEpoch s_queriesAndScans_2 ({ qE with cdw14 := 5 } : Sqe).fn x_queriesAndScans_2)

def c_queriesAndScans_2 : Nat :=
  queryTime s_queriesAndScans_2 ({ qE with cdw14 := 5 } : Sqe).fn x_queriesAndScans_2 m_queriesAndScans_2 (kind_queriesAndScans_2 == 0) (wantsExpress ({ qE with cdw14 := 5 } : Sqe)) (descProbes m_queriesAndScans_2 b_queriesAndScans_2) (poolOf m_queriesAndScans_2 k_queriesAndScans_2)

def win_queriesAndScans_2 : Option Nat :=
  (if wantsExpress ({ qE with cdw14 := 5 } : Sqe) then admitExpress s_queriesAndScans_2 c_queriesAndScans_2 0 (timeLeft s_queriesAndScans_2 (startedRec ({ qE with cdw14 := 5 } : Sqe) r_queriesAndScans_2).deadline) else if admitQueryStd s_queriesAndScans_2 c_queriesAndScans_2 (timeLeft s_queriesAndScans_2 (startedRec ({ qE with cdw14 := 5 } : Sqe) r_queriesAndScans_2).deadline) then some 0 else none)

theorem witness_QueriesAndScans_2 : ∃ (s : State) (e : Sqe) (r : Inflight) (buf : Bytes) (k : Nat) (kind : Nat) (m : KV) (x : Index) (bs : List (Option Basket)) (b : Bytes) (epoch : Nat) (c : Nat) (win : Option Nat), basketReady e 0x89 true (some (64 + 8 * (e.cdw15 % 128))) r s ∧ k = e.cdw15 % 128 ∧ kind = bitsOf e.cdw15 9 8 ∧ m = pipeValues s e.handle ∧ 1 ≤ k ∧ k ≤ 64 ∧ kind ≤ 1 ∧ e.cdw15 = k + 256 * kind ∧ e.cdw10 ≤ 2 ^ 20 ∧ e.handle ≤ 63 ∧ indexFor s e.fn (pv m 1) = some x ∧ pipeBaskets s e.fn m = some bs ∧ granted (pv m 17) e.fn = true ∧ e.cdw10 ≤ buf.length ∧ b = buf.take e.cdw10 ∧ descOk x m (kind == 0) b e.cdw10 = true ∧ pinEpoch s e.fn x = some epoch ∧ c = queryTime s e.fn x m (kind == 0) (wantsExpress e) (descProbes m b) (poolOf m k) ∧ win = (if wantsExpress e then admitExpress s c 0 (timeLeft s (startedRec e r).deadline) else if admitQueryStd s c (timeLeft s (startedRec e r).deadline) then some 0 else none) ∧ win = none :=
  ⟨s_queriesAndScans_2, ({ qE with cdw14 := 5 } : Sqe), r_queriesAndScans_2, qd, k_queriesAndScans_2, kind_queriesAndScans_2, m_queriesAndScans_2, x_queriesAndScans_2, bs_queriesAndScans_2, b_queriesAndScans_2, epoch_queriesAndScans_2, c_queriesAndScans_2, win_queriesAndScans_2, by unfold basketReady; decide +kernel, rfl, rfl, rfl, by decide +kernel, by decide +kernel, by decide +kernel, by decide +kernel, by decide +kernel, by decide +kernel, by decide +kernel, by decide +kernel, by decide +kernel, by decide +kernel, rfl, by decide +kernel, by decide +kernel, rfl, rfl, by decide +kernel⟩

def x_queriesAndScans_4 : Index :=
  got (findIndex (asking (ix none) [qry] : State) 2)

def p_queriesAndScans_4 : Probe :=
  got ((qry.probes.find? fun p => p.list == 1 && p.scanning))

def a_queriesAndScans_4 : ScanAcc :=
  scanList (asking (ix none) [qry] : State) x_queriesAndScans_4 qry p_queriesAndScans_4 ([] : List Scored)

theorem witness_QueriesAndScans_4 : ∃ (s : State) (id : Nat) (list : Nat) (recs : List Scored) (x : Index) (q : Query) (p : Probe) (a : ScanAcc), findIndex s id = some x ∧ q.express = false ∧ s.retr.queries.find? (·.named q.fn q.sq q.cid) = some q ∧ (s.retr.queries.filter fun q => q.index == id && q.probes.any fun p => p.list == list && p.scanning) = [q] ∧ scanHeld s list = false ∧ (q.probes.find? fun p => p.list == list && p.scanning) = some p ∧ a = scanList s x q p recs ∧ a.poisoned = false ∧ (∃ o ∈ q.probes, o.list ≠ list ∧ o.done = false) :=
  ⟨(asking (ix none) [qry] : State), 2, 1, ([] : List Scored), x_queriesAndScans_4, qry, p_queriesAndScans_4, a_queriesAndScans_4, by decide +kernel, by decide +kernel, by decide +kernel, by decide +kernel, by decide +kernel, by decide +kernel, rfl, by decide +kernel, by decide +kernel⟩

def s_queriesAndScans_5 : State :=
  asking (ix none) [{ qry with probes := [prb 1 true] }]

def p_queriesAndScans_5 : Probe :=
  got ((({ qry with probes := [prb 1 true] } : Query).probes.find? fun p => p.list == 1 && p.scanning))

def a_queriesAndScans_5 : ScanAcc :=
  scanList s_queriesAndScans_5 (got (findIndex s_queriesAndScans_5 2)) ({ qry with probes := [prb 1 true] } : Query) p_queriesAndScans_5 ([] : List Scored)

def l_queriesAndScans_5 : List Cand :=
  mergePools (got (findIndex s_queriesAndScans_5 2)) { ({ qry with probes := [prb 1 true] } : Query) with pools := a_queriesAndScans_5.pools }

theorem witness_QueriesAndScans_5 : ∃ (s : State) (id : Nat) (list : Nat) (recs : List Scored) (x : Index) (q : Query) (p : Probe) (a : ScanAcc) (l : List Cand), findIndex s id = some x ∧ q.express = false ∧ s.retr.queries.find? (·.named q.fn q.sq q.cid) = some q ∧ (s.retr.queries.filter fun q => q.index == id && q.probes.any fun p => p.list == list && p.scanning) = [q] ∧ scanHeld s list = false ∧ (q.probes.find? fun p => p.list == list && p.scanning) = some p ∧ a = scanList s x q p recs ∧ a.poisoned = false ∧ (∀ o ∈ q.probes, o.list ≠ list → o.done = true) ∧ q.noWiden = true ∧ rankStage x q = none ∧ l = mergePools x { q with pools := a.pools } ∧ candPoison s x false l = none :=
  ⟨s_queriesAndScans_5, 2, 1, ([] : List Scored), got (findIndex s_queriesAndScans_5 2), ({ qry with probes := [prb 1 true] } : Query), p_queriesAndScans_5, a_queriesAndScans_5, l_queriesAndScans_5, by decide +kernel, by decide +kernel, by decide +kernel, by decide +kernel, by decide +kernel, by decide +kernel, rfl, by decide +kernel, by decide +kernel, by decide +kernel, by decide +kernel, rfl, by decide +kernel⟩

def s_queriesAndScans_6 : State :=
  asking { ix none with items := [it1 none] } [qry]

def recs_queriesAndScans_6 : List Scored :=
  [{ ordinal := 0, raw := [1], failed := true }]

def p_queriesAndScans_6 : Probe :=
  got ((qry.probes.find? fun p => p.list == 1 && p.scanning))

def a_queriesAndScans_6 : ScanAcc :=
  scanList s_queriesAndScans_6 (got (findIndex s_queriesAndScans_6 2)) qry p_queriesAndScans_6 recs_queriesAndScans_6

theorem witness_QueriesAndScans_6 : ∃ (s : State) (id : Nat) (list : Nat) (recs : List Scored) (x : Index) (q : Query) (p : Probe) (a : ScanAcc), findIndex s id = some x ∧ q.express = false ∧ s.retr.queries.find? (·.named q.fn q.sq q.cid) = some q ∧ (s.retr.queries.filter fun q => q.index == id && q.probes.any fun p => p.list == list && p.scanning) = [q] ∧ scanHeld s list = false ∧ (q.probes.find? fun p => p.list == list && p.scanning) = some p ∧ a = scanList s x q p recs ∧ a.poisoned = true :=
  ⟨s_queriesAndScans_6, 2, 1, recs_queriesAndScans_6, got (findIndex s_queriesAndScans_6 2), qry, p_queriesAndScans_6, a_queriesAndScans_6, by decide +kernel, by decide +kernel, by decide +kernel, by decide +kernel, by decide +kernel, by decide +kernel, rfl, by decide +kernel⟩

def x_queriesAndScans_7 : Index :=
  got (findIndex (asking (ix none) [qry] : State) 2)

def p_queriesAndScans_7 : Probe :=
  got ((qry.probes.find? fun p => p.list == 1 && p.scanning))

def a_queriesAndScans_7 : ScanAcc :=
  scanList (asking (ix none) [qry] : State) x_queriesAndScans_7 qry p_queriesAndScans_7 ([] : List Scored)

theorem witness_QueriesAndScans_7 : ∃ (s : State) (id : Nat) (list : Nat) (recs : List Scored) (x : Index) (q : Query) (p : Probe) (a : ScanAcc), findIndex s id = some x ∧ q.express = false ∧ s.retr.queries.find? (·.named q.fn q.sq q.cid) = some q ∧ (s.retr.queries.filter fun q => q.index == id && q.probes.any fun p => p.list == list && p.scanning) = [q] ∧ scanHeld s list = false ∧ (q.probes.find? fun p => p.list == list && p.scanning) = some p ∧ a = scanList s x q p recs :=
  ⟨(asking (ix none) [qry] : State), 2, 1, ([] : List Scored), x_queriesAndScans_7, qry, p_queriesAndScans_7, a_queriesAndScans_7, by decide +kernel, by decide +kernel, by decide +kernel, by decide +kernel, by decide +kernel, by decide +kernel, rfl⟩

def s_resultHandlesAndGather_2 : State :=
  let s := cq 0x94 on; { s with retr := { s.retr with handles := [{ handle := 64, fn := 0, ids := [1, 2, 3], scores := [5, 6, 7] }] } }

def x_resultHandlesAndGather_2 : Inflight :=
  got (startable { ({ bkE with handle := 64, cdw15 := 2 } : Sqe) with psdt := 0 } 0x94 s_resultHandlesAndGather_2)

def n_resultHandlesAndGather_2 : Nat :=
  ({ bkE with handle := 64, cdw15 := 2 } : Sqe).cdw15 % 128

theorem witness_ResultHandlesAndGather_2 : ∃ (s : State) (e : Sqe) (x : Inflight) (n : Nat) (h : _), basketReady { e with psdt := 0 } 0x94 false (some (64 + 4 * n)) x s ∧ n = e.cdw15 % 128 ∧ e.cdw15 = n ∧ 1 ≤ n ∧ n ≤ 64 ∧ e.handle ≠ noHandle ∧ s.retr.handles.find? (·.handle == e.handle) = some h ∧ h.fn = e.fn :=
  ⟨s_resultHandlesAndGather_2, ({ bkE with handle := 64, cdw15 := 2 } : Sqe), x_resultHandlesAndGather_2, n_resultHandlesAndGather_2, got (s_resultHandlesAndGather_2.retr.handles.find? (·.handle == ({ bkE with handle := 64, cdw15 := 2 } : Sqe).handle)), by unfold basketReady; decide +kernel, rfl, by decide +kernel, by decide +kernel, by decide +kernel, by decide +kernel, by decide +kernel, by decide +kernel⟩

def x_resultHandlesAndGather_3 : Inflight :=
  got (startable { ({ bkE with handle := 64, cdw15 := 2 } : Sqe) with psdt := 0 } 0x94 (cq 0x94 on : State))

def n_resultHandlesAndGather_3 : Nat :=
  ({ bkE with handle := 64, cdw15 := 2 } : Sqe).cdw15 % 128

theorem witness_ResultHandlesAndGather_3 : ∃ (s : State) (e : Sqe) (x : Inflight) (n : Nat) (st : Status), basketReady { e with psdt := 0 } 0x94 false (some (64 + 4 * n)) x s ∧ n = e.cdw15 % 128 ∧ e.cdw15 = n ∧ 1 ≤ n ∧ n ≤ 64 ∧ (e.handle = noHandle ∧ st = stResultExpired ∨ e.handle ≠ noHandle ∧ (s.retr.handles.find? (·.handle == e.handle)) = none ∧ st = (if wasHandle s e.fn e.handle then stResultExpired else stUnknownHandle) ∨ e.handle ≠ noHandle ∧ (∃ h, s.retr.handles.find? (·.handle == e.handle) = some h ∧ h.fn ≠ e.fn) ∧ st = stUnknownHandle) :=
  ⟨(cq 0x94 on : State), ({ bkE with handle := 64, cdw15 := 2 } : Sqe), x_resultHandlesAndGather_3, n_resultHandlesAndGather_3, stUnknownHandle, by unfold basketReady; decide +kernel, rfl, by decide +kernel, by decide +kernel, by decide +kernel, by decide +kernel⟩

def x_deadlinesAndAborts_1 : Inflight :=
  got (inflight? (aborting 8 : State) 0 2000 9)

theorem witness_DeadlinesAndAborts_1 : ∃ (s : State) (fn : Nat) (sq : Nat) (cid : Nat) (x : Inflight), inflight? s fn sq cid = some x ∧ s.pwr.ps < 3 ∧ x.deadline = 0 :=
  ⟨(aborting 8 : State), 0, 2000, 9, x_deadlinesAndAborts_1, by decide +kernel, by decide +kernel, by decide +kernel⟩

theorem witness_DeadlinesAndAborts_2 : ∃ (s : State) (fn : Nat) (sq : Nat) (cid : Nat) (x : Inflight), inflight? s fn sq cid = some x ∧ s.pwr.ps < 3 ∧ x.deadline ≠ 0 :=
  ⟨inF2, 0, 2000, 9, got (inflight? inF2 0 2000 9), by decide +kernel, by decide +kernel, by decide +kernel⟩

def sq_deadlinesAndAborts_3 : Nat :=
  ({ adE with cdw10 := 2000 + 65536 * 9 } : Sqe).cdw10 % 65536

def cid_deadlinesAndAborts_3 : Nat :=
  ({ adE with cdw10 := 2000 + 65536 * 9 } : Sqe).cdw10 / 65536 % 65536

theorem witness_DeadlinesAndAborts_3 : ∃ (s : State) (e : Sqe) (sq : Nat) (cid : Nat), adminReady e 0x08 s ∧ sq = e.cdw10 % 65536 ∧ cid = e.cdw10 / 65536 % 65536 ∧ s.pwr.ps < 3 ∧ isCompute s e.fn sq = true ∧ (inflight? s e.fn sq cid).isSome = true :=
  ⟨(aborting 8 : State), ({ adE with cdw10 := 2000 + 65536 * 9 } : Sqe), sq_deadlinesAndAborts_3, cid_deadlinesAndAborts_3, adminReady_of (by decide +kernel), rfl, rfl, by decide +kernel, by decide +kernel, by decide +kernel⟩

def sq_deadlinesAndAborts_4 : Nat :=
  ({ adE with cdw10 := 2000 + 65536 * 11 } : Sqe).cdw10 % 65536

def cid_deadlinesAndAborts_4 : Nat :=
  ({ adE with cdw10 := 2000 + 65536 * 11 } : Sqe).cdw10 / 65536 % 65536

theorem witness_DeadlinesAndAborts_4 : ∃ (s : State) (e : Sqe) (sq : Nat) (cid : Nat), adminReady e 0x08 s ∧ sq = e.cdw10 % 65536 ∧ cid = e.cdw10 / 65536 % 65536 ∧ s.pwr.ps < 3 ∧ (isCompute s e.fn sq = false ∨ inflight? s e.fn sq cid = none) :=
  ⟨(aborting 8 : State), ({ adE with cdw10 := 2000 + 65536 * 11 } : Sqe), sq_deadlinesAndAborts_4, cid_deadlinesAndAborts_4, adminReady_of (by decide +kernel), rfl, rfl, by decide +kernel, by decide +kernel⟩

theorem witness_DeadlinesAndAborts_5 : ∃ (s : State) (c : Instr) (fn : Nat) (full : List (Nat × Nat)), fn ≤ 63 ∧ s.pwr.ps < 3 ∧ (c = .functionQueuesAbort fn ∧ full = [] ∨ ∃ e, c = .functionAbort ⟨e, full⟩ ∧ e.cdw10 = fn ∧ adminReady e 0xC8 s ∧ (e.fn = 0 ∨ e.fn = fn)) :=
  ⟨(aborting 8 : State), (.functionQueuesAbort 0 : Instr), 0, ([] : List (Nat × Nat)), by decide +kernel, by decide +kernel, Or.inl ⟨rfl, rfl⟩⟩

theorem witness_DeadlinesAndAborts_6 : ∃ (fn : Nat), 63 < fn :=
  ⟨64, by decide +kernel⟩

def m_requestsOfOtherNodes_1 : Msg :=
  { mg with dataLength := 64, target := 64 }

def h_requestsOfOtherNodes_1 : State :=
  (if addrSpace m_requestsOfOtherNodes_1.target = 0 ∧ inCoherent (addrOff m_requestsOfOtherNodes_1.target : Nat) m_requestsOfOtherNodes_1.dataLength = true then healCoherent (addrOff m_requestsOfOtherNodes_1.target : Nat) m_requestsOfOtherNodes_1.dataLength reg else reg)

theorem witness_RequestsOfOtherNodes_1 : ∃ (s : State) (m : Msg) (off : Nat) (n : Nat) (h : State), off = addrOff m.target ∧ n = m.dataLength ∧ firstAsked m s ∧ n ≤ 4096 ∧ msgCheck s m false n = 0 ∧ (addrSpace m.target = 1 → flashHeld s off n = false) ∧ ¬(addrSpace m.target = 0 ∧ homedAway s off n = true ∧ fromTwin m = false) ∧ h = (if addrSpace m.target = 0 ∧ inCoherent off n = true then healCoherent off n s else s) :=
  ⟨reg, m_requestsOfOtherNodes_1, (addrOff m_requestsOfOtherNodes_1.target : Nat), m_requestsOfOtherNodes_1.dataLength, h_requestsOfOtherNodes_1, rfl, rfl, by unfold firstAsked; decide +kernel, by decide +kernel, by decide +kernel, by decide +kernel, by decide +kernel, rfl⟩

def off_requestsOfOtherNodes_2 : Nat :=
  addrOff ({ mg with data := [1, 2], target := 64 } : Msg).target

def n_requestsOfOtherNodes_2 : Nat :=
  ({ mg with data := [1, 2], target := 64 } : Msg).data.length

theorem witness_RequestsOfOtherNodes_2 : ∃ (s : State) (m : Msg) (off : Nat) (n : Nat), off = addrOff m.target ∧ n = m.data.length ∧ firstAsked m s ∧ addrSpace m.target ≠ 1 ∧ n ≤ 4096 ∧ msgCheck s m true n = 0 ∧ ¬(homedAway s off n = true ∧ fromTwin m = false) ∧ (inCoherent off n = true → coherentRoom s off n = true) :=
  ⟨reg, ({ mg with data := [1, 2], target := 64 } : Msg), off_requestsOfOtherNodes_2, n_requestsOfOtherNodes_2, rfl, rfl, by unfold firstAsked; decide +kernel, by decide +kernel, by decide +kernel, by decide +kernel, by decide +kernel, by decide +kernel⟩

theorem witness_RequestsOfOtherNodes_3 : ∃ (s : State) (m : Msg) (c : Instr) (n : Nat), (c = .wyvasWrite m ∧ n = m.data.length ∧ addrSpace m.target ≠ 1 ∧ n ≤ 4096 ∨ c = .wyvasAtomic m ∧ n = 8 ∧ addrSpace m.target ≠ 1 ∧ addrOff m.target % 8 = 0 ∧ m.op ≤ 2) ∧ firstAsked m s ∧ msgCheck s m true n = 0 ∧ ¬(homedAway s (addrOff m.target) n = true ∧ fromTwin m = false) ∧ inCoherent (addrOff m.target) n = true ∧ coherentRoom s (addrOff m.target) n = false :=
  ⟨(fullPail reg : State), ({ mg with data := [1, 2], target := 64 } : Msg), (.wyvasWrite { mg with data := [1, 2], target := 64 } : Instr), 2, by decide +kernel, by unfold firstAsked; decide +kernel, by decide +kernel, by decide +kernel, by decide +kernel, by decide +kernel⟩

def m_requestsOfOtherNodes_4 : Msg :=
  { mg with target := 2 ^ 48 + 64, data := [1, 2] }

def u_requestsOfOtherNodes_4 : State :=
  got (flashWrite m_requestsOfOtherNodes_4.function 0 (addrOff m_requestsOfOtherNodes_4.target : Nat) m_requestsOfOtherNodes_4.data (takeMsg m_requestsOfOtherNodes_4 (onNs on : State)))

theorem witness_RequestsOfOtherNodes_4 : ∃ (s : State) (m : Msg) (off : Nat) (n : Nat) (u : State), off = addrOff m.target ∧ n = m.data.length ∧ firstAsked m s ∧ addrSpace m.target = 1 ∧ fromTwin m = false ∧ n ≤ 4096 ∧ msgCheck s m true n = 0 ∧ flashWrite m.function 0 off m.data (takeMsg m s) = some u :=
  ⟨(onNs on : State), m_requestsOfOtherNodes_4, (addrOff m_requestsOfOtherNodes_4.target : Nat), m_requestsOfOtherNodes_4.data.length, u_requestsOfOtherNodes_4, rfl, rfl, by unfold firstAsked; decide +kernel, by decide +kernel, by decide +kernel, by decide +kernel, by decide +kernel, by decide +kernel⟩

def m_requestsOfOtherNodes_5 : Msg :=
  { mg with port := 12, target := 2 ^ 48 + 32, data := natLE 8 5 }

def no_requestsOfOtherNodes_5 : Nat :=
  addrOff m_requestsOfOtherNodes_5.target / 8

theorem witness_RequestsOfOtherNodes_5 : ∃ (s : State) (m : Msg) (no : Nat) (w : Nat), no = addrOff m.target / 8 ∧ w = field m.data 0 8 ∧ firstAsked m s ∧ addrSpace m.target = 1 ∧ fromTwin m = true ∧ addrOff m.target % 8 = 0 ∧ no < 256 ∧ m.data.length = 8 :=
  ⟨(twin on : State), m_requestsOfOtherNodes_5, no_requestsOfOtherNodes_5, (field m_requestsOfOtherNodes_5.data 0 8 : Nat), rfl, rfl, by unfold firstAsked; decide +kernel, by decide +kernel, by decide +kernel, by decide +kernel, by decide +kernel, by decide +kernel⟩

def m_requestsOfOtherNodes_6 : Msg :=
  { mg with port := 12, target := 2 ^ 48 + syncBase + 192, data := List.replicate 64 0 }

theorem witness_RequestsOfOtherNodes_6 : ∃ (s : State) (m : Msg) (no : Nat), addrOff m.target = syncBase + 64 * no ∧ no ≤ 65535 ∧ firstAsked m s ∧ addrSpace m.target = 1 ∧ fromTwin m = true ∧ m.data.length = 64 :=
  ⟨(twin on : State), m_requestsOfOtherNodes_6, 3, by decide +kernel, by decide +kernel, by unfold firstAsked; decide +kernel, by decide +kernel, by decide +kernel, by decide +kernel⟩

def m_requestsOfOtherNodes_7 : Msg :=
  { mg with op := 2, target := 64, data := natLE 8 5 }

def h_requestsOfOtherNodes_7 : State :=
  (if inCoherent (addrOff m_requestsOfOtherNodes_7.target : Nat) 8 then healCoherent (addrOff m_requestsOfOtherNodes_7.target : Nat) 8 reg else reg)

def old_requestsOfOtherNodes_7 : Nat :=
  memNat h_requestsOfOtherNodes_7.tier.window (addrOff m_requestsOfOtherNodes_7.target : Nat) 8

theorem witness_RequestsOfOtherNodes_7 : ∃ (s : State) (m : Msg) (off : Nat) (h : State) (old : Nat), off = addrOff m.target ∧ h = (if inCoherent off 8 then healCoherent off 8 s else s) ∧ old = memNat h.tier.window off 8 ∧ firstAsked m s ∧ addrSpace m.target ≠ 1 ∧ off % 8 = 0 ∧ m.op ≤ 2 ∧ msgCheck s m true 8 = 0 ∧ ¬(homedAway s off 8 = true ∧ fromTwin m = false) ∧ (inCoherent off 8 = true → coherentRoom s off 8 = true) ∧ memAny h.tier.windowPoison off 8 = false :=
  ⟨reg, m_requestsOfOtherNodes_7, (addrOff m_requestsOfOtherNodes_7.target : Nat), h_requestsOfOtherNodes_7, old_requestsOfOtherNodes_7, rfl, rfl, rfl, by unfold firstAsked; decide +kernel, by decide +kernel, by decide +kernel, by decide +kernel, by decide +kernel, by decide +kernel, by decide +kernel, by decide +kernel⟩

def s_requestsOfOtherNodes_8 : State :=
  { reg with tier := { reg.tier with windowPoison := [(64, 1)] } }

def m_requestsOfOtherNodes_8 : Msg :=
  { mg with op := 2, target := 64, data := natLE 8 5 }

def h_requestsOfOtherNodes_8 : State :=
  (if inCoherent (addrOff m_requestsOfOtherNodes_8.target : Nat) 8 then healCoherent (addrOff m_requestsOfOtherNodes_8.target : Nat) 8 s_requestsOfOtherNodes_8 else s_requestsOfOtherNodes_8)

theorem witness_RequestsOfOtherNodes_8 : ∃ (s : State) (m : Msg) (off : Nat) (h : State), off = addrOff m.target ∧ h = (if inCoherent off 8 then healCoherent off 8 s else s) ∧ firstAsked m s ∧ addrSpace m.target ≠ 1 ∧ off % 8 = 0 ∧ m.op ≤ 2 ∧ msgCheck s m true 8 = 0 ∧ ¬(homedAway s off 8 = true ∧ fromTwin m = false) ∧ (inCoherent off 8 = true → coherentRoom s off 8 = true) ∧ memAny h.tier.windowPoison off 8 = true :=
  ⟨s_requestsOfOtherNodes_8, m_requestsOfOtherNodes_8, (addrOff m_requestsOfOtherNodes_8.target : Nat), h_requestsOfOtherNodes_8, rfl, rfl, by unfold firstAsked; decide +kernel, by decide +kernel, by decide +kernel, by decide +kernel, by decide +kernel, by decide +kernel, by decide +kernel, by decide +kernel⟩

def m_requestsOfOtherNodes_9 : Msg :=
  { mg with data := [1, 2], target := 15 * 2 ^ 21 + 2 ^ 21 - 2 }

theorem witness_RequestsOfOtherNodes_9 : ∃ (s : State) (m : Msg) (c : Nat) (off : Nat), c = m.target / 2 ^ 21 ∧ off = m.target % 2 ^ 21 ∧ firstAsked m s ∧ cellIn s c = true ∧ off + m.data.length ≤ 2 ^ 21 :=
  ⟨(sets [(0x3000, 4, 1)] on : State), m_requestsOfOtherNodes_9, (m_requestsOfOtherNodes_9.target / 2 ^ 21 : Nat), (m_requestsOfOtherNodes_9.target % 2 ^ 21 : Nat), rfl, rfl, by unfold firstAsked; decide +kernel, by decide +kernel, by decide +kernel⟩

def s_requestsOfOtherNodes_10 : State :=
  twin (let s := reg; { s with tier := { s.tier with regions := s.tier.regions.map fun r => { r with homed := false } } })

def m_requestsOfOtherNodes_10 : Msg :=
  { mg with dataLength := 64, target := 64 }

theorem witness_RequestsOfOtherNodes_10 : ∃ (s : State) (m : Msg) (c : Instr) (ty : Nat), firstAsked m s ∧ fromTwin m = false ∧ (c = .wyvasRead m ∧ ty = 1 ∧ addrSpace m.target = 0 ∧ m.dataLength ≤ 4096 ∧ msgCheck s m false m.dataLength = 0 ∧ homedAway s (addrOff m.target) m.dataLength = true ∨ c = .wyvasWrite m ∧ ty = 2 ∧ addrSpace m.target ≠ 1 ∧ m.data.length ≤ 4096 ∧ msgCheck s m true m.data.length = 0 ∧ homedAway s (addrOff m.target) m.data.length = true ∨ c = .wyvasAtomic m ∧ ty = 3 ∧ addrSpace m.target ≠ 1 ∧ addrOff m.target % 8 = 0 ∧ m.op ≤ 2 ∧ msgCheck s m true 8 = 0 ∧ homedAway s (addrOff m.target) 8 = true) :=
  ⟨s_requestsOfOtherNodes_10, m_requestsOfOtherNodes_10, (.wyvasRead { mg with dataLength := 64, target := 64 } : Instr), 1, by unfold firstAsked; decide +kernel, by decide +kernel, by decide +kernel⟩

def m_requestsOfOtherNodes_11 : Msg :=
  { mg with data := [1, 2], target := 131072 }

theorem witness_RequestsOfOtherNodes_11 : ∃ (s : State) (m : Msg) (c : Instr) (st : Nat), firstAsked m s ∧ st ≠ 0 ∧ (c = .wyvasRead m ∧ (addrSpace m.target = 1 → flashHeld s (addrOff m.target) m.dataLength = false) ∧ msgCheck s m false m.dataLength = st ∨ c = .wyvasWrite m ∧ msgCheck s m true m.data.length = st ∨ c = .wyvasAtomic m ∧ msgCheck s m true 8 = st) :=
  ⟨reg, m_requestsOfOtherNodes_11, (.wyvasWrite { mg with data := [1, 2], target := 131072 } : Instr), 1, by unfold firstAsked; decide +kernel, by decide +kernel, by decide +kernel⟩

def k_requestsOfOtherNodes_12 : Nat × Nat × Msg :=
  got (((kept on : State).wyv.keptResp.find? fun k => k.1 == mg.src && k.2.1 == mg.tag))

theorem witness_RequestsOfOtherNodes_12 : ∃ (s : State) (m : Msg) (c : Instr) (k : Nat × Nat × Msg), requestOf c m s ∧ (s.wyv.keptResp.find? fun k => k.1 == m.src && k.2.1 == m.tag) = some k :=
  ⟨(kept on : State), mg, (.wyvasRead mg : Instr), k_requestsOfOtherNodes_12, requestOf_of (by decide +kernel), by decide +kernel⟩

theorem witness_RequestsOfOtherNodes_13 : ∃ (s : State) (m : Msg) (c : Instr), requestOf c m s ∧ (s.wyv.keptResp.find? fun k => k.1 == m.src && k.2.1 == m.tag) = none ∧ selfDown s = true :=
  ⟨fencedOn, mg, (.delivery mg : Instr), requestOf_of (by decide +kernel), by decide +kernel, by decide +kernel⟩

def s_requestsOfOtherNodes_14 : State :=
  asked (rq 3 (.remote 1 9 0) 0 none false) reg

theorem witness_RequestsOfOtherNodes_14 : ∃ (s : State) (m : Msg) (c : Instr), requestOf c m s ∧ (s.wyv.keptResp.find? fun k => k.1 == m.src && k.2.1 == m.tag) = none ∧ selfDown s = false ∧ underWayFor s m = true :=
  ⟨s_requestsOfOtherNodes_14, mg, (.delivery mg : Instr), requestOf_of (by decide +kernel), by decide +kernel, by decide +kernel, by decide +kernel⟩

def s_responsesCompleteRequests_1 : State :=
  asked (rq 1 (.thread (th false)) 1 (none) false) (threaded false 1 (t1 5 0))

def m_responsesCompleteRequests_1 : Msg :=
  { dst := 0, src := 1, mtype := 10, tag := 9, data := [5] }

def r_responsesCompleteRequests_1 : Request :=
  got ((s_responsesCompleteRequests_1.wyv.requests.find? fun r => r.tag == m_responsesCompleteRequests_1.tag && r.dst == m_responsesCompleteRequests_1.src))

def j_responsesCompleteRequests_1 : Job :=
  got (ownerJob s_responsesCompleteRequests_1)

def x_responsesCompleteRequests_1 : Thread :=
  got (findThread s_responsesCompleteRequests_1 (th false : ThreadId))

theorem witness_ResponsesCompleteRequests_1 : ∃ (s : State) (m : Msg) (r : Request) (k : ThreadId) (x : Thread) (j : Job), (s.wyv.requests.find? fun r => r.tag == m.tag && r.dst == m.src) = some r ∧ m.op = 0 ∧ r.who = .thread k ∧ ownerJob s = some j ∧ r.job = j.id ∧ findThread s k = some x ∧ (r.atomic = true ∨ r.msg.mtype ≠ 2 ∧ m.poisonMask = 0) :=
  ⟨s_responsesCompleteRequests_1, m_responsesCompleteRequests_1, r_responsesCompleteRequests_1, (th false : ThreadId), x_responsesCompleteRequests_1, j_responsesCompleteRequests_1, by decide +kernel, by decide +kernel, by decide +kernel, by decide +kernel, by decide +kernel, by decide +kernel, by decide +kernel⟩

def s_responsesCompleteRequests_2 : State :=
  asked (rq 2 (.thread (th false)) 1 (none) false) (threaded false 1 (t1 5 0))

def m_responsesCompleteRequests_2 : Msg :=
  { dst := 0, src := 1, mtype := 10, tag := 9, data := [5] }

def r_responsesCompleteRequests_2 : Request :=
  got ((s_responsesCompleteRequests_2.wyv.requests.find? fun r => r.tag == m_responsesCompleteRequests_2.tag && r.dst == m_responsesCompleteRequests_2.src))

def j_responsesCompleteRequests_2 : Job :=
  got (ownerJob s_responsesCompleteRequests_2)

def x_responsesCompleteRequests_2 : Thread :=
  got (findThread s_responsesCompleteRequests_2 (th false : ThreadId))

theorem witness_ResponsesCompleteRequests_2 : ∃ (s : State) (m : Msg) (r : Request) (k : ThreadId) (x : Thread) (j : Job), (s.wyv.requests.find? fun r => r.tag == m.tag && r.dst == m.src) = some r ∧ m.op = 0 ∧ r.who = .thread k ∧ ownerJob s = some j ∧ r.job = j.id ∧ findThread s k = some x ∧ r.atomic = false ∧ r.msg.mtype = 2 :=
  ⟨s_responsesCompleteRequests_2, m_responsesCompleteRequests_2, r_responsesCompleteRequests_2, (th false : ThreadId), x_responsesCompleteRequests_2, j_responsesCompleteRequests_2, by decide +kernel, by decide +kernel, by decide +kernel, by decide +kernel, by decide +kernel, by decide +kernel, by decide +kernel, by decide +kernel⟩

def s_responsesCompleteRequests_3 : State :=
  inFl (asked (rq 1 (.thread (th false)) 1 (none) false) (threaded false 1 (t1 5 0)))

def m_responsesCompleteRequests_3 : Msg :=
  { dst := 0, src := 1, mtype := 10, tag := 9, data := [5], poisonMask := 1 }

def r_responsesCompleteRequests_3 : Request :=
  got ((s_responsesCompleteRequests_3.wyv.requests.find? fun r => r.tag == m_responsesCompleteRequests_3.tag && r.dst == m_responsesCompleteRequests_3.src))

def j_responsesCompleteRequests_3 : Job :=
  got (ownerJob s_responsesCompleteRequests_3)

def x_responsesCompleteRequests_3 : Thread :=
  got (findThread s_responsesCompleteRequests_3 (th false : ThreadId))

def y_responsesCompleteRequests_3 : Inflight :=
  got (inflight? s_responsesCompleteRequests_3 j_responsesCompleteRequests_3.fn j_responsesCompleteRequests_3.sq j_responsesCompleteRequests_3.cid)

theorem witness_ResponsesCompleteRequests_3 : ∃ (s : State) (m : Msg) (r : Request) (k : ThreadId) (x : Thread) (j : Job) (y : Inflight), (s.wyv.requests.find? fun r => r.tag == m.tag && r.dst == m.src) = some r ∧ m.op = 0 ∧ r.who = .thread k ∧ ownerJob s = some j ∧ r.job = j.id ∧ findThread s k = some x ∧ r.atomic = false ∧ r.msg.mtype ≠ 2 ∧ m.poisonMask ≠ 0 ∧ inflight? s j.fn j.sq j.cid = some y :=
  ⟨s_responsesCompleteRequests_3, m_responsesCompleteRequests_3, r_responsesCompleteRequests_3, (th false : ThreadId), x_responsesCompleteRequests_3, j_responsesCompleteRequests_3, y_responsesCompleteRequests_3, by decide +kernel, by decide +kernel, by decide +kernel, by decide +kernel, by decide +kernel, by decide +kernel, by decide +kernel, by decide +kernel, by decide +kernel, by decide +kernel⟩

def s_responsesCompleteRequests_4 : State :=
  asked (rq 1 (.stream) 0 (some (5, 0)) false) (threaded false 0 (t1 5 0))

def m_responsesCompleteRequests_4 : Msg :=
  { dst := 0, src := 1, mtype := 10, tag := 9, data := [5] }

def r_responsesCompleteRequests_4 : Request :=
  got ((s_responsesCompleteRequests_4.wyv.requests.find? fun r => r.tag == m_responsesCompleteRequests_4.tag && r.dst == m_responsesCompleteRequests_4.src))

theorem witness_ResponsesCompleteRequests_4 : ∃ (s : State) (m : Msg) (r : Request) (o : Nat) (i : Nat) (y : Nat × Nat), (s.wyv.requests.find? fun r => r.tag == m.tag && r.dst == m.src) = some r ∧ m.op = 0 ∧ r.who = .stream ∧ r.plane ≠ 2 ∧ r.msg.mtype = 1 ∧ r.tile = some (o, i) ∧ (s.wyv.requests.filter (·.tag != r.tag)).all (fun q => q.tile != some (o, i)) = true ∧ (r.off = 0 → y.1 = field m.data 16 8 ∧ y.2 = field m.data 32 4) ∧ (r.off ≠ 0 → y = ((tileOf s o i).version, (tileOf s o i).crc)) :=
  ⟨s_responsesCompleteRequests_4, m_responsesCompleteRequests_4, r_responsesCompleteRequests_4, 5, 0, ((0, 0) : Nat × Nat), by decide +kernel, by decide +kernel, by decide +kernel, by decide +kernel, by decide +kernel, by decide +kernel, by decide +kernel, by decide +kernel, by decide +kernel⟩

def s_responsesCompleteRequests_5 : State :=
  asked (rq 3 (.remote 2 3 0) 0 (none) false) on

def m_responsesCompleteRequests_5 : Msg :=
  { dst := 0, src := 1, mtype := 10, tag := 9, data := [5] }

def r_responsesCompleteRequests_5 : Request :=
  got ((s_responsesCompleteRequests_5.wyv.requests.find? fun r => r.tag == m_responsesCompleteRequests_5.tag && r.dst == m_responsesCompleteRequests_5.src))

theorem witness_ResponsesCompleteRequests_5 : ∃ (s : State) (m : Msg) (r : Request) (node : Nat) (tag : Nat) (fn : Nat), (s.wyv.requests.find? fun r => r.tag == m.tag && r.dst == m.src) = some r ∧ r.who = .remote node tag fn :=
  ⟨s_responsesCompleteRequests_5, m_responsesCompleteRequests_5, r_responsesCompleteRequests_5, 2, 3, 0, by decide +kernel, by decide +kernel⟩

def s_responsesCompleteRequests_6 : State :=
  asked { rq 2 (.stream) 0 (none) false with plane := 2 } (twin on)

def m_responsesCompleteRequests_6 : Msg :=
  { dst := 0, src := 1, mtype := 10, tag := 9, data := [5] }

def r_responsesCompleteRequests_6 : Request :=
  got ((s_responsesCompleteRequests_6.wyv.requests.find? fun r => r.tag == m_responsesCompleteRequests_6.tag && r.dst == m_responsesCompleteRequests_6.src))

theorem witness_ResponsesCompleteRequests_6 : ∃ (s : State) (m : Msg) (r : Request), (s.wyv.requests.find? fun r => r.tag == m.tag && r.dst == m.src) = some r ∧ m.op = 0 ∧ r.who = .stream ∧ r.plane = 2 ∧ portUp s 12 = true ∧ portUp s 13 = true ∧ (∀ q ∈ s.wyv.requests, q.tag ≠ r.tag → q.mirrors = false) :=
  ⟨s_responsesCompleteRequests_6, m_responsesCompleteRequests_6, r_responsesCompleteRequests_6, by decide +kernel, by decide +kernel, by decide +kernel, by decide +kernel, by decide +kernel, by decide +kernel, by decide +kernel⟩

def m_responsesCompleteRequests_7 : Msg :=
  { dst := 0, src := 1, mtype := 10, tag := 9, data := [5] }

theorem witness_ResponsesCompleteRequests_7 : ∃ (s : State) (m : Msg), (s.wyv.requests.find? fun r => r.tag == m.tag && r.dst == m.src) = none :=
  ⟨on, m_responsesCompleteRequests_7, by decide +kernel⟩

def r_responsesCompleteRequests_8 : Request :=
  got ((asked (rq 1 (.stream) 0 (none) false) on : State).wyv.requests.find? (·.tag == 9))

theorem witness_ResponsesCompleteRequests_8 : ∃ (s : State) (tag : Nat) (r : Request), s.wyv.requests.find? (·.tag == tag) = some r ∧ s.pwr.ps < 3 :=
  ⟨(asked (rq 1 (.stream) 0 (none) false) on : State), 9, r_responsesCompleteRequests_8, by decide +kernel, by decide +kernel⟩

def r_responsesCompleteRequests_9 : Request :=
  got ((asked (rq 1 (.stream) 0 (none) false) on : State).wyv.requests.find? (·.tag == 9))

theorem witness_ResponsesCompleteRequests_9 : ∃ (s : State) (tag : Nat) (r : Request), s.wyv.requests.find? (·.tag == tag) = some r ∧ r.reissued = false :=
  ⟨(asked (rq 1 (.stream) 0 (none) false) on : State), 9, r_responsesCompleteRequests_9, by decide +kernel, by decide +kernel⟩

def r_responsesCompleteRequests_10 : Request :=
  got ((asked (rq 1 (.stream) 0 (none) true) on : State).wyv.requests.find? (·.tag == 9))

theorem witness_ResponsesCompleteRequests_10 : ∃ (s : State) (tag : Nat) (r : Request), s.wyv.requests.find? (·.tag == tag) = some r ∧ r.reissued = true :=
  ⟨(asked (rq 1 (.stream) 0 (none) true) on : State), 9, r_responsesCompleteRequests_10, by decide +kernel, by decide +kernel⟩

def s_noticesAreForwardedOnce_1 : State :=
  { on with wyv := { on.wyv with notices := [noticeKey (nt 2 false)] } }

theorem witness_NoticesAreForwardedOnce_1 : ∃ (s : State) (m : Msg) (c : Instr) (op : Nat), (c = .nodeAvailableNotice m ∧ op = 2 ∨ c = .nodeUnavailableNotice m ∧ op = 1 ∨ c = .nodeLostNotice m ∧ op = 3 ∨ c = .planeLostNotice m ∧ op = 4 ∨ c = .planeRestoredNotice m ∧ op = 5 ∨ c = .fenceNotice m ∧ op = 6) ∧ s.wyv.notices.contains (noticeKey { m with op := op }) = true :=
  ⟨s_noticesAreForwardedOnce_1, (nt 0 false : Msg), (.nodeAvailableNotice (nt 0 false) : Instr), 2, by decide +kernel, by decide +kernel⟩

theorem witness_NoticesAreForwardedOnce_2 : ∃ (s : State) (m : Msg) (c : Instr) (op : Nat), (c = .nodeUnavailableNotice m ∧ op = 1 ∨ c = .fenceNotice m ∧ op = 6) ∧ s.wyv.notices.contains (noticeKey { m with op := op }) = false ∧ ofTwin m = false :=
  ⟨on, (nt 0 false : Msg), (.fenceNotice (nt 0 false) : Instr), 6, by decide +kernel, by decide +kernel, by decide +kernel⟩

theorem witness_NoticesAreForwardedOnce_3 : ∃ (s : State) (m : Msg), s.wyv.notices.contains (noticeKey { m with op := 3 }) = false ∧ ofTwin m = false :=
  ⟨on, (nt 0 false : Msg), by decide +kernel, by decide +kernel⟩

theorem witness_NoticesAreForwardedOnce_4 : ∃ (s : State) (m : Msg), s.wyv.notices.contains (noticeKey { m with op := 2 }) = false ∧ ofTwin m = false :=
  ⟨on, (nt 0 false : Msg), by decide +kernel, by decide +kernel⟩

def m_noticesAreForwardedOnce_5 : Msg :=
  { nt 0 true with data := natLE 2 (ownNode on) }

theorem witness_NoticesAreForwardedOnce_5 : ∃ (s : State) (m : Msg) (c : Instr) (op : Nat), (c = .nodeUnavailableNotice m ∧ op = 1 ∨ c = .fenceNotice m ∧ op = 6 ∨ c = .nodeLostNotice m ∧ op = 3) ∧ s.wyv.notices.contains (noticeKey { m with op := op }) = false ∧ ofTwin m = true ∧ noticeNode m = ownNode s :=
  ⟨on, m_noticesAreForwardedOnce_5, (.nodeLostNotice { nt 0 true with data := natLE 2 (ownNode on) } : Instr), 3, by decide +kernel, by decide +kernel, by decide +kernel, by decide +kernel⟩

theorem witness_NoticesAreForwardedOnce_6 : ∃ (s : State) (m : Msg) (c : Instr) (op : Nat), (c = .nodeAvailableNotice m ∧ op = 2 ∨ c = .nodeUnavailableNotice m ∧ op = 1 ∨ c = .fenceNotice m ∧ op = 6 ∨ c = .nodeLostNotice m ∧ op = 3) ∧ s.wyv.notices.contains (noticeKey { m with op := op }) = false ∧ ofTwin m = true ∧ (op = 2 ∨ noticeNode m ≠ ownNode s) :=
  ⟨on, (nt 0 true : Msg), (.nodeLostNotice (nt 0 true) : Instr), 3, by decide +kernel, by decide +kernel, by decide +kernel, by decide +kernel⟩

theorem witness_NoticesAreForwardedOnce_7 : ∃ (s : State) (m : Msg) (c : Instr) (op : Nat), (c = .planeLostNotice m ∧ op = 4 ∨ c = .planeRestoredNotice m ∧ op = 5) ∧ s.wyv.notices.contains (noticeKey { m with op := op }) = false :=
  ⟨on, (nt 0 false : Msg), (.planeRestoredNotice (nt 0 false) : Instr), 5, by decide +kernel, by decide +kernel⟩

theorem witness_NodesFencesPortsAndDrains_2 : ∃ (s : State), s.pwr.ps < 3 :=
  ⟨on, by decide +kernel⟩

theorem witness_NodesFencesPortsAndDrains_3 : ∃ (p : Nat), p ≤ 13 :=
  ⟨13, by decide +kernel⟩

theorem witness_NodesFencesPortsAndDrains_4 : ∃ (s : State) (p : Nat), p ≤ 13 ∧ obj s (0x4010 + p) 1 = 4 :=
  ⟨(sets [(0x401D, 1, 4)] on : State), 13, by decide +kernel, by decide +kernel⟩

def mine_linkLayerAndPorts_1 : List Msg :=
  (([{ mg with dst := ownNode on }] : List Msg).filter fun m => decide (12 ≤ 2) || m.dst == ownNode up2)

theorem witness_LinkLayerAndPorts_1 : ∃ (s : State) (p : Nat) (h : FlitHdr) (msgs : List Msg) (x : Port) (mine : List Msg), portUp s p = true ∧ port? s p = some x ∧ h.crcOk = true ∧ h.seq = x.rxSeq ∧ mine = (msgs.filter fun m => decide (12 ≤ p) || m.dst == ownNode s) :=
  ⟨up2, 2, ({ seq := 0, ackSeq := 0 } : FlitHdr), ([{ mg with dst := ownNode on }] : List Msg), got (port? up2 2), mine_linkLayerAndPorts_1, by decide +kernel, by decide +kernel, by decide +kernel, by decide +kernel, rfl⟩

def h_linkLayerAndPorts_2 : FlitHdr :=
  { seq := 0, ackSeq := 0, crcOk := false }

theorem witness_LinkLayerAndPorts_2 : ∃ (s : State) (p : Nat) (h : FlitHdr) (x : Port), portUp s p = true ∧ port? s p = some x ∧ (h.crcOk = false ∨ h.seq ≠ x.rxSeq ∧ x.replaying = false) :=
  ⟨up2, 2, h_linkLayerAndPorts_2, got (port? up2 2), by decide +kernel, by decide +kernel, by decide +kernel⟩

theorem witness_LinkLayerAndPorts_3 : ∃ (s : State) (p : Nat) (h : FlitHdr) (x : Port), portUp s p = true ∧ port? s p = some x ∧ h.crcOk = true :=
  ⟨up2, 2, ({ seq := 0, ackSeq := 0 } : FlitHdr), got (port? up2 2), by decide +kernel, by decide +kernel, by decide +kernel⟩

theorem witness_LinkLayerAndPorts_4 : ∃ (s : State) (p : Nat), p ≤ 13 ∧ (obj s (0x4010 + p) 1 = 0 ∨ obj s (0x4010 + p) 1 = 6) :=
  ⟨on, 2, by decide +kernel, by decide +kernel⟩

theorem witness_LinkLayerAndPorts_5 : ∃ (s : State) (p : Nat) (x : Port), p ≤ 13 ∧ (obj s (0x4010 + p) 1 = 1 ∨ portUp s p = true) ∧ port? s p = some x :=
  ⟨up2, 2, got (port? up2 2), by decide +kernel, by decide +kernel, by decide +kernel⟩

theorem witness_LinkLayerAndPorts_6 : ∃ (s : State) (p : Nat), p ≤ 13 ∧ (portUp s p = true ∨ obj s (0x4010 + p) 1 = 5) :=
  ⟨up2, 2, by decide +kernel, by decide +kernel⟩

theorem witness_LinkLayerAndPorts_7 : ∃ (s : State) (p : Nat), p ≤ 13 ∧ obj s (0x4010 + p) 1 ≠ 4 ∧ obj s (0x4010 + p) 1 ≠ 0 :=
  ⟨up2, 2, by decide +kernel, by decide +kernel, by decide +kernel⟩

def downs_linkLayerAndPorts_8 : List Nat :=
  up2.time :: (got (port? up2 2)).downs.filter (fun k => decide (up2.time < k + 10000000000))

theorem witness_LinkLayerAndPorts_8 : ∃ (s : State) (p : Nat) (x : Port) (downs : List Nat), p ≤ 13 ∧ (portUp s p = true ∨ obj s (0x4010 + p) 1 = 5 ∨ obj s (0x4010 + p) 1 = 1) ∧ port? s p = some x ∧ downs = s.time :: x.downs.filter (fun k => decide (s.time < k + 10000000000)) :=
  ⟨up2, 2, got (port? up2 2), downs_linkLayerAndPorts_8, by decide +kernel, by decide +kernel, by decide +kernel, rfl⟩

theorem witness_LinkLayerAndPorts_9 : ∃ (s : State) (plane : Nat), plane ≤ 1 ∧ plane ∉ s.wyv.planesLost ∧ (∀ k < 6, portUp s (plane * 6 + k) = false) ∧ (∃ k < 6, portCabled s (plane * 6 + k) = true) :=
  ⟨cabledOn, 0, by decide +kernel, by decide +kernel, by decide +kernel, by decide +kernel⟩

theorem witness_LinkLayerAndPorts_10 : ∃ (s : State) (p : Nat) (kind : Nat), p ≤ 13 ∧ (kind = 1 ∧ (portUp s p = true ∨ obj s (0x4010 + p) 1 = 1) ∨ kind = 2 ∧ (portUp s p = true ∨ obj s (0x4010 + p) 1 = 1) ∧ p < 12 ∧ s.wyv.coord ≠ none ∨ kind = 3 ∧ portUp s p = true ∨ kind = 4 ∧ obj s (0x4010 + p) 1 = 4 ∧ portCabled s p = true ∨ kind = 5 ∧ obj s (0x4010 + p) 1 = 1) :=
  ⟨up2, 2, 1, by decide +kernel, by decide +kernel⟩

theorem witness_DiscoveryAndFabricTime_1 : ∃ (s : State) (p : Nat), p ≤ 13 ∧ obj s (0x4010 + p) 1 ≠ 0 :=
  ⟨up2, 2, by decide +kernel, by decide +kernel⟩

theorem witness_DiscoveryAndFabricTime_2 : ∃ (p : Nat) (q : Nat), p ≤ 13 ∧ q ≤ 13 :=
  ⟨0, 13, by decide +kernel, by decide +kernel⟩

theorem witness_DiscoveryAndFabricTime_3 : ∃ (s : State) (p : Nat) (x : Nat) (y : Nat) (z : Nat) (q : Nat) (c : Nat × Nat × Nat), p ≤ 11 ∧ (portUp s p = true ∨ obj s (0x4010 + p) 1 = 1) ∧ c = stepCoord s.wyv.extents (x, y, z) q ∧ s.wyv.coord = none :=
  ⟨up2, 2, 0, 0, 0, 3, (stepCoord up2.wyv.extents (0, 0, 0) 3 : Nat × Nat × Nat), by decide +kernel, by decide +kernel, rfl, by decide +kernel⟩

def s_discoveryAndFabricTime_4 : State :=
  { up2 with wyv := { up2.wyv with coord := some (0, 0, 0) } }

def c_discoveryAndFabricTime_4 : Nat × Nat × Nat :=
  stepCoord s_discoveryAndFabricTime_4.wyv.extents (0, 0, 0) 3

def a_discoveryAndFabricTime_4 : Nat × Nat × Nat :=
  got (s_discoveryAndFabricTime_4.wyv.coord)

def k_discoveryAndFabricTime_4 : Claim :=
  { port := 2, x := c_discoveryAndFabricTime_4.1, y := c_discoveryAndFabricTime_4.2.1, z := c_discoveryAndFabricTime_4.2.2 }

theorem witness_DiscoveryAndFabricTime_4 : ∃ (s : State) (p : Nat) (x : Nat) (y : Nat) (z : Nat) (q : Nat) (c : Nat × Nat × Nat) (a : Nat × Nat × Nat) (k : Claim), p ≤ 11 ∧ (portUp s p = true ∨ obj s (0x4010 + p) 1 = 1) ∧ c = stepCoord s.wyv.extents (x, y, z) q ∧ s.wyv.coord = some a ∧ (∀ z ∈ s.wyv.claims, z.port < 12) ∧ k = { port := p, x := c.1, y := c.2.1, z := c.2.2 } :=
  ⟨s_discoveryAndFabricTime_4, 2, 0, 0, 0, 3, c_discoveryAndFabricTime_4, a_discoveryAndFabricTime_4, k_discoveryAndFabricTime_4, by decide +kernel, by decide +kernel, rfl, by decide +kernel, by decide +kernel, rfl⟩

def c_discoveryAndFabricTime_5 : Nat × Nat × Nat :=
  got (majority ([{ port := 0, x := 1, y := 0, z := 0 }] : List Claim))

theorem witness_DiscoveryAndFabricTime_5 : ∃ (cs : List Claim) (c : Nat × Nat × Nat), majority cs = some c :=
  ⟨([{ port := 0, x := 1, y := 0, z := 0 }] : List Claim), c_discoveryAndFabricTime_5, by decide +kernel⟩

def c_discoveryAndFabricTime_6 : Nat × Nat × Nat :=
  got (majority ([{ port := 0, x := 1, y := 0, z := 0 }] : List Claim))

def d_discoveryAndFabricTime_6 : Claim :=
  got ((([{ port := 0, x := 1, y := 0, z := 0 }] : List Claim)).head?)

theorem witness_DiscoveryAndFabricTime_6 : ∃ (cs : List Claim) (c : Nat × Nat × Nat) (d : Claim), majority cs = some c ∧ d ∈ cs :=
  ⟨([{ port := 0, x := 1, y := 0, z := 0 }] : List Claim), c_discoveryAndFabricTime_6, d_discoveryAndFabricTime_6, by decide +kernel, by decide +kernel⟩

def s_discoveryAndFabricTime_7 : State :=
  { on with wyv := { on.wyv with claims := [{ port := 0, x := 1, y := 0, z := 0 }] } }

def c_discoveryAndFabricTime_7 : Nat × Nat × Nat :=
  got (majority s_discoveryAndFabricTime_7.wyv.claims)

theorem witness_DiscoveryAndFabricTime_7 : ∃ (s : State) (c : Nat × Nat × Nat), s.wyv.coord = none ∧ (∀ k ∈ s.wyv.claims, k.port < 12) ∧ (majority (s.wyv.claims.filter fun k => decide (k.port < 6)) = some c ∨ (∀ k ∈ s.wyv.claims, 6 ≤ k.port) ∧ majority s.wyv.claims = some c) :=
  ⟨s_discoveryAndFabricTime_7, c_discoveryAndFabricTime_7, by decide +kernel, by decide +kernel, by decide +kernel⟩

def s_discoveryAndFabricTime_8 : State :=
  { on with wyv := { on.wyv with seed := true, extents := (2, 1, 1) } }

theorem witness_DiscoveryAndFabricTime_8 : ∃ (s : State) (n : Nat), s.wyv.seed = true ∧ nodeNamed s n = true ∧ n ∉ s.wyv.readyNodes :=
  ⟨s_discoveryAndFabricTime_8, 1, by decide +kernel, by decide +kernel, by decide +kernel⟩

def s_discoveryAndFabricTime_9 : State :=
  { on with wyv := { on.wyv with coord := some (0, 0, 0) } }

theorem witness_DiscoveryAndFabricTime_9 : ∃ (s : State), s.wyv.systemReady = false ∧ s.wyv.coord ≠ none ∧ (s.wyv.seed = true → s.wyv.readyNodes.length = systemNodes s ∨ s.wyv.late = true ∧ systemNodes s ≠ 1) :=
  ⟨s_discoveryAndFabricTime_9, by decide +kernel, by decide +kernel, by decide +kernel⟩

theorem witness_DiscoveryAndFabricTime_10 : ∃ (s : State) (p : Nat), p ≤ 13 ∧ portUp s p = true :=
  ⟨up2, 2, by decide +kernel, by decide +kernel⟩

theorem witness_ResetsStopWhatTheyName_1 : ∃ (c : Instr) (k : Nat), (c = .nvmSubsystemReset ∧ k = 7 ∨ c = .moduleRestartCommand ∧ k = 8 ∨ c = .hoopWatchdogExpiry ∧ k = 4) :=
  ⟨.moduleRestartCommand, 8, Or.inr (Or.inl ⟨rfl, rfl⟩)⟩

theorem witness_ResetsStopWhatTheyName_3 : ∃ (s : State), s.host.perst = false :=
  ⟨on, by decide +kernel⟩

def s_resetsStopWhatTheyName_4 : State :=
  { on with host := { on.host with perst := true } }

theorem witness_ResetsStopWhatTheyName_4 : ∃ (s : State), s.host.perst = true :=
  ⟨s_resetsStopWhatTheyName_4, by decide +kernel⟩

theorem witness_ResetsStopWhatTheyName_5 : ∃ (fn : Nat), fn < 64 :=
  ⟨0, by decide +kernel⟩

theorem witness_ResetsStopWhatTheyName_6 : ∃ (s : State) (fn : Nat) (c : Ctrl), ctrl s fn = some c ∧ c.enabled = true :=
  ⟨(hosted on : State), 0, got (ctrl (hosted on : State) 0), by decide +kernel, by decide +kernel⟩

theorem witness_HostLinkAndControllers_1 : ∃ (s : State) (rate : Nat) (width : Nat), s.host.perst = false ∧ s.pwr.mainRails = true ∧ rate ∈ [2, 5, 8, 16, 32, 64, 128] ∧ width ∈ [1, 2, 4, 8] :=
  ⟨on, 64, 8, by decide +kernel, by decide +kernel, by decide +kernel, by decide +kernel⟩

theorem witness_HostLinkAndControllers_2 : ∃ (s : State), s.host.linkUp = true :=
  ⟨(hosted on : State), by decide +kernel⟩

def s_hostLinkAndControllers_4 : State :=
  { hosted on with host := { (hosted on).host with ctrls := [ctrlReset 0] } }

theorem witness_HostLinkAndControllers_4 : ∃ (s : State) (fn : Nat) (c : Ctrl), ctrl s fn = some c ∧ c.enabled = false ∧ s.host.perst = false ∧ s.pwr.mainRails = true :=
  ⟨s_hostLinkAndControllers_4, 0, got (ctrl s_hostLinkAndControllers_4 0), by decide +kernel, by decide +kernel, by decide +kernel, by decide +kernel⟩

theorem witness_HostLinkAndControllers_5 : ∃ (s : State) (fn : Nat) (c : Ctrl), ctrl s fn = some c ∧ c.enabled = true ∧ c.shst = 0 :=
  ⟨(hosted on : State), 0, got (ctrl (hosted on : State) 0), by decide +kernel, by decide +kernel, by decide +kernel⟩

theorem witness_PowerStatesByFeature_1 : ∃ (s : State) (e : Sqe) (c : Instr) (n : Nat), (c = .enterPs0 e ∧ n = 0 ∨ c = .enterPs1 e ∧ n = 1 ∨ c = .enterPs2 e ∧ n = 2 ∨ c = .enterPs3 e ∧ n = 3 ∨ c = .enterPs4 e ∧ n = 4) ∧ adminReady e 0x09 s ∧ e.cdw10 % 256 = 2 ∧ bitOf e.cdw10 31 = false ∧ e.cdw11 % 32 = n ∧ e.cdw11 / 32 % 8 ≤ 2 ∧ (∀ k, ctrl s e.fn = some k → e.cid ∉ k.aers) ∧ e.fn = 0 ∧ (3 ≤ n → ∀ y ∈ s.host.inflight, y.sq = 0 ∧ y.lpns = []) :=
  ⟨(adm 0x09 on : State), ({ adE with cdw10 := 2, cdw11 := 3 } : Sqe), (.enterPs3 { adE with cdw10 := 2, cdw11 := 3 } : Instr), 3, Or.inr (Or.inr (Or.inr (Or.inl ⟨rfl, rfl⟩))), adminReady_of (by decide +kernel), by decide +kernel, by decide +kernel, by decide +kernel, by decide +kernel, by intro k h; injection h with h; subst h; decide +kernel, by decide +kernel, by decide +kernel⟩

def s_powerStatesByFeature_2 : State :=
  let s := adm 0x09 on; { s with host := { s.host with inflight := s.host.inflight ++ [fl 0 1 8 2] } }

theorem witness_PowerStatesByFeature_2 : ∃ (s : State) (e : Sqe) (c : Instr) (n : Nat), (c = .enterPs0 e ∧ n = 0 ∨ c = .enterPs1 e ∧ n = 1 ∨ c = .enterPs2 e ∧ n = 2 ∨ c = .enterPs3 e ∧ n = 3 ∨ c = .enterPs4 e ∧ n = 4) ∧ adminReady e 0x09 s ∧ e.cdw10 % 256 = 2 ∧ bitOf e.cdw10 31 = false ∧ e.cdw11 % 32 = n ∧ e.cdw11 / 32 % 8 ≤ 2 ∧ (∀ k, ctrl s e.fn = some k → e.cid ∉ k.aers) ∧ e.fn = 0 ∧ 3 ≤ n ∧ (∃ y ∈ s.host.inflight, y.sq ≠ 0) :=
  ⟨s_powerStatesByFeature_2, ({ adE with cdw10 := 2, cdw11 := 4 } : Sqe), (.enterPs4 { adE with cdw10 := 2, cdw11 := 4 } : Instr), 4, Or.inr (Or.inr (Or.inr (Or.inr ⟨rfl, rfl⟩))), adminReady_of (by decide +kernel), by decide +kernel, by decide +kernel, by decide +kernel, by decide +kernel, by intro k h; injection h with h; subst h; decide +kernel, by decide +kernel, by decide +kernel, by decide +kernel⟩

def s_powerStatesByFeature_3 : State :=
  let s := inF 1 0 7 0x09 on; { s with host := { s.host with ctrls := [] } }

def e_powerStatesByFeature_3 : Sqe :=
  { adE with cdw10 := 2, cdw11 := 1, fn := 1 }

theorem witness_PowerStatesByFeature_3 : ∃ (s : State) (e : Sqe) (c : Instr) (n : Nat), (c = .enterPs0 e ∧ n = 0 ∨ c = .enterPs1 e ∧ n = 1 ∨ c = .enterPs2 e ∧ n = 2 ∨ c = .enterPs3 e ∧ n = 3 ∨ c = .enterPs4 e ∧ n = 4) ∧ adminReady e 0x09 s ∧ e.cdw10 % 256 = 2 ∧ bitOf e.cdw10 31 = false ∧ e.cdw11 % 32 = n ∧ e.cdw11 / 32 % 8 ≤ 2 ∧ (∀ k, ctrl s e.fn = some k → e.cid ∉ k.aers) ∧ e.fn ≠ 0 :=
  ⟨s_powerStatesByFeature_3, e_powerStatesByFeature_3, (.enterPs1 { adE with cdw10 := 2, cdw11 := 1, fn := 1 } : Instr), 1, Or.inr (Or.inl ⟨rfl, rfl⟩), adminReady_of (by decide +kernel), by decide +kernel, by decide +kernel, by decide +kernel, by decide +kernel, (fun k h => nomatch h), by decide +kernel⟩

theorem witness_ManagementCopyAndAnnounce_1 : ∃ (s : State), s.pwr.mainRails = true :=
  ⟨on, by decide +kernel⟩

theorem witness_ManagementCopyAndAnnounce_2 : ∃ (s : State), s.pwr.hoopRail = true :=
  ⟨on, by decide +kernel⟩

theorem witness_ManagementCopyAndAnnounce_3 : ∃ (s : State), s.pwr.hoopRail = true :=
  ⟨on, by decide +kernel⟩

theorem witness_ManagementCopyAndAnnounce_4 : ∃ (s : State) (n : Nat), s.pwr.hoopRail = true ∧ n ≤ 4 :=
  ⟨on, 4, by decide +kernel, by decide +kernel⟩

theorem witness_ManagementCopyAndAnnounce_5 : ∃ (s : State) (n : Nat), s.pwr.hoopRail = true ∧ 4 < n :=
  ⟨on, 5, by decide +kernel, by decide +kernel⟩

theorem witness_ManagementCopyAndAnnounce_6 : ∃ (s : State), s.pwr.hoopRail = true :=
  ⟨on, by decide +kernel⟩

theorem witness_ManagementCopyAndAnnounce_7 : ∃ (s : State) (fn : Nat) (c : Ctrl), s.pwr.hoopRail = true ∧ ctrl s fn = some c :=
  ⟨(hosted on : State), 0, got (ctrl (hosted on : State) 0), by decide +kernel, by decide +kernel⟩

theorem witness_ManagementCopyAndAnnounce_8 : ∃ (s : State) (v : Nat), s.pwr.hoopRail = true ∧ 1 ≤ v ∧ v ≤ 2 :=
  ⟨on, 2, by decide +kernel, by decide +kernel, by decide +kernel⟩

theorem witness_ManagementCopyAndAnnounce_9 : ∃ (s : State), s.pwr.hoopRail = true :=
  ⟨on, by decide +kernel⟩

theorem witness_ManagementCopyAndAnnounce_10 : ∃ (s : State), s.pwr.hoopRail = true :=
  ⟨on, by decide +kernel⟩

theorem witness_ManagementCopyAndAnnounce_11 : ∃ (s : State) (id : Nat) (v : Nat), s.pwr.hoopRail = true ∧ id ≠ 2 ∧ (id = 1 → v ≠ 1 ∧ v ≠ 2) :=
  ⟨on, 1, 3, by decide +kernel, by decide +kernel, by decide +kernel⟩

theorem witness_ManagementCopyAndAnnounce_12 : ∃ (s : State) (off : Nat) (len : Nat), s.pwr.hoopRail = true ∧ off + len ≤ Config.vpdLength :=
  ⟨on, 0, 0, by decide +kernel, Nat.zero_le _⟩

theorem witness_ManagementCopyAndAnnounce_13 : ∃ (s : State), s.pwr.hoopRail = true ∧ obj s 0x1410 8 = 1 :=
  ⟨(sets [(0x1410, 8, 1)] on : State), by decide +kernel, by decide +kernel⟩

theorem witness_ManagementCopyAndAnnounce_14 : ∃ (s : State), s.pwr.hoopRail = true ∧ obj s 0x1410 8 ≠ 1 :=
  ⟨on, by decide +kernel, by decide +kernel⟩

def d_managementCopyAndAnnounce_15 : Bytes :=
  got (identifyData ({ adE with cdw10 := 1 } : Sqe) on)

theorem witness_ManagementCopyAndAnnounce_15 : ∃ (s : State) (e : Sqe) (d : Bytes), s.pwr.hoopRail = true ∧ e.fn ≤ 63 ∧ identifyData e s = some d :=
  ⟨on, ({ adE with cdw10 := 1 } : Sqe), d_managementCopyAndAnnounce_15, by decide +kernel, by decide +kernel, got_some _⟩

theorem witness_ManagementCopyAndAnnounce_16 : ∃ (s : State) (e : Sqe) (d : Bytes), s.pwr.hoopRail = true ∧ e.fn ≤ 63 ∧ (match standardLog e s with | some d => some d | none => vendorPage e s) = some d :=
  ⟨on, adE, supportedPages, by decide +kernel, by decide +kernel, by decide +kernel⟩

def v_managementCopyAndAnnounce_17 : Nat :=
  got (featureReply ({ adE with cdw10 := 7 } : Sqe) on)

theorem witness_ManagementCopyAndAnnounce_17 : ∃ (s : State) (e : Sqe) (v : Nat), s.pwr.hoopRail = true ∧ e.fn ≤ 63 ∧ featureReply e s = some v :=
  ⟨on, ({ adE with cdw10 := 7 } : Sqe), v_managementCopyAndAnnounce_17, by decide +kernel, by decide +kernel, by decide +kernel⟩

theorem witness_ManagementCopyAndAnnounce_18 : ∃ (s : State) (e : Sqe) (opc : Nat), s.pwr.hoopRail = true ∧ e.fn ≤ 63 ∧ opc ∉ [2, 6, 10] :=
  ⟨on, adE, 9, by decide +kernel, by decide +kernel, by decide +kernel⟩

theorem witness_ManagementCopyAndAnnounce_19 : ∃ (s : State), s.pwr.hoopRail = true :=
  ⟨on, by decide +kernel⟩

def s_auditCommitOfObjects_1 : State :=
  { sets [(0x4201, 1, 0), (0x4201, 2, 5)] on with tier := { on.tier with objects := [ob 5] } }

def o_auditCommitOfObjects_1 : PObj :=
  got (auditRec s_auditCommitOfObjects_1 (obj s_auditCommitOfObjects_1 0x4201 1 : Nat) (obj s_auditCommitOfObjects_1 0x4201 2))

theorem witness_AuditCommitOfObjects_1 : ∃ (s : State) (kind : Nat) (o : PObj), kind = obj s 0x4201 1 ∧ kind ≤ 2 ∧ auditRec s kind (obj s 0x4201 2) = some o :=
  ⟨s_auditCommitOfObjects_1, (obj s_auditCommitOfObjects_1 0x4201 1 : Nat), o_auditCommitOfObjects_1, rfl, by decide +kernel, by decide +kernel⟩

theorem witness_AuditCommitOfObjects_2 : ∃ (s : State), 3 < obj s 0x4201 1 :=
  ⟨(sets [(0x4201, 1, 4)] on : State), by decide +kernel⟩

def s_auditCommitOfObjects_3 : State :=
  indexed (ix none) (sets [(0x4201, 1, 3), (0x4201, 2, 2)] on)

theorem witness_AuditCommitOfObjects_3 : ∃ (s : State), obj s 0x4201 1 = 3 ∧ (findIndex s (obj s 0x4201 2)).isSome = true :=
  ⟨s_auditCommitOfObjects_3, by decide +kernel, by decide +kernel⟩

def kind_auditCommitOfObjects_4 : Nat :=
  obj (sets [(0x4201, 1, 3), (0x4201, 2, 2)] on : State) 0x4201 1

theorem witness_AuditCommitOfObjects_4 : ∃ (s : State) (kind : Nat), kind = obj s 0x4201 1 ∧ (kind ≤ 2 ∧ auditRec s kind (obj s 0x4201 2) = none ∨ kind = 3 ∧ findIndex s (obj s 0x4201 2) = none) :=
  ⟨(sets [(0x4201, 1, 3), (0x4201, 2, 2)] on : State), kind_auditCommitOfObjects_4, rfl, Or.inr ⟨rfl, rfl⟩⟩

def vs_objectWritesAndTheStore_1 : List (Nat × Nat) :=
  cutValues (hw 0x9999 1 [1] : HoopReq).index (subsOf (hw 0x9999 1 [1] : HoopReq)) (hw 0x9999 1 [1] : HoopReq).value

theorem witness_ObjectWritesAndTheStore_1 : ∃ (s : State) (c : Instr) (r : HoopReq) (vs : List (Nat × Nat)), (c = .objectWrite r.fn r.index r.sub r.count r.value ∨ (∃ b, c = .bootBankSelect b ∧ r = { origin := .none, op := 2, fn := 0, index := 0x1001, sub := 4, count := 1, value := natLE 1 b }) ∨ (∃ g l, c = .policyGroupSet g l ∧ r = { origin := .none, op := 2, fn := 0, index := 0x2210 + g, sub := 1, count := l.length, value := l.zipIdx.flatMap fun x => natLE (objSize (0x2210 + g) (x.2 + 1)) x.1 }) ∨ (∃ n, c = .cellRowLimitSet n ∧ r = { origin := .none, op := 2, fn := 0, index := 0x4200, sub := 2, count := 1, value := natLE 1 n }) ∨ (c = .securityVersionRaise ∧ r = { origin := .none, op := 2, fn := 0, index := 0x1401, sub := 3, count := 1, value := [1] }) ∨ (∃ on, c = .deterministicModeSet on ∧ r = { origin := .none, op := 2, fn := 0, index := 0x4200, sub := 1, count := 1, value := natLE 1 (boolNat on) })) ∧ r.origin = .none ∧ r.op = 2 ∧ hoopFree r s ∧ vs = cutValues r.index (subsOf r) r.value ∧ (checkSet r s).1 ≠ 0 :=
  ⟨on, (.objectWrite 0 0x9999 1 1 [1] : Instr), (hw 0x9999 1 [1] : HoopReq), vs_objectWritesAndTheStore_1, Or.inl rfl, by decide +kernel, by decide +kernel, by unfold hoopFree; decide +kernel, rfl, by decide +kernel⟩

def vs_objectWritesAndTheStore_2 : List (Nat × Nat) :=
  cutValues (hw 0x2104 1 other : HoopReq).index (subsOf (hw 0x2104 1 other : HoopReq)) (hw 0x2104 1 other : HoopReq).value

theorem witness_ObjectWritesAndTheStore_2 : ∃ (s : State) (c : Instr) (r : HoopReq) (vs : List (Nat × Nat)), (c = .objectWrite r.fn r.index r.sub r.count r.value ∨ (∃ b, c = .bootBankSelect b ∧ r = { origin := .none, op := 2, fn := 0, index := 0x1001, sub := 4, count := 1, value := natLE 1 b }) ∨ (∃ g l, c = .policyGroupSet g l ∧ r = { origin := .none, op := 2, fn := 0, index := 0x2210 + g, sub := 1, count := l.length, value := l.zipIdx.flatMap fun x => natLE (objSize (0x2210 + g) (x.2 + 1)) x.1 }) ∨ (∃ n, c = .cellRowLimitSet n ∧ r = { origin := .none, op := 2, fn := 0, index := 0x4200, sub := 2, count := 1, value := natLE 1 n }) ∨ (c = .securityVersionRaise ∧ r = { origin := .none, op := 2, fn := 0, index := 0x1401, sub := 3, count := 1, value := [1] }) ∨ (∃ on, c = .deterministicModeSet on ∧ r = { origin := .none, op := 2, fn := 0, index := 0x4200, sub := 1, count := 1, value := natLE 1 (boolNat on) })) ∧ r.origin = .none ∧ r.op = 2 ∧ hoopFree r s ∧ vs = cutValues r.index (subsOf r) r.value ∧ (checkSet r s).1 = 0 ∧ changesP r s = true :=
  ⟨on, (.objectWrite 0 0x2104 1 1 other : Instr), (hw 0x2104 1 other : HoopReq), vs_objectWritesAndTheStore_2, Or.inl rfl, by decide +kernel, by decide +kernel, by unfold hoopFree; decide +kernel, rfl, by decide +kernel, by decide +kernel⟩

def vs_objectWritesAndTheStore_3 : List (Nat × Nat) :=
  cutValues (hw 0x2104 1 same : HoopReq).index (subsOf (hw 0x2104 1 same : HoopReq)) (hw 0x2104 1 same : HoopReq).value

theorem witness_ObjectWritesAndTheStore_3 : ∃ (s : State) (c : Instr) (r : HoopReq) (vs : List (Nat × Nat)), (c = .objectWrite r.fn r.index r.sub r.count r.value ∨ (∃ b, c = .bootBankSelect b ∧ r = { origin := .none, op := 2, fn := 0, index := 0x1001, sub := 4, count := 1, value := natLE 1 b }) ∨ (∃ g l, c = .policyGroupSet g l ∧ r = { origin := .none, op := 2, fn := 0, index := 0x2210 + g, sub := 1, count := l.length, value := l.zipIdx.flatMap fun x => natLE (objSize (0x2210 + g) (x.2 + 1)) x.1 }) ∨ (∃ n, c = .cellRowLimitSet n ∧ r = { origin := .none, op := 2, fn := 0, index := 0x4200, sub := 2, count := 1, value := natLE 1 n }) ∨ (c = .securityVersionRaise ∧ r = { origin := .none, op := 2, fn := 0, index := 0x1401, sub := 3, count := 1, value := [1] }) ∨ (∃ on, c = .deterministicModeSet on ∧ r = { origin := .none, op := 2, fn := 0, index := 0x4200, sub := 1, count := 1, value := natLE 1 (boolNat on) })) ∧ r.origin = .none ∧ r.op = 2 ∧ hoopFree r s ∧ vs = cutValues r.index (subsOf r) r.value ∧ (checkSet r s).1 = 0 ∧ changesP r s = false ∧ actionOf r.index vs = none ∧ r.index ≠ 0x2300 ∧ r.index ≠ 0x4200 ∧ r.index / 16 ≠ 0x221 :=
  ⟨on, (.objectWrite 0 0x2104 1 1 same : Instr), (hw 0x2104 1 same : HoopReq), vs_objectWritesAndTheStore_3, Or.inl rfl, by decide +kernel, by decide +kernel, by unfold hoopFree; decide +kernel, rfl, by decide +kernel, by decide +kernel, by decide +kernel, by decide +kernel, by decide +kernel, by decide +kernel⟩

def vs_objectWritesAndTheStore_4 : List (Nat × Nat) :=
  cutValues (hw 0x2211 2 (natLE 1 (obj on 0x2211 2)) : HoopReq).index (subsOf (hw 0x2211 2 (natLE 1 (obj on 0x2211 2)) : HoopReq)) (hw 0x2211 2 (natLE 1 (obj on 0x2211 2)) : HoopReq).value

theorem witness_ObjectWritesAndTheStore_4 : ∃ (s : State) (c : Instr) (r : HoopReq) (vs : List (Nat × Nat)), (c = .objectWrite r.fn r.index r.sub r.count r.value ∨ (∃ b, c = .bootBankSelect b ∧ r = { origin := .none, op := 2, fn := 0, index := 0x1001, sub := 4, count := 1, value := natLE 1 b }) ∨ (∃ g l, c = .policyGroupSet g l ∧ r = { origin := .none, op := 2, fn := 0, index := 0x2210 + g, sub := 1, count := l.length, value := l.zipIdx.flatMap fun x => natLE (objSize (0x2210 + g) (x.2 + 1)) x.1 }) ∨ (∃ n, c = .cellRowLimitSet n ∧ r = { origin := .none, op := 2, fn := 0, index := 0x4200, sub := 2, count := 1, value := natLE 1 n }) ∨ (c = .securityVersionRaise ∧ r = { origin := .none, op := 2, fn := 0, index := 0x1401, sub := 3, count := 1, value := [1] }) ∨ (∃ on, c = .deterministicModeSet on ∧ r = { origin := .none, op := 2, fn := 0, index := 0x4200, sub := 1, count := 1, value := natLE 1 (boolNat on) })) ∧ r.origin = .none ∧ r.op = 2 ∧ hoopFree r s ∧ vs = cutValues r.index (subsOf r) r.value ∧ (checkSet r s).1 = 0 ∧ changesP r s = false ∧ r.index / 16 = 0x221 :=
  ⟨on, (.objectWrite 0 0x2211 2 1 (natLE 1 (obj on 0x2211 2)) : Instr), (hw 0x2211 2 (natLE 1 (obj on 0x2211 2)) : HoopReq), vs_objectWritesAndTheStore_4, Or.inl rfl, by decide +kernel, by decide +kernel, by unfold hoopFree; decide +kernel, rfl, by decide +kernel, by decide +kernel, by decide +kernel⟩

theorem witness_ObjectWritesAndTheStore_5 : ∃ (s : State) (b : Nat), b ≤ 1 ∧ s.pwr.hoopRail = true ∧ s.dict.queue = [] ∧ s.dict.pendingWrite = none ∧ committed s b = false :=
  ⟨on, 1, by decide +kernel, by decide +kernel, by decide +kernel, by decide +kernel, by decide +kernel⟩

theorem witness_ObjectWritesAndTheStore_6 : ∃ (s : State) (b : Nat), b ≤ 1 ∧ s.pwr.hoopRail = true ∧ s.dict.queue = [] ∧ s.dict.pendingWrite = none ∧ committed s b = true ∧ obj s 0x1001 4 ≠ b :=
  ⟨(both on : State), 1, by decide +kernel, by decide +kernel, by decide +kernel, by decide +kernel, by decide +kernel, by decide +kernel⟩

theorem witness_ObjectWritesAndTheStore_7 : ∃ (s : State) (v : Nat), v = imgSecurity (bank s s.fw.active) ∧ s.pwr.hoopRail = true ∧ s.dict.queue = [] ∧ s.dict.pendingWrite = none :=
  ⟨on, (imgSecurity (bank on on.fw.active) : Nat), rfl, by decide +kernel, by decide +kernel, by decide +kernel⟩

theorem witness_ObjectWritesAndTheStore_8 : ∃ (s : State) (on : Bool), s.pwr.hoopRail = true ∧ s.dict.queue = [] ∧ s.dict.pendingWrite = none ∧ s.jobs.detNew = none ∧ obj s 0x4200 1 = boolNat on :=
  ⟨on, false, by decide +kernel, by decide +kernel, by decide +kernel, by decide +kernel, by decide +kernel⟩

def s_objectWritesAndTheStore_9 : State :=
  { on with jobs := { on.jobs with detNew := some true } }

theorem witness_ObjectWritesAndTheStore_9 : ∃ (s : State) (on : Bool), s.jobs.detNew = some on ∧ s.jobs.detOrigin = .none ∧ admittedInFlight s = false ∧ s.dict.queue = [] :=
  ⟨s_objectWritesAndTheStore_9, true, by decide +kernel, by decide +kernel, by decide +kernel, by decide +kernel⟩

def vs_objectWritesAndTheStore_10 : List (Nat × Nat) :=
  cutValues (swr 0 : StoreWrite).index (subsOf (swr 0 : StoreWrite).req) (swr 0 : StoreWrite).req.value

theorem witness_ObjectWritesAndTheStore_10 : ∃ (s : State) (w : StoreWrite) (vs : List (Nat × Nat)), s.dict.pendingWrite = some w ∧ w.origin = .none ∧ s.dict.queue = [] ∧ vs = cutValues w.index (subsOf w.req) w.req.value ∧ actionOf w.index vs = none ∧ w.index ≠ 0x2300 ∧ w.index ≠ 0x4200 ∧ w.index / 16 ≠ 0x221 ∧ w.sub + w.values.length ≤ 256 :=
  ⟨(storing 0 : State), (swr 0 : StoreWrite), vs_objectWritesAndTheStore_10, rfl, by decide +kernel, by decide +kernel, rfl, by decide +kernel, by decide +kernel, by decide +kernel, by decide +kernel, by decide +kernel⟩

def vs_objectWritesAndTheStore_11 : List (Nat × Nat) :=
  cutValues (swr 2 : StoreWrite).index (subsOf (swr 2 : StoreWrite).req) (swr 2 : StoreWrite).req.value

theorem witness_ObjectWritesAndTheStore_11 : ∃ (s : State) (w : StoreWrite) (vs : List (Nat × Nat)), s.dict.pendingWrite = some w ∧ w.origin = .none ∧ s.dict.queue = [] ∧ vs = cutValues w.index (subsOf w.req) w.req.value ∧ w.tries < 3 :=
  ⟨(storing 2 : State), (swr 2 : StoreWrite), vs_objectWritesAndTheStore_11, rfl, by decide +kernel, by decide +kernel, rfl, by decide +kernel⟩

def vs_objectWritesAndTheStore_12 : List (Nat × Nat) :=
  cutValues (swr 3 : StoreWrite).index (subsOf (swr 3 : StoreWrite).req) (swr 3 : StoreWrite).req.value

theorem witness_ObjectWritesAndTheStore_12 : ∃ (s : State) (w : StoreWrite) (vs : List (Nat × Nat)), s.dict.pendingWrite = some w ∧ w.origin = .none ∧ s.dict.queue = [] ∧ vs = cutValues w.index (subsOf w.req) w.req.value ∧ 3 ≤ w.tries :=
  ⟨(storing 3 : State), (swr 3 : StoreWrite), vs_objectWritesAndTheStore_12, rfl, by decide +kernel, by decide +kernel, rfl, by decide +kernel⟩

theorem witness_ObjectProtocolOverTheBus_1 : ∃ (s : State) (p : Pdu) (u : State), pduServed p s ∧ p.target = 0xFFFF ∧ u = bump 0x1100 1 s ∧ objExists p.index = true ∧ p.sub + p.count - 1 ≤ objCount p.index ∧ (∀ k < p.count, (objRow p.index (p.sub + k)).all (fun w => w.acc != .wo) = true) ∧ total ((List.range p.count).map fun k => objSize p.index (p.sub + k)) ≤ 1484 :=
  ⟨on, pd, (bump 0x1100 1 on : State), pduServed_of rfl rfl (by decide +kernel), by decide +kernel, rfl, by decide +kernel, by decide +kernel, by decide +kernel, by decide +kernel⟩

theorem witness_ObjectProtocolOverTheBus_2 : ∃ (s : State) (p : Pdu) (c : Instr) (op : Nat), (c = .pduGet p ∧ op = 1 ∨ c = .pduDescribe p ∧ op = 3) ∧ pduServed p s ∧ p.target = 0xFFFF ∧ objExists p.index = false :=
  ⟨on, ({ pd with index := 0x9999 } : Pdu), (.pduDescribe { pd with index := 0x9999 } : Instr), 3, Or.inr ⟨rfl, rfl⟩, pduServed_of rfl rfl (by decide +kernel), by decide +kernel, by decide +kernel⟩

theorem witness_ObjectProtocolOverTheBus_3 : ∃ (s : State) (p : Pdu) (w : ObjRow), pduServed p s ∧ p.target = 0xFFFF ∧ objRow p.index p.sub = some w ∧ 1 ≤ p.sub ∧ p.sub ≤ objCount p.index ∧ p.count = 1 :=
  ⟨on, pd, got (objRow pd.index pd.sub), pduServed_of rfl rfl (by decide +kernel), by decide +kernel, by decide +kernel, by decide +kernel, by decide +kernel, by decide +kernel⟩

theorem witness_ObjectProtocolOverTheBus_4 : ∃ (s : State) (p : Pdu), pduServed p s ∧ p.target = 0xFFFF ∧ p.sub = 0 ∧ p.count = 1 :=
  ⟨on, ({ pd with sub := 0, index := 0 } : Pdu), pduServed_of rfl rfl (by decide +kernel), by decide +kernel, by decide +kernel, by decide +kernel⟩

def p_objectProtocolOverTheBus_5 : Pdu :=
  { pd with index := 0x9999, vlen := 1, value := [1] }

def r_objectProtocolOverTheBus_5 : HoopReq :=
  { origin := .pdu p_objectProtocolOverTheBus_5, op := 2, fn := 64, index := p_objectProtocolOverTheBus_5.index, sub := p_objectProtocolOverTheBus_5.sub, count := p_objectProtocolOverTheBus_5.count, value := p_objectProtocolOverTheBus_5.value.take p_objectProtocolOverTheBus_5.vlen }

def vs_objectProtocolOverTheBus_5 : List (Nat × Nat) :=
  cutValues r_objectProtocolOverTheBus_5.index (subsOf r_objectProtocolOverTheBus_5) r_objectProtocolOverTheBus_5.value

theorem witness_ObjectProtocolOverTheBus_5 : ∃ (s : State) (p : Pdu) (r : HoopReq) (vs : List (Nat × Nat)), pduServed p s ∧ p.target = 0xFFFF ∧ r = { origin := .pdu p, op := 2, fn := 64, index := p.index, sub := p.sub, count := p.count, value := p.value.take p.vlen } ∧ mustWait r s = false ∧ vs = cutValues r.index (subsOf r) r.value ∧ (checkSet r (bump 0x1100 1 s)).1 ≠ 0 :=
  ⟨on, p_objectProtocolOverTheBus_5, r_objectProtocolOverTheBus_5, vs_objectProtocolOverTheBus_5, pduServed_of rfl rfl (by decide +kernel), by decide +kernel, rfl, by decide +kernel, rfl, by decide +kernel⟩

def p_objectProtocolOverTheBus_6 : Pdu :=
  { pd with index := 0x2104, vlen := other.length, value := other }

def r_objectProtocolOverTheBus_6 : HoopReq :=
  { origin := .pdu p_objectProtocolOverTheBus_6, op := 2, fn := 64, index := p_objectProtocolOverTheBus_6.index, sub := p_objectProtocolOverTheBus_6.sub, count := p_objectProtocolOverTheBus_6.count, value := p_objectProtocolOverTheBus_6.value.take p_objectProtocolOverTheBus_6.vlen }

def vs_objectProtocolOverTheBus_6 : List (Nat × Nat) :=
  cutValues r_objectProtocolOverTheBus_6.index (subsOf r_objectProtocolOverTheBus_6) r_objectProtocolOverTheBus_6.value

theorem witness_ObjectProtocolOverTheBus_6 : ∃ (s : State) (p : Pdu) (r : HoopReq) (vs : List (Nat × Nat)), pduServed p s ∧ p.target = 0xFFFF ∧ r = { origin := .pdu p, op := 2, fn := 64, index := p.index, sub := p.sub, count := p.count, value := p.value.take p.vlen } ∧ mustWait r s = false ∧ vs = cutValues r.index (subsOf r) r.value ∧ (checkSet r (bump 0x1100 1 s)).1 = 0 ∧ changesP r (bump 0x1100 1 s) = true :=
  ⟨on, p_objectProtocolOverTheBus_6, r_objectProtocolOverTheBus_6, vs_objectProtocolOverTheBus_6, pduServed_of rfl rfl (by decide +kernel), by decide +kernel, rfl, by decide +kernel, rfl, by decide +kernel, by decide +kernel⟩

def p_objectProtocolOverTheBus_7 : Pdu :=
  { pd with index := 0x2104, vlen := same.length, value := same }

def r_objectProtocolOverTheBus_7 : HoopReq :=
  { origin := .pdu p_objectProtocolOverTheBus_7, op := 2, fn := 64, index := p_objectProtocolOverTheBus_7.index, sub := p_objectProtocolOverTheBus_7.sub, count := p_objectProtocolOverTheBus_7.count, value := p_objectProtocolOverTheBus_7.value.take p_objectProtocolOverTheBus_7.vlen }

def vs_objectProtocolOverTheBus_7 : List (Nat × Nat) :=
  cutValues r_objectProtocolOverTheBus_7.index (subsOf r_objectProtocolOverTheBus_7) r_objectProtocolOverTheBus_7.value

theorem witness_ObjectProtocolOverTheBus_7 : ∃ (s : State) (p : Pdu) (r : HoopReq) (vs : List (Nat × Nat)), pduServed p s ∧ p.target = 0xFFFF ∧ r = { origin := .pdu p, op := 2, fn := 64, index := p.index, sub := p.sub, count := p.count, value := p.value.take p.vlen } ∧ mustWait r s = false ∧ vs = cutValues r.index (subsOf r) r.value ∧ (checkSet r (bump 0x1100 1 s)).1 = 0 ∧ changesP r (bump 0x1100 1 s) = false ∧ actionOf r.index vs = none ∧ p.index ∉ [0x2300, 0x4200, 0x1100, 0x1410] ∧ p.index / 16 ≠ 0x221 :=
  ⟨on, p_objectProtocolOverTheBus_7, r_objectProtocolOverTheBus_7, vs_objectProtocolOverTheBus_7, pduServed_of rfl rfl (by decide +kernel), by decide +kernel, rfl, by decide +kernel, rfl, by decide +kernel, by decide +kernel, by decide +kernel, by decide +kernel, by decide +kernel⟩

theorem witness_ObjectProtocolOverTheBus_8 : ∃ (s : State) (p : Pdu) (op : Nat), pduServed p s ∧ op < 256 ∧ op ∉ [1, 2, 3, 4] :=
  ⟨on, pd, 5, pduServed_of rfl rfl (by decide +kernel), by decide +kernel, by decide +kernel⟩

def o_objectProtocolOverTheBus_9 : PduOut :=
  got ((keptBus.mgmt.kept.find? fun k => k.path == pd.path && k.seq == pd.seq))

theorem witness_ObjectProtocolOverTheBus_9 : ∃ (s : State) (p : Pdu) (c : Instr) (o : PduOut), (c = .pduGet p ∨ c = .pduSet p ∨ c = .pduDescribe p ∨ c = .pduEnumerate p) ∧ s.pwr.hoopRail = true ∧ (onBus p = true → p.dst = obj s 0x1000 7) ∧ (s.mgmt.kept.find? fun k => k.path == p.path && k.seq == p.seq) = some o :=
  ⟨keptBus, pd, (.pduSet pd : Instr), o_objectProtocolOverTheBus_9, Or.inr (Or.inl rfl), by decide +kernel, fun _ => rfl, by decide +kernel⟩

theorem witness_ObjectProtocolOverTheBus_10 : ∃ (s : State) (p : Pdu) (c : Instr) (op : Nat), (c = .pduGet p ∧ op = 1 ∨ c = .pduSet p ∧ op = 2 ∨ c = .pduDescribe p ∧ op = 3 ∨ c = .pduEnumerate p ∧ op = 4) ∧ pduServed p s ∧ p.target ≠ 0xFFFF ∧ p.target ≠ ownNode s ∧ obj s 0x4000 7 = 7 ∧ nodeNamed s p.target = true :=
  ⟨fourCube, ({ pd with target := 1 } : Pdu), (.pduEnumerate { pd with target := 1 } : Instr), 4, Or.inr (Or.inr (Or.inr ⟨rfl, rfl⟩)), pduServed_of rfl rfl (by decide +kernel), by decide +kernel, by decide +kernel, by decide +kernel, by decide +kernel⟩

def x_objectProtocolOverTheBus_11 : Relay :=
  got (relaying.mgmt.relays.find? (·.tag == 6))

theorem witness_ObjectProtocolOverTheBus_11 : ∃ (s : State) (tag : Nat) (x : Relay), s.mgmt.relays.find? (·.tag == tag) = some x :=
  ⟨relaying, 6, x_objectProtocolOverTheBus_11, rfl⟩

def x_objectProtocolOverTheBus_12 : Relay :=
  got (relaying.mgmt.relays.find? (·.tag == 6))

theorem witness_ObjectProtocolOverTheBus_12 : ∃ (s : State) (tag : Nat) (x : Relay), s.mgmt.relays.find? (·.tag == tag) = some x :=
  ⟨relaying, 6, x_objectProtocolOverTheBus_12, rfl⟩

def e_objectCommandsOverNvme_1 : Sqe :=
  { adE with cdw10 := 0x1010 + 1 * 65536 + 2 ^ 24, cdw11 := 64 }

def sub_objectCommandsOverNvme_1 : Nat :=
  e_objectCommandsOverNvme_1.cdw10 / 65536 % 256

def count_objectCommandsOverNvme_1 : Nat :=
  e_objectCommandsOverNvme_1.cdw10 / 2 ^ 24 % 256

def u_objectCommandsOverNvme_1 : State :=
  startCmd e_objectCommandsOverNvme_1 (inF 0 0 7 0xC2 on : State)

theorem witness_ObjectCommandsOverNvme_1 : ∃ (s : State) (e : Sqe) (idx : Nat) (sub : Nat) (count : Nat) (u : State), adminReady e 0xC2 s ∧ objectEntryOk e = true ∧ e.cdw12 = 0 ∧ idx = e.cdw10 % 65536 ∧ sub = e.cdw10 / 65536 % 256 ∧ count = e.cdw10 / 2 ^ 24 % 256 ∧ 1 ≤ count ∧ 1 ≤ e.cdw11 ∧ e.cdw11 ≤ 1484 ∧ s.dict.queue = [] ∧ s.dict.pendingWrite = none ∧ u = startCmd e s ∧ reach (some e.fn) idx ≠ 0 ∧ sub + count - 1 ≤ objCount idx ∧ (∀ k < count, (objRow idx (sub + k)).all (fun w => w.acc != .wo) = true) ∧ total ((List.range count).map fun k => objSize idx (sub + k)) ≤ e.cdw11 :=
  ⟨(inF 0 0 7 0xC2 on : State), e_objectCommandsOverNvme_1, (e_objectCommandsOverNvme_1.cdw10 % 65536 : Nat), sub_objectCommandsOverNvme_1, count_objectCommandsOverNvme_1, u_objectCommandsOverNvme_1, adminReady_of (by decide +kernel), by decide +kernel, by decide +kernel, rfl, rfl, rfl, by decide +kernel, by decide +kernel, by decide +kernel, by decide +kernel, by decide +kernel, rfl, by decide +kernel, by decide +kernel, by decide +kernel, by decide +kernel⟩

def e_objectCommandsOverNvme_2 : Sqe :=
  { adE with cdw10 := 0x1010 + 1 * 65536 + 2 ^ 24, cdw11 := 64, cdw12 := 1 }

def sub_objectCommandsOverNvme_2 : Nat :=
  e_objectCommandsOverNvme_2.cdw10 / 65536 % 256

def w_objectCommandsOverNvme_2 : ObjRow :=
  got (objRow (e_objectCommandsOverNvme_2.cdw10 % 65536 : Nat) sub_objectCommandsOverNvme_2)

theorem witness_ObjectCommandsOverNvme_2 : ∃ (s : State) (e : Sqe) (idx : Nat) (sub : Nat) (w : ObjRow), adminReady e 0xC2 s ∧ objectEntryOk e = true ∧ e.cdw12 = 1 ∧ idx = e.cdw10 % 65536 ∧ sub = e.cdw10 / 65536 % 256 ∧ e.cdw10 / 2 ^ 24 % 256 = 1 ∧ 8 ≤ e.cdw11 ∧ e.cdw11 ≤ 1484 ∧ s.dict.queue = [] ∧ s.dict.pendingWrite = none ∧ reach (some e.fn) idx ≠ 0 ∧ objRow idx sub = some w ∧ sub ≤ objCount idx :=
  ⟨(inF 0 0 7 0xC2 on : State), e_objectCommandsOverNvme_2, (e_objectCommandsOverNvme_2.cdw10 % 65536 : Nat), sub_objectCommandsOverNvme_2, w_objectCommandsOverNvme_2, adminReady_of (by decide +kernel), by decide +kernel, by decide +kernel, rfl, rfl, by decide +kernel, by decide +kernel, by decide +kernel, by decide +kernel, by decide +kernel, by decide +kernel, by decide +kernel, by decide +kernel⟩

def e_objectCommandsOverNvme_3 : Sqe :=
  { adE with cdw10 := 0x1010 + 2 ^ 24, cdw11 := 64, cdw12 := 2 }

theorem witness_ObjectCommandsOverNvme_3 : ∃ (s : State) (e : Sqe) (idx : Nat), adminReady e 0xC2 s ∧ objectEntryOk e = true ∧ e.cdw12 = 2 ∧ e.cdw10 = idx + 2 ^ 24 ∧ idx < 65536 ∧ 2 ≤ e.cdw11 ∧ e.cdw11 ≤ 1484 ∧ s.dict.queue = [] ∧ s.dict.pendingWrite = none :=
  ⟨(inF 0 0 7 0xC2 on : State), e_objectCommandsOverNvme_3, 0x1010, adminReady_of (by decide +kernel), by decide +kernel, by decide +kernel, rfl, by decide +kernel, by decide +kernel, by decide +kernel, by decide +kernel, by decide +kernel⟩

def e_objectCommandsOverNvme_4 : Sqe :=
  { adE with cdw10 := 0x9999 + 1 * 65536 + 2 ^ 24, cdw11 := 1 }

def r_objectCommandsOverNvme_4 : HoopReq :=
  { origin := .nvme e_objectCommandsOverNvme_4.fn e_objectCommandsOverNvme_4.sq e_objectCommandsOverNvme_4.cid, op := 2, fn := e_objectCommandsOverNvme_4.fn, index := e_objectCommandsOverNvme_4.cdw10 % 65536, sub := e_objectCommandsOverNvme_4.cdw10 / 65536 % 256, count := e_objectCommandsOverNvme_4.cdw10 / 2 ^ 24 % 256, value := slice ([1] : Bytes) 0 e_objectCommandsOverNvme_4.cdw11 }

def vs_objectCommandsOverNvme_4 : List (Nat × Nat) :=
  cutValues r_objectCommandsOverNvme_4.index (subsOf r_objectCommandsOverNvme_4) r_objectCommandsOverNvme_4.value

def u_objectCommandsOverNvme_4 : State :=
  startCmd e_objectCommandsOverNvme_4 (inF 0 0 7 0xC1 on : State)

theorem witness_ObjectCommandsOverNvme_4 : ∃ (s : State) (e : Sqe) (buf : Bytes) (r : HoopReq) (vs : List (Nat × Nat)) (u : State), adminReady e 0xC1 s ∧ objectEntryOk e = true ∧ e.cdw12 = 0 ∧ 1 ≤ e.cdw11 ∧ e.cdw11 ≤ 1484 ∧ 1 ≤ e.cdw10 / 2 ^ 24 % 256 ∧ s.dict.queue = [] ∧ r = { origin := .nvme e.fn e.sq e.cid, op := 2, fn := e.fn, index := e.cdw10 % 65536, sub := e.cdw10 / 65536 % 256, count := e.cdw10 / 2 ^ 24 % 256, value := slice buf 0 e.cdw11 } ∧ mustWait r s = false ∧ vs = cutValues r.index (subsOf r) r.value ∧ u = startCmd e s ∧ (checkSet r u).1 ≠ 0 :=
  ⟨(inF 0 0 7 0xC1 on : State), e_objectCommandsOverNvme_4, ([1] : Bytes), r_objectCommandsOverNvme_4, vs_objectCommandsOverNvme_4, u_objectCommandsOverNvme_4, adminReady_of (by decide +kernel), by decide +kernel, by decide +kernel, by decide +kernel, by decide +kernel, by decide +kernel, by decide +kernel, rfl, by decide +kernel, rfl, rfl, by decide +kernel⟩

def e_objectCommandsOverNvme_5 : Sqe :=
  { adE with cdw10 := 0x2104 + 1 * 65536 + 2 ^ 24, cdw11 := other.length }

def r_objectCommandsOverNvme_5 : HoopReq :=
  { origin := .nvme e_objectCommandsOverNvme_5.fn e_objectCommandsOverNvme_5.sq e_objectCommandsOverNvme_5.cid, op := 2, fn := e_objectCommandsOverNvme_5.fn, index := e_objectCommandsOverNvme_5.cdw10 % 65536, sub := e_objectCommandsOverNvme_5.cdw10 / 65536 % 256, count := e_objectCommandsOverNvme_5.cdw10 / 2 ^ 24 % 256, value := slice other 0 e_objectCommandsOverNvme_5.cdw11 }

def vs_objectCommandsOverNvme_5 : List (Nat × Nat) :=
  cutValues r_objectCommandsOverNvme_5.index (subsOf r_objectCommandsOverNvme_5) r_objectCommandsOverNvme_5.value

def u_objectCommandsOverNvme_5 : State :=
  startCmd e_objectCommandsOverNvme_5 (inF 0 0 7 0xC1 on : State)

theorem witness_ObjectCommandsOverNvme_5 : ∃ (s : State) (e : Sqe) (buf : Bytes) (r : HoopReq) (vs : List (Nat × Nat)) (u : State), adminReady e 0xC1 s ∧ objectEntryOk e = true ∧ e.cdw12 = 0 ∧ 1 ≤ e.cdw11 ∧ e.cdw11 ≤ 1484 ∧ 1 ≤ e.cdw10 / 2 ^ 24 % 256 ∧ s.dict.queue = [] ∧ r = { origin := .nvme e.fn e.sq e.cid, op := 2, fn := e.fn, index := e.cdw10 % 65536, sub := e.cdw10 / 65536 % 256, count := e.cdw10 / 2 ^ 24 % 256, value := slice buf 0 e.cdw11 } ∧ mustWait r s = false ∧ vs = cutValues r.index (subsOf r) r.value ∧ u = startCmd e s ∧ (checkSet r u).1 = 0 ∧ changesP r u = true :=
  ⟨(inF 0 0 7 0xC1 on : State), e_objectCommandsOverNvme_5, other, r_objectCommandsOverNvme_5, vs_objectCommandsOverNvme_5, u_objectCommandsOverNvme_5, adminReady_of (by decide +kernel), by decide +kernel, by decide +kernel, by decide +kernel, by decide +kernel, by decide +kernel, by decide +kernel, rfl, by decide +kernel, rfl, rfl, by decide +kernel, by decide +kernel⟩

def e_objectCommandsOverNvme_6 : Sqe :=
  { adE with cdw10 := 0x2104 + 1 * 65536 + 2 ^ 24, cdw11 := same.length }

def r_objectCommandsOverNvme_6 : HoopReq :=
  { origin := .nvme e_objectCommandsOverNvme_6.fn e_objectCommandsOverNvme_6.sq e_objectCommandsOverNvme_6.cid, op := 2, fn := e_objectCommandsOverNvme_6.fn, index := e_objectCommandsOverNvme_6.cdw10 % 65536, sub := e_objectCommandsOverNvme_6.cdw10 / 65536 % 256, count := e_objectCommandsOverNvme_6.cdw10 / 2 ^ 24 % 256, value := slice same 0 e_objectCommandsOverNvme_6.cdw11 }

def vs_objectCommandsOverNvme_6 : List (Nat × Nat) :=
  cutValues r_objectCommandsOverNvme_6.index (subsOf r_objectCommandsOverNvme_6) r_objectCommandsOverNvme_6.value

def u_objectCommandsOverNvme_6 : State :=
  startCmd e_objectCommandsOverNvme_6 (inF 0 0 7 0xC1 on : State)

theorem witness_ObjectCommandsOverNvme_6 : ∃ (s : State) (e : Sqe) (buf : Bytes) (r : HoopReq) (vs : List (Nat × Nat)) (u : State), adminReady e 0xC1 s ∧ objectEntryOk e = true ∧ e.cdw12 = 0 ∧ 1 ≤ e.cdw11 ∧ e.cdw11 ≤ 1484 ∧ 1 ≤ e.cdw10 / 2 ^ 24 % 256 ∧ s.dict.queue = [] ∧ r = { origin := .nvme e.fn e.sq e.cid, op := 2, fn := e.fn, index := e.cdw10 % 65536, sub := e.cdw10 / 65536 % 256, count := e.cdw10 / 2 ^ 24 % 256, value := slice buf 0 e.cdw11 } ∧ mustWait r s = false ∧ vs = cutValues r.index (subsOf r) r.value ∧ u = startCmd e s ∧ (checkSet r u).1 = 0 ∧ changesP r u = false ∧ actionOf r.index vs = none ∧ r.index ≠ 0x2300 ∧ r.index ≠ 0x4200 ∧ r.index / 16 ≠ 0x221 :=
  ⟨(inF 0 0 7 0xC1 on : State), e_objectCommandsOverNvme_6, same, r_objectCommandsOverNvme_6, vs_objectCommandsOverNvme_6, u_objectCommandsOverNvme_6, adminReady_of (by decide +kernel), by decide +kernel, by decide +kernel, by decide +kernel, by decide +kernel, by decide +kernel, by decide +kernel, rfl, by decide +kernel, rfl, rfl, by decide +kernel, by decide +kernel, by decide +kernel, by decide +kernel, by decide +kernel, by decide +kernel⟩

def s_adminQueuesAndThaw_1 : State :=
  hosted { on with host := { on.host with sqs := [sqOf 0 1] } }

theorem witness_AdminQueuesAndThaw_1 : ∃ (s : State) (fn : Nat) (sq : Nat) (tail : Nat) (entries : List (Nat × Nat)) (q : Sq) (c : Ctrl), findSq s fn sq = some q ∧ ctrl s fn = some c ∧ c.ready = true ∧ tail < q.size ∧ entries.length = (tail + q.size - q.tail) % q.size :=
  ⟨s_adminQueuesAndThaw_1, 0, 1, 3, ([(1, 2), (2, 2)] : List (Nat × Nat)), got (findSq s_adminQueuesAndThaw_1 0 1), got (ctrl s_adminQueuesAndThaw_1 0), by decide +kernel, by decide +kernel, by decide +kernel, by decide +kernel, by decide +kernel⟩

def e_adminQueuesAndThaw_2 : Sqe :=
  { adE with cdw10 := 4 + 63 * 65536, cdw11 := 3 + 5 * 65536 }

theorem witness_AdminQueuesAndThaw_2 : ∃ (s : State) (e : Sqe) (id : Nat), adminReady e 0x05 s ∧ id = newQid e ∧ 1 ≤ id ∧ id ≤ queuesOf s e.fn ∧ findCq s e.fn id = none ∧ sizeOk (newSize e) = true ∧ bitOf e.cdw11 0 = true ∧ bitsOf e.cdw11 15 2 = 0 ∧ e.cdw11 / 65536 < vectorsOf s e.fn :=
  ⟨(queued 0x05 [] : State), e_adminQueuesAndThaw_2, (newQid e_adminQueuesAndThaw_2 : Nat), adminReady_of (by decide +kernel), rfl, by decide +kernel, by decide +kernel, by decide +kernel, by decide +kernel, by decide +kernel, by decide +kernel, by decide +kernel⟩

def e_adminQueuesAndThaw_3 : Sqe :=
  { adE with cdw10 := 4 + 63 * 65536, cdw11 := 1 + 3 * 65536 }

def cq_adminQueuesAndThaw_3 : Nat :=
  e_adminQueuesAndThaw_3.cdw11 / 65536 % 65536

theorem witness_AdminQueuesAndThaw_3 : ∃ (s : State) (e : Sqe) (id : Nat) (cq : Nat), adminReady e 0x01 s ∧ id = newQid e ∧ cq = e.cdw11 / 65536 % 65536 ∧ 1 ≤ id ∧ id ≤ queuesOf s e.fn ∧ findSq s e.fn id = none ∧ cq ≠ 0 ∧ (findCq s e.fn cq).isSome = true ∧ sizeOk (newSize e) = true ∧ bitOf e.cdw11 0 = true ∧ bitsOf e.cdw11 15 3 = 0 :=
  ⟨(queued 0x01 [] : State), e_adminQueuesAndThaw_3, (newQid e_adminQueuesAndThaw_3 : Nat), cq_adminQueuesAndThaw_3, adminReady_of (by decide +kernel), rfl, rfl, by decide +kernel, by decide +kernel, by decide +kernel, by decide +kernel, by decide +kernel, by decide +kernel, by decide +kernel, by decide +kernel⟩

def id_adminQueuesAndThaw_4 : Nat :=
  newQid ({ adE with cdw10 := 2000 } : Sqe)

theorem witness_AdminQueuesAndThaw_4 : ∃ (s : State) (e : Sqe) (id : Nat), adminReady e 0x00 s ∧ id = newQid e ∧ 1 ≤ id ∧ (findSq s e.fn id).isSome = true :=
  ⟨(queued 0x00 [] : State), ({ adE with cdw10 := 2000 } : Sqe), id_adminQueuesAndThaw_4, adminReady_of (by decide +kernel), rfl, by decide +kernel, by decide +kernel⟩

theorem witness_AdminQueuesAndThaw_5 : ∃ (s : State) (e : Sqe) (id : Nat), adminReady e 0x04 s ∧ id = newQid e ∧ 1 ≤ id ∧ (findCq s e.fn id).isSome = true :=
  ⟨(queued 0x04 [] : State), ({ adE with cdw10 := 3 } : Sqe), (newQid ({ adE with cdw10 := 3 } : Sqe) : Nat), adminReady_of (by decide +kernel), rfl, by decide +kernel, by decide +kernel⟩

def id_adminQueuesAndThaw_6 : Nat :=
  ({ adE with cdw10 := 2000 } : Sqe).cdw10 % 65536

def q_adminQueuesAndThaw_6 : Sq :=
  got (findSq (queued 0xC4 [] : State) ({ adE with cdw10 := 2000 } : Sqe).fn id_adminQueuesAndThaw_6)

theorem witness_AdminQueuesAndThaw_6 : ∃ (s : State) (e : Sqe) (id : Nat) (q : Sq), adminReady e 0xC4 s ∧ id = e.cdw10 % 65536 ∧ findSq s e.fn id = some q ∧ isCompute s e.fn id = true ∧ q.frozen = true ∧ basicMode s = false ∧ tagsUsed s e.fn id = 0 :=
  ⟨(queued 0xC4 [] : State), ({ adE with cdw10 := 2000 } : Sqe), id_adminQueuesAndThaw_6, q_adminQueuesAndThaw_6, adminReady_of (by decide +kernel), rfl, by decide +kernel, by decide +kernel, by decide +kernel, by decide +kernel, by decide +kernel⟩

def id_adminQueuesAndThaw_7 : Nat :=
  ({ adE with cdw10 := 2000 } : Sqe).cdw10 % 65536

def q_adminQueuesAndThaw_7 : Sq :=
  got (findSq (queued 0xC4 [fl 0 2000 8 0x85] : State) ({ adE with cdw10 := 2000 } : Sqe).fn id_adminQueuesAndThaw_7)

theorem witness_AdminQueuesAndThaw_7 : ∃ (s : State) (e : Sqe) (id : Nat) (q : Sq), adminReady e 0xC4 s ∧ id = e.cdw10 % 65536 ∧ findSq s e.fn id = some q ∧ isCompute s e.fn id = true ∧ q.frozen = true ∧ basicMode s = false ∧ tagsUsed s e.fn id ≠ 0 :=
  ⟨(queued 0xC4 [fl 0 2000 8 0x85] : State), ({ adE with cdw10 := 2000 } : Sqe), id_adminQueuesAndThaw_7, q_adminQueuesAndThaw_7, adminReady_of (by decide +kernel), rfl, by decide +kernel, by decide +kernel, by decide +kernel, by decide +kernel, by decide +kernel⟩

theorem witness_AdminQueuesAndThaw_8 : ∃ (s : State) (e : Sqe) (opc : Nat), adminReady e opc s ∧ opc ∉ adminOpcodes :=
  ⟨(adm 0x7F on : State), adE, 0x7F, adminReady_of (by decide +kernel), by decide +kernel⟩

def fn_adminQueuesAndThaw_9 : Nat :=
  ({ adE with cdw10 := 7 + 5 * 65536 } : Sqe).cdw10 / 65536 % 65536

theorem witness_AdminQueuesAndThaw_9 : ∃ (s : State) (e : Sqe) (fn : Nat), adminReady e 0x1C s ∧ e.fn = 0 ∧ fn = e.cdw10 / 65536 % 65536 ∧ 1 ≤ fn ∧ fn ≤ 63 ∧ e.cdw10 % 16 = 7 :=
  ⟨(adm 0x1C on : State), ({ adE with cdw10 := 7 + 5 * 65536 } : Sqe), fn_adminQueuesAndThaw_9, adminReady_of (by decide +kernel), by decide +kernel, rfl, by decide +kernel, by decide +kernel, by decide +kernel⟩

def fn_adminQueuesAndThaw_10 : Nat :=
  ({ adE with cdw10 := 9 + 5 * 65536 } : Sqe).cdw10 / 65536 % 65536

theorem witness_AdminQueuesAndThaw_10 : ∃ (s : State) (e : Sqe) (fn : Nat), adminReady e 0x1C s ∧ e.fn = 0 ∧ fn = e.cdw10 / 65536 % 65536 ∧ 1 ≤ fn ∧ fn ≤ 63 ∧ e.cdw10 % 16 = 9 :=
  ⟨(adm 0x1C on : State), ({ adE with cdw10 := 9 + 5 * 65536 } : Sqe), fn_adminQueuesAndThaw_10, adminReady_of (by decide +kernel), by decide +kernel, rfl, by decide +kernel, by decide +kernel, by decide +kernel⟩

def e_adminQueuesAndThaw_11 : Sqe :=
  { adE with cdw10 := 8 + 5 * 65536 + 256, cdw11 := 100 }

def fn_adminQueuesAndThaw_11 : Nat :=
  e_adminQueuesAndThaw_11.cdw10 / 65536 % 65536

def rt_adminQueuesAndThaw_11 : Nat :=
  bitsOf e_adminQueuesAndThaw_11.cdw10 10 8

def c_adminQueuesAndThaw_11 : Ctrl :=
  got (ctrl (inF 0 0 7 0x1C on : State) fn_adminQueuesAndThaw_11)

theorem witness_AdminQueuesAndThaw_11 : ∃ (s : State) (e : Sqe) (fn : Nat) (n : Nat) (rt : Nat) (c : Ctrl), adminReady e 0x1C s ∧ e.fn = 0 ∧ fn = e.cdw10 / 65536 % 65536 ∧ n = e.cdw11 % 65536 ∧ rt = bitsOf e.cdw10 10 8 ∧ e.cdw10 % 16 = 8 ∧ 1 ≤ fn ∧ fn ≤ 63 ∧ ctrl s fn = some c ∧ c.enabled = false ∧ rt ≤ 1 ∧ n ≤ 2048 ∧ flexOthers s fn (rt == 0) + n ≤ 6144 :=
  ⟨(inF 0 0 7 0x1C on : State), e_adminQueuesAndThaw_11, fn_adminQueuesAndThaw_11, (e_adminQueuesAndThaw_11.cdw11 % 65536 : Nat), rt_adminQueuesAndThaw_11, c_adminQueuesAndThaw_11, adminReady_of (by decide +kernel), by decide +kernel, rfl, rfl, rfl, by decide +kernel, by decide +kernel, by decide +kernel, by decide +kernel, by decide +kernel, by decide +kernel, by decide +kernel, by decide +kernel⟩

theorem witness_IdentifyLogsFeaturesAndEvents_1 : ∃ (s : State) (e : Sqe), adminReady e 0x06 s ∧ e.cdw10 % 256 ∈ [0x00, 0x01, 0x02, 0x03, 0x10, 0x11, 0x12, 0x13, 0x14, 0x15] :=
  ⟨(adm 0x06 on : State), ({ adE with cdw10 := 1 } : Sqe), adminReady_of (by decide +kernel), by decide +kernel⟩

theorem witness_IdentifyLogsFeaturesAndEvents_2 : ∃ (s : State) (e : Sqe) (n : Nat), adminReady e 0x02 s ∧ (e.cdw10 % 256, n) ∈ [(0x00, 1024), (0x01, 4096), (0x02, 512), (0x03, 512), (0x04, 4096), (0x05, 4096), (0x81, 512)] ∧ logOff e % 4 = 0 ∧ logOff e ≤ n :=
  ⟨(adm 0x02 on : State), ({ adE with cdw10 := 2 } : Sqe), 512, adminReady_of (by decide +kernel), by decide +kernel, by decide +kernel, by decide +kernel⟩

def page_identifyLogsFeaturesAndEvents_3 : Bytes :=
  window ((adm 0x02 on).integ.log.flatMap logBytes) 0 262144

def cl_identifyLogsFeaturesAndEvents_3 : Ctrl :=
  got (ctrl (adm 0x02 on : State) ({ adE with cdw10 := 0xC2 } : Sqe).fn)

theorem witness_IdentifyLogsFeaturesAndEvents_3 : ∃ (s : State) (e : Sqe) (c : Instr) (cl : Ctrl) (page : Bytes), adminReady e 0x02 s ∧ ctrl s e.fn = some cl ∧ logOff e % 4 = 0 ∧ logOff e ≤ page.length ∧ (c = .computeErrorLogRead e ∧ e.cdw10 % 256 = 0xC1 ∧ page = window (cl.errLog.flatMap errBytes) 0 16384 ∨ c = .integrityLogPageRead e ∧ e.cdw10 % 256 = 0xC2 ∧ e.fn = 0 ∧ page = window (s.integ.log.flatMap logBytes) 0 262144 ∨ c = .auditLogRead e ∧ e.cdw10 % 256 = 0xC3 ∧ page = window (cl.auditLog.flatMap auditBytes) 0 262144) :=
  ⟨(adm 0x02 on : State), ({ adE with cdw10 := 0xC2 } : Sqe), (.integrityLogPageRead { adE with cdw10 := 0xC2 } : Instr), cl_identifyLogsFeaturesAndEvents_3, page_identifyLogsFeaturesAndEvents_3, adminReady_of (by decide +kernel), by decide +kernel, by decide +kernel, Nat.zero_le _, Or.inr (Or.inl ⟨rfl, rfl, rfl, rfl⟩)⟩

def f_identifyLogsFeaturesAndEvents_4 : Nat :=
  ({ adE with cdw10 := 4 } : Sqe).cdw10 % 256

def cl_identifyLogsFeaturesAndEvents_4 : Ctrl :=
  got (ctrl (adm 0x09 on : State) ({ adE with cdw10 := 4 } : Sqe).fn)

theorem witness_IdentifyLogsFeaturesAndEvents_4 : ∃ (s : State) (e : Sqe) (f : Nat) (cl : Ctrl), adminReady e 0x09 s ∧ f = e.cdw10 % 256 ∧ f ∈ [0x01, 0x04, 0x05, 0x08, 0x09, 0x0A, 0x0B] ∧ bitOf e.cdw10 31 = false ∧ ctrl s e.fn = some cl :=
  ⟨(adm 0x09 on : State), ({ adE with cdw10 := 4 } : Sqe), f_identifyLogsFeaturesAndEvents_4, cl_identifyLogsFeaturesAndEvents_4, adminReady_of (by decide +kernel), rfl, by decide +kernel, by decide +kernel, by decide +kernel⟩

theorem witness_IdentifyLogsFeaturesAndEvents_5 : ∃ (s : State) (e : Sqe), adminReady e 0x09 s ∧ e.cdw10 % 256 = 7 ∧ bitOf e.cdw10 31 = false ∧ (∀ q ∈ s.host.sqs, q.fn = e.fn → q.id = 0) ∧ (∀ q ∈ s.host.cqs, q.fn = e.fn → q.id = 0) :=
  ⟨(adm 0x09 on : State), ({ adE with cdw10 := 7 } : Sqe), adminReady_of (by decide +kernel), by decide +kernel, by decide +kernel, by decide +kernel, by decide +kernel⟩

def cl_identifyLogsFeaturesAndEvents_6 : Ctrl :=
  got (ctrl (adm 0x09 on : State) ({ adE with cdw10 := 0x0E } : Sqe).fn)

theorem witness_IdentifyLogsFeaturesAndEvents_6 : ∃ (s : State) (e : Sqe) (cl : Ctrl), adminReady e 0x09 s ∧ e.cdw10 % 256 = 0x0E ∧ bitOf e.cdw10 31 = false ∧ ctrl s e.fn = some cl :=
  ⟨(adm 0x09 on : State), ({ adE with cdw10 := 0x0E } : Sqe), cl_identifyLogsFeaturesAndEvents_6, adminReady_of (by decide +kernel), by decide +kernel, by decide +kernel, by decide +kernel⟩

def cl_identifyLogsFeaturesAndEvents_7 : Ctrl :=
  got (ctrl (adm 0x09 on : State) ({ adE with cdw10 := 6 } : Sqe).fn)

theorem witness_IdentifyLogsFeaturesAndEvents_7 : ∃ (s : State) (e : Sqe) (cl : Ctrl), adminReady e 0x09 s ∧ e.cdw10 % 256 = 6 ∧ bitOf e.cdw10 31 = false ∧ e.cdw11 ≤ 1 ∧ ctrl s e.fn = some cl :=
  ⟨(adm 0x09 on : State), ({ adE with cdw10 := 6 } : Sqe), cl_identifyLogsFeaturesAndEvents_7, adminReady_of (by decide +kernel), by decide +kernel, by decide +kernel, by decide +kernel, by decide +kernel⟩

def f_identifyLogsFeaturesAndEvents_8 : Nat :=
  ({ adE with cdw10 := 7 } : Sqe).cdw10 % 256

theorem witness_IdentifyLogsFeaturesAndEvents_8 : ∃ (s : State) (e : Sqe) (f : Nat), adminReady e 0x0A s ∧ f = e.cdw10 % 256 ∧ f ∈ [0x01, 0x02, 0x04, 0x05, 0x06, 0x07, 0x08, 0x09, 0x0A, 0x0B, 0x0E] ∧ bitsOf e.cdw10 10 8 ≤ 3 :=
  ⟨(adm 0x0A on : State), ({ adE with cdw10 := 7 } : Sqe), f_identifyLogsFeaturesAndEvents_8, adminReady_of (by decide +kernel), rfl, by decide +kernel, by decide +kernel⟩

theorem witness_IdentifyLogsFeaturesAndEvents_9 : ∃ (s : State) (e : Sqe) (cl : Ctrl), adminReady e 0x0C s ∧ ctrl s e.fn = some cl ∧ cl.aers.length < 4 ∧ cl.eventDue = false :=
  ⟨(adm 0x0C on : State), adE, got (ctrl (adm 0x0C on : State) adE.fn), adminReady_of (by decide +kernel), by decide +kernel, by decide +kernel, by decide +kernel⟩

def s_identifyLogsFeaturesAndEvents_10 : State :=
  let s := adm 0x0C on; { s with host := { s.host with ctrls := [{ ct with eventDue := true }] } }

def cl_identifyLogsFeaturesAndEvents_10 : Ctrl :=
  got (ctrl s_identifyLogsFeaturesAndEvents_10 adE.fn)

theorem witness_IdentifyLogsFeaturesAndEvents_10 : ∃ (s : State) (e : Sqe) (cl : Ctrl), adminReady e 0x0C s ∧ ctrl s e.fn = some cl ∧ cl.aers = [] ∧ cl.eventDue = true :=
  ⟨s_identifyLogsFeaturesAndEvents_10, adE, cl_identifyLogsFeaturesAndEvents_10, adminReady_of (by decide +kernel), by decide +kernel, by decide +kernel, by decide +kernel⟩

def s_identifyLogsFeaturesAndEvents_11 : State :=
  let s := adm 0x0C on; { s with host := { s.host with ctrls := [{ ct with aers := [1, 2, 3, 4] }] } }

def cl_identifyLogsFeaturesAndEvents_11 : Ctrl :=
  got (ctrl s_identifyLogsFeaturesAndEvents_11 adE.fn)

theorem witness_IdentifyLogsFeaturesAndEvents_11 : ∃ (s : State) (e : Sqe) (cl : Ctrl), adminReady e 0x0C s ∧ ctrl s e.fn = some cl ∧ 4 ≤ cl.aers.length :=
  ⟨s_identifyLogsFeaturesAndEvents_11, adE, cl_identifyLogsFeaturesAndEvents_11, adminReady_of (by decide +kernel), by decide +kernel, by decide +kernel⟩

theorem witness_NamespacesFormatAndSanitize_1 : ∃ (s : State) (e : Sqe) (n : Nat) (b : Nat), adminReady e 0x0D s ∧ e.cdw10 % 16 = 0 ∧ basicMode s = false ∧ b ≤ 1 ∧ 1 ≤ n ∧ (takenUnits s).length + ceilDiv (n * blockOf b) (2 ^ 30) ≤ 262144 ∧ (∃ i, 1 ≤ i ∧ i ≤ 128 ∧ (s.host.namespaces.any (·.id == i)) = false) :=
  ⟨(adm 0x0D on : State), adE, 100, 1, adminReady_of (by decide +kernel), by decide +kernel, by decide +kernel, by decide +kernel, by decide +kernel, by decide +kernel, ⟨1, by decide +kernel⟩⟩

def ns_namespacesFormatAndSanitize_2 : List Ns :=
  reachedNs (onNs (adm 0x0D on) : State) ({ adE with cdw10 := 1, nsid := 1 } : Sqe).fn ({ adE with cdw10 := 1, nsid := 1 } : Sqe).nsid (({ adE with cdw10 := 1, nsid := 1 } : Sqe).fn == 0)

theorem witness_NamespacesFormatAndSanitize_2 : ∃ (s : State) (e : Sqe) (ns : List Ns), adminReady e 0x0D s ∧ e.cdw10 % 16 = 1 ∧ ns = reachedNs s e.fn e.nsid (e.fn == 0) ∧ (ns ≠ [] ∨ e.nsid = 0xFFFFFFFF) ∧ readOnly s = false :=
  ⟨(onNs (adm 0x0D on) : State), ({ adE with cdw10 := 1, nsid := 1 } : Sqe), ns_namespacesFormatAndSanitize_2, adminReady_of (by decide +kernel), by decide +kernel, rfl, by decide +kernel, by decide +kernel⟩

def n_namespacesFormatAndSanitize_3 : Ns :=
  got ((onNs (adm 0x15 on) : State).host.namespaces.find? (·.id == ({ adE with nsid := 1 } : Sqe).nsid))

theorem witness_NamespacesFormatAndSanitize_3 : ∃ (s : State) (e : Sqe) (n : Ns) (cs : List Nat), adminReady e 0x15 s ∧ s.host.namespaces.find? (·.id == e.nsid) = some n ∧ cs ≠ [] ∧ (∀ c ∈ cs, c ≤ 63) ∧ e.cdw10 % 16 = 0 ∧ (∀ c ∈ cs, c ∉ n.ctrls) :=
  ⟨(onNs (adm 0x15 on) : State), ({ adE with nsid := 1 } : Sqe), n_namespacesFormatAndSanitize_3, ([4, 5] : List Nat), adminReady_of (by decide +kernel), by decide +kernel, by decide +kernel, by decide +kernel, by decide +kernel, by decide +kernel⟩

def n_namespacesFormatAndSanitize_4 : Ns :=
  got ((onNs (adm 0x15 on) : State).host.namespaces.find? (·.id == ({ adE with cdw10 := 1, nsid := 1 } : Sqe).nsid))

theorem witness_NamespacesFormatAndSanitize_4 : ∃ (s : State) (e : Sqe) (n : Ns) (cs : List Nat), adminReady e 0x15 s ∧ s.host.namespaces.find? (·.id == e.nsid) = some n ∧ cs ≠ [] ∧ (∀ c ∈ cs, c ≤ 63) ∧ e.cdw10 % 16 = 1 ∧ (∀ c ∈ cs, c ∈ n.ctrls) :=
  ⟨(onNs (adm 0x15 on) : State), ({ adE with cdw10 := 1, nsid := 1 } : Sqe), n_namespacesFormatAndSanitize_4, ([0] : List Nat), adminReady_of (by decide +kernel), by decide +kernel, by decide +kernel, by decide +kernel, by decide +kernel, by decide +kernel⟩

def e_namespacesFormatAndSanitize_5 : Sqe :=
  { adE with cdw10 := 1, nsid := 0xFFFFFFFF }

def ns_namespacesFormatAndSanitize_5 : List Ns :=
  reachedNs (onNs (adm 0x80 on) : State) e_namespacesFormatAndSanitize_5.fn e_namespacesFormatAndSanitize_5.nsid false

def b_namespacesFormatAndSanitize_5 : Nat :=
  blockOf (e_namespacesFormatAndSanitize_5.cdw10 % 16)

theorem witness_NamespacesFormatAndSanitize_5 : ∃ (s : State) (e : Sqe) (ns : List Ns) (b : Nat), adminReady e 0x80 s ∧ ns = reachedNs s e.fn e.nsid false ∧ (ns ≠ [] ∨ e.nsid = 0xFFFFFFFF) ∧ e.cdw10 % 16 ≤ 1 ∧ bitsOf e.cdw10 8 4 = 0 ∧ bitsOf e.cdw10 11 9 ≤ 2 ∧ readOnly s = false ∧ b = blockOf (e.cdw10 % 16) ∧ s.blk.sanitize = none ∧ (∀ y ∈ s.host.inflight, y.lpns = []) :=
  ⟨(onNs (adm 0x80 on) : State), e_namespacesFormatAndSanitize_5, ns_namespacesFormatAndSanitize_5, b_namespacesFormatAndSanitize_5, adminReady_of (by decide +kernel), rfl, by decide +kernel, by decide +kernel, by decide +kernel, by decide +kernel, by decide +kernel, rfl, by decide +kernel, by decide +kernel⟩

theorem witness_NamespacesFormatAndSanitize_6 : ∃ (s : State) (e : Sqe), adminReady e 0x84 s ∧ e.cdw10 % 8 = 4 ∧ epochFree s ≠ 0 ∧ s.blk.sanitize = none ∧ (∀ y ∈ s.host.inflight, y.sq = 0 ∧ y.lpns = []) :=
  ⟨(onNs (adm 0x84 on) : State), ({ adE with cdw10 := 4 } : Sqe), adminReady_of (by decide +kernel), by decide +kernel, by decide +kernel, by decide +kernel, by decide +kernel⟩

def e_firmwareDownloadAndCommit_1 : Sqe :=
  { adE with cdw10 := 1023, cdw11 := 1024 }

def len_firmwareDownloadAndCommit_1 : Nat :=
  4 * (e_firmwareDownloadAndCommit_1.cdw10 + 1)

theorem witness_FirmwareDownloadAndCommit_1 : ∃ (s : State) (e : Sqe) (len : Nat) (off : Nat), adminReady e 0x11 s ∧ e.fn = 0 ∧ len = 4 * (e.cdw10 + 1) ∧ off = 4 * e.cdw11 ∧ len % 4096 = 0 ∧ off % 4096 = 0 ∧ off + len ≤ imageMax :=
  ⟨(adm 0x11 on : State), e_firmwareDownloadAndCommit_1, len_firmwareDownloadAndCommit_1, (4 * e_firmwareDownloadAndCommit_1.cdw11 : Nat), adminReady_of (by decide +kernel), by decide +kernel, rfl, rfl, by decide +kernel, by decide +kernel, by decide +kernel⟩

def b_firmwareDownloadAndCommit_2 : Nat :=
  commitSlot ({ adE with cdw10 := 2 + 8 * 0 } : Sqe) - 1

theorem witness_FirmwareDownloadAndCommit_2 : ∃ (s : State) (e : Sqe) (c : Instr) (n : Nat) (sig : Option Nat) (rb : Bool) (b : Nat), (c = .firmwareCommitReplace e sig rb ∧ n = 0 ∨ c = .firmwareCommitActivate e sig rb ∧ n = 1) ∧ adminReady e 0x10 s ∧ e.fn = 0 ∧ commitAction e = n ∧ 1 ≤ commitSlot e ∧ commitSlot e ≤ 2 ∧ b = commitSlot e - 1 ∧ b ≠ s.fw.active ∧ s.fw.job = none ∧ stagedOk sig s = false :=
  ⟨(adm 0x10 on : State), ({ adE with cdw10 := 2 + 8 * 0 } : Sqe), (.firmwareCommitReplace ({ adE with cdw10 := 2 + 8 * 0 }) (some 1) true : Instr), 0, (some 1 : Option Nat), true, b_firmwareDownloadAndCommit_2, Or.inl ⟨rfl, rfl⟩, adminReady_of (by decide +kernel), by decide +kernel, by decide +kernel, by decide +kernel, by decide +kernel, rfl, by decide +kernel, by decide +kernel, by decide +kernel⟩

def b_firmwareDownloadAndCommit_3 : Nat :=
  commitSlot ({ adE with cdw10 := 2 + 8 * 1 } : Sqe) - 1

theorem witness_FirmwareDownloadAndCommit_3 : ∃ (s : State) (e : Sqe) (c : Instr) (n : Nat) (sig : Option Nat) (rb : Bool) (b : Nat), (c = .firmwareCommitReplace e sig rb ∧ n = 0 ∨ c = .firmwareCommitActivate e sig rb ∧ n = 1) ∧ adminReady e 0x10 s ∧ e.fn = 0 ∧ commitAction e = n ∧ 1 ≤ commitSlot e ∧ commitSlot e ≤ 2 ∧ b = commitSlot e - 1 ∧ b ≠ s.fw.active ∧ s.fw.job = none ∧ stagedOk sig s = true :=
  ⟨(staged (adm 0x10 on) : State), ({ adE with cdw10 := 2 + 8 * 1 } : Sqe), (.firmwareCommitActivate ({ adE with cdw10 := 2 + 8 * 1 }) (some 1) true : Instr), 1, (some 1 : Option Nat), true, b_firmwareDownloadAndCommit_3, Or.inr ⟨rfl, rfl⟩, adminReady_of (by decide +kernel), by decide +kernel, by decide +kernel, by decide +kernel, by decide +kernel, rfl, by decide +kernel, by decide +kernel, by decide +kernel⟩

theorem witness_FirmwareDownloadAndCommit_4 : ∃ (s : State) (e : Sqe), adminReady e 0x10 s ∧ e.fn = 0 ∧ s.fw.job = none ∧ commitAction e = 2 ∧ 1 ≤ commitSlot e ∧ commitSlot e ≤ 2 ∧ committed s (commitSlot e - 1) = true :=
  ⟨(adm 0x10 on : State), ({ adE with cdw10 := 1 + 8 * 2 } : Sqe), adminReady_of (by decide +kernel), by decide +kernel, by decide +kernel, by decide +kernel, by decide +kernel, by decide +kernel, by decide +kernel⟩

theorem witness_SpdmResponder_1 : ∃ (s : State) (q : Spdm) (x : Conn), spdmReady q 0 x s :=
  ⟨(spd 0 [] (on) : State), ({ conn := 1 } : Spdm), (conn 0 [] : Conn), by unfold spdmReady; decide +kernel⟩

theorem witness_SpdmResponder_2 : ∃ (s : State) (q : Spdm) (x : Conn), spdmReady q 1 x s ∧ (q.version = 0x12 ∨ q.version = 0x13) :=
  ⟨(spd 1 [] (on) : State), ({ conn := 1, version := 0x13 } : Spdm), (conn 1 [] : Conn), by unfold spdmReady; decide +kernel, by decide +kernel⟩

def q_spdmResponder_3 : Spdm :=
  { conn := 1, extAsymOk := true, sha256Ok := true }

theorem witness_SpdmResponder_3 : ∃ (s : State) (q : Spdm) (x : Conn), spdmReady q 2 x s ∧ q.extAsymOk = true ∧ q.sha256Ok = true :=
  ⟨(spd 2 [] (on) : State), q_spdmResponder_3, (conn 2 [] : Conn), by unfold spdmReady; decide +kernel, by decide +kernel, by decide +kernel⟩

theorem witness_SpdmResponder_4 : ∃ (s : State) (q : Spdm) (x : Conn), spdmReady q 3 x s :=
  ⟨(spd 3 [] (on) : State), ({ conn := 1 } : Spdm), (conn 3 [] : Conn), by unfold spdmReady; decide +kernel⟩

def part_spdmResponder_5 : List Byte :=
  (Config.certChain.drop ({ conn := 1, length := 64 } : Spdm).offset).take ({ conn := 1, length := 64 } : Spdm).length

theorem witness_SpdmResponder_5 : ∃ (s : State) (q : Spdm) (x : Conn) (part : List Byte), spdmReady q 3 x s ∧ q.slot = 0 ∧ q.offset ≤ Config.certChain.length ∧ part = (Config.certChain.drop q.offset).take q.length :=
  ⟨(spd 3 [] (on) : State), ({ conn := 1, length := 64 } : Spdm), (conn 3 [] : Conn), part_spdmResponder_5, by unfold spdmReady; decide +kernel, by decide +kernel, Nat.zero_le _, rfl⟩

theorem witness_SpdmResponder_6 : ∃ (s : State) (q : Spdm) (x : Conn), spdmReady q 3 x s ∧ q.slot = 0 ∧ obj s 0x1400 4 = 1 :=
  ⟨(spd 3 [] (sets [(0x1400, 4, 1)] on) : State), ({ conn := 1 } : Spdm), (conn 3 [] : Conn), by unfold spdmReady; decide +kernel, by decide +kernel, by decide +kernel⟩

theorem witness_SpdmResponder_7 : ∃ (s : State) (q : Spdm) (x : Conn), spdmReady q 3 x s ∧ q.slot = 0 ∧ obj s 0x1400 4 ≠ 1 :=
  ⟨(spd 3 [] (sets [(0x1400, 4, 2)] on) : State), ({ conn := 1 } : Spdm), (conn 3 [] : Conn), by unfold spdmReady; decide +kernel, by decide +kernel, by decide +kernel⟩

def q_spdmResponder_8 : Spdm :=
  { conn := 1, index := 0, signed := false }

def b_spdmResponder_8 : Bytes :=
  got (measurementBody q_spdmResponder_8 (spd 3 [] (on) : State))

theorem witness_SpdmResponder_8 : ∃ (s : State) (q : Spdm) (x : Conn) (b : Bytes), spdmReady q 3 x s ∧ measurementBody q s = some b ∧ q.signed = false :=
  ⟨(spd 3 [] (on) : State), q_spdmResponder_8, (conn 3 [] : Conn), b_spdmResponder_8, by unfold spdmReady; decide +kernel, by decide +kernel, by decide +kernel⟩

def q_spdmResponder_9 : Spdm :=
  { conn := 1, index := 0, signed := true }

def b_spdmResponder_9 : Bytes :=
  got (measurementBody q_spdmResponder_9 (spd 3 [] (sets [(0x1400, 4, 1)] on) : State))

theorem witness_SpdmResponder_9 : ∃ (s : State) (q : Spdm) (x : Conn) (b : Bytes), spdmReady q 3 x s ∧ measurementBody q s = some b ∧ q.signed = true ∧ obj s 0x1400 4 = 1 :=
  ⟨(spd 3 [] (sets [(0x1400, 4, 1)] on) : State), q_spdmResponder_9, (conn 3 [] : Conn), b_spdmResponder_9, by unfold spdmReady; decide +kernel, by decide +kernel, by decide +kernel, by decide +kernel⟩

theorem witness_SpdmResponder_10 : ∃ (s : State) (q : Spdm) (x : Conn), spdmReady q 2 x s :=
  ⟨(spd 2 [] (on) : State), ({ conn := 1 } : Spdm), (conn 2 [] : Conn), by unfold spdmReady; decide +kernel⟩

theorem witness_SpdmResponder_11 : ∃ (s : State) (q : Spdm) (x : Conn), spdmReady q 2 x s ∧ x.chunkOut ≠ [] ∧ q.offset ≤ x.chunkOut.length :=
  ⟨(spd 2 [1, 2] (on) : State), ({ conn := 1, offset := 1 } : Spdm), (conn 2 [1, 2] : Conn), by unfold spdmReady; decide +kernel, by decide +kernel, by decide +kernel⟩

def x_spdmResponder_12 : Conn :=
  connOf (spd 0 [] on : State) ({ conn := 1 } : Spdm).conn

theorem witness_SpdmResponder_12 : ∃ (s : State) (q : Spdm) (x : Conn) (c : Instr) (need : Nat), (c = .getCapabilities q ∧ need = 1 ∨ c = .negotiateAlgorithms q ∧ need = 2 ∨ c = .chunkSend q ∧ need = 2 ∨ c = .chunkGet q ∧ need = 2 ∨ c = .getDigests q ∧ need = 3 ∨ c = .getCertificate q ∧ need = 3 ∨ c = .challenge q ∧ need = 3 ∨ c = .getMeasurements q ∧ need = 3) ∧ s.pwr.hoopRail = true ∧ q.conn ≤ 64 ∧ x = connOf s q.conn ∧ x.stage < need :=
  ⟨(spd 0 [] on : State), ({ conn := 1 } : Spdm), x_spdmResponder_12, (.getCapabilities { conn := 1 } : Instr), 1, Or.inl ⟨rfl, rfl⟩, by decide +kernel, by decide +kernel, rfl, by decide +kernel⟩

theorem witness_SpdmResponder_13 : ∃ (s : State) (q : Spdm) (x : Conn) (code : Nat), spdmReady q 0 x s ∧ code ∉ spdmCodes :=
  ⟨(spd 0 [] (on) : State), ({ conn := 1 } : Spdm), (conn 0 [] : Conn), 0x87, by unfold spdmReady; decide +kernel, by decide +kernel⟩

theorem witness_SpdmResponder_14 : ∃ (s : State) (e : Sqe), adminReady e 0x82 s ∧ bitsOf e.cdw10 31 24 = 0 :=
  ⟨(adm 0x82 on : State), adE, adminReady_of (by decide +kernel), by decide +kernel⟩

/-! ### Terms that are not well formed: one for each check -/

/-- A PDU whose fields have their widths. -/
def pdW : Pdu := { path := .bus 5, seq := 3, index := 0x1010, sub := 1, count := 1 }

theorem test_operand_out_of_width_1 : ([!Sqe.wf { adE with fn := (63 + 1) },
  !Sqe.wf { adE with sq := (2 ^ 16) },
  !Sqe.wf { adE with cid := (2 ^ 16) },
  !Sqe.wf { adE with psdt := (4) },
  !Sqe.wf { adE with fuse := (4) },
  !Sqe.wf { adE with nsid := (2 ^ 32) },
  !Sqe.wf { adE with handle := (2 ^ 64) },
  !Sqe.wf { adE with cdw4 := (2 ^ 32) },
  !Sqe.wf { adE with cdw10 := (2 ^ 32) },
  !Sqe.wf { adE with cdw11 := (2 ^ 32) },
  !Sqe.wf { adE with cdw12 := (2 ^ 32) },
  !Sqe.wf { adE with cdw13 := (2 ^ 32) },
  !Sqe.wf { adE with cdw14 := (2 ^ 32) },
  !Sqe.wf { adE with cdw15 := (2 ^ 32) },
  !Pdu.wf { pdW with path := .bus (2 ^ 48) },
  !Pdu.wf { pdW with path := .wyvas (2 ^ 15) },
  !Pdu.wf { pdW with dst := (2 ^ 48) },
  !Pdu.wf { pdW with version := (256) },
  !Pdu.wf { pdW with seq := (2 ^ 16) },
  !Pdu.wf { pdW with index := (2 ^ 16) },
  !Pdu.wf { pdW with sub := (256) },
  !Pdu.wf { pdW with count := (256) },
  !Pdu.wf { pdW with vlen := (2 ^ 16) },
  !Pdu.wf { pdW with target := (2 ^ 16) },
  !Msg.wf { mg with port := (13 + 1) },
  !Msg.wf { mg with vc := (8) },
  !Msg.wf { mg with mtype := (256) },
  !Msg.wf { mg with detours := (2 + 1) },
  !Msg.wf { mg with dataLength := (4096 + 1) },
  !Msg.wf { mg with dst := (2 ^ 15) },
  !Msg.wf { mg with src := (2 ^ 15) },
  !Msg.wf { mg with function := (63 + 1) },
  !Msg.wf { mg with tag := (2 ^ 24) },
  !Msg.wf { mg with op := (2 ^ 16) },
  !Msg.wf { mg with target := (2 ^ 64) },
  !Msg.wf { mg with poisonMask := (2 ^ 64) },
  !Msg.wf { mg with data := List.replicate 4097 0 },
  !ThreadId.wf { engine := false, unit := 256, no := 0 },
  !ThreadId.wf { engine := true, unit := 64, no := 0 },
  !ThreadId.wf { engine := false, unit := 0, no := 256 }] : List Bool).all id = true := by decide +kernel

theorem test_operand_out_of_width_2 : ([!Target.wf (.sram (2 ^ 32)),
  !Target.wf (.cellSram (2 ^ 16) 0),
  !Target.wf (.cellSram 0 (2 ^ 32)),
  !Target.wf (.object (2 ^ 16) 0 0),
  !Target.wf (.object 0 (2 ^ 32) 0),
  !Target.wf (.object 0 0 (2 ^ 16)),
  !Target.wf (.window (2 ^ 15) 0),
  !Target.wf (.window 0 (2 ^ 48)),
  !Target.wf (.flash (2 ^ 15) 0),
  !Target.wf (.flash 0 (2 ^ 48)),
  !SyncWho.wf (.thread { engine := false, unit := 256, no := 0 }),
  !SyncWho.wf (.remote (2 ^ 15) 0 0),
  !SyncWho.wf (.remote 0 (2 ^ 24) 0),
  !SyncWho.wf (.remote 0 0 64),
  !Cand.wf { score := 2 ^ 32, index := 0, node := 0, source := 0, position := 0 },
  !Cand.wf { score := 0, index := 2 ^ 32, node := 0, source := 0, position := 0 },
  !Cand.wf { score := 0, index := 0, node := 2 ^ 16, source := 0, position := 0 },
  !Cand.wf { score := 0, index := 0, node := 0, source := 2 ^ 16, position := 0 },
  !FlitHdr.wf { seq := 2 ^ 16, ackSeq := 0, vc := 0, creditVc := 0, creditCount := 0 },
  !FlitHdr.wf { seq := 0, ackSeq := 2 ^ 16, vc := 0, creditVc := 0, creditCount := 0 },
  !FlitHdr.wf { seq := 0, ackSeq := 0, vc := 8, creditVc := 0, creditCount := 0 },
  !FlitHdr.wf { seq := 0, ackSeq := 0, vc := 0, creditVc := 8, creditCount := 0 },
  !FlitHdr.wf { seq := 0, ackSeq := 0, vc := 0, creditVc := 0, creditCount := 256 },
  !Identity.wf { serial := 2 ^ 160, port := 0, seed := false },
  !Identity.wf { serial := 0, port := 14, seed := false },
  !HoopStart.wf { straps := 8 },
  !RailStart.wf { failedStacks := [8] },
  !RailStart.wf { failedChannels := [64] },
  !RailStart.wf { failedCells := [272] },
  !CwResult.wf { step := 0 },
  !CwResult.wf { step := 6 },
  !Spdm.wf { conn := 65 },
  !Spdm.wf { conn := 1, version := 256 },
  !Spdm.wf { conn := 1, slot := 16 }] : List Bool).all id = true := by decide +kernel

theorem test_command_out_of_width_1 : ([.inputRise (2^32),
  .hoopRailStart ({ straps := 8 }),
  .powerGood ({ failedStacks := [8] }),
  .readNvmeMiDataStructure (256),
  .controllerHealthStatusPoll (63 + 1),
  .configurationGet (256),
  .configurationSet (256) 1,
  .configurationSet 1 (2^32),
  .vpdRead (2^16) 1,
  .vpdRead 1 (2^16),
  .miTunnelledAdmin (256) adE,
  .miTunnelledAdmin 1 ({ adE with fn := 64 }),
  .basicManagementCommand (256) 1,
  .basicManagementCommand 1 (256),
  .getVersion ({ conn := 65 }),
  .getCapabilities ({ conn := 65 }),
  .negotiateAlgorithms ({ conn := 65 }),
  .getDigests ({ conn := 65 }),
  .getCertificate ({ conn := 65 }),
  .challenge ({ conn := 65 }),
  .getMeasurements ({ conn := 65 }),
  .chunkSend ({ conn := 65 }),
  .chunkGet ({ conn := 65 }),
  .spdmUnsupportedRequest ({ conn := 65 }) 1,
  .spdmUnsupportedRequest ({ conn := 1 }) (256),
  .securityProtocolList ({ adE with fn := 64 }),
  .hostLinkUp (256) 1 true,
  .hostLinkUp 1 (256) true,
  .functionLevelReset (63 + 1),
  .controllerReset (63 + 1),
  .controllerEnable (63 + 1) (⟨1, 1⟩) 1,
  .controllerEnable 1 (⟨1, 1⟩) (8),
  .shutdownNotification (63 + 1),
  .sqTailDoorbell (63 + 1) 1 1 [],
  .sqTailDoorbell 1 (2^16) 1 [],
  .sqTailDoorbell 1 1 (2^16) [],
  .sqTailDoorbell 1 1 1 [((2^16), 0)],
  .createIoSubmissionQueue ({ adE with fn := 64 }),
  .deleteIoSubmissionQueue ({ adE with fn := 64 }),
  .createIoCompletionQueue ({ adE with fn := 64 })] : List Instr).all (fun c => !c.wf) = true := by decide +kernel

theorem test_command_out_of_width_2 : ([.deleteIoCompletionQueue ({ adE with fn := 64 }),
  .identify ({ adE with fn := 64 }),
  .getLogPage ({ adE with fn := 64 }),
  .computeErrorLogRead ({ adE with fn := 64 }),
  .integrityLogPageRead ({ adE with fn := 64 }),
  .auditLogRead ({ adE with fn := 64 }),
  .setFeatures ({ adE with fn := 64 }),
  .volatileWriteCacheSet ({ adE with fn := 64 }),
  .getFeatures ({ adE with fn := 64 }),
  .enterPs0 ({ adE with fn := 64 }),
  .enterPs1 ({ adE with fn := 64 }),
  .enterPs2 ({ adE with fn := 64 }),
  .enterPs3 ({ adE with fn := 64 }),
  .enterPs4 ({ adE with fn := 64 }),
  .abort ({ adE with fn := 64 }),
  .asynchronousEventRequest ({ adE with fn := 64 }),
  .namespaceCreate ({ adE with fn := 64 }) 1 1 1,
  .namespaceCreate adE (2^64) 1 1,
  .namespaceCreate adE 1 (2^64) 1,
  .namespaceCreate adE 1 1 (16),
  .namespaceDelete ({ adE with fn := 64 }),
  .namespaceAttachment ({ adE with fn := 64 }) [],
  .namespaceAttachment adE [(2^16)],
  .formatNvm ({ adE with fn := 64 }),
  .sanitize ({ adE with fn := 64 }),
  .firmwareImageDownload ({ adE with fn := 64 }) [],
  .firmwareCommitReplace ({ adE with fn := 64 }) none true,
  .firmwareCommitActivate ({ adE with fn := 64 }) none true,
  .firmwareCommitSelect ({ adE with fn := 64 }),
  .virtualizationManagement ({ adE with fn := 64 }),
  .setObject ({ adE with fn := 64 }) [],
  .getObject ({ adE with fn := 64 }),
  .getObjectDescribe ({ adE with fn := 64 }),
  .getObjectEnumerate ({ adE with fn := 64 }),
  .thawQueue ({ adE with fn := 64 }),
  .adminInvalidOpcode ({ adE with fn := 64 }) 1,
  .adminInvalidOpcode adE (256),
  .read ({ adE with fn := 64 }),
  .write ({ adE with fn := 64 }) [],
  .writeZeroes ({ adE with fn := 64 })] : List Instr).all (fun c => !c.wf) = true := by decide +kernel

theorem test_command_out_of_width_3 : ([.flush ({ adE with fn := 64 }),
  .datasetManagement ({ adE with fn := 64 }) [],
  .datasetManagement adE [((2^64), 0)],
  .datasetManagement adE [(0, (2^32))],
  .ioInvalidOpcode ({ adE with fn := 64 }) 1,
  .ioInvalidOpcode adE (256),
  .loadBasket ({ adE with fn := 64 }) [],
  .basketUnload ({ adE with fn := 64 }),
  .deferredCommandStart (63 + 1) 1,
  .deferredCommandStart 1 (2^16),
  .readResult ({ adE with fn := 64 }),
  .runJob ({ adE with fn := 64 }) [],
  .query ({ adE with fn := 64 }) [],
  .ingest ({ adE with fn := 64 }) [],
  .update ({ adE with fn := 64 }) [],
  .gatherCommand ({ adE with fn := 64 }),
  .resultRetentionExpiry (2^64),
  .requestDeadline (63 + 1) 1 1 1 1,
  .requestDeadline 1 (2^16) 1 1 1,
  .requestDeadline 1 1 (2^16) 1 1,
  .requestDeadline 1 1 1 (4) 1,
  .requestDeadline 1 1 1 1 (2^16),
  .pduGet ({ pdW with sub := 256 }),
  .pduSet ({ pdW with sub := 256 }),
  .pduDescribe ({ pdW with sub := 256 }),
  .pduEnumerate ({ pdW with sub := 256 }),
  .pduInvalidOperation ({ pdW with sub := 256 }) 1,
  .pduInvalidOperation pdW (256),
  .relayResponse 1 (2^16) [] ({}),
  .relayResponse 1 1 (List.replicate (1484 + 1) 0) ({}),
  .replayWindowExpiry (.wyvas (2 ^ 15)) 1,
  .replayWindowExpiry (.bus 1) (2^16),
  .valueRefresh (256),
  .objectWrite (63 + 1) 1 1 1 [],
  .objectWrite 1 (2^16) 1 1 [],
  .objectWrite 1 1 (256) 1 [],
  .objectWrite 1 1 1 (256) [],
  .objectWrite 1 1 1 1 (List.replicate (1484 + 1) 0),
  .busFault (2^64),
  .functionQueuesAbort (63 + 1)] : List Instr).all (fun c => !c.wf) = true := by decide +kernel

theorem test_command_out_of_width_4 : ([.bootBankSelect (1 + 1),
  .policyGroupSet (16) [],
  .policyGroupSet 1 (List.replicate (256) 0),
  .cellRowLimitSet (256),
  .portIsolate (13 + 1),
  .portRelease (13 + 1),
  .pageReadDone (2^40) [] none,
  .pageReadDone 1 [{ step := 6 }] none,
  .rebuildDone (2^40) [],
  .programDone (2^40) [] [],
  .eraseDone (2^32) [],
  .dieTimeout (64) 1,
  .dieTimeout 1 (20),
  .suspendIssue (64) 1,
  .suspendIssue 1 (20),
  .suspendReady (64) 1,
  .suspendReady 1 (20),
  .suspensionLimit (64) 1,
  .suspensionLimit 1 (20),
  .mergeReadDone (2^40) true,
  .patrolRead (2^40) ({ step := 1 }),
  .patrolRead 1 ({ step := 6 }),
  .mapLineRebuildDone (2^32),
  .tileFetchDone (2^64) 1 true,
  .tileFetchDone 1 (2^32) true,
  .dirtyTileTimeout (2^64) 1,
  .dirtyTileTimeout 1 (2^32),
  .placementEvaluation [(0, 0, (4 + 1), 0)],
  .migrationInstallDone (2^64) 1 true,
  .migrationInstallDone 1 (2^32) true,
  .migrationRelease (2^64) 1,
  .migrationRelease 1 (2^32),
  .nodeLostDeclare (2^16),
  .t3ResponseTimeout (2^24),
  .tileRecoveryTimeout (2^64) 1,
  .tileRecoveryTimeout 1 (2^32),
  .scrubLine (2^64) 1 1 .other,
  .scrubLine 1 (2 + 1) 1 .other,
  .scrubLine 1 1 (2^16) .other,
  .hbmControllerFail (8)] : List Instr).all (fun c => !c.wf) = true := by decide +kernel

theorem test_command_out_of_width_5 : ([.channelEngineFail (64),
  .cellFail (272),
  .hoopLockstepMismatch (2),
  .serviceCoreWatchdog (16) [],
  .arrayTest [] [(272)],
  .expressWindowStart (2^64),
  .shape [],
  .patternLoad [],
  .scaleLoad [],
  .rescaleLoad [],
  .amax [],
  .convert [],
  .rescale [],
  .vec [],
  .vtrans [],
  .reduce [],
  .skim [],
  .merge [],
  .gather [],
  .churn [],
  .tileLoad [],
  .tileStore [],
  .meshMove [],
  .outWrite [],
  .waitOperation [],
  .signal [],
  .threadLoad ({ engine := true, unit := 64, no := 0 }) (.sram 0) (⟨1, true⟩),
  .threadLoad (th false) (.cellSram (2 ^ 16) 0) (⟨1, true⟩),
  .threadStore ({ engine := true, unit := 64, no := 0 }) (.sram 0) [],
  .threadStore (th false) (.cellSram (2 ^ 16) 0) [],
  .threadStore (th false) (.sram 0) (List.replicate (64 + 1) 0),
  .threadAtomic ({ engine := true, unit := 64, no := 0 }) (.sram 0) 1 1 1,
  .threadAtomic (th false) (.cellSram (2 ^ 16) 0) 1 1 1,
  .threadAtomic (th false) (.sram 0) (2^16) 1 1,
  .threadAtomic (th false) (.sram 0) 1 (2^64) 1,
  .threadAtomic (th false) (.sram 0) 1 1 (2^64),
  .threadFence ({ engine := true, unit := 64, no := 0 }),
  .threadExit ({ engine := true, unit := 64, no := 0 }),
  .candidateSubmit ({ engine := true, unit := 64, no := 0 }) 1 [],
  .candidateSubmit (th false) (256) []] : List Instr).all (fun c => !c.wf) = true := by decide +kernel

theorem test_command_out_of_width_6 : ([.candidateSubmit (th false) 1 [{ score := 2 ^ 32, index := 0, node := 0, source := 0, position := 0 }],
  .acquire (.remote (2 ^ 15) 0 0) 1 1,
  .acquire .stream (2^32) 1,
  .acquire .stream 1 (2^64),
  .release (.remote (2 ^ 15) 0 0) 1 1,
  .release .stream (2^32) 1,
  .release .stream 1 (2^64),
  .set (.remote (2 ^ 15) 0 0) 1,
  .set .stream (2^32),
  .clear (.remote (2 ^ 15) 0 0) 1,
  .clear .stream (2^32),
  .wait (.remote (2 ^ 15) 0 0) 1,
  .wait .stream (2^32),
  .arrive (.remote (2 ^ 15) 0 0) 1,
  .arrive .stream (2^32),
  .await (.remote (2 ^ 15) 0 0) 1 1,
  .await .stream (2^32) 1,
  .await .stream 1 (2^64),
  .add (.remote (2 ^ 15) 0 0) 1 1,
  .add .stream (2^32) 1,
  .add .stream 1 (2^64),
  .syncRead (.remote (2 ^ 15) 0 0) 1,
  .syncRead .stream (2^32),
  .waitGe (.remote (2 ^ 15) 0 0) 1 1,
  .waitGe .stream (2^32) 1,
  .waitGe .stream 1 (2^64),
  .cas (.remote (2 ^ 15) 0 0) 1 1 1,
  .cas .stream (2^32) 1 1,
  .cas .stream 1 (2^64) 1,
  .cas .stream 1 1 (2^64),
  .syncCancel (.remote (2 ^ 15) 0 0) 1,
  .syncCancel .stream (2^32),
  .barrierReleaseInstant (2^32),
  .listScanDone (63 + 1) 1 ({}),
  .listScanDone 1 (2^32) ({}),
  .epochCommitTimer (63 + 1),
  .epochCommitResume (63 + 1),
  .ingestRecord (63 + 1) 1 1,
  .ingestRecord 1 (2^16) 1,
  .ingestRecord 1 1 (2^16)] : List Instr).all (fun c => !c.wf) = true := by decide +kernel

theorem test_command_out_of_width_7 : ([.compaction (63 + 1) 1,
  .compaction 1 (2^32),
  .churnRecord (63 + 1) 1 (⟨1, 1⟩),
  .churnRecord 1 (2^16) (⟨1, 1⟩),
  .dataFlit (13 + 1) ({ seq := 0, ackSeq := 0 }) [],
  .dataFlit 1 ({ seq := 2 ^ 16, ackSeq := 0 }) [],
  .dataFlit 1 ({ seq := 0, ackSeq := 0 }) [{ mg with port := 14 }],
  .idleFlit (13 + 1) ({ seq := 0, ackSeq := 0 }),
  .idleFlit 1 ({ seq := 2 ^ 16, ackSeq := 0 }),
  .identityFlit (13 + 1) ({ serial := 1, port := 1, seed := false }),
  .identityFlit 1 ({ serial := 1, port := 14, seed := false }),
  .coordinateClaim (13 + 1) 1 1 1 1,
  .coordinateClaim 1 (256) 1 1 1,
  .coordinateClaim 1 1 (256) 1 1,
  .coordinateClaim 1 1 1 (256) 1,
  .coordinateClaim 1 1 1 1 (13 + 1),
  .timeExchange (13 + 1) 1 1 1 1,
  .timeExchange 1 (2^64) 1 1 1,
  .timeExchange 1 1 (2^64) 1 1,
  .timeExchange 1 1 1 (2^64) 1,
  .timeExchange 1 1 1 1 (2^64),
  .isolationFlit (13 + 1),
  .retrainRequest (13 + 1),
  .portTrainingDone (13 + 1) 1 (⟨1, 1⟩),
  .portTrainingDone 1 (256) (⟨1, 1⟩),
  .wyvasLinkDown (13 + 1),
  .planeLost (1 + 1),
  .wyvasRead ({ mg with port := 14 }),
  .wyvasWrite ({ mg with port := 14 }),
  .wyvasAtomic ({ mg with port := 14 }),
  .delivery ({ mg with port := 14 }),
  .response ({ mg with port := 14 }),
  .nodeUnavailableNotice ({ mg with port := 14 }),
  .nodeAvailableNotice ({ mg with port := 14 }),
  .nodeLostNotice ({ mg with port := 14 }),
  .planeLostNotice ({ mg with port := 14 }),
  .planeRestoredNotice ({ mg with port := 14 }),
  .fenceNotice ({ mg with port := 14 }),
  .reissueTimeout (2^24),
  .tagRetentionExpiry (2^15) 1] : List Instr).all (fun c => !c.wf) = true := by decide +kernel

theorem test_command_out_of_width_8 : ([.tagRetentionExpiry 1 (2^24),
  .readyReport (2^16),
  .opticalSignalDetected (13 + 1),
  .controlFlitInterval (13 + 1) 1,
  .controlFlitInterval 1 (5 + 1),
  .controllerEnable 1 ⟨2^16, 1⟩ 1,
  .controllerEnable 1 ⟨1, 2^16⟩ 1,
  .functionAbort ⟨{ adE with fn := 64 }, []⟩,
  .mma ⟨[], []⟩,
  .threadLoad (th false) (.sram 0) ⟨65, true⟩,
  .churnRecord 1 1 ⟨2^16, 1⟩,
  .churnRecord 1 1 ⟨1, 2^32⟩,
  .portTrainingDone 1 1 ⟨2^32, 1⟩,
  .portTrainingDone 1 1 ⟨1, 2^32⟩,
  .pageReadDone 1 [] (some ([{ step := 6 }], true)),
  .functionAbort ⟨adE, [(2 ^ 16, 0)]⟩,
  .functionAbort ⟨adE, [(0, 2 ^ 16)]⟩,
  .rebuildDone 1 [(64, 0)],
  .rebuildDone 1 [(0, 4)],
  .programDone 1 [(true, 2 ^ 32)] [],
  .programDone 1 [] [(true, 2 ^ 32)],
  .journalSegmentVerified ⟨[(true, 2 ^ 32)], []⟩,
  .journalSegmentVerified ⟨[], [(true, 2 ^ 32)]⟩,
  .mma ⟨List.replicate 32 0, [(256, 0, 0)]⟩,
  .mma ⟨List.replicate 32 0, [(0, 2 ^ 21, 1)]⟩] : List Instr).all (fun c => !c.wf) = true := by decide +kernel

theorem test_commands_in_width : ([.inputRise 54000, .read adE, .pduGet pdW, .wyvasRead mg, .mma ⟨List.replicate 32 0, []⟩, .threadLoad (th true) (.sram 0) ⟨64, true⟩] : List Instr).all
    (fun c => c.wf) = true := by decide +kernel

/-! ### The manual's worked examples, and published values -/

/-- Example 2-1: the neighbours of node (31, 0, 19) in a full system, and the id of the first. -/
theorem test_example_2_1 : (List.range 6).map (stepCoord (32, 32, 20) (31, 0, 19)) =
    [(0, 0, 19), (30, 0, 19), (31, 1, 19), (31, 31, 19), (31, 0, 0), (31, 0, 18)] ∧ nodeOf 31 0 19 = 19487 ∧ nodeOf 0 0 19 = 19456 := by decide +kernel

/-- Example 3-1: the result region of 320 bytes lies inside its page. -/
theorem test_example_3_1 : regionOk 0x1234567A40 320 = true ∧ regionOk 0x1234567A40 1473 = false := by decide +kernel

/-- The module of Example 4-1, node 33 with four sensors measured. -/
def sensed4 : State := sets [(0x4000, 6, 33), (0x1310, 1, 712), (0x1310, 2, 705), (0x1310, 3, 731), (0x1310, 4, 698)] on

/-- Example 4-1: the response to a Get of four sensors, asked over the fabric. -/
theorem test_example_4_1 : (match exec (.pduGet { pd with path := .wyvas 5, seq := 0x42, index := 0x1310, count := 4 }) sensed4 with
    | .next t => t.mgmt.tx.map fun p => ([p.op, p.seq, p.index, p.sub, p.count, p.status, p.node], p.value)
    | _ => []) = [([0x81, 0x42, 0x1310, 1, 4, 0, 33], [0xC8, 2, 0, 0, 0xC1, 2, 0, 0, 0xDB, 2, 0, 0, 0xBA, 2, 0, 0])] := by decide +kernel

/-- Example 5-1: the address of channel 37, die 13, plane 2, block 1,904, page 1,000. -/
theorem test_example_5_1 : physAddr 37 13 2 1904 1000 = 0x2F1ACA3E8 ∧ physUnit 0x2F1ACA3E8 = 3014 ∧ physChannel 0x2F1ACA3E8 = 37 ∧
    physDie 0x2F1ACA3E8 = 13 ∧ physPlane 0x2F1ACA3E8 = 2 ∧ physBlock 0x2F1ACA3E8 = 1904 ∧ physPage 0x2F1ACA3E8 = 1000 := by decide +kernel

/-- Example 9-1: issue cycles of the three MMAs, and F + A with 64 and with 60 chain rows. -/
theorem test_example_9_1 : mmaIssue false 1 1 true 24 = 136 ∧ mmaIssue false 1 2 true 24 = 69 ∧ mmaIssue false 1 2 false 24 = 25 ∧
    mmaFill 1 64 16 = 550 ∧ mmaFill 1 60 16 = 518 := by decide +kernel

/-- R240 worked: 0.3 into E4M3 is 0.3125 when R < 39,321 and 0.28125 otherwise; round-to-nearest-even gives 0.3125. -/
theorem test_stochastic_rounding : (convSr 0 (39320 * 2 ^ 48) (f32 0x3E99999A)).bits = 0x2A ∧ (convSr 0 (39321 * 2 ^ 48) (f32 0x3E99999A)).bits = 0x29 ∧
    (convRne 0 (f32 0x3E99999A)).bits = 0x2A := by decide +kernel

/-- Example 10-1: the scale of 3.2 and its reciprocal, and the two activations converted. -/
theorem test_example_10_1 : scaleOf 0 1 0x404CCCCD = 0x3C000000 ∧ frecip 0x3C000000 = 0x43000000 ∧
    (convRne 0 (mulV (f32 0x404CCCCD) (f32 0x43000000))).bits = 0x7D ∧ (convRne 0 (mulV (f32 0xBD4CCCCD) (f32 0x43000000))).bits = 0xCD := by decide +kernel

/-- The MMA of Example 10-2 with group-size code `g`, and the module that is about to run it. -/
def mma2 (g : Nat) : Bytes := dsc [(0, 1, 0x20), (3, 1, 64 + 8 * g + 1), (4, 2, 1), (6, 2, 16), (8, 2, 1), (12, 4, 65536), (20, 4, 131072), (24, 4, 196608)]

def mma2State (g : Nat) : State :=
  let acts : Bytes := List.replicate 4 0x78 ++ List.replicate 8 0x18 ++ List.replicate 4 0x78
  let wts : List Byte := List.replicate 4 0x78 ++ List.replicate 8 0x18 ++ List.replicate 4 0xF8
  { running (mma2 g) with arr := { on.arr with
      patterns := memWrite [] 0 (bytesOf 40 [(0, 2, 1024), (2, 2, 1), (4, 2, 1)])
      sram := wts.zipIdx.foldl (fun m x => memPut m (65536 + 64 * x.2) x.1) (memWrite [] 0 acts) } }

/-- Example 10-2: the sum and the whey word at group size 4, 8 and 16. -/
theorem test_example_10_2 : ([0, 1, 2].map fun g =>
    match exec (.mma ⟨mma2 g, []⟩) (mma2State g) with
    | .next t => (sramNat t 0 131072 4, sramNat t 0 196608 4)
    | _ => (0, 0)) = [(0, 0x3D000000), (0x3C800000, 0), (0x3D000000, 0)] := by decide +kernel

/-- A candidate of family 0. -/
def cd (score node source position : Nat) : Cand := { score := score, index := position, node := node, source := source, position := position }

/-- Example 12-1: E, C, B, A are the pool of four. -/
theorem test_example_12_1 : (skimBest false 0 4
    [cd 0x3F400000 33 5 0x100000003, cd 0x3F400000 33 5 0x10000000A, cd 0x3F000000 33 5 0x200000007, cd 0x3F400000 33 2 0x200000000,
     cd 0x3F200000 33 2 0x2C, cd 0x3F500000 1057 9 0x100000005, cd 0x3F400000 1057 9 1]).map (·.position) =
    [0x100000005, 0x200000000, 0x100000003, 0x10000000A] := by decide +kernel

/-- A record of Example 12-2. -/
def rc (score index source position : Nat) : Cand := { score := score, index := index, node := 33, source := source, position := position }

/-- Example 12-2: two copies are removed and four candidates remain. -/
theorem test_example_12_2 : (mergeBest false 0 64 true
    [rc 0x40200000 40 67 0, rc 0x40000000 17 67 1, rc 0x3FC00000 8 67 2, rc 0x40200000 40 68 0, rc 0x40100000 17 68 1, rc 0x3F800000 99 68 2]).map
      (fun c => (c.index, c.source)) = [(40, 67), (17, 68), (8, 67), (99, 68)] := by decide +kernel

/-- R307 worked for pipeline 12h: 1,024 lists of 64 merge in 34,912 cycles. -/
theorem test_merge_tree : mergeCycles 64 8 1024 = 34912 := by decide +kernel

/-- Example 13-1: the new w, m and v of one element, their scales, and the stochastic choice of w. -/
theorem test_example_13_1 :
    churnElem [0x3F600000, 0x3E000000, 0x3F700000, 0x3D800000, 0x3D000000, 0x39800000, 0, 0x3F800000] 0x3E800000 0x3F000000 0 0 =
      (0x3EF807F8, 0x3D000000, 0x3B800000) ∧
    scaleOf 0 1 0x3EF807F8 = 0x3B000000 ∧ scaleOf 0 1 0x3D000000 = 0x39000000 ∧ scaleOf 0 1 0x3B800000 = 0x37800000 ∧
    (convSr 0 (32894 * 2 ^ 48) (mulV (f32 0x3EF807F8) (f32 (frecip 0x3B000000)))).bits = 0x78 ∧
    (convSr 0 (32895 * 2 ^ 48) (mulV (f32 0x3EF807F8) (f32 (frecip 0x3B000000)))).bits = 0x77 := by decide +kernel

/-- Example 14-1: the bound of S3, and E1 admitted in window 0 with 1,996 µs left and not with 1,650. -/
theorem test_example_14_1 : fixedPoint 11000000 10000000 2500000 19997000 200 11000000 = some 18500000 ∧
    admitExpress { on with time := 1004000 } 600000 0 (some 1996000) = some 0 ∧ admitExpress { on with time := 1004000 } 600000 0 (some 1650000) = none := by
  decide +kernel

/-- Example 15-1: the productive directions from (1, 1, 0) to (31, 0, 19). -/
theorem test_example_15_1 : productive 32 1 31 = [1] ∧ productive 32 1 0 = [1] ∧ productive 20 0 19 = [1] := by decide +kernel

/-- Example 16-1: the mode word with raw-read scoring on and deterministic mode off. -/
theorem test_example_16_1 : modeWord (sets [(0x3200, 2, 1), (0x3100, 3, 1)] on) = 0x10201 := by decide +kernel

/-- SHA-256 of "abc", the published test value (FIPS 180-4). -/
theorem test_sha256_abc : sha256 [0x61, 0x62, 0x63] =
    [0xBA, 0x78, 0x16, 0xBF, 0x8F, 0x01, 0xCF, 0xEA, 0x41, 0x41, 0x40, 0xDE, 0x5D, 0xAE, 0x22, 0x23,
     0xB0, 0x03, 0x61, 0xA3, 0x96, 0x17, 0x7A, 0x9C, 0xB4, 0x10, 0xFF, 0x61, 0xF2, 0x00, 0x15, 0xAD] := by decide +kernel

/-- Table 10-1: the largest finite values of E4M3, E5M2 and E2M1 are 448, 57,344 and 6. -/
theorem test_largest_finite : widen 0 (maxFinite 0) = 0x43E00000 ∧ widen 1 (maxFinite 1) = 0x47600000 ∧ widen 2 (maxFinite 2) = 0x40C00000 := by decide +kernel

/-- A SHAPE of a job that does not own the array leaves everything alone. -/
theorem test_shape_needs_the_owner : exec (.shape (dsc [(0, 1, 0x21), (4, 1, 2)])) on = .next on := rfl

end Sys2Proof.Tests
end

section
/-! The object dictionary right after reset (R80): its table of changed values is empty, so a read gives the Reset value. -/

namespace Sys2Proof.Machine

open Sys2Proof

/-- A subindex of a table row resets to its row's value, but for the module's identity and function 0's ExpressAllowed. -/
theorem resetVal_of_objRow {i j : Nat} {w : ObjRow} (hid : i ≠ 0x1000) (hexp : (i, j) ≠ (0x5000, 3))
    (hrow : objRow i j = some w) : resetVal i j = w.reset := by
  have hexp' : ¬(i = 0x5000 ∧ j = 3) := by rintro ⟨rfl, rfl⟩; exact hexp rfl
  simp [resetVal, hid, hexp', hrow]

/-- Nothing is written at reset, so every read of the dictionary gives the subindex's Reset value. -/
@[simp] theorem obj_reset (i j : Nat) : obj State.reset i j = resetVal i j := rfl

/-- R204: no cause of Basic mode is set. -/
@[simp] theorem basicMode_reset : basicMode State.reset = false := by
  have hcauses : resetVal 0x1010 2 = 0 := rfl
  simp [basicMode, hcauses]

/-- R411: compute is not ready. -/
@[simp] theorem computeReady_reset : computeReady State.reset = false := by
  have hready : resetVal 0x1210 2 = 0 := rfl
  simp [computeReady, hready]

/-- The top of the ladder of R449: the whole array, and no program or fabric step taken. -/
theorem ladderTop_ok : Throttle.Ok { fa := 16, prog := 0, fab := 0 } := by
  simp [Throttle.Ok]

/-- Settles O4: each table value is read through `obj_reset` and `resetVal_of_objRow`; the other clauses are fields of the reset state. -/
theorem resetHoldsTheResetValues : Obligations.ResetHoldsTheResetValues := by
  have hvalues : ∀ i j w, i ≠ 0x1000 → (i, j) ≠ (0x5000, 3) → objRow i j = some w → obj State.reset i j = w.reset :=
    fun i j w hid hexp hrow => (obj_reset i j).trans (resetVal_of_objRow hid hexp hrow)
  have hexpress : obj State.reset 0x5000 3 = 1 := obj_reset 0x5000 3
  exact ⟨hvalues, hexpress, rfl, ladderTop_ok, rfl, rfl, rfl, rfl, rfl, basicMode_reset, computeReady_reset⟩

end Sys2Proof.Machine
end

section
/-! The flash array (chapter 5): a SUSPEND_READY that refuses the read of a page also ends the fetch of the tile that needs it. -/

namespace Sys2Proof.Machine

open Sys2Proof

/-- The effect of SUSPEND_READY: the die's refused reads leave its queue, and the fetches that need them end (R113, R185). -/
theorem exec_suspendReady (c d : Nat) (s : State) : exec (.suspendReady c d) s =
    .next (keepBoth s ((refusedReads s c d).foldl (fun s a => failFetches a s) (suspendReadyF c d s))) := rfl

/-- The page that is read while its block is being erased. -/
def erasingPage : Nat := physAddr 0 0 0 7 0

/-- The superblock being erased, with a member on channel 0, die 0. -/
def erasingSb : Superblock :=
  { id := 0, members := [{ ch := 0, die := 0, blocks := [7, 7, 7, 7] }], stream := 0, st := 4, birth := 0, next := 1, queued := false,
    refresh := false, early := false, programmedAt := 0, toErase := [] }

/-- The erase of its member, to which a suspend has been issued. -/
def suspendingErase : DieOp := { channel := 0, die := 0, erase := true, sb := 0, unit := 0, susp := 1 }

/-- A tile of this node that is being fetched from T2. -/
def fetchingTile : Tile :=
  { object := 7, index := 0, format := 0, rows := 64, cols := 64, flags := 0, version := 1, writeTime := 0, scale := [], body := [],
    poison := false, inT1 := false, dirty := false, pinned := false, used := 0, node := 0xFFFF, replicas := [], fetching := true,
    migration := none, cancels := 0, writers := [], saved := 1, reserved := false, frame := 0, crc := 0 }

/-- The module while the fetch of that tile reads its body, logical page 5, from the block being erased. -/
def fetchDuringErase : State :=
  { State.reset with
    blk := { State.reset.blk with map := [(5, mapEntry false false 0 erasingPage)], sbs := [erasingSb] }
    nand := { State.reset.nand with dieOps := [suspendingErase], reads := [erasingPage] }
    tier := { State.reset.tier with
      tiles := [fetchingTile], pages := [{ owner := .object 7, kind := 4, size := 4096, no := 0, lpn := 5 }] } }

/-- R113: the read lies in the superblock being erased, so the suspended die refuses it. -/
theorem refusedReads_fetchDuringErase : refusedReads fetchDuringErase 0 0 = [erasingPage] := by decide +kernel

/-- R185: with the read refused the fetch of its tile ends. -/
theorem failFetches_fetchDuringErase :
    (failFetches erasingPage (suspendReadyF 0 0 fetchDuringErase)).tier.tiles = [{ fetchingTile with fetching := false }] := by
  decide +kernel

/-- Refutes O15: its clause on SUSPEND_READY keeps the tiers as they were for every suspended die, but where a tile's fetch waits for a read that is
refused, R185 ends that fetch, and the tile's record changes. -/
theorem not_suspensionAndFirmwareFlash : ¬ Obligations.SuspensionAndFirmwareFlash := by
  unfold Obligations.SuspensionAndFirmwareFlash
  rintro ⟨-, hready, -⟩
  obtain ⟨t, hexec, -, -, -, -, -, -, -, htier, -⟩ := hready fetchDuringErase 0 0 suspendingErase rfl rfl
  rw [exec_suspendReady, refusedReads_fetchDuringErase] at hexec
  cases hexec
  have htiles : [{ fetchingTile with fetching := false }] = [fetchingTile] :=
    failFetches_fetchDuringErase.symm.trans (congrArg Tiers.tiles htier)
  exact absurd htiles (by decide)

end Sys2Proof.Machine
end

section
/-! The journal (R141, R144, R158): a journal segment that failed on both channels may still end a Sanitize, whose fresh checkpoints let go of committed
segments. -/

namespace Sys2Proof.Machine

open Sys2Proof

/-- The effect of JOURNAL_SEGMENT_VERIFIED. -/
theorem exec_journalSegmentVerified (low high : List (Bool × Nat)) (s : State) :
    exec (.journalSegmentVerified ⟨low, high⟩) s = .next (keepBoth s (journalSegmentVerifiedF low high s)) := rfl

/-- A superblock with a number, members, a stream and a state, whose next program unit is its first. -/
def plainSb (id : Nat) (ms : List Member) (stream st : Nat) : Superblock :=
  { id := id, members := ms, stream := stream, st := st, birth := 0, next := 0, queued := false, refresh := false, early := false,
    programmedAt := 0, toErase := [] }

/-- A member that takes block 7 of each plane of a die. -/
def memberAt (ch die : Nat) : Member := { ch := ch, die := die, blocks := [7, 7, 7, 7] }

/-- The locked superblock that the journal is programmed into. -/
def lockedPair : Superblock := plainSb 1 [memberAt 0 0, memberAt 32 0] 6 1

/-- The victim, with Erase begin committed; `early` has its blocks retired instead of erased (R153). -/
def retiringVictim : Superblock := { plainSb 2 [memberAt 0 1] 0 3 with early := true }

/-- The open superblocks of metadata: one of 11 data members, with room for one slice of the map, and four without room, so that no further one is
opened. -/
def metadataSbs : List Superblock :=
  plainSb 3 ((List.range 12).map (memberAt · 2)) 5 1 :: (List.range 4).map fun k => plainSb (4 + k) [] 5 1

/-- The newest segment, being programmed. -/
def failingSegment : Segment := { seq := 8, commit := none, entries := [], unit := some (physAddr 0 0 0 7 0), verified := false }

/-- Its program unit. -/
def failingUnit : ProgUnit :=
  { phys := physAddr 0 0 0 7 0, sb := 1, wl := 0, ch := 0, die := 0, locked := true, pages := [], parity := false, seg := some 8,
    waiting := false, threshold := 100 }

/-- A committed segment older than every checkpoint. -/
def committedSegment : Segment := { seq := 5, commit := none, entries := [], unit := none, verified := true }

/-- The checkpoint of a slice, taken at segment 9. -/
def ckptOfSlice (k : Nat) : Ckpt := { slice := k, seq := 9, sbs := [], first := 0, data := [], counts := [], floor := 0 }

/-- The module at the end of a Sanitize: the victim is the last superblock to be erased, and of the 80 slices only slice 0 still lacks its checkpoint. -/
def sanitizeEnding : State :=
  { State.reset with blk := { State.reset.blk with
    sbs := lockedPair :: retiringVictim :: metadataSbs
    nextSb := 8, units := [failingUnit], segs := [failingSegment], nextSeg := 9, committed := [committedSegment]
    ckpts := (List.range 79).map fun k => ckptOfSlice (k + 1)
    dumpSet := [16, 17, 18, 19], victim := some 2, sanitize := some none } }

/-- The outcome of a program in which plane 0 failed. -/
def planeZeroFailed : List (Bool × Nat) := [(false, 0)]

/-- The victim's blocks are retired, so its erase ends at once and with it the Sanitize; the checkpoint of slice 0 is the 80th, and no start replays
segment 5 any more. -/
theorem sanitizeEnding_forgets_committed :
    (journalSegmentVerifiedF planeZeroFailed planeZeroFailed sanitizeEnding).blk.committed = [] := by
  decide +kernel

/-- Refutes O16: its clause on a segment that failed on both channels has the committed segments stay as they were in every state, also in one whose
victim's erase is still to begin with its Erase begin committed. There the erase begins, ends the Sanitize, and the checkpoints that a Sanitize ends with
let go of the segments before them. -/
theorem not_journalAndPrograms : ¬ Obligations.JournalAndPrograms := by
  unfold Obligations.JournalAndPrograms
  rintro ⟨-, -, -, hfailed, -⟩
  have hlow : failedPlanes failingUnit.threshold planeZeroFailed ≠ [] := by decide
  obtain ⟨t, hexec, hcommitted, -⟩ := hfailed sanitizeEnding failingSegment failingUnit lockedPair (memberAt 0 0) planeZeroFailed planeZeroFailed
    rfl rfl rfl rfl rfl rfl rfl hlow hlow
  rw [exec_journalSegmentVerified] at hexec
  cases hexec
  rw [keepBoth_blk, sanitizeEnding_forgets_committed] at hcommitted
  exact absurd hcommitted.symm (List.cons_ne_nil committedSegment [])

end Sys2Proof.Machine
end
